-- ==== Sys2Proof/Word.lean ====
section
/-!
DEFINITION. Word and byte types and their plainest arithmetic (R5, R147, R167).
-/

namespace Sys2Proof

/-- A 64-bit register or instruction word (R147, R167). -/
abbrev Word := BitVec 64

/-- One byte of memory (R5). -/
abbrev Byte := BitVec 8

end Sys2Proof
end

