-- ==== Sys2Proof/Syntax/Types.lean ====
section
/-!
DEFINITION. The operand and message types the instructions and events of the table are made of.
-/

namespace Sys2Proof

/-- The four streams of a core (R144). -/
inductive Strm where
  | c | a | v | x
  deriving DecidableEq, Repr

/-- The scopes of R84; codes 6 and 7 are reserved. -/
inductive Scope where
  | stream | core | quad | die | pkg | pod
  deriving DecidableEq, Repr

/-- A source specifier of R171, without the immediate of S3 words. -/
inductive Reg where
  | s (n : BitVec 5)
  | o (n : BitVec 3)
  | lat
  | zero
  | coreId
  | ctxId
  deriving DecidableEq, Repr

/-- A source of an S3 word: a register, or signExtend(IMM16) (R170, R171). -/
inductive Src where
  | reg (r : Reg)
  | imm (v : BitVec 16)
  deriving DecidableEq, Repr

/-- A destination specifier of R171; `none` discards the result. -/
inductive Dst where
  | s (n : BitVec 5)
  | o (n : BitVec 3)
  | none
  deriving DecidableEq, Repr

/-- A register of the main or operand file (OPA of SCADD, R257). -/
inductive FileReg where
  | s (n : BitVec 5)
  | o (n : BitVec 3)
  deriving DecidableEq, Repr

/-- The CSRs of R229. -/
inductive Csr where
  | lps0 | lpe0 | lpc0 | lps1 | lpe1 | lpc1 | vwin | spcfg
  | tvec | tcause | tstrm | tepc | tval | tscr | tsave
  | cycle | wclk | nissue | nstall | ctxinfo
  deriving DecidableEq, Repr

/-- Branch conditions of R238. -/
inductive Cond where
  | eq | ne | lt | ge | ltu | geu
  deriving DecidableEq, Repr

/-- Access sizes of R175: 1, 2, 4, 8 and 16 bytes. -/
inductive Size where
  | b1 | b2 | b4 | b8 | b16
  deriving DecidableEq, Repr

/-- Ordering of an atomic (R252): a relaxed atomic names no scope. -/
inductive AOrd where
  | rlx
  | acq (s : Scope)
  | rel (s : Scope)
  | ar (s : Scope)
  deriving DecidableEq, Repr

/-- The operands every atomic shares (R252); `w` is 8 bytes, else 4. -/
structure AtomArgs where
  d : Dst
  b : Reg
  v : Reg
  ord : AOrd
  w : Bool
  deriving DecidableEq, Repr

/-- Element types of SCADD (R257). -/
inductive ScType where
  | i32 | fp32 | rn3
  deriving DecidableEq, Repr

/-- Kind of a tile and of an arrival: plain, combining INT32, combining RN3 (R41, R42). -/
inductive CType where
  | plain | i32 | rn3
  deriving DecidableEq, Repr

/-- Disciplines of queue objects (R111). -/
inductive Disc where
  | bag | stack
  deriving DecidableEq, Repr

/-- The fields PUSH and POP carry beside their object (R115, R343). -/
structure QArgs where
  scope : Scope
  cls : BitVec 3
  disc : Disc
  deriving DecidableEq, Repr

/-- A level count of CPSEQ or XNEST: a register, or an engine loop register (R304, R333). -/
inductive Count where
  | reg (r : Reg)
  | hl (n : BitVec 4)
  deriving DecidableEq, Repr

/-- Pooling modes (R351, R355). -/
inductive Pool where
  | sum | wsum | mean | max
  deriving DecidableEq, Repr

/-- Optimisers of REPLAY (R351, R364). -/
inductive Opt where
  | acc | sgd | adag
  deriving DecidableEq, Repr

/-- Vector element types of R173. -/
inductive VType where
  | i8 | i16 | i32 | bf16 | fp32 | fp8e4 | fp8e5 | rn3
  deriving DecidableEq, Repr

/-- The MOD bits of R174. -/
structure VMod where
  ck : Bool
  cx : Bool
  cy : Bool
  sat : Bool
  deriving DecidableEq, Repr

/-- A word of form B or B3 (R273): three row addresses. -/
structure VArgs3 where
  d : BitVec 12
  x : BitVec 12
  y : BitVec 12
  ty : VType
  run : BitVec 3
  m : VMod
  deriving DecidableEq, Repr

/-- A word of form U: two row addresses; Y is a function field. -/
structure VArgs2 where
  d : BitVec 12
  x : BitVec 12
  ty : VType
  run : BitVec 3
  m : VMod
  deriving DecidableEq, Repr

/-- A word of form Z: one row address. -/
structure VArgs1 where
  d : BitVec 12
  ty : VType
  run : BitVec 3
  m : VMod
  deriving DecidableEq, Repr

/-- A reduction of form S (R271, R283): `len` is N, `d` the destination specifier. -/
structure VRed where
  len : BitVec 4
  d : Dst
  x : BitVec 12
  ty : VType
  run : BitVec 3
  m : VMod
  deriving DecidableEq, Repr

/-- Post-chain stage bits of XGO and XACC.post (R292). -/
structure Stages where
  scale : Bool
  bias : Bool
  act : Bool
  rq : Bool
  deriving DecidableEq, Repr

/-- A member of a context: partition id, context id, member rank (R48). -/
structure MRef where
  part : Nat
  ctx : Nat
  rank : Nat
  deriving DecidableEq, Repr

/-- A device of the pod by its coordinates (R414). -/
structure DevRef where
  row : Nat
  col : Nat
  deriving DecidableEq, Repr

/-- An asynchronous command: its member, its counter and its number (R102). -/
structure CmdRef where
  m : MRef
  tc : Nat
  num : Nat
  deriving DecidableEq, Repr

/-- A receiver's verge write: source owner's grid, receiver's owner index, milestone (R138, R140). -/
structure VergeRef where
  m : MRef
  handle : Nat
  own : Nat
  recv : Nat
  ms : Nat
  deriving DecidableEq, Repr

/-- A reliable connection as this device sees it: own partition, peer device, peer partition (R420). -/
structure ConnRef where
  part : Nat
  dev : DevRef
  peer : Nat
  deriving DecidableEq, Repr

/-- Who sent an arrival: what its refusal and its completion are charged to (R45, R48). -/
structure Sender where
  /-- The issuing stream. -/
  m : MRef
  st : Strm
  /-- The counted command it belongs to; TSEND and the post-chain have none. -/
  cmd : Option CmdRef
  /-- It counts as a TSEND of the stream (R227). -/
  tsend : Bool
  /-- The tile address word, for REFUSED's AUX (R395). -/
  taddr : Word
  /-- The verge write and region it belongs to (R133), with its grid's record. -/
  verge : Option (VergeRef × Nat × List Word)
  /-- The connection an arrival of another device or partition came on (R46, R423). -/
  conn : Option ConnRef
  /-- Words the issuing stream had issued when the arrival was sent: its place among the stream's writes (R109). -/
  num : Nat
  deriving DecidableEq, Repr

/-- One sector arrival (R42). -/
structure Arrival where
  dst : MRef
  tile : Nat
  sector : Nat
  kind : CType
  poison : Bool
  scope : Scope
  /-- Byte mask of the sector, bit b for byte b. -/
  mask : BitVec 64
  data : List Byte
  /-- Region mark: issuing rank and epoch of an open region (R166). -/
  region : Option (Nat × Nat)
  sender : Sender
  deriving DecidableEq, Repr

/-- Who issued a queue operation (R121). -/
inductive QIssuer where
  | stream (m : MRef) (st : Strm)
  | cp (part : Nat) (q : Nat)
  | dist (part : Nat) (die : Nat) (prio : Nat)
  | remote (dev : DevRef) (part : Nat) (seq : Nat)
  deriving DecidableEq, Repr

/-- The forms of a queue operation that can be held or served (R115). -/
inductive QForm where
  | push (payload : BitVec 128)
  | popN
  | popW
  deriving DecidableEq, Repr

/-- A queue operation in flight (R115, R122). -/
structure QOp where
  id : Nat
  form : QForm
  /-- Home partition on this device and PVA in it (R123). -/
  part : Nat
  pva : Nat
  /-- Partition that issued it (R123). -/
  ipart : Nat
  args : QArgs
  issuer : QIssuer
  /-- The window of its class when it left, and the remaining hold budget, in ns (R120, R122). -/
  window : Nat
  budget : Nat
  /-- Eligible junctions still ahead, in route order (R121). -/
  route : List Nat
  deriving DecidableEq, Repr

/-- A Sprinust packet (R417). -/
structure Packet where
  addr : Nat
  key : Nat
  seq : Nat
  ack : Nat
  kind : Nat
  hops : Nat
  len : Nat
  src : DevRef
  sprt : Nat
  dst : DevRef
  dprt : Nat
  kspec : BitVec 32
  payload : List Byte
  /-- The header's reserved bits: zero in every packet of a device. -/
  resvd : Nat
  deriving DecidableEq, Repr

/-- A hardware queue (R371). -/
structure QueueRef where
  part : Nat
  q : Nat
  deriving DecidableEq, Repr

/-- A command slot of 32 bytes (R374). -/
structure Slot where
  w0 : Word
  w1 : Word
  w2 : Word
  w3 : Word
  deriving DecidableEq, Repr

/-- The agents that write registers (R434), the firmware (R9, R59), and a device stream, which rings doorbells only (R373). -/
inductive RegAgent where
  | port0 | port1 | mc | fw
  | stream (m : MRef) (st : Strm)
  deriving DecidableEq, Repr

/-- A register by its block and offset (R24, R431). -/
inductive RegAddr where
  | dev (offset : Nat)
  | pcb (part : Nat) (offset : Nat)
  deriving DecidableEq, Repr

/-- What struck when an uncorrectable error is found (R77, R43, R411); for a directory set, the member whose request met
it. -/
inductive EccSite where
  | block (pa : Nat)
  | dirSet (chiplet : Nat) (set : Nat) (met : Option MRef)
  | sketch (chiplet : Nat) (group : Nat) (row : Nat) (idx : Nat)
  | tile (m : MRef) (tile : Nat)
  | replaySram (part : Nat) (tid : Nat) (row : Nat)
  /-- An entry of a router, port SRAM, command processor or fabric die that belongs to a partition's traffic (R411). -/
  | entry (part : Nat) (unit : Nat)
  /-- An error of a shared unit that no partition is charged with: the packets in transit it held, and the connections
  that cannot retry through it (R411). -/
  | unit (num : Nat) (held : List Packet) (broken : List ConnRef)
  deriving DecidableEq, Repr

/-- What the firmware edits before it resumes an escalated core (R401). -/
structure ResumeEdit where
  tepc : Option Word
  pc : Option Word
  deriving DecidableEq, Repr

/-- One partial of an A2A exchange: bag, row count, status bits, row bits (R370). -/
structure Partial where
  bag : Nat
  rows : Nat
  stat : BitVec 8
  row : List (BitVec 32)
  deriving DecidableEq, Repr

/-- What the owner of a shard answers to a bucket: its partials, or the code of a refusal (R370). -/
inductive ShardAnswer where
  | partials (ps : List Partial)
  | refused (code : Nat)
  deriving DecidableEq, Repr

/-- A job card to be pushed again, and the die of the master distributor that pushed it; none for a command processor
(R385, R121). -/
structure CardPush where
  card : BitVec 128
  die : Option Nat
  deriving DecidableEq, Repr

/-- A bucket of an A2A exchange as it travels (R370, R430). -/
structure Bucket where
  cmd : CmdRef
  shard : Nat
  /-- Sending device and partition, their key, and the owner partition. -/
  src : DevRef
  spart : Nat
  key : Nat
  dpart : Nat
  tid : Nat
  dim : Nat
  mode : Pool
  /-- Local index, bag, weight bits, in bucket order. -/
  entries : List (Nat × Nat × BitVec 32)
  /-- The packet that carried it on a reliable connection (R430, PATH 0). -/
  via : Option Packet
  deriving DecidableEq, Repr

end Sys2Proof
end

