-- ==== Sys2Proof/Syntax.lean ====
section
/-!
DEFINITION. The one inductive of the model: a constructor for every row of the opcode table.
The first 215 are the words of the four streams; the others are the operations and events of the device.
-/

namespace Sys2Proof

/-- Instruction words (without IDLE, which spaces the word and is no part of what it does, R168) and device events. -/
inductive Instr where
  /-- NOP, R220. -/
  | nop
  /-- GO, R146. -/
  | go
  /-- HALT, R222. -/
  | halt
  /-- TRAP, R223. -/
  | trap (x : Src)
  /-- ERET, R224. -/
  | eret
  /-- CSRR, R225. -/
  | csrr (d : Dst) (n : Csr)
  /-- CSRW, R225. -/
  | csrw (n : Csr) (x : Reg)
  /-- IDEM, R163. -/
  | idem
  /-- IDEM_END, R163. -/
  | idemEnd
  /-- BRK, R223. -/
  | brk (n : BitVec 16)
  /-- DONE, R227. -/
  | done
  /-- ADD, R231. -/
  | add (d : Dst) (x y : Src)
  /-- SUB, R231. -/
  | sub (d : Dst) (x y : Src)
  /-- MUL, R231. -/
  | mul (d : Dst) (x y : Src)
  /-- MULH, R231. -/
  | mulh (d : Dst) (x y : Src)
  /-- MULHU, R231. -/
  | mulhu (d : Dst) (x y : Src)
  /-- DIV, R232. -/
  | div (d : Dst) (x y : Src)
  /-- DIVU, R232. -/
  | divu (d : Dst) (x y : Src)
  /-- REM, R232. -/
  | rem (d : Dst) (x y : Src)
  /-- REMU, R232. -/
  | remu (d : Dst) (x y : Src)
  /-- AND, R231. -/
  | and (d : Dst) (x y : Src)
  /-- OR, R231. -/
  | or (d : Dst) (x y : Src)
  /-- XOR, R231. -/
  | xor (d : Dst) (x y : Src)
  /-- SHL, R231. -/
  | shl (d : Dst) (x y : Src)
  /-- SHR, R231. -/
  | shr (d : Dst) (x y : Src)
  /-- SAR, R231. -/
  | sar (d : Dst) (x y : Src)
  /-- MIN, R231. -/
  | min (d : Dst) (x y : Src)
  /-- MAX, R231. -/
  | max (d : Dst) (x y : Src)
  /-- MINU, R231. -/
  | minu (d : Dst) (x y : Src)
  /-- MAXU, R231. -/
  | maxu (d : Dst) (x y : Src)
  /-- SLT, R231. -/
  | slt (d : Dst) (x y : Src)
  /-- SLTU, R231. -/
  | sltu (d : Dst) (x y : Src)
  /-- SEQ, R231. -/
  | seq (d : Dst) (x y : Src)
  /-- SEL, R233. -/
  | sel (d : Dst) (c : BitVec 5) (x y : Src)
  /-- LI, R235. -/
  | li (d : Dst) (v : BitVec 32)
  /-- LIH, R235. -/
  | lih (d : Dst) (v : BitVec 32)
  /-- CLZ, R231. -/
  | clz (d : Dst) (x : Src)
  /-- POPC, R231. -/
  | popc (d : Dst) (x : Src)
  /-- BEXT, R234. -/
  | bext (d : Dst) (x : Reg) (p : BitVec 6) (n : BitVec 7)
  /-- BEXT_S, R234. -/
  | bextS (d : Dst) (x : Reg) (p : BitVec 6) (n : BitVec 7)
  /-- BINS, R234. -/
  | bins (d : Dst) (x : Reg) (p : BitVec 6) (n : BitVec 7)
  /-- MADD, R233. -/
  | madd (d : Dst) (x y : Src) (c : BitVec 5)
  /-- FOP_ADD, R236. -/
  | fopAdd (d : Dst) (x y : Src) (rtz : Bool)
  /-- FOP_SUB, R236. -/
  | fopSub (d : Dst) (x y : Src) (rtz : Bool)
  /-- FOP_MUL, R236. -/
  | fopMul (d : Dst) (x y : Src) (rtz : Bool)
  /-- FOP_MIN, R236. -/
  | fopMin (d : Dst) (x y : Src)
  /-- FOP_MAX, R236. -/
  | fopMax (d : Dst) (x y : Src)
  /-- FOP_EQ, R236. -/
  | fopEq (d : Dst) (x y : Src)
  /-- FOP_LT, R236. -/
  | fopLt (d : Dst) (x y : Src)
  /-- FOP_LE, R236. -/
  | fopLe (d : Dst) (x y : Src)
  /-- CVTSF_IF, R237. -/
  | cvtsfIf (d : Dst) (x : Src) (rtz : Bool)
  /-- CVTSF_FI, R237. -/
  | cvtsfFi (d : Dst) (x : Src) (rtz : Bool)
  /-- BC, R238. -/
  | bc (c : Cond) (x y : Reg) (off : BitVec 24)
  /-- J, R239. -/
  | j (off : BitVec 24)
  /-- JR, R239. -/
  | jr (x : Reg) (off : BitVec 24)
  /-- CALL, R239. -/
  | call (d : Dst) (off : BitVec 24)
  /-- RET, R239. -/
  | ret (x : Reg)
  /-- LOOP, R240. -/
  | loop (k : Bool) (x : Reg) (off : BitVec 24)
  /-- LPBRK, R241. -/
  | lpbrk (k : Bool)
  /-- LD, R244. -/
  | ld (d : Dst) (b : Reg) (slot : BitVec 5) (arr : BitVec 10) (sz : Size) (sx na : Bool) (off : BitVec 9)
  /-- ST, R245. -/
  | st (v : Reg) (b : Reg) (sz : Size) (off : BitVec 9)
  /-- PREF, R247. -/
  | pref (b : Reg) (sz : Size) (off : BitVec 9)
  /-- CFLUSH, R248. -/
  | cflush (sc : Scope) (b : Reg) (sz : Size) (off : BitVec 9)
  /-- CINV, R248. -/
  | cinv (sc : Scope) (b : Reg) (sz : Size) (off : BitVec 9)
  /-- STREL, R249. -/
  | strel (sc : Scope) (v b : Reg) (sz : Size) (off : BitVec 9)
  /-- LDACQ, R250. -/
  | ldacq (sc : Scope) (d : Dst) (b : Reg) (slot : BitVec 5) (sz : Size) (off : BitVec 9)
  /-- AADD, R253. -/
  | aadd (a : AtomArgs)
  /-- AAND, R253. -/
  | aand (a : AtomArgs)
  /-- AOR, R253. -/
  | aor (a : AtomArgs)
  /-- AXOR, R253. -/
  | axor (a : AtomArgs)
  /-- AMIN, R253. -/
  | amin (a : AtomArgs)
  /-- AMAX, R253. -/
  | amax (a : AtomArgs)
  /-- AMINU, R253. -/
  | aminu (a : AtomArgs)
  /-- AMAXU, R253. -/
  | amaxu (a : AtomArgs)
  /-- AXCHG, R253. -/
  | axchg (a : AtomArgs)
  /-- ACAS, R253. -/
  | acas (a : AtomArgs) (c : Reg)
  /-- AFADD, R253. -/
  | afadd (a : AtomArgs)
  /-- SCADD, R257. -/
  | scadd (d : FileReg) (b idx src : Reg) (et : ScType) (rlen : BitVec 10)
  /-- ACQ_GE, R95. -/
  | acqGe (d : Dst) (o : Reg) (sc : Scope) (n : BitVec 5)
  /-- ACQ_NW, R95. -/
  | acqNw (d : Dst) (o : Reg) (sc : Scope)
  /-- ACQ_X, R95. -/
  | acqX (d : Dst) (o : Reg) (sc : Scope)
  /-- REL, R94. -/
  | rel (d : Dst) (o : Reg) (sc : Scope)
  /-- FENCE, R101. -/
  | fence (sc : Scope)
  /-- WAITC_GE, R261. -/
  | waitcGe (q : BitVec 3) (x : Reg)
  /-- WAITC_LE, R261. -/
  | waitcLe (q : BitVec 3) (x : Reg)
  /-- TLWAIT, R262. -/
  | tlwait (tc : BitVec 2) (x : Reg)
  /-- TLSIG, R105. -/
  | tlsig (d : Dst) (tc : BitVec 2) (sc : Scope)
  /-- BAR, R159. -/
  | bar (sc : Scope) (mask : BitVec 4)
  /-- MBW, R265. -/
  | mbw (mb : BitVec 3) (x : Reg)
  /-- MBR, R265. -/
  | mbr (d : Dst) (mb : BitVec 3)
  /-- TAGARM, R266. -/
  | tagarm (x y : Reg) (ct : CType) (mulm1 : BitVec 6)
  /-- TAGSET_FULL, R266. -/
  | tagsetFull (x : Reg)
  /-- TAGSET_POISON, R266. -/
  | tagsetPoison (x : Reg)
  /-- TAGCLR, R266. -/
  | tagclr (x : Reg)
  /-- TAGWT_NW, R266. -/
  | tagwtNw (d : Dst) (y : Reg)
  /-- TAGWT_FULL, R266. -/
  | tagwtFull (d : Dst) (y : Reg)
  /-- TAGWT_EMPTY, R266. -/
  | tagwtEmpty (d : Dst) (y : Reg)
  /-- XFENCE, R104. -/
  | xfence (sc : Scope)
  /-- PUSH, R115. -/
  | push (d : Dst) (o lo hi : Reg) (q : QArgs)
  /-- POP_N, R115. -/
  | popN (d : Dst) (o : Reg) (lo hi : Dst) (q : QArgs)
  /-- POP_W, R115. -/
  | popW (d : Dst) (o : Reg) (lo hi : Dst) (q : QArgs)
  /-- QOCTL_EN, R119. -/
  | qoctlEn (d : Dst) (o : Reg)
  /-- QOCTL_DIS, R119. -/
  | qoctlDis (d : Dst) (o : Reg)
  /-- QOCTL_CNT, R119. -/
  | qoctlCnt (d : Dst) (o : Reg)
  /-- HLD, R345. -/
  | hld (d : Dst) (x b : Reg) (slot : BitVec 5) (sz : Size) (arr : BitVec 10)
  /-- HLD_Q, R345. -/
  | hldQ (q : BitVec 3) (x b n : Reg)
  /-- HPUB, R138. -/
  | hpub (x : Reg)
  /-- HWAIT, R141. -/
  | hwait (x : Reg)
  /-- HWAIT_ALL, R141. -/
  | hwaitAll (x : Reg)
  /-- GRIDCTL_JOIN, R137. -/
  | gridctlJoin (x : Reg)
  /-- GRIDCTL_LEAVE, R137. -/
  | gridctlLeave (x : Reg)
  /-- GRIDCTL_STAT, R347. -/
  | gridctlStat (d : Dst) (x : Reg)
  /-- GRIDCTL_STAT_MS, R347. -/
  | gridctlStatMs (d : Dst) (x j : Reg)
  /-- QLD, R325. -/
  | qld (q : BitVec 3) (b stride n : Reg)
  /-- QLDX, R326. -/
  | qldx (q : BitVec 3) (b stride list n : Reg)
  /-- TGET, R328. -/
  | tget (tc : BitVec 2) (d : Dst) (src g n : Reg)
  /-- TSEND, R329. -/
  | tsend (sc : Scope) (kind : CType) (taddr g n : Reg) (ck cx : Bool)
  /-- TSTO, R330. -/
  | tsto (d r n stride : Reg) (ck cx : Bool)
  /-- BLD, R331. -/
  | bld (tc : BitVec 2) (d : Dst) (src geom cstride : Reg)
  /-- QFLUSH, R327. -/
  | qflush (q : BitVec 3)
  /-- CPSEQ, R333. -/
  | cpseq (lv : BitVec 3) (n : Count)
  /-- CPSEQ_CLR, R333. -/
  | cpseqClr
  /-- CPSRC_BASE, R334. -/
  | cpsrcBase (x : Reg)
  /-- CPSRC_STRIDE, R334. -/
  | cpsrcStride (lv : BitVec 3) (x : Reg)
  /-- CPSRC_WIN, R334. -/
  | cpsrcWin (lv : BitVec 3) (x y : Reg)
  /-- CPDST_BASE, R334. -/
  | cpdstBase (x : Reg)
  /-- CPDST_BASE_TILE, R334. -/
  | cpdstBaseTile (x : Reg)
  /-- CPDST_STRIDE, R334. -/
  | cpdstStride (lv : BitVec 3) (x : Reg)
  /-- CPDST_WIN, R334. -/
  | cpdstWin (lv : BitVec 3) (x y : Reg)
  /-- CPIDX, R335. -/
  | cpidx (lv : BitVec 3) (list nrow : Reg)
  /-- CPIDX_OFF, R335. -/
  | cpidxOff
  /-- CPSWZ, R336. -/
  | cpswz (x : Reg)
  /-- CPGO, R337. -/
  | cpgo (d : Dst) (tc : BitVec 2) (esz : BitVec 3) (sc : Scope)
  /-- CPSTAT, R342. -/
  | cpstat (d : Dst) (tc : BitVec 2) (x : Reg)
  /-- LOOKUP, R355. -/
  | lookup (mode : Pool) (nf : Bool) (d : Dst) (h : BitVec 4) (tc : BitVec 2) (list args taddr : Reg)
  /-- LKSTAT, R360. -/
  | lkstat (d : Dst) (tc : BitVec 2) (x : Reg)
  /-- UPDATE, R362. -/
  | update (nf : Bool) (d : Dst) (h : BitVec 4) (tc : BitVec 2) (list grad n : Reg)
  /-- REPLAY_ACC, R364. -/
  | replayAcc (d : Dst) (h : BitVec 4) (tc : BitVec 2) (r0 nr : Reg)
  /-- REPLAY_SGD, R364. -/
  | replaySgd (d : Dst) (h : BitVec 4) (tc : BitVec 2) (r0 nr : Reg)
  /-- REPLAY_ADAG, R364. -/
  | replayAdag (d : Dst) (h : BitVec 4) (tc : BitVec 2) (r0 nr : Reg)
  /-- SKCTL_WR, R365. -/
  | skctlWr (g : BitVec 4) (x : Reg)
  /-- SKCTL_RD, R365. -/
  | skctlRd (d : Dst) (g : BitVec 4)
  /-- SKCTL_EST, R365. -/
  | skctlEst (d : Dst) (h : BitVec 4) (x : Reg)
  /-- HRCTL_FLUSH, R366. -/
  | hrctlFlush (d : Dst) (h : BitVec 4) (tc : BitVec 2)
  /-- HRCTL_DETACH, R367. -/
  | hrctlDetach (d : Dst) (h : BitVec 4) (tc : BitVec 2)
  /-- A2A, R370. -/
  | a2a (mode : Pool) (nf : Bool) (d : Dst) (tc : BitVec 2) (rec taddr : Reg)
  /-- VADD, R274. -/
  | vadd (v : VArgs3)
  /-- VSUB, R274. -/
  | vsub (v : VArgs3)
  /-- VMUL, R274. -/
  | vmul (v : VArgs3)
  /-- VFMA, R274. -/
  | vfma (v : VArgs3)
  /-- VMIN, R274. -/
  | vmin (v : VArgs3)
  /-- VMAX, R274. -/
  | vmax (v : VArgs3)
  /-- VABS, R274. -/
  | vabs (v : VArgs2)
  /-- VNEG, R274. -/
  | vneg (v : VArgs2)
  /-- VAND, R275. -/
  | vand (v : VArgs3)
  /-- VOR, R275. -/
  | vor (v : VArgs3)
  /-- VXOR, R275. -/
  | vxor (v : VArgs3)
  /-- VNOT, R275. -/
  | vnot (v : VArgs2)
  /-- VSHL, R275. -/
  | vshl (v : VArgs3)
  /-- VSHR, R275. -/
  | vshr (v : VArgs3)
  /-- VSAR, R275. -/
  | vsar (v : VArgs3)
  /-- VCMP, R276. -/
  | vcmp (v : VArgs3)
  /-- VSEL, R276. -/
  | vsel (v : VArgs3)
  /-- VCVT, R281. -/
  | vcvt (v : VArgs2) (src : VType) (rtz : Bool)
  /-- VQNT, R282. -/
  | vqnt (v : VArgs2) (src : VType) (rtz : Bool) (scale : Reg)
  /-- VDQN, R282. -/
  | vdqn (v : VArgs2) (src : VType) (rtz : Bool) (scale : Reg)
  /-- VRSUM, R283. -/
  | vrsum (v : VRed)
  /-- VRMAX, R283. -/
  | vrmax (v : VRed)
  /-- VRMIN, R283. -/
  | vrmin (v : VRed)
  /-- VDOT, R283. -/
  | vdot (v : VRed) (y : BitVec 12)
  /-- VEXP2, R278. -/
  | vexp2 (v : VArgs2)
  /-- VLOG2, R278. -/
  | vlog2 (v : VArgs2)
  /-- VRCP, R278. -/
  | vrcp (v : VArgs2)
  /-- VRSQ, R278. -/
  | vrsq (v : VArgs2)
  /-- VACT, R279. -/
  | vact (v : VArgs2) (table : BitVec 6)
  /-- VBCST, R285. -/
  | vbcst (v : VArgs1) (s : Reg)
  /-- VPERM, R287. -/
  | vperm (v : VArgs3)
  /-- VSHUF_ROT, R287. -/
  | vshufRot (v : VArgs2) (amount : BitVec 7)
  /-- VSHUF_REV, R287. -/
  | vshufRev (v : VArgs2)
  /-- VSHUF_UNZIP, R287. -/
  | vshufUnzip (v : VArgs2)
  /-- VSHUF_ZIP, R287. -/
  | vshufZip (v : VArgs2)
  /-- VMOVS_INS, R286. -/
  | vmovsIns (d : BitVec 12) (e : BitVec 7) (s : Reg) (ty : VType)
  /-- VMOVS_EXT, R286. -/
  | vmovsExt (d : Dst) (x : BitVec 12) (e : BitVec 7) (ty : VType) (ck cx : Bool)
  /-- VCLMP, R274. -/
  | vclmp (v : VArgs3)
  /-- VSCAN, R284. -/
  | vscan (v : VArgs2)
  /-- VPOP, R288. -/
  | vpop (d : BitVec 12) (run : BitVec 3) (q : BitVec 3)
  /-- VMASK, R276. -/
  | vmask (v : VArgs1) (s : Reg)
  /-- VZERO, R285. -/
  | vzero (d : BitVec 12) (run : BitVec 3)
  /-- VIDX, R285. -/
  | vidx (v : VArgs1) (s : Reg)
  /-- VSPRS, R289. -/
  | vsprs (v : VArgs3)
  /-- VSCALE, R277. -/
  | vscale (v : VArgs3)
  /-- XNEST, R304. -/
  | xnest (lv : BitVec 3) (k : Bool) (n : Count) (sa sb sov : Reg)
  /-- XNEST_CLR, R304. -/
  | xnestClr
  /-- XLR_RD, R305. -/
  | xlrRd (d : Dst) (hl : BitVec 4)
  /-- XLR_WR, R305. -/
  | xlrWr (hl : BitVec 4) (x : Reg)
  /-- XLR_POS, R305. -/
  | xlrPos (d : Dst)
  /-- XOPS_A, R300. -/
  | xopsA (x : Reg)
  /-- XOPS_B, R301. -/
  | xopsB (x : Reg)
  /-- XPOST, R310. -/
  | xpost (x : Reg)
  /-- XSPM, R315. -/
  | xspm (x : Reg)
  /-- XMASK, R317. -/
  | xmask (x : Reg)
  /-- XGO, R312. -/
  | xgo (acc : BitVec 2) (cont out : Bool) (stg : Stages) (msk : Bool)
  /-- XWAIT, R313. -/
  | xwait
  /-- XACC_CLR, R314. -/
  | xaccClr (acc : BitVec 2)
  /-- XACC_ST, R314. -/
  | xaccSt (acc : BitVec 2) (t : Reg)
  /-- XACC_LD, R314. -/
  | xaccLd (acc : BitVec 2) (t : Reg) (ck cx : Bool)
  /-- XACC_LDP, R314. -/
  | xaccLdp (acc : BitVec 2) (t : Reg) (ck cx : Bool)
  /-- XACC_ADD, R314. -/
  | xaccAdd (acc src : BitVec 2)
  /-- XACC_POST, R314. -/
  | xaccPost (acc : BitVec 2) (stg : Stages)
  /-- SEAL_TENSOR, R294. -/
  | sealTensor (d : Dst) (h : BitVec 4) (x : Reg)
  /-- SEAL_TABLE, R294. -/
  | sealTable (d : Dst) (h : BitVec 4) (x : Reg)
  /-- SEAL_GRID, R294. -/
  | sealGrid (d : Dst) (h : BitVec 4) (x : Reg)
  /-- UNSEAL, R298. -/
  | unsealHandle (h : BitVec 4)
  /-- HMOV, R299. -/
  | hmov (d : Dst) (hd hs : BitVec 4)
  /-- HMOV_MEM, R299. -/
  | hmovMem (d : Dst) (hd hs : BitVec 4) (x : Reg)
  /-- DATA_LANDING, R40. -/
  | dataLanding (m : MRef) (slot : Nat)
  /-- UNTIMED_RESULT_LANDING, R153. -/
  | untimedResultLanding (m : MRef) (st : Strm)
  /-- STORE_BUFFER_DRAIN, R87. -/
  | storeBufferDrain (m : MRef) (st : Strm)
  /-- FETCH_MISS_FILL, R152. -/
  | fetchMissFill (m : MRef) (st : Strm)
  /-- VECTOR_UNIT_FREE, R270. -/
  | vectorUnitFree (m : MRef)
  /-- WALK_COMPLETE, R21. -/
  | walkComplete (part die block : Nat)
  /-- TAG_CHECK_SATISFIED, R44. -/
  | tagCheckSatisfied (m : MRef) (st : Strm)
  /-- ARRIVAL, R43. -/
  | arrival (a : Arrival)
  /-- ARRIVAL_RETRY, R45. -/
  | arrivalRetry (a : Arrival)
  /-- ABORT_EVENT, R46. -/
  | abortEvent (m : MRef) (tile : Nat)
  /-- CLOSING_NOTICE, R166. -/
  | closingNotice (m : MRef) (rank epoch : Nat)
  /-- ROLLBACK, R166. -/
  | rollback (m : MRef) (rank epoch : Nat)
  /-- MAILBOX_WAKE, R155. -/
  | mailboxWake (m : MRef) (st : Strm)
  /-- BARRIER_EPISODE_COMPLETE, R159. -/
  | barrierEpisodeComplete (m : MRef) (sc : Scope)
  /-- ACQ_HOME_RETEST, R95. -/
  | acqHomeRetest (m : MRef) (st : Strm)
  /-- ACQ_WITHDRAWAL, R259. -/
  | acqWithdrawal (m : MRef) (st : Strm)
  /-- QUEUE_HOME_SERVICE, R117. -/
  | queueHomeService (op : QOp)
  /-- JUNCTION_PAIR, R124. -/
  | junctionPair (held arriving : QOp)
  /-- HOLD_EXPIRY, R122. -/
  | holdExpiry (id : Nat)
  /-- PARKED_POP_TIMEOUT, R118. -/
  | parkedPopTimeout (id : Nat)
  /-- VERGE_WRITE_START, R140. -/
  | vergeWriteStart (v : VergeRef)
  /-- VERGE_WRITE_COMPLETE, R140. -/
  | vergeWriteComplete (v : VergeRef)
  /-- PROGRESS_REPORT, R139. -/
  | progressReport (v : VergeRef) (region : Nat)
  /-- HPUB_WAIT_END, R138. -/
  | hpubWaitEnd (m : MRef) (st : Strm)
  /-- HALO_TIMEOUT, R141. -/
  | haloTimeout (m : MRef) (st : Strm)
  /-- WAIT_TIMEOUT, R156. -/
  | waitTimeout (m : MRef) (st : Strm)
  /-- DECAY, R69. -/
  | decay (part chiplet group : Nat)
  /-- FILL_COMPLETE, R65. -/
  | fillComplete (part chiplet set way : Nat)
  /-- WRITE_BACK_COMPLETE, R65. -/
  | writeBackComplete (part chiplet set way : Nat)
  /-- MODE_SWITCH, R73. -/
  | modeSwitch (stack : Nat) (compute : Bool)
  /-- MODE_SWITCH_COMPLETE, R71. -/
  | modeSwitchComplete (stack : Nat)
  /-- LOOKUP_BAG, R355. -/
  | lookupBag (c : CmdRef) (bag : Nat)
  /-- BIN_APPEND, R362. -/
  | binAppend (c : CmdRef) (pair : Nat)
  /-- REPLAY_REGION, R363. -/
  | replayRegion (c : CmdRef) (region : Nat)
  /-- BUCKET_RECEIVE, R370. -/
  | bucketReceive (b : Bucket)
  /-- A2A_COMBINATION, R370. -/
  | a2aCombination (c : CmdRef)
  /-- COPY_ELEMENT, R338. -/
  | copyElement (c : CmdRef)
  /-- COMMAND_COMPLETION, R102. -/
  | commandCompletion (c : CmdRef)
  /-- K_STEP, R307. -/
  | kStep (m : MRef)
  /-- PTROOT_WRITE, R25. -/
  | ptrootWrite (ag : RegAgent) (part : Nat) (v : Word)
  /-- TLBINV_ALL, R26. -/
  | tlbinvAll (ag : RegAgent) (part : Nat) (v : Word)
  /-- TLBINV_PAGE, R26. -/
  | tlbinvPage (ag : RegAgent) (part : Nat) (v : Word)
  /-- TLBINV_COMPLETE, R23. -/
  | tlbinvComplete (part : Nat)
  /-- EXPCTL_LOAD, R29. -/
  | expctlLoad (ag : RegAgent) (part : Nat) (v : Word)
  /-- HRCFG_WRITE, R60. -/
  | hrcfgWrite (ag : RegAgent) (part : Nat) (v : Word)
  /-- RGNCTL_LOAD, R91. -/
  | rgnctlLoad (ag : RegAgent) (part : Nat) (v : Word)
  /-- REGISTER_WRITE, R4. -/
  | registerWrite (ag : RegAgent) (r : RegAddr) (v : Word)
  /-- HQDB, R372. -/
  | hqdb (ag : RegAgent) (part : Nat) (v : Word)
  /-- CMD_NOP, R374. -/
  | cmdNop (q : QueueRef) (s : Slot)
  /-- LAUNCH, R380. -/
  | launch (q : QueueRef) (s : Slot)
  /-- LAUNCHI, R384. -/
  | launchi (q : QueueRef) (s : Slot)
  /-- CMD_LOOP, R374. -/
  | cmdLoop (q : QueueRef) (s : Slot)
  /-- IF, R374. -/
  | cmdIf (q : QueueRef) (s : Slot)
  /-- JUMP, R374. -/
  | jump (q : QueueRef) (s : Slot)
  /-- WAIT, R374. -/
  | wait (q : QueueRef) (s : Slot)
  /-- SIGNAL, R374. -/
  | signal (q : QueueRef) (s : Slot)
  /-- SIGADD, R374. -/
  | sigadd (q : QueueRef) (s : Slot)
  /-- WRITE, R374. -/
  | write (q : QueueRef) (s : Slot)
  /-- CMD_FENCE, R374. -/
  | cmdFence (q : QueueRef) (s : Slot)
  /-- DELAY, R374. -/
  | delay (q : QueueRef) (s : Slot)
  /-- DELAY_EXPIRY, R374. -/
  | delayExpiry (q : QueueRef)
  /-- CTXNEW, R378. -/
  | ctxnew (q : QueueRef) (s : Slot)
  /-- CTXEND, R374. -/
  | ctxend (q : QueueRef) (s : Slot)
  /-- INTR, R374. -/
  | intr (q : QueueRef) (s : Slot)
  /-- QSTOP, R374. -/
  | qstop (q : QueueRef) (s : Slot)
  /-- PRED_DECREMENT, R381. -/
  | predDecrement (part tcb : Nat) (failed : Bool)
  /-- CARD_ADMISSION, R385. -/
  | cardAdmission (part die : Nat) (card : BitVec 128)
  /-- CARD_REPUSH, R385. -/
  | cardRepush (part prio : Nat) (card : CardPush)
  /-- CHUNK_DISPATCH, R388. -/
  | chunkDispatch (part die : Nat)
  /-- TASK_RETIRE, R391. -/
  | taskRetire (part tcb : Nat)
  /-- PERIOD_BOUNDARY, R394. -/
  | periodBoundary (part : Nat)
  /-- PREEMPTION_REQUEST, R403. -/
  | preemptionRequest (part ctx : Nat)
  /-- PREEMPT_HALT, R404. -/
  | preemptHalt (m : MRef)
  /-- SAVE, R409. -/
  | save (m : MRef)
  /-- RESTORE, R410. -/
  | restore (m : MRef) (core : Nat)
  /-- ESCALATION, R401. -/
  | escalation (m : MRef)
  /-- RESUME, R401. -/
  | resume (m : MRef) (e : ResumeEdit)
  /-- END_THE_ITERATION, R402. -/
  | endTheIteration (m : MRef)
  /-- END_THE_CONTEXT, R401. -/
  | endTheContext (part ctx : Nat)
  /-- DIE_FENCE, R412. -/
  | dieFence (die : Nat)
  /-- PARTITION_CHANGE, R9. -/
  | partitionChange (part dies : Nat) (key : BitVec 32)
  /-- UNCORRECTABLE_ERROR, R77. -/
  | uncorrectableError (e : EccSite)
  /-- FABCFG_WRITE, R415. -/
  | fabcfgWrite (ag : RegAgent) (v : Word)
  /-- PORT_TRAINING, R415. -/
  | portTraining (port : Nat) (lanes : Bool) (rowsM1 colsM1 : Nat) (peer : DevRef)
  /-- LINK_REPLAY_FAILURE, R416. -/
  | linkReplayFailure (port : Nat)
  /-- RD, R425. -/
  | rd (p : Packet)
  /-- WR, R425. -/
  | wr (p : Packet)
  /-- ATOM, R425. -/
  | atom (p : Packet)
  /-- ARRIVE, R424. -/
  | arrive (p : Packet)
  /-- QOP, R425. -/
  | qop (p : Packet)
  /-- OBJ, R425. -/
  | obj (p : Packet)
  /-- RSP, R422. -/
  | rsp (p : Packet)
  /-- OPEN, R420. -/
  | openConn (p : Packet)
  /-- OPENACK, R420. -/
  | openack (p : Packet)
  /-- CLOSE, R423. -/
  | close (p : Packet)
  /-- ACK_ONLY, R422. -/
  | ackOnly (p : Packet)
  /-- ACK_IDLE_TIMEOUT, R422. -/
  | ackIdleTimeout (c : ConnRef)
  /-- RETRANSMIT_TIMEOUT, R423. -/
  | retransmitTimeout (c : ConnRef) (seq : Nat)
  /-- TEARDOWN, R423. -/
  | teardown (c : ConnRef)
  /-- FILLING_IDLE_TIMEOUT, R423. -/
  | fillingIdleTimeout (c : ConnRef)
  /-- ARRIVAL_RESEND, R424. -/
  | arrivalResend (c : ConnRef) (seq : Nat)
  /-- ROUTER_WAIT_EXPIRY, R419. -/
  | routerWaitExpiry (p : Packet)
  /-- RUD_BUCKET, R430. -/
  | rudBucket (b : Bucket)
  /-- RUDI_PARTIAL, R430. -/
  | rudiPartial (c : CmdRef) (shard : Nat) (ps : ShardAnswer)
  /-- UEC_DELIVERY_FAILURE, R430. -/
  | uecDeliveryFailure (c : CmdRef)
  /-- CLAIM, R434. -/
  | claim (ag : RegAgent)
  /-- RENEW, R434. -/
  | renew (ag : RegAgent)
  /-- HANDOVER, R434. -/
  | handover (ag : RegAgent) (succ : BitVec 2)
  /-- LEASE_EXPIRY, R434. -/
  | leaseExpiry
  /-- POWER_UP, R435. -/
  | powerUp
  /-- CLEARING_COMPLETE, R435. -/
  | clearingComplete
  /-- BOOTCTL_GO, R435. -/
  | bootctlGo (ag : RegAgent)
  /-- VERIFICATION_COMPLETE, R437. -/
  | verificationComplete
  /-- DEVRST, R437. -/
  | devrst (ag : RegAgent) (v : Word)
  /-- ATTGO, R438. -/
  | attgo (ag : RegAgent)
  /-- ATTESTATION_REPORT, R438. -/
  | attestationReport
  /-- POWER_WINDOW, R439. -/
  | powerWindow (watts : Nat)
  /-- LIMIT_REACHED, R439. -/
  | limitReached (watts amps temp : Nat)
  /-- THERMAL_TRIP, R439. -/
  | thermalTrip (temp : Nat)
  /-- POWER_DOWN, R437. -/
  | powerDown
  /-- REFRESH, R73. -/
  | refresh (stack pc : Nat)
  /-- AGE_REFRESH, R388. -/
  | ageRefresh (part : Nat)
  /-- PCIE_LINK_TRAINING, R431. -/
  | pcieLinkTraining (port gen : Nat) (x16 : Bool)
  /-- APERTURE_WRITE, R431. -/
  | apertureWrite (ag : RegAgent) (boot : Bool) (offset : Nat) (bytes : List Byte)
  /-- PACKET_FORWARD, R419. -/
  | packetForward (p : Packet) (port : Nat)
  /-- JUNCTION_HOLD, R122. -/
  | junctionHold (op : QOp)
  deriving DecidableEq, Repr

end Sys2Proof
end

