-- ==== Sys2Proof/WellFormed.lean ====
section
/-!
DEFINITION. Which terms of `Instr` are instruction words the encoding tables admit (R178, R179).
A device event is no word and is never well formed.
-/

namespace Sys2Proof

/-- Two immediates of one S3 word are the one IMM16 (R171). -/
def srcPairOk : Src → Src → Bool
  | .imm v, .imm w => v == w
  | _, _ => true

/-- The value specifier of a 16-byte load (R243): an even register, or the discarding code. -/
def dstPairOk (sz : Size) (d : Dst) : Bool :=
  match sz, d with
  | .b16, .s n => n.toNat % 2 == 0
  | .b16, .o n => n.toNat % 2 == 0
  | _, _ => true

/-- The value specifier of a 16-byte store (R243): an even register or special zero. -/
def regPairOk (sz : Size) (r : Reg) : Bool :=
  match sz, r with
  | .b16, .s n => n.toNat % 2 == 0
  | .b16, .o n => n.toNat % 2 == 0
  | .b16, .zero => true
  | .b16, _ => false
  | _, _ => true

/-- Field position and length of BEXT and BINS (R234). -/
def fieldOk (p : BitVec 6) (n : BitVec 7) : Bool :=
  n.toNat != 0 && p.toNat + n.toNat ≤ 64

/-- A level number of a six-level nest (R304, R333 to R335). -/
def levelOk (lv : BitVec 3) : Bool := lv.toNat < 6

namespace VType

/-- Class I of R267. -/
def isI : VType → Bool
  | i8 | i16 | i32 => true
  | _ => false

/-- Class F of R267. -/
def isF : VType → Bool
  | bf16 | fp32 => true
  | _ => false

/-- Class E of R267. -/
def isE : VType → Bool
  | fp8e4 | fp8e5 => true
  | _ => false

/-- Class N of R267. -/
def isN : VType → Bool
  | rn3 => true
  | _ => false

/-- Types I, F and N. -/
def isIFN (t : VType) : Bool := t.isI || t.isF || t.isN

/-- Element bytes (R267). -/
def bytes : VType → Nat
  | i8 | fp8e4 | fp8e5 => 1
  | i16 | bf16 => 2
  | i32 | fp32 => 4
  | rn3 => 8

/-- Elements of a row (R267). -/
def count (t : VType) : Nat := 128 / t.bytes

end VType

/-- SAT only where the form takes it and the type is of class I. -/
def satI (t : VType) (m : VMod) : Bool := !m.sat || t.isI

/-- Form B or B3 over the given types, SAT as given (R273). -/
def vB (tys : VType → Bool) (sat : Bool) (v : VArgs3) : Bool :=
  tys v.ty && (if sat then satI v.ty v.m else !v.m.sat)

/-- Form U: CY is reserved (R174). -/
def vU (tys : VType → Bool) (sat : Bool) (v : VArgs2) : Bool :=
  tys v.ty && (if sat then satI v.ty v.m else !v.m.sat) && !v.m.cy

/-- Form Z reads no tile: CK, CX and CY are reserved (R272). -/
def vZ (tys : VType → Bool) (sat : Bool) (v : VArgs1) : Bool :=
  tys v.ty && (if sat then satI v.ty v.m else !v.m.sat) && !v.m.ck && !v.m.cx && !v.m.cy

/-- A reduction; only VDOT has a Y row. -/
def vS (tys : VType → Bool) (sat binary : Bool) (v : VRed) : Bool :=
  tys v.ty && (if sat then satI v.ty v.m else !v.m.sat) && (binary || !v.m.cy)

/-- Source and destination types VCVT accepts (R281). -/
def cvtOk (src dst : VType) : Bool :=
  src != dst &&
    (if src == .rn3 then dst == .i8 || dst == .i16 || dst == .i32 || dst == .fp32
     else if dst == .rn3 then src == .i8 || src == .i16 || src == .i32 || src == .fp32
     else true)

/-- The words the tables of R169 to R177 and the entries admit. -/
def Instr.wf : Instr → Bool
  | .nop | .go | .halt | .eret | .idem | .idemEnd | .done => true
  | .trap _ | .csrr _ _ | .csrw _ _ | .brk _ => true
  | .add _ x y | .sub _ x y | .mul _ x y | .mulh _ x y | .mulhu _ x y => srcPairOk x y
  | .div _ x y | .divu _ x y | .rem _ x y | .remu _ x y => srcPairOk x y
  | .and _ x y | .or _ x y | .xor _ x y | .shl _ x y | .shr _ x y | .sar _ x y => srcPairOk x y
  | .min _ x y | .max _ x y | .minu _ x y | .maxu _ x y => srcPairOk x y
  | .slt _ x y | .sltu _ x y | .seq _ x y => srcPairOk x y
  | .sel _ _ x y | .madd _ x y _ => srcPairOk x y
  | .li _ _ | .lih _ _ | .clz _ _ | .popc _ _ => true
  | .bext _ _ p n | .bextS _ _ p n | .bins _ _ p n => fieldOk p n
  | .fopAdd _ x y _ | .fopSub _ x y _ | .fopMul _ x y _ => srcPairOk x y
  | .fopMin _ x y | .fopMax _ x y | .fopEq _ x y | .fopLt _ x y | .fopLe _ x y => srcPairOk x y
  | .cvtsfIf _ _ _ | .cvtsfFi _ _ _ => true
  | .bc _ _ _ _ | .j _ | .jr _ _ | .call _ _ | .ret _ | .lpbrk _ => true
  | .loop _ _ off => 0 < off.toInt
  | .ld d _ _ _ sz sx _ _ => dstPairOk sz d && !(sx && (sz == .b8 || sz == .b16))
  | .st v _ sz _ => regPairOk sz v
  | .pref _ _ _ | .cflush _ _ _ _ | .cinv _ _ _ _ => true
  | .strel _ _ _ sz _ => sz != .b16
  | .ldacq _ _ _ _ sz _ => sz != .b16
  | .aadd _ | .aand _ | .aor _ | .axor _ | .amin _ | .amax _ | .aminu _ | .amaxu _ | .axchg _ => true
  | .acas _ _ => true
  | .afadd a => !a.w
  | .scadd _ _ _ _ _ rlen => rlen.toNat != 0
  | .acqGe _ _ _ _ | .acqNw _ _ _ | .acqX _ _ _ | .rel _ _ _ | .fence _ => true
  | .waitcGe _ _ | .waitcLe _ _ | .tlwait _ _ | .tlsig _ _ _ => true
  | .bar sc mask => mask.toNat == 0 || sc == .core
  | .mbw _ _ | .mbr _ _ => true
  | .tagarm _ _ ct mulm1 => ct != .plain || mulm1.toNat == 0
  | .tagsetFull _ | .tagsetPoison _ | .tagclr _ => true
  | .tagwtNw _ _ | .tagwtFull _ _ | .tagwtEmpty _ _ | .xfence _ => true
  | .push _ _ _ _ _ | .popN _ _ _ _ _ | .popW _ _ _ _ _ => true
  | .qoctlEn _ _ | .qoctlDis _ _ | .qoctlCnt _ _ => true
  | .hld d _ _ _ sz _ => dstPairOk sz d
  | .hldQ _ _ _ _ | .hpub _ | .hwait _ | .hwaitAll _ => true
  | .gridctlJoin _ | .gridctlLeave _ | .gridctlStat _ _ | .gridctlStatMs _ _ _ => true
  | .qld _ _ _ _ | .qldx _ _ _ _ _ | .tget _ _ _ _ _ | .tsend _ _ _ _ _ _ _ => true
  | .tsto _ _ _ _ _ _ | .bld _ _ _ _ _ | .qflush _ => true
  | .cpseq lv _ => levelOk lv
  | .cpseqClr | .cpsrcBase _ | .cpdstBase _ | .cpdstBaseTile _ | .cpidxOff | .cpswz _ => true
  | .cpsrcStride lv _ | .cpsrcWin lv _ _ | .cpdstStride lv _ | .cpdstWin lv _ _ => levelOk lv
  | .cpidx lv _ _ => levelOk lv
  | .cpgo _ _ _ _ | .cpstat _ _ _ => true
  | .lookup _ _ _ _ _ _ _ _ | .lkstat _ _ _ | .update _ _ _ _ _ _ _ => true
  | .replayAcc _ _ _ _ _ | .replaySgd _ _ _ _ _ | .replayAdag _ _ _ _ _ => true
  | .skctlWr _ _ | .skctlRd _ _ | .skctlEst _ _ _ => true
  | .hrctlFlush _ _ _ | .hrctlDetach _ _ _ | .a2a _ _ _ _ _ _ => true
  | .vadd v | .vsub v | .vmul v | .vfma v => vB VType.isIFN true v
  | .vmin v | .vmax v | .vcmp v | .vclmp v => vB VType.isIFN false v
  | .vabs v | .vneg v | .vscan v => vU VType.isIFN true v
  | .vand v | .vor v | .vxor v | .vsel v | .vperm v => vB (fun _ => true) false v
  | .vnot v => vU (fun _ => true) false v
  | .vshl v => vB VType.isI true v
  | .vshr v | .vsar v => vB VType.isI false v
  | .vcvt v src _ => cvtOk src v.ty && !v.m.cy
  | .vqnt v src _ _ =>
    (v.ty == .i8 || v.ty == .i16 || v.ty == .bf16 || v.ty.isE) && (src == .fp32 || src == .bf16) && !v.m.cy
  | .vdqn v src _ _ =>
    v.ty.isF && (src.isI || src == .bf16 || src.isE) && !v.m.cy
  | .vrsum v => vS (fun _ => true) true false v
  | .vrmax v | .vrmin v => vS VType.isIFN false false v
  | .vdot v _ => vS (fun _ => true) true true v
  | .vexp2 v | .vlog2 v | .vrcp v | .vrsq v => vU VType.isF false v
  | .vact v _ => vU VType.isF false v
  | .vbcst v _ | .vmask v _ => vZ (fun _ => true) false v
  | .vidx v _ => vZ VType.isIFN true v
  | .vshufRot v _ | .vshufRev v | .vshufUnzip v | .vshufZip v => vU (fun _ => true) false v
  | .vmovsIns _ e _ ty | .vmovsExt _ _ e ty _ _ => e.toNat < ty.count
  | .vpop _ _ _ | .vzero _ _ => true
  | .vsprs v =>
    (v.ty == .i8 || v.ty == .bf16 || v.ty.isE) && !v.m.sat && v.run.toNat % 2 == 1
  | .vscale v => vB VType.isF false v
  | .xnest lv _ _ _ _ _ => levelOk lv
  | .xnestClr | .xlrRd _ _ | .xlrWr _ _ | .xlrPos _ => true
  | .xopsA _ | .xopsB _ | .xpost _ | .xspm _ | .xmask _ => true
  | .xgo _ _ out stg _ => out || stg == ⟨false, false, false, false⟩
  | .xwait | .xaccClr _ | .xaccSt _ _ | .xaccLd _ _ _ _ | .xaccLdp _ _ _ _ | .xaccAdd _ _ | .xaccPost _ _ => true
  | .sealTensor _ _ _ | .sealTable _ _ _ | .sealGrid _ _ _ => true
  | .unsealHandle _ | .hmov _ _ _ | .hmovMem _ _ _ _ => true
  | .dataLanding _ _ | .untimedResultLanding _ _ | .storeBufferDrain _ _ | .fetchMissFill _ _
  | .vectorUnitFree _ | .walkComplete _ _ _ | .tagCheckSatisfied _ _ | .arrival _ | .arrivalRetry _
  | .abortEvent _ _ | .closingNotice _ _ _ | .rollback _ _ _ | .mailboxWake _ _
  | .barrierEpisodeComplete _ _ | .acqHomeRetest _ _ | .acqWithdrawal _ _ | .queueHomeService _
  | .junctionPair _ _ | .holdExpiry _ | .parkedPopTimeout _ | .vergeWriteStart _
  | .vergeWriteComplete _ | .progressReport _ _ | .hpubWaitEnd _ _ | .haloTimeout _ _
  | .waitTimeout _ _ | .decay _ _ _ | .fillComplete _ _ _ _ | .writeBackComplete _ _ _ _
  | .modeSwitch _ _ | .modeSwitchComplete _ | .lookupBag _ _ | .binAppend _ _ | .replayRegion _ _
  | .bucketReceive _ | .a2aCombination _ | .copyElement _ | .commandCompletion _ | .kStep _
  | .ptrootWrite _ _ _ | .tlbinvAll _ _ _ | .tlbinvPage _ _ _ | .tlbinvComplete _
  | .expctlLoad _ _ _ | .hrcfgWrite _ _ _ | .rgnctlLoad _ _ _ | .registerWrite _ _ _ | .hqdb _ _ _
  | .cmdNop _ _ | .launch _ _ | .launchi _ _ | .cmdLoop _ _ | .cmdIf _ _ | .jump _ _ | .wait _ _
  | .signal _ _ | .sigadd _ _ | .write _ _ | .cmdFence _ _ | .delay _ _ | .delayExpiry _
  | .ctxnew _ _ | .ctxend _ _ | .intr _ _ | .qstop _ _ | .predDecrement _ _ _
  | .cardAdmission _ _ _ | .cardRepush _ _ _ | .chunkDispatch _ _ | .taskRetire _ _
  | .periodBoundary _ | .preemptionRequest _ _ | .preemptHalt _ | .save _ | .restore _ _
  | .escalation _ | .resume _ _ | .endTheIteration _ | .endTheContext _ _ | .dieFence _
  | .partitionChange _ _ _ | .uncorrectableError _ | .fabcfgWrite _ _ | .portTraining _ _ _ _ _
  | .linkReplayFailure _ | .rd _ | .wr _ | .atom _ | .arrive _ | .qop _ | .obj _ | .rsp _
  | .openConn _ | .openack _ | .close _ | .ackOnly _ | .ackIdleTimeout _ | .retransmitTimeout _ _
  | .teardown _ | .fillingIdleTimeout _ | .arrivalResend _ _ | .routerWaitExpiry _ | .rudBucket _
  | .rudiPartial _ _ _ | .uecDeliveryFailure _ | .claim _ | .renew _ | .handover _ _ | .leaseExpiry
  | .powerUp | .clearingComplete | .bootctlGo _ | .verificationComplete | .devrst _ _ | .attgo _
  | .attestationReport | .powerWindow _ | .limitReached _ _ _ | .thermalTrip _ | .powerDown
  | .refresh _ _ | .ageRefresh _ | .pcieLinkTraining _ _ _ | .apertureWrite _ _ _ _
  | .packetForward _ _ | .junctionHold _ => false

/-- Streams that may issue a word (R144, and the holders of R229 for CSRs); no stream issues an event. -/
def Instr.streams : Instr → List Strm
  | .csrr _ n | .csrw n _ =>
    match n with
    | .tvec | .tcause | .tstrm | .tepc | .tval | .tscr | .tsave => [.c]
    | _ => [.c, .a, .v, .x]
  | .nop | .halt | .trap _ | .brk _ | .add _ _ _ | .sub _ _ _ | .mul _ _ _
  | .mulh _ _ _ | .mulhu _ _ _ | .div _ _ _ | .divu _ _ _ | .rem _ _ _
  | .remu _ _ _ | .and _ _ _ | .or _ _ _ | .xor _ _ _ | .shl _ _ _ | .shr _ _ _
  | .sar _ _ _ | .min _ _ _ | .max _ _ _ | .minu _ _ _ | .maxu _ _ _ | .slt _ _ _
  | .sltu _ _ _ | .seq _ _ _ | .sel _ _ _ _ | .li _ _ | .lih _ _ | .clz _ _
  | .popc _ _ | .bext _ _ _ _ | .bextS _ _ _ _ | .bins _ _ _ _ | .madd _ _ _ _
  | .fopAdd _ _ _ _ | .fopSub _ _ _ _ | .fopMul _ _ _ _ | .fopMin _ _ _
  | .fopMax _ _ _ | .fopEq _ _ _ | .fopLt _ _ _ | .fopLe _ _ _ | .cvtsfIf _ _ _
  | .cvtsfFi _ _ _ | .bc _ _ _ _ | .j _ | .jr _ _ | .call _ _ | .ret _
  | .loop _ _ _ | .lpbrk _ | .waitcGe _ _ | .waitcLe _ _ | .tlwait _ _ | .bar _ _
  | .mbw _ _ | .mbr _ _ | .tagarm _ _ _ _ | .tagsetFull _ | .tagsetPoison _
  | .tagclr _ | .tagwtNw _ _ | .tagwtFull _ _ | .tagwtEmpty _ _ | .hwait _
  | .hwaitAll _ => [.c, .a, .v, .x]
  | .go | .eret | .done => [.c]
  | .ld _ _ _ _ _ _ _ _ | .st _ _ _ _ | .pref _ _ _ | .cflush _ _ _ _
  | .cinv _ _ _ _ | .strel _ _ _ _ _ | .ldacq _ _ _ _ _ _ | .aadd _ | .aand _
  | .aor _ | .axor _ | .amin _ | .amax _ | .aminu _ | .amaxu _ | .axchg _
  | .acas _ _ | .afadd _ | .acqGe _ _ _ _ | .acqNw _ _ _ | .acqX _ _ _
  | .rel _ _ _ | .fence _ | .tlsig _ _ _ | .xfence _ | .push _ _ _ _ _
  | .popN _ _ _ _ _ | .popW _ _ _ _ _ | .qoctlEn _ _ | .qoctlDis _ _ | .qoctlCnt _ _
  | .hld _ _ _ _ _ _ | .hldQ _ _ _ _ | .hpub _ | .gridctlJoin _ | .gridctlLeave _
  | .gridctlStat _ _ | .gridctlStatMs _ _ _ => [.c, .a]
  | .idem | .idemEnd | .scadd _ _ _ _ _ _ | .qld _ _ _ _ | .qldx _ _ _ _ _
  | .tget _ _ _ _ _ | .tsend _ _ _ _ _ _ _ | .tsto _ _ _ _ _ _ | .bld _ _ _ _ _
  | .qflush _ | .cpseq _ _ | .cpseqClr | .cpsrcBase _ | .cpsrcStride _ _
  | .cpsrcWin _ _ _ | .cpdstBase _ | .cpdstBaseTile _ | .cpdstStride _ _
  | .cpdstWin _ _ _ | .cpidx _ _ _ | .cpidxOff | .cpswz _ | .cpgo _ _ _ _
  | .cpstat _ _ _ | .lookup _ _ _ _ _ _ _ _ | .lkstat _ _ _ | .update _ _ _ _ _ _ _
  | .replayAcc _ _ _ _ _ | .replaySgd _ _ _ _ _ | .replayAdag _ _ _ _ _ | .skctlWr _ _
  | .skctlRd _ _ | .skctlEst _ _ _ | .hrctlFlush _ _ _ | .hrctlDetach _ _ _
  | .a2a _ _ _ _ _ _ => [.a]
  | .vadd _ | .vsub _ | .vmul _ | .vfma _ | .vmin _ | .vmax _ | .vabs _
  | .vneg _ | .vand _ | .vor _ | .vxor _ | .vnot _ | .vshl _ | .vshr _
  | .vsar _ | .vcmp _ | .vsel _ | .vcvt _ _ _ | .vqnt _ _ _ _ | .vdqn _ _ _ _
  | .vrsum _ | .vrmax _ | .vrmin _ | .vdot _ _ | .vexp2 _ | .vlog2 _ | .vrcp _
  | .vrsq _ | .vact _ _ | .vbcst _ _ | .vperm _ | .vshufRot _ _ | .vshufRev _
  | .vshufUnzip _ | .vshufZip _ | .vmovsIns _ _ _ _ | .vmovsExt _ _ _ _ _ _
  | .vclmp _ | .vscan _ | .vpop _ _ _ | .vmask _ _ | .vzero _ _ | .vidx _ _
  | .vsprs _ | .vscale _ => [.v]
  | .xnest _ _ _ _ _ _ | .xnestClr | .xlrRd _ _ | .xlrWr _ _ | .xlrPos _
  | .xopsA _ | .xopsB _ | .xpost _ | .xspm _ | .xmask _ | .xgo _ _ _ _ _
  | .xwait | .xaccClr _ | .xaccSt _ _ | .xaccLd _ _ _ _ | .xaccLdp _ _ _ _
  | .xaccAdd _ _ | .xaccPost _ _ | .sealTensor _ _ _ | .sealTable _ _ _
  | .sealGrid _ _ _ | .unsealHandle _ | .hmov _ _ _ | .hmovMem _ _ _ _ => [.x]
  | .dataLanding _ _ | .untimedResultLanding _ _ | .storeBufferDrain _ _
  | .fetchMissFill _ _ | .vectorUnitFree _ | .walkComplete _ _ _
  | .tagCheckSatisfied _ _ | .arrival _ | .arrivalRetry _ | .abortEvent _ _
  | .closingNotice _ _ _ | .rollback _ _ _ | .mailboxWake _ _
  | .barrierEpisodeComplete _ _ | .acqHomeRetest _ _ | .acqWithdrawal _ _
  | .queueHomeService _ | .junctionPair _ _ | .holdExpiry _ | .parkedPopTimeout _
  | .vergeWriteStart _ | .vergeWriteComplete _ | .progressReport _ _ | .hpubWaitEnd _ _
  | .haloTimeout _ _ | .waitTimeout _ _ | .decay _ _ _ | .fillComplete _ _ _ _
  | .writeBackComplete _ _ _ _ | .modeSwitch _ _ | .modeSwitchComplete _
  | .lookupBag _ _ | .binAppend _ _ | .replayRegion _ _ | .bucketReceive _
  | .a2aCombination _ | .copyElement _ | .commandCompletion _ | .kStep _
  | .ptrootWrite _ _ _ | .tlbinvAll _ _ _ | .tlbinvPage _ _ _ | .tlbinvComplete _
  | .expctlLoad _ _ _ | .hrcfgWrite _ _ _ | .rgnctlLoad _ _ _ | .registerWrite _ _ _
  | .hqdb _ _ _ | .cmdNop _ _ | .launch _ _ | .launchi _ _ | .cmdLoop _ _
  | .cmdIf _ _ | .jump _ _ | .wait _ _ | .signal _ _ | .sigadd _ _ | .write _ _
  | .cmdFence _ _ | .delay _ _ | .delayExpiry _ | .ctxnew _ _ | .ctxend _ _
  | .intr _ _ | .qstop _ _ | .predDecrement _ _ _ | .cardAdmission _ _ _
  | .cardRepush _ _ _ | .chunkDispatch _ _ | .taskRetire _ _ | .periodBoundary _
  | .preemptionRequest _ _ | .preemptHalt _ | .save _ | .restore _ _ | .escalation _
  | .resume _ _ | .endTheIteration _ | .endTheContext _ _ | .dieFence _
  | .partitionChange _ _ _ | .uncorrectableError _ | .fabcfgWrite _ _
  | .portTraining _ _ _ _ _ | .linkReplayFailure _ | .rd _ | .wr _ | .atom _
  | .arrive _ | .qop _ | .obj _ | .rsp _ | .openConn _ | .openack _ | .close _
  | .ackOnly _ | .ackIdleTimeout _ | .retransmitTimeout _ _ | .teardown _
  | .fillingIdleTimeout _ | .arrivalResend _ _ | .routerWaitExpiry _ | .rudBucket _
  | .rudiPartial _ _ _ | .uecDeliveryFailure _ | .claim _ | .renew _ | .handover _ _
  | .leaseExpiry | .powerUp | .clearingComplete | .bootctlGo _
  | .verificationComplete | .devrst _ _ | .attgo _ | .attestationReport
  | .powerWindow _ | .limitReached _ _ _ | .thermalTrip _ | .powerDown
  | .refresh _ _ | .ageRefresh _ | .pcieLinkTraining _ _ _ | .apertureWrite _ _ _ _
  | .packetForward _ _ | .junctionHold _ => []

/-- The stream may issue the word. -/
def Instr.validOn (i : Instr) (st : Strm) : Bool := i.streams.contains st

end Sys2Proof
end

