-- ==== Sys2Proof/Decode.lean ====
section
/-!
DEFINITION. The words of R167 to R180: the seven formats, the encoder and the decoder.
The decoder reads the fields the entries name, then accepts exactly the words that the encoder writes
for a well-formed instruction, so a non-zero unused field (R178) or a reserved value is refused by name.
-/

namespace Sys2Proof

/-- Why a word is no instruction (R179); both raise the same trap. -/
inductive Reject where
  /-- A dash of the opcode map (R176). -/
  | reservedOpcode
  /-- A reserved field value, or a bit that R178 requires to be zero. -/
  | reservedEncoding
  deriving DecidableEq, Repr

/-- The seven formats of R169, fields from high to low. -/
inductive Fmt where
  | s3 (d x y : BitVec 8) (fn : BitVec 6) (imm : BitVec 16)
  | si (d : BitVec 8) (fn : BitVec 6) (imm : BitVec 32)
  | br (cond : BitVec 6) (x y : BitVec 8) (off : BitVec 24)
  | mem (v base : BitVec 8) (slot : BitVec 5) (arr : BitVec 10) (size osc : BitVec 3) (off : BitVec 9)
  | vec (d x y : BitVec 12) (type run : BitVec 3) (mod : BitVec 4)
  | eng (a b c d : BitVec 8) (fn : BitVec 14)
  | syn (x y : BitVec 8) (scope : BitVec 3) (fn : BitVec 27)
  deriving DecidableEq, Repr

/-- Bits [45:0] of a word. -/
def Fmt.body : Fmt → BitVec 46
  | .s3 d x y fn imm => d ++ x ++ y ++ fn ++ imm
  | .si d fn imm => d ++ fn ++ imm
  | .br cond x y off => cond ++ x ++ y ++ off
  | .mem v base slot arr size osc off => v ++ base ++ slot ++ arr ++ size ++ osc ++ off
  | .vec d x y type run mod => d ++ x ++ y ++ type ++ run ++ mod
  | .eng a b c d fn => a ++ b ++ c ++ d ++ fn
  | .syn x y scope fn => x ++ y ++ scope ++ fn

/-! ### Codes of the fields -/

/-- A one-bit field. -/
def flag (b : Bool) : BitVec 1 := BitVec.ofBool b

/-- Scope codes of R84. -/
def Scope.code : Scope → BitVec 3
  | .stream => 0 | .core => 1 | .quad => 2 | .die => 3 | .pkg => 4 | .pod => 5

/-- Codes 6 and 7 are reserved (R84). -/
def Scope.ofCode (c : BitVec 3) : Option Scope :=
  match c.toNat with
  | 0 => some .stream | 1 => some .core | 2 => some .quad | 3 => some .die | 4 => some .pkg | 5 => some .pod
  | _ => none

/-- Source specifiers of R171. -/
def Reg.code : Reg → BitVec 8
  | .s n => 0#3 ++ n
  | .o n => 8#5 ++ n
  | .lat => 0x80
  | .zero => 0xC0
  | .coreId => 0xC2
  | .ctxId => 0xC3

/-- The register a source specifier names; 0xC1 is the immediate, which only S3 words read. -/
def Reg.ofCode (c : BitVec 8) : Option Reg :=
  match (c.extractLsb' 6 2).toNat, (c.extractLsb' 0 6).toNat with
  | 0, n => if n < 32 then some (.s (BitVec.ofNat 5 n)) else none
  | 1, n => if n < 8 then some (.o (BitVec.ofNat 3 n)) else none
  | 2, 0 => some .lat
  | 3, 0 => some .zero
  | 3, 2 => some .coreId
  | 3, 3 => some .ctxId
  | _, _ => none

/-- Source of an S3 word. -/
def Src.code : Src → BitVec 8
  | .reg r => r.code
  | .imm _ => 0xC1

/-- IMM16 of a word with one source. -/
def Src.imm16 : Src → BitVec 16
  | .reg _ => 0
  | .imm v => v

/-- IMM16 of a word with two sources (R171: both read the same one). -/
def immOf (x y : Src) : BitVec 16 :=
  match x with
  | .imm v => v
  | .reg _ => y.imm16

/-- The source an S3 specifier names. -/
def Src.ofCode (imm : BitVec 16) (c : BitVec 8) : Option Src :=
  if c = 0xC1 then some (.imm imm) else (Reg.ofCode c).map .reg

/-- Destination specifiers of R171. -/
def Dst.code : Dst → BitVec 8
  | .s n => 0#3 ++ n
  | .o n => 8#5 ++ n
  | .none => 0xC0

/-- The destination a specifier names. -/
def Dst.ofCode (c : BitVec 8) : Option Dst :=
  match Reg.ofCode c with
  | some (.s n) => some (.s n)
  | some (.o n) => some (.o n)
  | some .zero => some .none
  | _ => none

/-- OPA of SCADD. -/
def FileReg.code : FileReg → BitVec 8
  | .s n => 0#3 ++ n
  | .o n => 8#5 ++ n

/-- A register of the main or operand file. -/
def FileReg.ofCode (c : BitVec 8) : Option FileReg :=
  match Reg.ofCode c with
  | some (.s n) => some (.s n)
  | some (.o n) => some (.o n)
  | _ => none

/-- CSR numbers of R229. -/
def Csr.num : Csr → BitVec 16
  | .lps0 => 0x000 | .lpe0 => 0x001 | .lpc0 => 0x002 | .lps1 => 0x003 | .lpe1 => 0x004 | .lpc1 => 0x005
  | .vwin => 0x010 | .spcfg => 0x011
  | .tvec => 0x020 | .tcause => 0x021 | .tstrm => 0x022 | .tepc => 0x023 | .tval => 0x024 | .tscr => 0x025
  | .tsave => 0x026 | .cycle => 0x030 | .wclk => 0x031 | .nissue => 0x032 | .nstall => 0x033 | .ctxinfo => 0x040

/-- The CSR a number lists; every other number is reserved (R229). -/
def Csr.ofNum (n : BitVec 16) : Option Csr :=
  [Csr.lps0, .lpe0, .lpc0, .lps1, .lpe1, .lpc1, .vwin, .spcfg, .tvec, .tcause, .tstrm, .tepc, .tval, .tscr,
    .tsave, .cycle, .wclk, .nissue, .nstall, .ctxinfo].find? fun c => c.num == n

/-- COND of R238. -/
def Cond.code : Cond → BitVec 6
  | .eq => 0 | .ne => 1 | .lt => 2 | .ge => 3 | .ltu => 4 | .geu => 5

/-- COND values from 6 are reserved. -/
def Cond.ofCode (c : BitVec 6) : Option Cond :=
  match c.toNat with
  | 0 => some .eq | 1 => some .ne | 2 => some .lt | 3 => some .ge | 4 => some .ltu | 5 => some .geu
  | _ => none

/-- SIZE of R175. -/
def Size.code : Size → BitVec 3
  | .b1 => 0 | .b2 => 1 | .b4 => 2 | .b8 => 3 | .b16 => 4

/-- SIZE 5 to 7 are reserved. -/
def Size.ofCode (c : BitVec 3) : Option Size :=
  match c.toNat with
  | 0 => some .b1 | 1 => some .b2 | 2 => some .b4 | 3 => some .b8 | 4 => some .b16
  | _ => none

/-- SCOPE and ORD of an atomic (R252). -/
def AOrd.code : AOrd → BitVec 5
  | .rlx => 0
  | .acq s => s.code ++ 1#2
  | .rel s => s.code ++ 2#2
  | .ar s => s.code ++ 3#2

/-- A relaxed atomic whose SCOPE is not zero is refused by the re-encoding check. -/
def AOrd.ofCode (c : BitVec 5) : Option AOrd :=
  match (c.extractLsb' 0 2).toNat with
  | 0 => some .rlx
  | 1 => (Scope.ofCode (c.extractLsb' 2 3)).map .acq
  | 2 => (Scope.ofCode (c.extractLsb' 2 3)).map .rel
  | _ => (Scope.ofCode (c.extractLsb' 2 3)).map .ar

/-- FN14 of an atomic (R252). -/
def AtomArgs.fn (a : AtomArgs) : BitVec 14 := a.ord.code ++ flag a.w ++ 0#8

/-- ET of SCADD (R257). -/
def ScType.code : ScType → BitVec 2
  | .i32 => 0 | .fp32 => 1 | .rn3 => 2

/-- ET 11 is reserved. -/
def ScType.ofCode (c : BitVec 2) : Option ScType :=
  match c.toNat with
  | 0 => some .i32 | 1 => some .fp32 | 2 => some .rn3
  | _ => none

/-- CTYPE and KIND (R41, R329). -/
def CType.code : CType → BitVec 2
  | .plain => 0 | .i32 => 1 | .rn3 => 2

/-- Code 11 is reserved. -/
def CType.ofCode (c : BitVec 2) : Option CType :=
  match c.toNat with
  | 0 => some .plain | 1 => some .i32 | 2 => some .rn3
  | _ => none

/-- DISC of R112. -/
def Disc.code : Disc → BitVec 1
  | .bag => 0 | .stack => 1

/-- SCOPE, CLASS and DISC of PUSH and POP (R343). -/
def QArgs.fn7 (q : QArgs) : BitVec 7 := q.scope.code ++ q.cls ++ q.disc.code

/-- The fields of FN14 of PUSH and POP. -/
def QArgs.ofFn (fn : BitVec 14) : Option QArgs :=
  (Scope.ofCode (fn.extractLsb' 11 3)).map fun s =>
    ⟨s, fn.extractLsb' 8 3, if fn.getLsbD 7 then .stack else .bag⟩

/-- MODE of R351. -/
def Pool.code : Pool → BitVec 2
  | .sum => 0 | .wsum => 1 | .mean => 2 | .max => 3

/-- Every MODE is assigned. -/
def Pool.ofCode (c : BitVec 2) : Pool :=
  match c.toNat with
  | 0 => .sum | 1 => .wsum | 2 => .mean | _ => .max

/-- TYPE of R173. -/
def VType.code : VType → BitVec 3
  | .i8 => 0 | .i16 => 1 | .i32 => 2 | .bf16 => 3 | .fp32 => 4 | .fp8e4 => 5 | .fp8e5 => 6 | .rn3 => 7

/-- Every TYPE is assigned. -/
def VType.ofCode (c : BitVec 3) : VType :=
  match c.toNat with
  | 0 => .i8 | 1 => .i16 | 2 => .i32 | 3 => .bf16 | 4 => .fp32 | 5 => .fp8e4 | 6 => .fp8e5 | _ => .rn3

/-- MOD of R174. -/
def VMod.code (m : VMod) : BitVec 4 := flag m.ck ++ flag m.cx ++ flag m.cy ++ flag m.sat

/-- MOD of R174. -/
def VMod.ofCode (c : BitVec 4) : VMod := ⟨c.getLsbD 3, c.getLsbD 2, c.getLsbD 1, c.getLsbD 0⟩

/-- Forms B and B3 (R273). -/
def VArgs3.fmt (v : VArgs3) : Fmt := .vec v.d v.x v.y v.ty.code v.run v.m.code

/-- Form U with its function field. -/
def VArgs2.fmt (v : VArgs2) (y : BitVec 12) : Fmt := .vec v.d v.x y v.ty.code v.run v.m.code

/-- Form Z: X is zero. -/
def VArgs1.fmt (v : VArgs1) (y : BitVec 12) : Fmt := .vec v.d 0 y v.ty.code v.run v.m.code

/-- Form S (R271): D holds N and the destination specifier. -/
def VRed.fmt (v : VRed) (y : BitVec 12) : Fmt := .vec (v.len ++ v.d.code) v.x y v.ty.code v.run v.m.code

/-- STG of R292, from bit [4] upward: scale, bias, act, rq. -/
def Stages.code (s : Stages) : BitVec 4 := flag s.rq ++ flag s.act ++ flag s.bias ++ flag s.scale

/-- STG of R292. -/
def Stages.ofCode (c : BitVec 4) : Stages := ⟨c.getLsbD 0, c.getLsbD 1, c.getLsbD 2, c.getLsbD 3⟩

/-! ### The encoder -/

/-- OP and fields of an instruction, from the tables of the entries.
A device event has no word: it gets the reserved opcode 0xFF. -/
def Instr.fields : Instr → BitVec 8 × Fmt
  | .nop => (0x00, .s3 0 0 0 0 0)
  | .go => (0x01, .s3 0 0 0 0 0)
  | .halt => (0x02, .s3 0 0 0 0 0)
  | .trap x => (0x03, .s3 0 x.code 0 0 x.imm16)
  | .eret => (0x04, .s3 0 0 0 0 0)
  | .csrr d n => (0x05, .s3 d.code 0 0 0 n.num)
  | .csrw n x => (0x06, .s3 0 x.code 0 0 n.num)
  | .idem => (0x07, .s3 0 0 0 0 0)
  | .idemEnd => (0x07, .s3 0 0 0 1 0)
  | .brk n => (0x08, .s3 0 0 0 0 n)
  | .done => (0x09, .s3 0 0 0 0 0)
  | .add d x y => (0x10, .s3 d.code x.code y.code 0 (immOf x y))
  | .sub d x y => (0x11, .s3 d.code x.code y.code 0 (immOf x y))
  | .mul d x y => (0x12, .s3 d.code x.code y.code 0 (immOf x y))
  | .mulh d x y => (0x13, .s3 d.code x.code y.code 0 (immOf x y))
  | .mulhu d x y => (0x14, .s3 d.code x.code y.code 0 (immOf x y))
  | .div d x y => (0x15, .s3 d.code x.code y.code 0 (immOf x y))
  | .divu d x y => (0x16, .s3 d.code x.code y.code 0 (immOf x y))
  | .rem d x y => (0x17, .s3 d.code x.code y.code 0 (immOf x y))
  | .remu d x y => (0x18, .s3 d.code x.code y.code 0 (immOf x y))
  | .and d x y => (0x19, .s3 d.code x.code y.code 0 (immOf x y))
  | .or d x y => (0x1A, .s3 d.code x.code y.code 0 (immOf x y))
  | .xor d x y => (0x1B, .s3 d.code x.code y.code 0 (immOf x y))
  | .shl d x y => (0x1C, .s3 d.code x.code y.code 0 (immOf x y))
  | .shr d x y => (0x1D, .s3 d.code x.code y.code 0 (immOf x y))
  | .sar d x y => (0x1E, .s3 d.code x.code y.code 0 (immOf x y))
  | .min d x y => (0x1F, .s3 d.code x.code y.code 0 (immOf x y))
  | .max d x y => (0x20, .s3 d.code x.code y.code 0 (immOf x y))
  | .minu d x y => (0x21, .s3 d.code x.code y.code 0 (immOf x y))
  | .maxu d x y => (0x22, .s3 d.code x.code y.code 0 (immOf x y))
  | .slt d x y => (0x23, .s3 d.code x.code y.code 0 (immOf x y))
  | .sltu d x y => (0x24, .s3 d.code x.code y.code 0 (immOf x y))
  | .seq d x y => (0x25, .s3 d.code x.code y.code 0 (immOf x y))
  | .sel d c x y => (0x26, .s3 d.code x.code y.code (0#1 ++ c) (immOf x y))
  | .li d v => (0x27, .si d.code 0 v)
  | .lih d v => (0x28, .si d.code 0 v)
  | .clz d x => (0x29, .s3 d.code x.code 0 0 x.imm16)
  | .popc d x => (0x2A, .s3 d.code x.code 0 0 x.imm16)
  | .bext d x p n => (0x2B, .s3 d.code x.code 0 0 (0#3 ++ n ++ p))
  | .bextS d x p n => (0x2B, .s3 d.code x.code 0 1 (0#3 ++ n ++ p))
  | .bins d x p n => (0x2C, .s3 d.code x.code 0 0 (0#3 ++ n ++ p))
  | .madd d x y c => (0x2D, .s3 d.code x.code y.code (0#1 ++ c) (immOf x y))
  | .fopAdd d x y r => (0x2E, .s3 d.code x.code y.code (0#2 ++ flag r ++ 0#3) (immOf x y))
  | .fopSub d x y r => (0x2E, .s3 d.code x.code y.code (0#2 ++ flag r ++ 1#3) (immOf x y))
  | .fopMul d x y r => (0x2E, .s3 d.code x.code y.code (0#2 ++ flag r ++ 2#3) (immOf x y))
  | .fopMin d x y => (0x2E, .s3 d.code x.code y.code 3 (immOf x y))
  | .fopMax d x y => (0x2E, .s3 d.code x.code y.code 4 (immOf x y))
  | .fopEq d x y => (0x2E, .s3 d.code x.code y.code 5 (immOf x y))
  | .fopLt d x y => (0x2E, .s3 d.code x.code y.code 6 (immOf x y))
  | .fopLe d x y => (0x2E, .s3 d.code x.code y.code 7 (immOf x y))
  | .cvtsfIf d x r => (0x2F, .s3 d.code x.code 0 (0#4 ++ flag r ++ 0#1) x.imm16)
  | .cvtsfFi d x r => (0x2F, .s3 d.code x.code 0 (0#4 ++ flag r ++ 1#1) x.imm16)
  | .bc c x y off => (0x30, .br c.code x.code y.code off)
  | .j off => (0x31, .br 0 0 0 off)
  | .jr x off => (0x32, .br 0 x.code 0 off)
  | .call d off => (0x33, .br 0 d.code 0 off)
  | .ret x => (0x34, .br 0 x.code 0 0)
  | .loop k x off => (0x35, .br (0#5 ++ flag k) x.code 0 off)
  | .lpbrk k => (0x36, .br (0#5 ++ flag k) 0 0 0)
  | .ld d b slot arr sz sx na off => (0x40, .mem d.code b.code slot arr sz.code (0#1 ++ flag na ++ flag sx) off)
  | .st v b sz off => (0x41, .mem v.code b.code 0 0 sz.code 0 off)
  | .pref b sz off => (0x42, .mem 0 b.code 0 0 sz.code 0 off)
  | .cflush sc b sz off => (0x43, .mem 0 b.code 0 0 sz.code sc.code off)
  | .cinv sc b sz off => (0x44, .mem 0 b.code 0 0 sz.code sc.code off)
  | .strel sc v b sz off => (0x45, .mem v.code b.code 0 0 sz.code sc.code off)
  | .ldacq sc d b slot sz off => (0x46, .mem d.code b.code slot 0 sz.code sc.code off)
  | .aadd a => (0x50, .eng a.d.code a.b.code a.v.code 0 a.fn)
  | .aand a => (0x51, .eng a.d.code a.b.code a.v.code 0 a.fn)
  | .aor a => (0x52, .eng a.d.code a.b.code a.v.code 0 a.fn)
  | .axor a => (0x53, .eng a.d.code a.b.code a.v.code 0 a.fn)
  | .amin a => (0x54, .eng a.d.code a.b.code a.v.code 0 a.fn)
  | .amax a => (0x55, .eng a.d.code a.b.code a.v.code 0 a.fn)
  | .aminu a => (0x56, .eng a.d.code a.b.code a.v.code 0 a.fn)
  | .amaxu a => (0x57, .eng a.d.code a.b.code a.v.code 0 a.fn)
  | .axchg a => (0x58, .eng a.d.code a.b.code a.v.code 0 a.fn)
  | .acas a c => (0x59, .eng a.d.code a.b.code a.v.code c.code a.fn)
  | .afadd a => (0x5A, .eng a.d.code a.b.code a.v.code 0 a.fn)
  | .scadd d b idx src et rlen => (0x5B, .eng d.code b.code idx.code src.code (et.code ++ 0#2 ++ rlen))
  | .acqGe d o sc n => (0x60, .syn d.code o.code sc.code (0#20 ++ n ++ 0#2))
  | .acqNw d o sc => (0x60, .syn d.code o.code sc.code 1)
  | .acqX d o sc => (0x60, .syn d.code o.code sc.code 2)
  | .rel d o sc => (0x61, .syn d.code o.code sc.code 0)
  | .fence sc => (0x62, .syn 0 0 sc.code 0)
  | .waitcGe q x => (0x63, .syn x.code 0 0 (0#24 ++ q))
  | .waitcLe q x => (0x63, .syn x.code 0 0 (1#24 ++ q))
  | .tlwait tc x => (0x64, .syn x.code 0 0 (0#25 ++ tc))
  | .tlsig d tc sc => (0x65, .syn d.code 0 sc.code (0#25 ++ tc))
  | .bar sc mask => (0x66, .syn 0 0 sc.code (0#23 ++ mask))
  | .mbw mb x => (0x67, .syn x.code 0 0 (0#24 ++ mb))
  | .mbr d mb => (0x68, .syn d.code 0 0 (0#24 ++ mb))
  | .tagarm x y ct mulm1 => (0x69, .syn x.code y.code 0 (0#19 ++ ct.code ++ mulm1))
  | .tagsetFull x => (0x6A, .syn x.code 0 0 0)
  | .tagsetPoison x => (0x6A, .syn x.code 0 0 1)
  | .tagclr x => (0x6B, .syn x.code 0 0 0)
  | .tagwtNw d y => (0x6C, .syn d.code y.code 0 0)
  | .tagwtFull d y => (0x6C, .syn d.code y.code 0 1)
  | .tagwtEmpty d y => (0x6C, .syn d.code y.code 0 2)
  | .xfence sc => (0x6D, .syn 0 0 sc.code 0)
  | .push d o lo hi q => (0x70, .eng d.code o.code lo.code hi.code (q.fn7 ++ 0#7))
  | .popN d o lo hi q => (0x71, .eng d.code o.code lo.code hi.code (q.fn7 ++ 0#7))
  | .popW d o lo hi q => (0x71, .eng d.code o.code lo.code hi.code (q.fn7 ++ 0x40#7))
  | .qoctlEn d o => (0x72, .eng d.code o.code 0 0 0)
  | .qoctlDis d o => (0x72, .eng d.code o.code 0 0 1)
  | .qoctlCnt d o => (0x72, .eng d.code o.code 0 0 2)
  | .hld d x b slot sz arr => (0x74, .eng d.code x.code b.code (slot ++ sz.code) (arr ++ 0#4))
  | .hldQ q x b n => (0x74, .eng n.code x.code b.code (0#5 ++ q) 8)
  | .hpub x => (0x75, .eng 0 x.code 0 0 0)
  | .hwait x => (0x76, .eng 0 x.code 0 0 0)
  | .hwaitAll x => (0x76, .eng 0 x.code 0 0 1)
  | .gridctlJoin x => (0x77, .eng 0 x.code 0 0 0)
  | .gridctlLeave x => (0x77, .eng 0 x.code 0 0 1)
  | .gridctlStat d x => (0x77, .eng d.code x.code 0 0 2)
  | .gridctlStatMs d x slot => (0x77, .eng d.code x.code slot.code 0 6)
  | .qld q b stride n => (0x80, .eng b.code stride.code n.code 0 (0#11 ++ q))
  | .qldx q b stride list n => (0x81, .eng b.code stride.code list.code n.code (0#11 ++ q))
  | .tget tc d src g n => (0x82, .eng d.code src.code g.code n.code (0#12 ++ tc))
  | .tsend sc kind taddr g n ck cx => (0x83, .eng taddr.code g.code n.code 0 (sc.code ++ kind.code ++ flag ck ++ flag cx ++ 0#7))
  | .tsto d r n stride ck cx => (0x84, .eng d.code r.code n.code stride.code (0#5 ++ flag ck ++ flag cx ++ 0#7))
  | .bld tc d src geom cstride => (0x85, .eng d.code src.code geom.code cstride.code (0#12 ++ tc))
  | .qflush q => (0x86, .eng 0 0 0 0 (0#11 ++ q))
  | .cpseq lv n =>
    match n with
    | .reg r => (0x90, .eng r.code 0 0 0 (0#11 ++ lv))
    | .hl h => (0x90, .eng 0 0 0 0 (0#6 ++ h ++ 1#1 ++ lv))
  | .cpseqClr => (0x90, .eng 0 0 0 0 0x2000)
  | .cpsrcBase x => (0x91, .eng x.code 0 0 0 0)
  | .cpsrcStride lv x => (0x91, .eng x.code 0 0 0 (0#9 ++ 1#2 ++ lv))
  | .cpsrcWin lv x y => (0x91, .eng x.code y.code 0 0 (0#9 ++ 2#2 ++ lv))
  | .cpdstBase x => (0x92, .eng x.code 0 0 0 0)
  | .cpdstBaseTile x => (0x92, .eng x.code 0 0 0 0x20)
  | .cpdstStride lv x => (0x92, .eng x.code 0 0 0 (0#9 ++ 1#2 ++ lv))
  | .cpdstWin lv x y => (0x92, .eng x.code y.code 0 0 (0#9 ++ 2#2 ++ lv))
  | .cpidx lv list nrow => (0x93, .eng list.code nrow.code 0 0 (0#11 ++ lv))
  | .cpidxOff => (0x93, .eng 0 0 0 0 8)
  | .cpswz x => (0x94, .eng x.code 0 0 0 0)
  | .cpgo d tc esz sc => (0x95, .eng d.code 0 0 0 (0#6 ++ sc.code ++ esz ++ tc))
  | .cpstat d tc x => (0x96, .eng d.code x.code 0 0 (0#12 ++ tc))
  | .lookup mode nf d h tc list args taddr => (0xA0, .eng d.code list.code args.code taddr.code (0#5 ++ flag nf ++ mode.code ++ tc ++ h))
  | .lkstat d tc x => (0xA1, .eng d.code x.code 0 0 (0#8 ++ tc ++ 0#4))
  | .update nf d h tc list grad n => (0xA2, .eng d.code list.code grad.code n.code (0#5 ++ flag nf ++ 0#2 ++ tc ++ h))
  | .replayAcc d h tc r0 nr => (0xA3, .eng d.code r0.code nr.code 0 (0#6 ++ 0#2 ++ tc ++ h))
  | .replaySgd d h tc r0 nr => (0xA3, .eng d.code r0.code nr.code 0 (0#6 ++ 1#2 ++ tc ++ h))
  | .replayAdag d h tc r0 nr => (0xA3, .eng d.code r0.code nr.code 0 (0#6 ++ 2#2 ++ tc ++ h))
  | .skctlWr g x => (0xA4, .eng 0 x.code 0 0 (0#10 ++ g))
  | .skctlRd d g => (0xA4, .eng d.code 0 0 0 (4#10 ++ g))
  | .skctlEst d h x => (0xA4, .eng d.code x.code 0 0 (8#10 ++ h))
  | .hrctlFlush d h tc => (0xA5, .eng d.code 0 0 0 (0#8 ++ tc ++ h))
  | .hrctlDetach d h tc => (0xA5, .eng d.code 0 0 0 (1#8 ++ tc ++ h))
  | .a2a mode nf d tc rec taddr => (0xA6, .eng d.code rec.code taddr.code 0 (0#5 ++ flag nf ++ mode.code ++ tc ++ 0#4))
  | .vadd v => (0xB0, v.fmt)
  | .vsub v => (0xB1, v.fmt)
  | .vmul v => (0xB2, v.fmt)
  | .vfma v => (0xB3, v.fmt)
  | .vmin v => (0xB4, v.fmt)
  | .vmax v => (0xB5, v.fmt)
  | .vand v => (0xB8, v.fmt)
  | .vor v => (0xB9, v.fmt)
  | .vxor v => (0xBA, v.fmt)
  | .vshl v => (0xBC, v.fmt)
  | .vshr v => (0xBD, v.fmt)
  | .vsar v => (0xBE, v.fmt)
  | .vcmp v => (0xBF, v.fmt)
  | .vsel v => (0xC0, v.fmt)
  | .vperm v => (0xCE, v.fmt)
  | .vclmp v => (0xD1, v.fmt)
  | .vsprs v => (0xD7, v.fmt)
  | .vscale v => (0xD8, v.fmt)
  | .vabs v => (0xB6, v.fmt 0)
  | .vneg v => (0xB7, v.fmt 0)
  | .vnot v => (0xBB, v.fmt 0)
  | .vexp2 v => (0xC8, v.fmt 0)
  | .vlog2 v => (0xC9, v.fmt 0)
  | .vrcp v => (0xCA, v.fmt 0)
  | .vrsq v => (0xCB, v.fmt 0)
  | .vscan v => (0xD2, v.fmt 0)
  | .vcvt v src r => (0xC1, v.fmt (src.code ++ flag r ++ 0#8))
  | .vqnt v src r s => (0xC2, v.fmt (src.code ++ flag r ++ s.code))
  | .vdqn v src r s => (0xC3, v.fmt (src.code ++ flag r ++ s.code))
  | .vrsum v => (0xC4, v.fmt 0)
  | .vrmax v => (0xC5, v.fmt 0)
  | .vrmin v => (0xC6, v.fmt 0)
  | .vdot v y => (0xC7, v.fmt y)
  | .vact v t => (0xCC, v.fmt (t ++ 0#6))
  | .vbcst v s => (0xCD, v.fmt (0#4 ++ s.code))
  | .vshufRot v a => (0xCF, v.fmt (0#5 ++ a))
  | .vshufRev v => (0xCF, v.fmt (1#4 ++ 0#8))
  | .vshufUnzip v => (0xCF, v.fmt (2#4 ++ 0#8))
  | .vshufZip v => (0xCF, v.fmt (3#4 ++ 0#8))
  | .vmovsIns d e s ty => (0xD0, .vec d (0#5 ++ e) (0#4 ++ s.code) ty.code 0 0)
  | .vmovsExt d x e ty ck cx => (0xD0, .vec (0#4 ++ d.code) x (1#1 ++ 0#4 ++ e) ty.code 0 (flag ck ++ flag cx ++ 0#2))
  | .vpop d run q => (0xD3, .vec d 0 (0#9 ++ q) 0 run 0)
  | .vmask v s => (0xD4, v.fmt (0#4 ++ s.code))
  | .vzero d run => (0xD5, .vec d 0 0 0 run 0)
  | .vidx v s => (0xD6, v.fmt (0#4 ++ s.code))
  | .xnest lv k n sa sb sov =>
    match n with
    | .reg r => (0xE0, .eng r.code sa.code sb.code sov.code (0#10 ++ flag k ++ lv))
    | .hl h => (0xE0, .eng 0 sa.code sb.code sov.code (0#5 ++ h ++ 1#1 ++ flag k ++ lv))
  | .xnestClr => (0xE0, .eng 0 0 0 0 0x2000)
  | .xlrRd d hl => (0xE1, .eng d.code 0 0 0 (0#10 ++ hl))
  | .xlrWr hl x => (0xE1, .eng 0 x.code 0 0 (1#10 ++ hl))
  | .xlrPos d => (0xE1, .eng d.code 0 0 0 0x20)
  | .xopsA x => (0xE2, .eng x.code 0 0 0 0)
  | .xopsB x => (0xE2, .eng x.code 0 0 0 1)
  | .xpost x => (0xE3, .eng x.code 0 0 0 0)
  | .xspm x => (0xE4, .eng x.code 0 0 0 0)
  | .xmask x => (0xE5, .eng x.code 0 0 0 0)
  | .xgo acc cont out stg msk => (0xE6, .eng 0 0 0 0 (0#5 ++ flag msk ++ stg.code ++ flag out ++ flag cont ++ acc))
  | .xwait => (0xE7, .eng 0 0 0 0 0)
  | .xaccClr acc => (0xE8, .eng 0 0 0 0 (0#9 ++ acc ++ 0#3))
  | .xaccSt acc t => (0xE8, .eng 0 t.code 0 0 (0#9 ++ acc ++ 1#3))
  | .xaccLd acc t ck cx => (0xE8, .eng 0 t.code 0 0 (0#1 ++ flag cx ++ flag ck ++ 0#6 ++ acc ++ 2#3))
  | .xaccLdp acc t ck cx => (0xE8, .eng 0 t.code 0 0 (0#1 ++ flag cx ++ flag ck ++ 0#6 ++ acc ++ 3#3))
  | .xaccAdd acc src => (0xE8, .eng 0 0 0 0 (0#7 ++ src ++ acc ++ 4#3))
  | .xaccPost acc stg => (0xE8, .eng 0 0 0 0 (0#3 ++ stg.code ++ 0#2 ++ acc ++ 5#3))
  | .sealTensor d h x => (0xE9, .eng d.code x.code 0 0 (0#8 ++ 0#2 ++ h))
  | .sealTable d h x => (0xE9, .eng d.code x.code 0 0 (0#8 ++ 1#2 ++ h))
  | .sealGrid d h x => (0xE9, .eng d.code x.code 0 0 (0#8 ++ 2#2 ++ h))
  | .unsealHandle h => (0xEA, .eng 0 0 0 0 (0#10 ++ h))
  | .hmov d hd hs => (0xEB, .eng d.code 0 0 0 (0#6 ++ hs ++ hd))
  | .hmovMem d hd hs x => (0xEB, .eng d.code x.code 0 0 (1#6 ++ hs ++ hd))
  | _ => (0xFF, .s3 0xFF 0xFF 0xFF 0x3F 0xFFFF)

/-- The word of an instruction with its IDLE (R167, R168). -/
def encode (idle : BitVec 10) (i : Instr) : BitVec 64 := idle ++ i.fields.1 ++ i.fields.2.body

/-! ### The decoder -/

/-- IDLE of a word (R168). -/
def wordIdle (w : BitVec 64) : BitVec 10 := w.extractLsb' 54 10

/-- OP of a word. -/
def wordOp (w : BitVec 64) : BitVec 8 := w.extractLsb' 46 8

/-- Bits [45:0] read as S3. -/
def readS3 (b : BitVec 46) : Fmt :=
  .s3 (b.extractLsb' 38 8) (b.extractLsb' 30 8) (b.extractLsb' 22 8) (b.extractLsb' 16 6) (b.extractLsb' 0 16)

/-- Bits [45:0] read as SI. -/
def readSi (b : BitVec 46) : Fmt := .si (b.extractLsb' 38 8) (b.extractLsb' 32 6) (b.extractLsb' 0 32)

/-- Bits [45:0] read as BR. -/
def readBr (b : BitVec 46) : Fmt :=
  .br (b.extractLsb' 40 6) (b.extractLsb' 32 8) (b.extractLsb' 24 8) (b.extractLsb' 0 24)

/-- Bits [45:0] read as MEM. -/
def readMem (b : BitVec 46) : Fmt :=
  .mem (b.extractLsb' 38 8) (b.extractLsb' 30 8) (b.extractLsb' 25 5) (b.extractLsb' 15 10) (b.extractLsb' 12 3)
    (b.extractLsb' 9 3) (b.extractLsb' 0 9)

/-- Bits [45:0] read as VEC. -/
def readVec (b : BitVec 46) : Fmt :=
  .vec (b.extractLsb' 34 12) (b.extractLsb' 22 12) (b.extractLsb' 10 12) (b.extractLsb' 7 3) (b.extractLsb' 4 3)
    (b.extractLsb' 0 4)

/-- Bits [45:0] read as ENG. -/
def readEng (b : BitVec 46) : Fmt :=
  .eng (b.extractLsb' 38 8) (b.extractLsb' 30 8) (b.extractLsb' 22 8) (b.extractLsb' 14 8) (b.extractLsb' 0 14)

/-- Bits [45:0] read as SYN. -/
def readSyn (b : BitVec 46) : Fmt :=
  .syn (b.extractLsb' 38 8) (b.extractLsb' 30 8) (b.extractLsb' 27 3) (b.extractLsb' 0 27)

/-- The format of an opcode (R177); none for a reserved code (R176). -/
def opFormat (op : Nat) : Option (BitVec 46 → Fmt) :=
  if op ≤ 0x09 then some readS3
  else if op < 0x10 then none
  else if op ≤ 0x26 then some readS3
  else if op ≤ 0x28 then some readSi
  else if op ≤ 0x2F then some readS3
  else if op ≤ 0x36 then some readBr
  else if op < 0x40 then none
  else if op ≤ 0x46 then some readMem
  else if op < 0x50 then none
  else if op ≤ 0x5B then some readEng
  else if op < 0x60 then none
  else if op ≤ 0x6D then some readSyn
  else if op < 0x70 then none
  else if op ≤ 0x72 then some readEng
  else if op < 0x74 then none
  else if op ≤ 0x77 then some readEng
  else if op < 0x80 then none
  else if op ≤ 0x86 then some readEng
  else if op < 0x90 then none
  else if op ≤ 0x96 then some readEng
  else if op < 0xA0 then none
  else if op ≤ 0xA6 then some readEng
  else if op < 0xB0 then none
  else if op ≤ 0xD8 then some readVec
  else if op < 0xE0 then none
  else if op ≤ 0xEB then some readEng
  else none

/-- The three-operand scalar words of R231 and R232. -/
def readAlu (op : Nat) : Option (Dst → Src → Src → Instr) :=
  match op with
  | 0x10 => some .add | 0x11 => some .sub | 0x12 => some .mul | 0x13 => some .mulh | 0x14 => some .mulhu
  | 0x15 => some .div | 0x16 => some .divu | 0x17 => some .rem | 0x18 => some .remu
  | 0x19 => some .and | 0x1A => some .or | 0x1B => some .xor
  | 0x1C => some .shl | 0x1D => some .shr | 0x1E => some .sar
  | 0x1F => some .min | 0x20 => some .max | 0x21 => some .minu | 0x22 => some .maxu
  | 0x23 => some .slt | 0x24 => some .sltu | 0x25 => some .seq
  | _ => none

/-- System and scalar words (S3). -/
def readS3Word (op : Nat) (d x y : BitVec 8) (fn : BitVec 6) (imm : BitVec 16) : Option Instr := do
  match op with
  | 0x00 => return .nop
  | 0x01 => return .go
  | 0x02 => return .halt
  | 0x03 => return .trap (← Src.ofCode imm x)
  | 0x04 => return .eret
  | 0x05 => return .csrr (← Dst.ofCode d) (← Csr.ofNum imm)
  | 0x06 => return .csrw (← Csr.ofNum imm) (← Reg.ofCode x)
  | 0x07 => return if fn.getLsbD 0 then .idemEnd else .idem
  | 0x08 => return .brk imm
  | 0x09 => return .done
  | 0x26 => return .sel (← Dst.ofCode d) (fn.extractLsb' 0 5) (← Src.ofCode imm x) (← Src.ofCode imm y)
  | 0x29 => return .clz (← Dst.ofCode d) (← Src.ofCode imm x)
  | 0x2A => return .popc (← Dst.ofCode d) (← Src.ofCode imm x)
  | 0x2B =>
    if fn.getLsbD 0 then
      return .bextS (← Dst.ofCode d) (← Reg.ofCode x) (imm.extractLsb' 0 6) (imm.extractLsb' 6 7)
    else
      return .bext (← Dst.ofCode d) (← Reg.ofCode x) (imm.extractLsb' 0 6) (imm.extractLsb' 6 7)
  | 0x2C => return .bins (← Dst.ofCode d) (← Reg.ofCode x) (imm.extractLsb' 0 6) (imm.extractLsb' 6 7)
  | 0x2D => return .madd (← Dst.ofCode d) (← Src.ofCode imm x) (← Src.ofCode imm y) (fn.extractLsb' 0 5)
  | 0x2E =>
    let d ← Dst.ofCode d
    let x ← Src.ofCode imm x
    let y ← Src.ofCode imm y
    let r := fn.getLsbD 3
    match (fn.extractLsb' 0 3).toNat with
    | 0 => return .fopAdd d x y r
    | 1 => return .fopSub d x y r
    | 2 => return .fopMul d x y r
    | 3 => return .fopMin d x y
    | 4 => return .fopMax d x y
    | 5 => return .fopEq d x y
    | 6 => return .fopLt d x y
    | _ => return .fopLe d x y
  | 0x2F =>
    let d ← Dst.ofCode d
    let x ← Src.ofCode imm x
    if fn.getLsbD 0 then return .cvtsfFi d x (fn.getLsbD 1) else return .cvtsfIf d x (fn.getLsbD 1)
  | _ =>
    let f ← readAlu op
    return f (← Dst.ofCode d) (← Src.ofCode imm x) (← Src.ofCode imm y)

/-- LI and LIH. -/
def readSiWord (op : Nat) (d : BitVec 8) (imm : BitVec 32) : Option Instr := do
  match op with
  | 0x27 => return .li (← Dst.ofCode d) imm
  | 0x28 => return .lih (← Dst.ofCode d) imm
  | _ => none

/-- Control words (R238 to R241). -/
def readBrWord (op : Nat) (cond : BitVec 6) (x y : BitVec 8) (off : BitVec 24) : Option Instr := do
  match op with
  | 0x30 => return .bc (← Cond.ofCode cond) (← Reg.ofCode x) (← Reg.ofCode y) off
  | 0x31 => return .j off
  | 0x32 => return .jr (← Reg.ofCode x) off
  | 0x33 => return .call (← Dst.ofCode x) off
  | 0x34 => return .ret (← Reg.ofCode x)
  | 0x35 => return .loop (cond.getLsbD 0) (← Reg.ofCode x) off
  | 0x36 => return .lpbrk (cond.getLsbD 0)
  | _ => none

/-- Memory words (R242). -/
def readMemWord (op : Nat) (v base : BitVec 8) (slot : BitVec 5) (arr : BitVec 10) (size osc : BitVec 3)
    (off : BitVec 9) : Option Instr := do
  let b ← Reg.ofCode base
  let sz ← Size.ofCode size
  match op with
  | 0x40 => return .ld (← Dst.ofCode v) b slot arr sz (osc.getLsbD 0) (osc.getLsbD 1) off
  | 0x41 => return .st (← Reg.ofCode v) b sz off
  | 0x42 => return .pref b sz off
  | 0x43 => return .cflush (← Scope.ofCode osc) b sz off
  | 0x44 => return .cinv (← Scope.ofCode osc) b sz off
  | 0x45 => return .strel (← Scope.ofCode osc) (← Reg.ofCode v) b sz off
  | 0x46 => return .ldacq (← Scope.ofCode osc) (← Dst.ofCode v) b slot sz off
  | _ => none

/-- The atomics without a comparand (R253). -/
def readAtom (op : Nat) : Option (AtomArgs → Instr) :=
  match op with
  | 0x50 => some .aadd | 0x51 => some .aand | 0x52 => some .aor | 0x53 => some .axor | 0x54 => some .amin
  | 0x55 => some .amax | 0x56 => some .aminu | 0x57 => some .amaxu | 0x58 => some .axchg | 0x5A => some .afadd
  | _ => none

/-- Atomics and SCADD (R252, R257). -/
def readAtomWord (op : Nat) (a b c d : BitVec 8) (fn : BitVec 14) : Option Instr := do
  if op = 0x5B then
    return .scadd (← FileReg.ofCode a) (← Reg.ofCode b) (← Reg.ofCode c) (← Reg.ofCode d)
      (← ScType.ofCode (fn.extractLsb' 12 2)) (fn.extractLsb' 0 10)
  else
    let args : AtomArgs :=
      ⟨← Dst.ofCode a, ← Reg.ofCode b, ← Reg.ofCode c, ← AOrd.ofCode (fn.extractLsb' 9 5), fn.getLsbD 8⟩
    if op = 0x59 then return .acas args (← Reg.ofCode d)
    else
      let f ← readAtom op
      return f args

/-- Synchronisation words (R258). -/
def readSynWord (op : Nat) (x y : BitVec 8) (scope : BitVec 3) (fn : BitVec 27) : Option Instr := do
  let sc ← Scope.ofCode scope
  match op with
  | 0x60 =>
    let d ← Dst.ofCode x
    let o ← Reg.ofCode y
    match (fn.extractLsb' 0 2).toNat with
    | 0 => return .acqGe d o sc (fn.extractLsb' 2 5)
    | 1 => return .acqNw d o sc
    | 2 => return .acqX d o sc
    | _ => none
  | 0x61 => return .rel (← Dst.ofCode x) (← Reg.ofCode y) sc
  | 0x62 => return .fence sc
  | 0x63 =>
    if fn.getLsbD 3 then return .waitcLe (fn.extractLsb' 0 3) (← Reg.ofCode x)
    else return .waitcGe (fn.extractLsb' 0 3) (← Reg.ofCode x)
  | 0x64 => return .tlwait (fn.extractLsb' 0 2) (← Reg.ofCode x)
  | 0x65 => return .tlsig (← Dst.ofCode x) (fn.extractLsb' 0 2) sc
  | 0x66 => return .bar sc (fn.extractLsb' 0 4)
  | 0x67 => return .mbw (fn.extractLsb' 0 3) (← Reg.ofCode x)
  | 0x68 => return .mbr (← Dst.ofCode x) (fn.extractLsb' 0 3)
  | 0x69 => return .tagarm (← Reg.ofCode x) (← Reg.ofCode y) (← CType.ofCode (fn.extractLsb' 6 2)) (fn.extractLsb' 0 6)
  | 0x6A => if fn.getLsbD 0 then return .tagsetPoison (← Reg.ofCode x) else return .tagsetFull (← Reg.ofCode x)
  | 0x6B => return .tagclr (← Reg.ofCode x)
  | 0x6C =>
    let d ← Dst.ofCode x
    let y ← Reg.ofCode y
    match (fn.extractLsb' 0 2).toNat with
    | 0 => return .tagwtNw d y
    | 1 => return .tagwtFull d y
    | 2 => return .tagwtEmpty d y
    | _ => none
  | 0x6D => return .xfence sc
  | _ => none

/-- Queue-object and grid words (R343, R345 to R347). -/
def readObjWord (op : Nat) (a b c d : BitVec 8) (fn : BitVec 14) : Option Instr := do
  match op with
  | 0x70 => return .push (← Dst.ofCode a) (← Reg.ofCode b) (← Reg.ofCode c) (← Reg.ofCode d) (← QArgs.ofFn fn)
  | 0x71 =>
    let s ← Dst.ofCode a
    let o ← Reg.ofCode b
    let lo ← Dst.ofCode c
    let hi ← Dst.ofCode d
    let q ← QArgs.ofFn fn
    if fn.getLsbD 6 then return .popW s o lo hi q else return .popN s o lo hi q
  | 0x72 =>
    let s ← Dst.ofCode a
    let o ← Reg.ofCode b
    match (fn.extractLsb' 0 2).toNat with
    | 0 => return .qoctlEn s o
    | 1 => return .qoctlDis s o
    | 2 => return .qoctlCnt s o
    | _ => none
  | 0x74 =>
    let x ← Reg.ofCode b
    let off ← Reg.ofCode c
    if fn.getLsbD 3 then return .hldQ (d.extractLsb' 0 3) x off (← Reg.ofCode a)
    else return .hld (← Dst.ofCode a) x off (d.extractLsb' 3 5) (← Size.ofCode (d.extractLsb' 0 3)) (fn.extractLsb' 4 10)
  | 0x75 => return .hpub (← Reg.ofCode b)
  | 0x76 => if fn.getLsbD 0 then return .hwaitAll (← Reg.ofCode b) else return .hwait (← Reg.ofCode b)
  | 0x77 =>
    let x ← Reg.ofCode b
    match (fn.extractLsb' 0 3).toNat with
    | 0 => return .gridctlJoin x
    | 1 => return .gridctlLeave x
    | 2 => return .gridctlStat (← Dst.ofCode a) x
    | 6 => return .gridctlStatMs (← Dst.ofCode a) x (← Reg.ofCode c)
    | _ => none
  | _ => none

/-- Access and copy words (R325 to R342). -/
def readAccessWord (op : Nat) (a b c d : BitVec 8) (fn : BitVec 14) : Option Instr := do
  let tc := fn.extractLsb' 0 2
  let lv := fn.extractLsb' 0 3
  match op with
  | 0x80 => return .qld lv (← Reg.ofCode a) (← Reg.ofCode b) (← Reg.ofCode c)
  | 0x81 => return .qldx lv (← Reg.ofCode a) (← Reg.ofCode b) (← Reg.ofCode c) (← Reg.ofCode d)
  | 0x82 => return .tget tc (← Dst.ofCode a) (← Reg.ofCode b) (← Reg.ofCode c) (← Reg.ofCode d)
  | 0x83 =>
    return .tsend (← Scope.ofCode (fn.extractLsb' 11 3)) (← CType.ofCode (fn.extractLsb' 9 2)) (← Reg.ofCode a)
      (← Reg.ofCode b) (← Reg.ofCode c) (fn.getLsbD 8) (fn.getLsbD 7)
  | 0x84 =>
    return .tsto (← Reg.ofCode a) (← Reg.ofCode b) (← Reg.ofCode c) (← Reg.ofCode d) (fn.getLsbD 8) (fn.getLsbD 7)
  | 0x85 => return .bld tc (← Dst.ofCode a) (← Reg.ofCode b) (← Reg.ofCode c) (← Reg.ofCode d)
  | 0x86 => return .qflush lv
  | 0x90 =>
    if fn.getLsbD 13 then return .cpseqClr
    else if fn.getLsbD 3 then return .cpseq lv (.hl (fn.extractLsb' 4 4))
    else return .cpseq lv (.reg (← Reg.ofCode a))
  | 0x91 =>
    let x ← Reg.ofCode a
    match (fn.extractLsb' 3 2).toNat with
    | 0 => return .cpsrcBase x
    | 1 => return .cpsrcStride lv x
    | 2 => return .cpsrcWin lv x (← Reg.ofCode b)
    | _ => none
  | 0x92 =>
    let x ← Reg.ofCode a
    match (fn.extractLsb' 3 2).toNat with
    | 0 => return if fn.getLsbD 5 then .cpdstBaseTile x else .cpdstBase x
    | 1 => return .cpdstStride lv x
    | 2 => return .cpdstWin lv x (← Reg.ofCode b)
    | _ => none
  | 0x93 => if fn.getLsbD 3 then return .cpidxOff else return .cpidx lv (← Reg.ofCode a) (← Reg.ofCode b)
  | 0x94 => return .cpswz (← Reg.ofCode a)
  | 0x95 => return .cpgo (← Dst.ofCode a) tc (fn.extractLsb' 2 3) (← Scope.ofCode (fn.extractLsb' 5 3))
  | 0x96 => return .cpstat (← Dst.ofCode a) tc (← Reg.ofCode b)
  | _ => none

/-- Embedding words (R351). -/
def readEmbWord (op : Nat) (a b c d : BitVec 8) (fn : BitVec 14) : Option Instr := do
  let h := fn.extractLsb' 0 4
  let tc := fn.extractLsb' 4 2
  let sel := fn.extractLsb' 6 2
  match op with
  | 0xA0 =>
    return .lookup (Pool.ofCode sel) (fn.getLsbD 8) (← Dst.ofCode a) h tc (← Reg.ofCode b) (← Reg.ofCode c)
      (← Reg.ofCode d)
  | 0xA1 => return .lkstat (← Dst.ofCode a) tc (← Reg.ofCode b)
  | 0xA2 =>
    return .update (fn.getLsbD 8) (← Dst.ofCode a) h tc (← Reg.ofCode b) (← Reg.ofCode c) (← Reg.ofCode d)
  | 0xA3 =>
    let n ← Dst.ofCode a
    let r0 ← Reg.ofCode b
    let nr ← Reg.ofCode c
    match sel.toNat with
    | 0 => return .replayAcc n h tc r0 nr
    | 1 => return .replaySgd n h tc r0 nr
    | 2 => return .replayAdag n h tc r0 nr
    | _ => none
  | 0xA4 =>
    match sel.toNat with
    | 0 => return .skctlWr h (← Reg.ofCode b)
    | 1 => return .skctlRd (← Dst.ofCode a) h
    | 2 => return .skctlEst (← Dst.ofCode a) h (← Reg.ofCode b)
    | _ => none
  | 0xA5 =>
    match sel.toNat with
    | 0 => return .hrctlFlush (← Dst.ofCode a) h tc
    | 1 => return .hrctlDetach (← Dst.ofCode a) h tc
    | _ => none
  | 0xA6 => return .a2a (Pool.ofCode sel) (fn.getLsbD 8) (← Dst.ofCode a) tc (← Reg.ofCode b) (← Reg.ofCode c)
  | _ => none

/-- The vector words of forms B and B3. -/
def readVec3 (op : Nat) : Option (VArgs3 → Instr) :=
  match op with
  | 0xB0 => some .vadd | 0xB1 => some .vsub | 0xB2 => some .vmul | 0xB3 => some .vfma | 0xB4 => some .vmin
  | 0xB5 => some .vmax | 0xB8 => some .vand | 0xB9 => some .vor | 0xBA => some .vxor | 0xBC => some .vshl
  | 0xBD => some .vshr | 0xBE => some .vsar | 0xBF => some .vcmp | 0xC0 => some .vsel | 0xCE => some .vperm
  | 0xD1 => some .vclmp | 0xD7 => some .vsprs | 0xD8 => some .vscale
  | _ => none

/-- The vector words of form U without a function field. -/
def readVec2 (op : Nat) : Option (VArgs2 → Instr) :=
  match op with
  | 0xB6 => some .vabs | 0xB7 => some .vneg | 0xBB => some .vnot | 0xC8 => some .vexp2 | 0xC9 => some .vlog2
  | 0xCA => some .vrcp | 0xCB => some .vrsq | 0xD2 => some .vscan
  | _ => none

/-- Vector words (R273). -/
def readVecWord (op : Nat) (d x y : BitVec 12) (type run : BitVec 3) (mod : BitVec 4) : Option Instr := do
  let ty := VType.ofCode type
  let m := VMod.ofCode mod
  let v2 : VArgs2 := ⟨d, x, ty, run, m⟩
  let v1 : VArgs1 := ⟨d, ty, run, m⟩
  let src := VType.ofCode (y.extractLsb' 9 3)
  let low := y.extractLsb' 0 8
  match op with
  | 0xC1 => return .vcvt v2 src (y.getLsbD 8)
  | 0xC2 => return .vqnt v2 src (y.getLsbD 8) (← Reg.ofCode low)
  | 0xC3 => return .vdqn v2 src (y.getLsbD 8) (← Reg.ofCode low)
  | 0xC4 => return .vrsum ⟨d.extractLsb' 8 4, ← Dst.ofCode (d.extractLsb' 0 8), x, ty, run, m⟩
  | 0xC5 => return .vrmax ⟨d.extractLsb' 8 4, ← Dst.ofCode (d.extractLsb' 0 8), x, ty, run, m⟩
  | 0xC6 => return .vrmin ⟨d.extractLsb' 8 4, ← Dst.ofCode (d.extractLsb' 0 8), x, ty, run, m⟩
  | 0xC7 => return .vdot ⟨d.extractLsb' 8 4, ← Dst.ofCode (d.extractLsb' 0 8), x, ty, run, m⟩ y
  | 0xCC => return .vact v2 (y.extractLsb' 6 6)
  | 0xCD => return .vbcst v1 (← Reg.ofCode low)
  | 0xCF =>
    match (y.extractLsb' 8 4).toNat with
    | 0 => return .vshufRot v2 (y.extractLsb' 0 7)
    | 1 => return .vshufRev v2
    | 2 => return .vshufUnzip v2
    | 3 => return .vshufZip v2
    | _ => none
  | 0xD0 =>
    if y.getLsbD 11 then
      return .vmovsExt (← Dst.ofCode (d.extractLsb' 0 8)) x (y.extractLsb' 0 7) ty m.ck m.cx
    else return .vmovsIns d (x.extractLsb' 0 7) (← Reg.ofCode low) ty
  | 0xD3 => return .vpop d run (y.extractLsb' 0 3)
  | 0xD4 => return .vmask v1 (← Reg.ofCode low)
  | 0xD5 => return .vzero d run
  | 0xD6 => return .vidx v1 (← Reg.ofCode low)
  | _ =>
    match readVec3 op, readVec2 op with
    | some f, _ => return f ⟨d, x, y, ty, run, m⟩
    | none, some f => return f v2
    | none, none => none

/-- Matrix words (R292). -/
def readMatWord (op : Nat) (a b c d : BitVec 8) (fn : BitVec 14) : Option Instr := do
  let h := fn.extractLsb' 0 4
  match op with
  | 0xE0 =>
    if fn.getLsbD 13 then return .xnestClr
    else
      let n ← if fn.getLsbD 4 then some (Count.hl (fn.extractLsb' 5 4)) else (Reg.ofCode a).map Count.reg
      return .xnest (fn.extractLsb' 0 3) (fn.getLsbD 3) n (← Reg.ofCode b) (← Reg.ofCode c) (← Reg.ofCode d)
  | 0xE1 =>
    match (fn.extractLsb' 4 2).toNat with
    | 0 => return .xlrRd (← Dst.ofCode a) h
    | 1 => return .xlrWr h (← Reg.ofCode b)
    | 2 => return .xlrPos (← Dst.ofCode a)
    | _ => none
  | 0xE2 => if fn.getLsbD 0 then return .xopsB (← Reg.ofCode a) else return .xopsA (← Reg.ofCode a)
  | 0xE3 => return .xpost (← Reg.ofCode a)
  | 0xE4 => return .xspm (← Reg.ofCode a)
  | 0xE5 => return .xmask (← Reg.ofCode a)
  | 0xE6 =>
    return .xgo (fn.extractLsb' 0 2) (fn.getLsbD 2) (fn.getLsbD 3) (Stages.ofCode (fn.extractLsb' 4 4)) (fn.getLsbD 8)
  | 0xE7 => return .xwait
  | 0xE8 =>
    let acc := fn.extractLsb' 3 2
    match (fn.extractLsb' 0 3).toNat with
    | 0 => return .xaccClr acc
    | 1 => return .xaccSt acc (← Reg.ofCode b)
    | 2 => return .xaccLd acc (← Reg.ofCode b) (fn.getLsbD 11) (fn.getLsbD 12)
    | 3 => return .xaccLdp acc (← Reg.ofCode b) (fn.getLsbD 11) (fn.getLsbD 12)
    | 4 => return .xaccAdd acc (fn.extractLsb' 5 2)
    | 5 => return .xaccPost acc (Stages.ofCode (fn.extractLsb' 7 4))
    | _ => none
  | 0xE9 =>
    match (fn.extractLsb' 4 2).toNat with
    | 0 => return .sealTensor (← Dst.ofCode a) h (← Reg.ofCode b)
    | 1 => return .sealTable (← Dst.ofCode a) h (← Reg.ofCode b)
    | 2 => return .sealGrid (← Dst.ofCode a) h (← Reg.ofCode b)
    | _ => none
  | 0xEA => return .unsealHandle h
  | 0xEB =>
    if fn.getLsbD 8 then return .hmovMem (← Dst.ofCode a) h (fn.extractLsb' 4 4) (← Reg.ofCode b)
    else return .hmov (← Dst.ofCode a) h (fn.extractLsb' 4 4)
  | _ => none

/-- The fields an opcode's entry names, without the checks of R178. -/
def readFields (op : Nat) : Fmt → Option Instr
  | .s3 d x y fn imm => readS3Word op d x y fn imm
  | .si d _ imm => readSiWord op d imm
  | .br cond x y off => readBrWord op cond x y off
  | .mem v base slot arr size osc off => readMemWord op v base slot arr size osc off
  | .vec d x y type run mod => readVecWord op d x y type run mod
  | .syn x y scope fn => readSynWord op x y scope fn
  | .eng a b c d fn =>
    if op < 0x60 then readAtomWord op a b c d fn
    else if op < 0x80 then readObjWord op a b c d fn
    else if op < 0xA0 then readAccessWord op a b c d fn
    else if op < 0xE0 then readEmbWord op a b c d fn
    else readMatWord op a b c d fn

/-- The decoder (R176 to R180): the instruction of a word, or why it is none. -/
def decode (w : BitVec 64) : Except Reject Instr :=
  match opFormat (wordOp w).toNat with
  | none => .error .reservedOpcode
  | some read =>
    match readFields (wordOp w).toNat (read (w.extractLsb' 0 46)) with
    | none => .error .reservedEncoding
    | some i => if i.wf && encode (wordIdle w) i == w then .ok i else .error .reservedEncoding

/-- Little-endian value of bytes (R167). -/
def leNat : List Byte → Nat
  | [] => 0
  | b :: bs => b.toNat + 256 * leNat bs

/-- The `n` low bytes of a value, little-endian. -/
def leBytes : Nat → Nat → List Byte
  | 0, _ => []
  | n + 1, v => BitVec.ofNat 8 v :: leBytes n (v / 256)

/-- The word in eight bytes of memory. -/
def wordOfBytes (bs : List Byte) : BitVec 64 := BitVec.ofNat 64 (leNat (bs.take 8))

/-- The bytes of a word in memory, lowest address first. -/
def wordBytes (w : BitVec 64) : List Byte := leBytes 8 w.toNat

/-- Decoding the bytes at a program counter: the instruction and the bytes after it. -/
def decodeBytes (bs : List Byte) : Except Reject (Instr × List Byte) :=
  match decode (wordOfBytes bs) with
  | .ok i => .ok (i, bs.drop 8)
  | .error e => .error e

/-- The instruction of a table row's bits; the bits above `nbits` are zero. -/
def decodeTableWord (nbits w : Nat) : Option Instr :=
  match decodeBytes (leBytes 8 (w % 2 ^ nbits)) with
  | .ok (i, _) => some i
  | .error _ => none

end Sys2Proof
end

