-- ==== Sys2Proof/Machine/Base.lean ====
section
/-!
DEFINITION. Helpers the machine's operations share: bit fields of registers and descriptors, signed readings,
lists keyed by a number, and bytes.
-/

namespace Sys2Proof.Machine

/-- Bits [lo + len - 1 : lo] of a number. -/
def fld (n lo len : Nat) : Nat := (n >>> lo) % 2 ^ len

/-- Bits of a word. -/
def wf (w : Word) (lo len : Nat) : Nat := fld w.toNat lo len

/-- One bit of a number. -/
def bitOf (n i : Nat) : Bool := n.testBit i

/-- A number read as signed in `len` bits. -/
def sgn (len n : Nat) : Int := if n % 2 ^ len < 2 ^ (len - 1) then (n % 2 ^ len : Nat) else (n % 2 ^ len : Nat) - 2 ^ len

/-- An integer modulo 2^len. -/
def unsgn (len : Nat) (v : Int) : Nat := (v % (2 ^ len : Int)).toNat

/-- A word from a number. -/
def w64 (n : Nat) : Word := BitVec.ofNat 64 n

/-- A word from a truth value. -/
def w01 (b : Bool) : Word := if b then 1 else 0

/-- Replace bits [lo + len - 1 : lo] of a number. -/
def putFld (n lo len v : Nat) : Nat := n - (fld n lo len <<< lo) + ((v % 2 ^ len) <<< lo)

/-- The entry of a keyed list. -/
def aGet {α : Type} (l : List (Nat × α)) (k : Nat) : Option α := (l.find? fun p => p.1 == k).map (·.2)

/-- Set the entry of a keyed list. -/
def aSet {α : Type} (l : List (Nat × α)) (k : Nat) (v : α) : List (Nat × α) :=
  if l.any (fun p => p.1 == k) then l.map (fun p => if p.1 == k then (k, v) else p) else l ++ [(k, v)]

/-- Drop the entry of a keyed list. -/
def aDel {α : Type} (l : List (Nat × α)) (k : Nat) : List (Nat × α) := l.filter fun p => p.1 != k

/-- Change every element of a list that a test picks. -/
def updIf {α : Type} (t : α → Bool) (f : α → α) (l : List α) : List α := l.map fun x => if t x then f x else x

/-- Drop the first element that a test picks. -/
def dropFirst {α : Type} (t : α → Bool) : List α → List α
  | [] => []
  | x :: xs => if t x then xs else x :: dropFirst t xs

/-- Insert a number into a rising list, once. -/
def insertNat (n : Nat) : List Nat → List Nat
  | [] => [n]
  | x :: xs => if n < x then n :: x :: xs else if n = x then x :: xs else x :: insertNat n xs

/-- The element least in a key, the first of equals. -/
def leastBy {α : Type} (key : α → Nat) : List α → Option α
  | [] => none
  | x :: xs =>
    match leastBy key xs with
    | none => some x
    | some y => if key x ≤ key y then some x else some y

/-- Bytes of a word, little-endian. -/
def wBytes (w : Word) : List Byte := leBytes 8 w.toNat

/-- A word of up to eight bytes. -/
def wOfBytes (bs : List Byte) : Word := w64 (leNat bs)

/-- `n` zero bytes. -/
def zeros (n : Nat) : List Byte := List.replicate n 0

/-- Eight-byte words of a block of bytes. -/
def wordsOf : Nat → List Byte → List Word
  | 0, _ => []
  | n + 1, bs => wOfBytes (bs.take 8) :: wordsOf n (bs.drop 8)

/-- The word number i of a record. -/
def recW (r : List Word) (i : Nat) : Nat := (r.getD i 0).toNat

/-- Bits of a record of words, numbered from bit 0 of word 0; a field lies inside one word or spans two. -/
def recF (r : List Word) (lo len : Nat) : Nat := fld (recW r (lo / 64) + recW r (lo / 64 + 1) <<< 64) (lo % 64) len

/-- Ceiling division. -/
def ceilDiv (a b : Nat) : Nat := (a + b - 1) / b

/-- Round up to a multiple. -/
def roundUp (a b : Nat) : Nat := ceilDiv a b * b

/-- A power of two's logarithm, rounded down; 0 for 0. -/
def log2 (n : Nat) : Nat := Nat.log2 n

/-- Cut a list into pieces of n. -/
def chunks {α : Type} (n : Nat) : Nat → List α → List (List α)
  | 0, _ => []
  | k + 1, l => l.take n :: chunks n k (l.drop n)

end Sys2Proof.Machine
end

