-- ==== Sys2Proof/Config.lean ====
section
/-!
DEFINITION. What the spec leaves to an implementation or does not state as a value: constants without a body.
Nothing in Lean evaluates them, so every statement holds whatever they are.
-/

namespace Sys2Proof.Config

/-- A free number: the n-th value the model takes where the spec leaves one open (R159, R338, R439; assumption 4). -/
opaque freeNat : Nat → Nat

/-- A free byte, as `freeNat`. -/
opaque freeByte : Nat → Byte

/-- The set of a die's TLB a page of 2^log bytes at a base falls into (R20), of 512: the spec gives no index function. -/
opaque tlbSet : (log base : Nat) → Nat

/-- The set of a core's L1 a line falls into (R34), modulo the number of its sets: the spec gives no index function. -/
opaque l1Set : (line : Nat) → Nat

/-- Physical address of cell 0 of the block of an owner of a grid, by partition, owner table and owner index (R130, R135):
the spec names the block and gives its place nowhere (assumption 22). -/
opaque blockAt : (part table own : Nat) → Nat

/-- An owner of a grid on another device has joined at a cycle (R137), by its table entry's first word and its index: the
device is told nothing of joins elsewhere (assumption 22). -/
opaque joinedAway : (entry : BitVec 64) → (own cycle : Nat) → Bool

/-- The device that keeps a barrier group's record refuses a further context with this BGN (R378), at the inquiry of a number:
what another device has counted is unknown here. -/
opaque groupElsewhere : (num id bgn : Nat) → Bool

/-- The bank a pseudo-channel refreshes after another (R73): the order is the HBM4 standard's. -/
opaque nextBank : Nat → Nat

/-- Base-clock cycles of a refresh interval, less one, and refreshes that may be pulled in (R73), by the HBM4 standard. -/
opaque refreshInterval : Nat

opaque refreshAhead : Nat

/-- Refreshes that may be postponed (R73), by the HBM4 standard. -/
opaque refreshBehind : Nat

/-- Cycles a receiving port takes to make a LOAD of the export table, less one (R29): by the LOAD's number and the port. -/
opaque portDelay : (num port : Nat) → Nat

/-- The port a request enters the device by (R28, R419): by its source device's coordinates and its SEQ. -/
opaque arrivalPort : (row col seq : Nat) → Nat

/-- SHA-512 (R436, R437, R438), uninterpreted: the spec names it and gives no body. -/
opaque sha512 : List Byte → List Byte

/-- ECDSA P-521 verification of a signature under a public key over a digest (R437). -/
opaque ecdsaVerify : List Byte → List Byte → List Byte → Bool

/-- The fused hash of the boot key (R437). -/
opaque fusedKeyHash : List Byte

/-- Device serial number (R438), 16 bytes. -/
opaque serial : List Byte

/-- Device identity public key (R438), 133 bytes. -/
opaque identityKey : List Byte

/-- Signature of the device identity key over a digest (R438), 132 bytes. -/
opaque identitySign : List Byte → List Byte

end Sys2Proof.Config
end

