-- ==== Sys2Proof/Syntax/Event.lean ====
section
/-!
DEFINITION. The operations and events of the device as a type of their own: what the state can hold as raised or
scripted. Each constructor names the row of `Instr` with the same name and operands.
-/

namespace Sys2Proof

/-- An operation or event of the device. -/
inductive Event where
  /-- DATA_LANDING, R40. -/
  | dataLanding (m : MRef) (slot : Nat)
  /-- UNTIMED_RESULT_LANDING, R153. -/
  | untimedResultLanding (m : MRef) (st : Strm)
  /-- STORE_BUFFER_DRAIN, R87. -/
  | storeBufferDrain (m : MRef) (st : Strm)
  /-- FETCH_MISS_FILL, R152. -/
  | fetchMissFill (m : MRef) (st : Strm)
  /-- VECTOR_UNIT_FREE, R270. -/
  | vectorUnitFree (m : MRef)
  /-- WALK_COMPLETE, R21. -/
  | walkComplete (part die block : Nat)
  /-- TAG_CHECK_SATISFIED, R44. -/
  | tagCheckSatisfied (m : MRef) (st : Strm)
  /-- ARRIVAL, R43. -/
  | arrival (a : Arrival)
  /-- ARRIVAL_RETRY, R45. -/
  | arrivalRetry (a : Arrival)
  /-- ABORT_EVENT, R46. -/
  | abortEvent (m : MRef) (tile : Nat)
  /-- CLOSING_NOTICE, R166. -/
  | closingNotice (m : MRef) (rank epoch : Nat)
  /-- ROLLBACK, R166. -/
  | rollback (m : MRef) (rank epoch : Nat)
  /-- MAILBOX_WAKE, R155. -/
  | mailboxWake (m : MRef) (st : Strm)
  /-- BARRIER_EPISODE_COMPLETE, R159. -/
  | barrierEpisodeComplete (m : MRef) (sc : Scope)
  /-- ACQ_HOME_RETEST, R95. -/
  | acqHomeRetest (m : MRef) (st : Strm)
  /-- ACQ_WITHDRAWAL, R259. -/
  | acqWithdrawal (m : MRef) (st : Strm)
  /-- QUEUE_HOME_SERVICE, R117. -/
  | queueHomeService (op : QOp)
  /-- JUNCTION_PAIR, R124. -/
  | junctionPair (held arriving : QOp)
  /-- HOLD_EXPIRY, R122. -/
  | holdExpiry (id : Nat)
  /-- PARKED_POP_TIMEOUT, R118. -/
  | parkedPopTimeout (id : Nat)
  /-- VERGE_WRITE_START, R140. -/
  | vergeWriteStart (v : VergeRef)
  /-- VERGE_WRITE_COMPLETE, R140. -/
  | vergeWriteComplete (v : VergeRef)
  /-- PROGRESS_REPORT, R139. -/
  | progressReport (v : VergeRef) (region : Nat)
  /-- HPUB_WAIT_END, R138. -/
  | hpubWaitEnd (m : MRef) (st : Strm)
  /-- HALO_TIMEOUT, R141. -/
  | haloTimeout (m : MRef) (st : Strm)
  /-- WAIT_TIMEOUT, R156. -/
  | waitTimeout (m : MRef) (st : Strm)
  /-- DECAY, R69. -/
  | decay (part chiplet group : Nat)
  /-- FILL_COMPLETE, R65. -/
  | fillComplete (part chiplet set way : Nat)
  /-- WRITE_BACK_COMPLETE, R65. -/
  | writeBackComplete (part chiplet set way : Nat)
  /-- MODE_SWITCH, R73. -/
  | modeSwitch (stack : Nat) (compute : Bool)
  /-- MODE_SWITCH_COMPLETE, R71. -/
  | modeSwitchComplete (stack : Nat)
  /-- LOOKUP_BAG, R355. -/
  | lookupBag (c : CmdRef) (bag : Nat)
  /-- BIN_APPEND, R362. -/
  | binAppend (c : CmdRef) (pair : Nat)
  /-- REPLAY_REGION, R363. -/
  | replayRegion (c : CmdRef) (region : Nat)
  /-- BUCKET_RECEIVE, R370. -/
  | bucketReceive (b : Bucket)
  /-- A2A_COMBINATION, R370. -/
  | a2aCombination (c : CmdRef)
  /-- COPY_ELEMENT, R338. -/
  | copyElement (c : CmdRef)
  /-- COMMAND_COMPLETION, R102. -/
  | commandCompletion (c : CmdRef)
  /-- K_STEP, R307. -/
  | kStep (m : MRef)
  /-- PTROOT_WRITE, R25. -/
  | ptrootWrite (ag : RegAgent) (part : Nat) (v : Word)
  /-- TLBINV_ALL, R26. -/
  | tlbinvAll (ag : RegAgent) (part : Nat) (v : Word)
  /-- TLBINV_PAGE, R26. -/
  | tlbinvPage (ag : RegAgent) (part : Nat) (v : Word)
  /-- TLBINV_COMPLETE, R23. -/
  | tlbinvComplete (part : Nat)
  /-- EXPCTL_LOAD, R29. -/
  | expctlLoad (ag : RegAgent) (part : Nat) (v : Word)
  /-- HRCFG_WRITE, R60. -/
  | hrcfgWrite (ag : RegAgent) (part : Nat) (v : Word)
  /-- RGNCTL_LOAD, R91. -/
  | rgnctlLoad (ag : RegAgent) (part : Nat) (v : Word)
  /-- REGISTER_WRITE, R4. -/
  | registerWrite (ag : RegAgent) (r : RegAddr) (v : Word)
  /-- HQDB, R372. -/
  | hqdb (ag : RegAgent) (part : Nat) (v : Word)
  /-- CMD_NOP, R374. -/
  | cmdNop (q : QueueRef) (s : Slot)
  /-- LAUNCH, R380. -/
  | launch (q : QueueRef) (s : Slot)
  /-- LAUNCHI, R384. -/
  | launchi (q : QueueRef) (s : Slot)
  /-- CMD_LOOP, R374. -/
  | cmdLoop (q : QueueRef) (s : Slot)
  /-- IF, R374. -/
  | cmdIf (q : QueueRef) (s : Slot)
  /-- JUMP, R374. -/
  | jump (q : QueueRef) (s : Slot)
  /-- WAIT, R374. -/
  | wait (q : QueueRef) (s : Slot)
  /-- SIGNAL, R374. -/
  | signal (q : QueueRef) (s : Slot)
  /-- SIGADD, R374. -/
  | sigadd (q : QueueRef) (s : Slot)
  /-- WRITE, R374. -/
  | write (q : QueueRef) (s : Slot)
  /-- CMD_FENCE, R374. -/
  | cmdFence (q : QueueRef) (s : Slot)
  /-- DELAY, R374. -/
  | delay (q : QueueRef) (s : Slot)
  /-- DELAY_EXPIRY, R374. -/
  | delayExpiry (q : QueueRef)
  /-- CTXNEW, R378. -/
  | ctxnew (q : QueueRef) (s : Slot)
  /-- CTXEND, R374. -/
  | ctxend (q : QueueRef) (s : Slot)
  /-- INTR, R374. -/
  | intr (q : QueueRef) (s : Slot)
  /-- QSTOP, R374. -/
  | qstop (q : QueueRef) (s : Slot)
  /-- PRED_DECREMENT, R381. -/
  | predDecrement (part tcb : Nat) (failed : Bool)
  /-- CARD_ADMISSION, R385. -/
  | cardAdmission (part die : Nat) (card : BitVec 128)
  /-- CARD_REPUSH, R385. -/
  | cardRepush (part prio : Nat) (card : CardPush)
  /-- CHUNK_DISPATCH, R388. -/
  | chunkDispatch (part die : Nat)
  /-- TASK_RETIRE, R391. -/
  | taskRetire (part tcb : Nat)
  /-- PERIOD_BOUNDARY, R394. -/
  | periodBoundary (part : Nat)
  /-- PREEMPTION_REQUEST, R403. -/
  | preemptionRequest (part ctx : Nat)
  /-- PREEMPT_HALT, R404. -/
  | preemptHalt (m : MRef)
  /-- SAVE, R409. -/
  | save (m : MRef)
  /-- RESTORE, R410. -/
  | restore (m : MRef) (core : Nat)
  /-- ESCALATION, R401. -/
  | escalation (m : MRef)
  /-- RESUME, R401. -/
  | resume (m : MRef) (e : ResumeEdit)
  /-- END_THE_ITERATION, R402. -/
  | endTheIteration (m : MRef)
  /-- END_THE_CONTEXT, R401. -/
  | endTheContext (part ctx : Nat)
  /-- DIE_FENCE, R412. -/
  | dieFence (die : Nat)
  /-- PARTITION_CHANGE, R9. -/
  | partitionChange (part dies : Nat) (key : BitVec 32)
  /-- UNCORRECTABLE_ERROR, R77. -/
  | uncorrectableError (e : EccSite)
  /-- FABCFG_WRITE, R415. -/
  | fabcfgWrite (ag : RegAgent) (v : Word)
  /-- PORT_TRAINING, R415. -/
  | portTraining (port : Nat) (lanes : Bool) (rowsM1 colsM1 : Nat) (peer : DevRef)
  /-- LINK_REPLAY_FAILURE, R416. -/
  | linkReplayFailure (port : Nat)
  /-- RD, R425. -/
  | rd (p : Packet)
  /-- WR, R425. -/
  | wr (p : Packet)
  /-- ATOM, R425. -/
  | atom (p : Packet)
  /-- ARRIVE, R424. -/
  | arrive (p : Packet)
  /-- QOP, R425. -/
  | qop (p : Packet)
  /-- OBJ, R425. -/
  | obj (p : Packet)
  /-- RSP, R422. -/
  | rsp (p : Packet)
  /-- OPEN, R420. -/
  | openConn (p : Packet)
  /-- OPENACK, R420. -/
  | openack (p : Packet)
  /-- CLOSE, R423. -/
  | close (p : Packet)
  /-- ACK_ONLY, R422. -/
  | ackOnly (p : Packet)
  /-- ACK_IDLE_TIMEOUT, R422. -/
  | ackIdleTimeout (c : ConnRef)
  /-- RETRANSMIT_TIMEOUT, R423. -/
  | retransmitTimeout (c : ConnRef) (seq : Nat)
  /-- TEARDOWN, R423. -/
  | teardown (c : ConnRef)
  /-- FILLING_IDLE_TIMEOUT, R423. -/
  | fillingIdleTimeout (c : ConnRef)
  /-- ARRIVAL_RESEND, R424. -/
  | arrivalResend (c : ConnRef) (seq : Nat)
  /-- ROUTER_WAIT_EXPIRY, R419. -/
  | routerWaitExpiry (p : Packet)
  /-- RUD_BUCKET, R430. -/
  | rudBucket (b : Bucket)
  /-- RUDI_PARTIAL, R430. -/
  | rudiPartial (c : CmdRef) (shard : Nat) (ps : ShardAnswer)
  /-- UEC_DELIVERY_FAILURE, R430. -/
  | uecDeliveryFailure (c : CmdRef)
  /-- CLAIM, R434. -/
  | claim (ag : RegAgent)
  /-- RENEW, R434. -/
  | renew (ag : RegAgent)
  /-- HANDOVER, R434. -/
  | handover (ag : RegAgent) (succ : BitVec 2)
  /-- LEASE_EXPIRY, R434. -/
  | leaseExpiry
  /-- POWER_UP, R435. -/
  | powerUp
  /-- CLEARING_COMPLETE, R435. -/
  | clearingComplete
  /-- BOOTCTL_GO, R435. -/
  | bootctlGo (ag : RegAgent)
  /-- VERIFICATION_COMPLETE, R437. -/
  | verificationComplete
  /-- DEVRST, R437. -/
  | devrst (ag : RegAgent) (v : Word)
  /-- ATTGO, R438. -/
  | attgo (ag : RegAgent)
  /-- ATTESTATION_REPORT, R438. -/
  | attestationReport
  /-- POWER_WINDOW, R439. -/
  | powerWindow (watts : Nat)
  /-- LIMIT_REACHED, R439. -/
  | limitReached (watts amps temp : Nat)
  /-- THERMAL_TRIP, R439. -/
  | thermalTrip (temp : Nat)
  /-- POWER_DOWN, R437. -/
  | powerDown
  /-- REFRESH, R73. -/
  | refresh (stack pc : Nat)
  /-- AGE_REFRESH, R388. -/
  | ageRefresh (part : Nat)
  /-- PCIE_LINK_TRAINING, R431. -/
  | pcieLinkTraining (port gen : Nat) (x16 : Bool)
  /-- APERTURE_WRITE, R431. -/
  | apertureWrite (ag : RegAgent) (boot : Bool) (offset : Nat) (bytes : List Byte)
  /-- PACKET_FORWARD, R419. -/
  | packetForward (p : Packet) (port : Nat)
  /-- JUNCTION_HOLD, R122. -/
  | junctionHold (op : QOp)
  deriving DecidableEq, Repr

end Sys2Proof
end

