-- ==== Sys2Proof/Machine/State.lean ====
section
/-!
DEFINITION. The state of one device: everything the spec gives it, as plain data, and the state after reset.
-/

namespace Sys2Proof.Machine

/-- Why the machine stops. -/
inductive Fault where
  /-- An instruction word was executed with no stream issuing it. Only a caller outside `step` can do so: safe. -/
  | noIssuer
  deriving DecidableEq, Repr

/-- Why an instruction has no meaning. -/
inductive Refusal where
  /-- The instruction has no meaning in this model yet. Safe: nothing is claimed of it. -/
  | notModelled (mnemonic : String)
  deriving DecidableEq, Repr

/-! ### Streams -/

/-- A scalar result on its way (R149): `due` is the cycle of the latch write, `iss` the issue cycle.
The first write is the latch's value; a load's value is filled in when its slot lands. -/
structure InFlight where
  due : Nat
  iss : Nat
  writes : List (Dst × Word)
  latched : Bool
  slot : Option Nat
  deriving DecidableEq, Repr

/-- Kinds of named wait, with the codes of SSTAT.WAIT (R398). -/
inductive WaitKind where
  | tag | queue | mailbox | slot | acq | timeline | grid | bar | done | untimed | cpgo | matrix
  deriving DecidableEq, Repr

/-- What a waiting word waits for (R154). -/
inductive WaitCond where
  /-- Every tile FULL, or one of them POISONED (R269). -/
  | tagsFull (tiles : List Nat)
  /-- EMPTY or POISONED (TAGWT.empty). -/
  | tagEmpty (tile : Nat)
  /-- Room for n more rows, reserved places counted (R325). -/
  | queueRoom (q n : Nat)
  /-- n rows ready (R288, R303). -/
  | queueRows (q n : Nat)
  /-- At most n rows ready (R261). -/
  | queueAtMost (q n : Nat)
  | mailboxEmpty (k : Nat)
  | mailboxFull (k : Nat)
  | slotFree (k : Nat)
  /-- VERSION of the object at a physical address at least n (R95). -/
  | versionGe (part pa n : Nat)
  /-- HELD clear (R95). -/
  | notHeld (pa : Nat)
  /-- DEFVER at least n (R93). -/
  | defverGe (n : Nat)
  /-- Completion number of a counter at least n, and no open region hides it (R164). -/
  | completed (tc n : Nat)
  /-- None of the milestone words at these physical addresses, each with its region, stalls e any more, or one is late
  (R141); the halo timeout in cycles. -/
  | milestone (words : List (Nat × Nat)) (e limit : Nat)
  /-- Every RPUB word at these addresses, each with the receiver's index, at least n - 1, NONE counting as -1
  (R138, `n` is one more); the halo timeout in cycles. -/
  | published (words : List (Nat × Nat)) (n limit : Nat)
  /-- The barrier episode has passed this stream. -/
  | episode
  /-- A, V and X halted and every command and TSEND of the member complete (R227). -/
  | memberQuiet
  /-- A copy engine of the die is free (R337). -/
  | engineFree
  /-- No nest is live, and no write of it or of XACC is still on its way (R313). -/
  | nestIdle (drained : Bool)
  /-- Remote bytes asked for under a tag have come (R109). -/
  | fetched (tag : Nat)
  /-- Every posted remote write of the stream is acknowledged (R109). -/
  | acked
  deriving DecidableEq, Repr

/-- A named wait in progress: its kind, what it waits for, the cycle and the turn in which it began. -/
structure Wait where
  kind : WaitKind
  cond : WaitCond
  since : Nat
  tried : Nat
  turn : Nat
  /-- Watchdog limit as it stood when the wait began (R157). -/
  limit : Nat
  /-- The wake event has come: the word issues from this cycle on. -/
  granted : Option Nat
  /-- The version at which the wait of an ACQ.ge ended (R95). -/
  met : Option Nat
  deriving DecidableEq, Repr

/-- A program or system trap (R395): what the record holds. -/
structure TrapInfo where
  cause : Nat
  system : Bool
  tval : Word
  aux : Word
  detail : List Word
  /-- TRAP and BRK resume at the next word (R223). -/
  next : Bool
  deriving DecidableEq, Repr

/-- What an untimed word still needs before it lands (R153). -/
inductive Answer where
  /-- The result is known and only has to land. -/
  | ready
  /-- The word traps instead, as soon as its stream may take the trap (R31, R153). -/
  | refused (i : TrapInfo)
  /-- The data of its landing slot. -/
  | slot
  /-- A response of the fabric for request number id. -/
  | response (id : Nat)
  /-- The response to an ACQ at another device: request number, watchdog limit, and whether its withdrawal is under way,
with the word to time out when it is withdrawn (R95, R259). -/
  | acq (id limit : Nat) (leaving : Option Bool)
  /-- A queue operation held, in flight or parked (R115). -/
  | queueOp (id : Nat)
  /-- Every posted remote write of the stream acknowledged (R109); then the job is performed. -/
  | acknowledged
  /-- The stack that the job's access goes to is in its new mode (R74); then the job is performed. -/
  | stack (k : Nat)
  /-- SCADD: answers of other devices for the entry it stands at (R257). -/
  | rows
  /-- Remote bytes the word reads, asked for under a tag (R109): then it acts. -/
  | fetched (tag : Nat)
  /-- HPUB: every source cell of the milestone of an owner of a grid read; its halo timeout in cycles (R138). -/
  | published (grid : List Word) (own ms limit : Nat)
  /-- GRIDCTL.leave: the earlier writes of an owner of a grid performed (R137). -/
  | vergeWrites (grid : List Word) (own : Nat)
  deriving DecidableEq, Repr

/-- SCADD as it runs (R257): its operands, the entry it stands at and the padding entries it has met. -/
structure ScaddRun where
  base : Word
  idx : Word
  src : Word
  et : ScType
  bytes : Nat
  n : Nat
  k : Nat
  pads : Nat
  deriving DecidableEq, Repr

/-- What an untimed word still performs once its posted writes are acknowledged (R109), with its operands as read
at issue. -/
inductive Job where
  | nothing
  /-- An atomic, by its opcode (R253). -/
  | atom (op : Nat) (w : Bool) (ord : AOrd) (pva v c : Word)
  | rel (obj : Word) (sc : Scope)
  | strel (sc : Scope) (pva : Word) (bytes : List Byte)
  | queue (op : QOp)
  | scadd (r : ScaddRun)
  /-- ACQ.nw on the default object (R101). -/
  | acqNw
  /-- A word whose block is an untimed load from another device: it acts when the bytes are there, on its sources as it read
  them at issue (R153, R352): the registers and the latch. -/
  | again (s : Vector Word 32) (o : Vector Word 8) (lat : Word)
  deriving DecidableEq, Repr

/-- An untimed word that has issued (R153): its result lands later. A handler's cycles shift `iss` but not `born`, the order
among results of one cycle (R150); `last` is the issue cycle of the word before it. -/
structure Untimed where
  iss : Nat
  born : Nat
  last : Nat
  /-- Where the word stands, its bits, and the loop counts before it: a fault at the word restores them. -/
  pc : Word
  raw : Word
  lpc0 : Word
  lpc1 : Word
  writes : List (Dst × Word)
  needs : Answer
  job : Job
  /-- The acquire it performs when it lands (R86). -/
  acquire : Option Scope
  /-- The landing slot it uses, for untimed loads. -/
  slot : Option Nat
  /-- The address requested and the access kind, for the record of a remote refusal, and where the request went. -/
  pva : Word
  akind : Nat
  raddr : Nat
  deriving DecidableEq, Repr

/-- A store waiting in the store buffer (R87). -/
structure SbEntry where
  pa : Nat
  bytes : List Byte
  /-- The scope of a STREL: performed after the release (R99). -/
  release : Option Scope
  deriving DecidableEq, Repr

/-- A refusal that reached a stream imprecisely (R31, R48). -/
structure Imprecise where
  /-- 0x07 to 0x0A for XLATE, 0x23 for REFUSED, 0x22 for ABORT. -/
  code : Nat
  pva : Word
  aux : Word
  strm : Strm
  cmd : Option CmdRef
  /-- Of a verge write: the grid and the owner whose HPUB takes it too (R142). -/
  verge : Option (List Word × Nat)
  /-- KIND of R32, and whether a receiving port refused it. -/
  akind : Nat
  remote : Bool
  /-- LEVEL and word 0 of a walk that refused it; 7 and zero without one (R32). -/
  level : Nat
  word0 : Word
  /-- Committed position of the command it belongs to; 0 of a word (R31). -/
  commit : Nat
  /-- Words the stream had issued when the refused write was posted (R109). -/
  num : Nat
  deriving DecidableEq, Repr

/-- What a word's trap takes with it when it is taken: a refusal of a stream, one kind of deferred fault of the commands
it covers, or the fault of the nest (R31, R320, R455). -/
inductive Taken where
  | refusal (st : Strm) (r : Imprecise)
  | deferred (cmds : List CmdRef) (cause : Nat)
  | nest
  deriving DecidableEq, Repr

/-- Everything one stream owns (R144 to R161). -/
structure Stream where
  s : Vector Word 32
  o : Vector Word 8
  lat : Word
  pc : Word
  running : Bool
  /-- Cycle of the previous issue, and the earliest cycle of the next whatever its IDLE. -/
  last : Nat
  floor : Nat
  inflight : List InFlight
  wait : Option Wait
  untimed : Option Untimed
  lps0 : Word
  lpe0 : Word
  lpc0 : Word
  lps1 : Word
  lpe1 : Word
  lpc1 : Word
  vwin : Word
  nissue : Nat
  nstall : Nat
  sb : List SbEntry
  /-- Stores of a word that has issued which wait to enter the full buffer (R152, R330). -/
  entering : List SbEntry
  imprecise : List Imprecise
  /-- SSTAT as it stood at the last halt by pre-emption (R408). -/
  status : Nat
  deriving DecidableEq, Repr

/-- What a trap sets aside for one stream (R158). -/
structure Aside where
  inflight : List InFlight
  lat : Word
  deriving DecidableEq, Repr

/-- The C stream's place while a handler runs. -/
structure Handler where
  tau : Nat
  strm : Strm
  c : Aside
  a : Aside
  v : Aside
  x : Aside
  cpc : Word
  crunning : Bool
  clast : Nat
  cfloor : Nat
  cuntimed : Option Untimed
  /-- The word set aside that has since come to count as not issued (R259): the loop counts before it stand again at ERET. -/
  cback : Option Untimed
  slotDue : List (Nat × Nat)
  deriving DecidableEq, Repr

/-! ### Core storage -/

/-- Tags of R41. -/
inductive Tag where
  | empty | filling | full | poisoned
  deriving DecidableEq, Repr

/-- A tile's state record (R41) and the widest release scope counted into the fill (R53, R106). -/
structure TileRec where
  exp : Nat
  mulm1 : Nat
  ctype : CType
  pcause : Nat
  tdup : Bool
  tag : Tag
  cnt : Nat
  map : BitVec 128
  acq : Scope
  deriving DecidableEq, Repr

/-- A journal entry (R166). -/
structure Journal where
  tile : Nat
  rank : Nat
  epoch : Nat
  count : Nat
  tdup : Bool
  mask : BitVec 128
  deriving DecidableEq, Repr

/-- A row of an operand queue: its place number, its bytes, and whether they have landed (R38). -/
structure QRow where
  id : Nat
  data : List Byte
  landed : Bool
  deriving DecidableEq, Repr

/-- States of a landing slot (R40). -/
inductive SlotState where
  | free | pending | landed
  deriving DecidableEq, Repr

/-- A landing slot: what it will deliver, to whom and in which cycle (none when untimed). -/
structure LSlot where
  state : SlotState
  data : BitVec 128
  strm : Strm
  dst : Dst
  due : Option Nat
  size : Size
  sx : Bool
  /-- Remote pieces still to come. -/
  req : Nat
  /-- The load word and where it stands. -/
  pc : Word
  raw : Word
  deriving DecidableEq, Repr

/-- Kinds of sealed records (R293). -/
inductive HKind where
  | tensor | table | grid
  deriving DecidableEq, Repr

/-- A sealed record: kind, 64-byte copy as eight words, and the record's PVA. -/
structure Handle where
  kind : HKind
  copy : List Word
  pva : Word
  deriving DecidableEq, Repr

/-- One side of a copy level (R332). -/
structure CSide where
  stride : Int
  org : Int
  ext : Nat
  deriving DecidableEq, Repr

/-- One level of a copy sequence. -/
structure CLevel where
  count : Nat
  src : CSide
  dst : CSide
  deriving DecidableEq, Repr

/-- The copy shadow (R332). -/
structure CopyCfg where
  lev : List CLevel
  srcBase : Word
  dstBase : Word
  tile : Bool
  gather : Option (Nat × Word × Nat)
  swz : Word
  deriving DecidableEq, Repr

/-- A level of a matrix nest (R304). -/
structure XLevel where
  count : Nat
  k : Bool
  sa : Int
  sb : Int
  so : Int
  sv : Int
  deriving DecidableEq, Repr

/-- A launch configuration of the matrix engine (R290). -/
structure XCfg where
  lev : List XLevel
  os0 : Word
  os1 : Word
  xp : Word
  spm : Word
  mask : Option (List Word)
  deriving DecidableEq, Repr

/-- Mode of an accumulator set (R290). -/
inductive AccMode where
  | empty | exact | scaled
  deriving DecidableEq, Repr

/-- The data of one K-step: per output row the A elements, per column the B elements (widened codes),
both as bit patterns of their type. -/
structure KData where
  a : List (List Nat)
  b : List (List Nat)
  deriving DecidableEq, Repr

/-- An accumulator set: RN3 accumulators and FP32 partials of 128 by 128 outputs, as rows of columns (what a list does
not hold reads zero), and the first half of an open K-tile (R209, R290). -/
structure AccSet where
  mode : AccMode
  rn : List (List Word)
  p : List (List (BitVec 32))
  /-- P holds a K-tile's term already. -/
  set : Bool
  half : Option KData
  deriving DecidableEq, Repr

/-- A live nest: configuration, fields of XGO, positions and the data held between them (R319, R321). -/
structure Nest where
  cfg : XCfg
  acc : Nat
  cont : Bool
  out : Bool
  stg : Stages
  msk : Bool
  /-- Where the walk goes on, level by level. -/
  idx : List Nat
  committed : Nat
  spec : Nat
  /-- Data of the K-steps from committed to spec. -/
  held : List KData
  /-- Rows popped of a fetch group still being taken. -/
  rows : List (List Byte)
  /-- The chain at `idx` has begun. -/
  started : Bool
  /-- The cycle in which the array has finished its K-step (R152, R319). -/
  due : Nat
  fault : Option TrapInfo
  deriving DecidableEq, Repr

/-- An open idempotent region (R163). -/
structure Region where
  marker : Word
  issue : List Nat
  compl : List Nat
  bins : List (Nat × Nat)
  epoch : Nat
  reached : List MRef
  cmds : List CmdRef
  lastPc : Word
  deriving DecidableEq, Repr

/-- A deferred command fault (R455): cause code, lowest position. -/
structure Deferred where
  cause : Nat
  pos : Nat
  deriving DecidableEq, Repr

/-- A lookup or exchange as it runs (R354, R369). -/
structure LookupRun where
  mode : Pool
  nf : Bool
  list : Word
  nbag : Nat
  stat : Word
  wgt : Word
  off : Word
  part : Nat
  ctx : Nat
  member : Nat
  sect : Nat
  table : List Word
  /-- Bags whose sectors have left: bag, sectors not yet in, status byte (R358). -/
  bags : List (Nat × Nat × Nat)
  /-- Bags whose row and status are complete. -/
  ended : List Nat
  deriving DecidableEq, Repr

/-- The shards of an A2A and what has come back (R370). -/
structure ExchangeRun where
  run : LookupRun
  dim : Nat
  /-- The exchange record. -/
  record : List Word
  /-- The buckets have been formed. -/
  formed : Bool
  /-- Buckets still to send: the owner device of a scale-up shard, else port and peer of Ultra Ethernet. -/
  unsent : List (Bucket × Option DevRef × Nat × Nat)
  /-- Per bag: 0 with positions, 1 empty, 2 decreasing offsets. -/
  kinds : List Nat
  /-- Per shard with positions: number and partials, once returned. -/
  shards : List (Nat × Option (List Partial))
  deriving DecidableEq, Repr

/-- A copy sequence as an engine runs it (R338 to R340). -/
structure CopyRun where
  cfg : CopyCfg
  esz : Nat
  sc : Scope
  /-- The die's engine it holds; none until one is free again after a restore (R404). -/
  engine : Option Nat
  /-- Elements written to one sector and not yet sent: tile, sector, mask, bytes. -/
  sector : Option (Nat × Nat × BitVec 64 × List Byte)
  /-- The batch of gather indices in use (R339). -/
  batch : Option (Nat × List Byte)
  /-- Bytes at the homes before the sequence wrote them: iteration, address, byte (R338). -/
  undo : List (Nat × Nat × Byte)
  /-- Arrivals and posted writes on their way, by tile address or PVA, with the first iteration they carry (R341). -/
  sent : List (Nat × Nat)
  /-- Tiles of the target to which sectors have left, and whether any has arrived (R46). -/
  tiles : List Nat
  come : Bool
  deriving DecidableEq, Repr

/-- What a command does and how far it is. -/
inductive CmdRun where
  | tget (src : Word) (g n next : Nat)
  | bld (src : Word) (col0 n boff len : Nat) (stride : Int) (next : Nat)
  | copy (r : CopyRun)
  | lookup (r : LookupRun)
  | update (nf : Bool) (list grad : Word) (n : Nat) (table : List Word) (next : Nat)
  | replay (opt : Opt) (table : List Word) (next last : Nat)
  | flush (table : List Word) (detach : Bool)
  | exchange (r : ExchangeRun)
  /-- TLSIG; `num` words of its stream had issued before it: at .pod it waits for what they posted (R109). -/
  | signal (sc : Scope) (num : Nat)
  deriving DecidableEq, Repr

/-- An asynchronous command with its status (R102, R342, R360, R455). -/
structure Cmd where
  ref : CmdRef
  st : Strm
  run : CmdRun
  /-- Arrivals and remote requests still on their way. -/
  out : Nat
  /-- The engine has nothing left to do. -/
  engineDone : Bool
  finished : Bool
  oob : Bool
  emptyBag : Bool
  err : Bool
  ovf : Bool
  fault : Bool
  nbad : Nat
  first : Nat
  pos : Nat
  /-- Position its engine had read ahead to when it stopped (R399). -/
  spec : Nat
  deferred : List Deferred
  /-- The region it belongs to, by epoch. -/
  epoch : Option Nat
  /-- A system fault that stopped it, until it is taken (R401). -/
  sys : Option TrapInfo
  deriving DecidableEq, Repr

/-- A deferred verge write (R138, R140). -/
structure Verge where
  ref : VergeRef
  /-- The sealed grid it belongs to. -/
  grid : List Word
  /-- The cells of each region as they stood at HPUB, while the spill area does not hold them. -/
  cells : List (Nat × List Byte)
  /-- Spilled cells are read from the spill area. -/
  spilled : Bool
  /-- The receiver has been notified: its NPUB words are written. -/
  notified : Bool
  started : Bool
  /-- Regions still to complete, with their writes and arrivals on the way; 27 stands for the milestone words. -/
  regions : List (Nat × Nat)
  st : Strm
  /-- Words the stream had issued before its HPUB (R109). -/
  num : Nat
  deriving DecidableEq, Repr

/-- A progress report on its way (R139): the publication it tells of, the region whose source it goes to, and the stream
that published. -/
structure Report where
  ref : VergeRef
  region : Nat
  grid : List Word
  st : Strm
  num : Nat
  deriving DecidableEq, Repr

/-- A grid the member has joined, by its record and owner index (R137). -/
structure Joined where
  grid : List Word
  pva : Word
  own : Nat
  deriving DecidableEq, Repr

/-- Where a member stands (R407): on a core, or switched out. A switch is one event of the model. -/
inductive Place where
  | core (c : Nat)
  | image
  deriving DecidableEq, Repr

/-- What holds the core clock of a member (R152). -/
inductive Freeze where
  | none
  /-- A store to a full buffer, by a stream. -/
  | store (st : Strm)
  /-- The vector unit is occupied. -/
  | vector
  /-- A trap was escalated (R401). -/
  | escalated
  /-- The firmware halted the member (R403). -/
  | halted
  deriving DecidableEq, Repr

/-- A member of a context with all the state that is its own. -/
structure Member where
  ref : MRef
  place : Place
  /-- Placement core: quad and die for scopes and barriers (R378). -/
  home : Nat
  nmem : Nat
  size : Nat
  entry : List Word
  /-- Architectural cycles (R229) and the wall clock at cycle 0 with freezes added (R152). -/
  cycle : Nat
  skew : Nat
  freeze : Freeze
  c : Stream
  a : Stream
  v : Stream
  x : Stream
  tvec : Word
  tcause : Word
  tstrm : Word
  tepc : Word
  tval : Word
  tscr : Word
  tsave : Word
  handler : Option Handler
  /-- Traps of the cycle being issued, taken when its last word has issued (R158, R396). -/
  raised : List (Strm × TrapInfo)
  /-- What the raised traps take if they are the one that is taken. -/
  taking : List (Strm × Taken)
  escalated : Option (Strm × TrapInfo)
  /-- System faults no word of it caused that came while its core could take none (R43, R77). -/
  owed : List TrapInfo
  /-- Requested to halt by pre-emption, or to end with its context. -/
  preempt : Bool
  /-- An iteration is being run: its task's TCB, and its number. -/
  task : Option (Nat × Nat)
  tiles : List (Nat × TileRec)
  arrq : List Arrival
  journal : List Journal
  floors : List (Nat × Nat)
  epoch : Nat
  region : Option Region
  queues : Vector (List QRow) 8
  mbs : Vector (Word × Bool) 8
  slots : Vector LSlot 32
  handles : Vector (Option Handle) 16
  hl : Vector Word 16
  /-- Issue and completion numbers (R102). -/
  tc : Vector (Nat × Nat) 4
  cmds : List Cmd
  tsends : Nat
  copy : CopyCfg
  acc : Vector AccSet 4
  shadow : XCfg
  nest : Option Nest
  lastPos : Nat
  joined : List Joined
  verges : List Verge
  /-- Oldest first. -/
  reports : List Report
  /-- Wall-clock cycle until which the vector unit is occupied (R270). -/
  vbusy : Nat
  nextId : Nat
  deriving DecidableEq, Repr

/-! ### Memory system -/

/-- A 64-byte line of a core's L1 (R34, R86): bit b of `valid` says that byte b is held, of `dirty` that it was stored
here and is not yet at its home. A line a store made holds only the bytes stored. -/
structure L1Line where
  line : Nat
  data : List Byte
  valid : BitVec 64
  dirty : BitVec 64
  deriving DecidableEq, Repr

/-- A leaf of the page table (R15). -/
inductive Leaf where
  | local (pa : Nat) (scarab : Bool)
  | remote (dev : DevRef) (part : Nat) (raddr : Nat)
  deriving DecidableEq, Repr

/-- A cached translation (R20). -/
structure TlbEntry where
  part : Nat
  base : Nat
  log : Nat
  leaf : Leaf
  r : Bool
  w : Bool
  x : Bool
  level : Nat
  word0 : Word
  deriving DecidableEq, Repr

/-- A TABLE entry a die's walk caches hold (R21): its level, the PVA bits down to that level's index, and word 0. -/
structure WalkEntry where
  part : Nat
  level : Nat
  pre : Nat
  word0 : Word
  deriving DecidableEq, Repr

/-- What belongs to a physical core, whoever occupies it. -/
structure CoreRec where
  core : Nat
  tlb : List TlbEntry
  l1 : List L1Line
  deriving DecidableEq, Repr

/-- A translation or admission fault: code of R30, level, word 0 of the entry, the PVA as issued, and
whether a receiving port reported it. -/
structure XFault where
  code : Nat
  level : Nat
  word0 : Word
  pva : Word
  remote : Bool
  deriving DecidableEq, Repr

/-- What a walk finds: a leaf, or a fault. -/
inductive WalkResult where
  | found (e : TlbEntry)
  | fault (f : XFault)
  deriving DecidableEq, Repr

/-- A walk in progress, the cores whose PREF joined it, and the result that every joined miss receives (R21). -/
structure Walk where
  part : Nat
  die : Nat
  block : Nat
  joined : List (Nat × Word)
  result : WalkResult
  deriving DecidableEq, Repr

/-- An enabled entry of the installed region table (R88, R90). -/
structure RegionEntry where
  base : Nat
  pages : Nat
  obj : Nat
  deriving DecidableEq, Repr

/-- An enabled entry of the loaded export table (R28). -/
structure ExportEntry where
  base : Nat
  pages : Nat
  q : Bool
  a : Bool
  w : Bool
  r : Bool
  deriving DecidableEq, Repr

/-- An attached range with its table record (R18, R368). -/
structure Attached where
  table : List Word
  detaching : Bool
  deriving DecidableEq, Repr

/-! ### Hot rows and sketches -/

/-- States of a directory entry (R65). -/
inductive DirState where
  | filling | clean | dirty | draining
  deriving DecidableEq, Repr

/-- A directory entry that is not INVALID. -/
structure DirEntry where
  set : Nat
  way : Nat
  key : Nat
  state : DirState
  /-- The promotion waiting for a draining victim. -/
  next : Option Nat
  deriving DecidableEq, Repr

/-- A group's sketch on one chiplet (R68 to R70); counters not listed are 0. `due`: the observation that reached the
period has been counted, and its halving is still to be entered. -/
structure Sketch where
  group : Nat
  cfg : Word
  cnt : List ((Nat × Nat) × Nat)
  obs : Nat
  due : Bool
  deriving DecidableEq, Repr

/-- A buffer chiplet. -/
structure Chiplet where
  num : Nat
  dir : List DirEntry
  unusable : List Nat
  promoted : Nat
  sketches : List Sketch
  deriving DecidableEq, Repr

/-- The refresh of a pseudo-channel (R73): the next bank, the refreshes postponed (less those pulled in), and the
interval up to which they are counted. -/
structure Refresh where
  pc : Nat
  bank : Nat
  credit : Int
  upto : Nat
  deriving DecidableEq, Repr

/-- An HBM stack (R71, R73). -/
structure Stack where
  num : Nat
  compute : Bool
  switching : Option Bool
  refresh : List Refresh
  /-- Loads that wait at the controller while the stack switches (R74): member and landing slot. -/
  waiting : List (MRef × Nat)
  deriving DecidableEq, Repr

/-! ### Scheduling -/

/-- A queue's position outside its ring: a LOOP or a JUMP in progress (R456). -/
inductive QFrame where
  /-- Body of `len` slots from `start`, at slot `at`, `left` runs to go. -/
  | loop (start len left : Nat)
  | jump (base : Word) (len : Nat)
  deriving DecidableEq, Repr

/-- A hardware queue as its command processor sees it (R372, R375, R456). -/
structure HQueue where
  num : Nat
  tail : Nat
  running : Bool
  /-- Innermost first, each with the position inside it. -/
  frames : List (QFrame × Nat)
  /-- Tasks launched and not yet finished. -/
  tasks : List Nat
  /-- A delay in progress. -/
  delay : Option Nat
  /-- Commands started this period (R394). -/
  used : Nat
  /-- The command processor the firmware has given it (R371). -/
  cp : Nat
  /-- Its command has begun and waits, which holds no other queue. -/
  held : Bool
  deriving DecidableEq, Repr

/-- A task in the active table (R386, R387). -/
structure Task where
  tcb : Nat
  ctx : Nat
  prio : Nat
  ready : Nat
  age : Nat
  total : Nat
  chunk : Nat
  cursor : Nat
  mirror : Nat
  /-- Iterations claimed and not yet dispatched: die, first, how many. -/
  claimed : List (Nat × Nat × Nat)
  /-- Iterations of a lost die to be run again: first, how many. -/
  reissue : List (Nat × Nat)
  running : List (Nat × MRef)
  retired : Nat
  failed : Option Nat
  counts : List Nat
  /-- The TCB and the loop-nest record as they stood at admission. -/
  block : List Word
  nest : List Word
  deriving DecidableEq, Repr

/-- A context (R376 to R378). -/
structure Context where
  id : Nat
  nmem : Nat
  size : Nat
  entry : List Word
  bgrp : Nat
  ending : Bool
  /-- First frame of its save areas, as the firmware maps them (R406). -/
  save : Nat
  deriving DecidableEq, Repr

/-- What an invalidation or a table's installation waits for (R23, R91): per connection of the partition the SEQ from
which packets were sent after it started, the number from which queue operations were, and the loads that waited at a
switching stack; `cfg` is the value HRCFG takes when it completes (R60). -/
structure Inv where
  marks : List (ConnRef × Nat)
  ops : Nat
  loads : List (MRef × Nat)
  cfg : Option Word
  deriving DecidableEq, Repr

/-- A LOAD of the export table (R29): the copy it replaced, its cycle, and a free number from which each port's own cycle
follows. -/
structure ExportLoad where
  old : List ExportEntry
  start : Nat
  num : Nat
  deriving DecidableEq, Repr

/-- A partition: its control block and everything kept for it. -/
structure Part where
  id : Nat
  dies : Nat
  key : BitVec 32
  ptroot : Word
  tlbinv : Word
  expctl : Word
  hrcfg : Word
  rgnctl : Word
  defver : Word
  qwin0 : Word
  qwin1 : Word
  wdcfg : Word
  hqctl : Word
  schcfg : Word
  schnext : Option Word
  budg0 : Word
  budg1 : Word
  cardb : Word
  saveb : Word
  elog : Word
  connb : Word
  uepeer : Word
  exports : List ExportEntry
  /-- Loads that some port may not have made yet, newest first; every port has made them at the wall-clock cycle `expdue`
  (R29). -/
  exportLoads : List ExportLoad
  expdue : Nat
  /-- Wall-clock cycle at which its last change is over (R9). -/
  changing : Nat
  regions : List RegionEntry
  /-- Invalidations in progress, oldest first (R26). -/
  invs : List Inv
  /-- A region table being installed: RGNCTL as written with LOAD (R91). -/
  rgnload : Option (Word × Inv)
  attached : List Attached
  ctxs : List Context
  queues : List HQueue
  tasks : List Task
  cards : List (Nat × BitVec 128)
  /-- Size blocks of LAUNCHI, by TCB (R384). -/
  sizes : List (Nat × List Nat)
  /-- Launched tasks that have not finished. -/
  launched : List Nat
  cpUsed : Nat
  lnkUsed : List (Nat × Nat)
  ueUsed : List (Nat × Nat)
  deriving DecidableEq, Repr

/-- A barrier episode (R159): participants that have arrived and those it has let pass. -/
structure Bar where
  scope : Scope
  key : List Nat
  mask : Nat
  arrived : List (MRef × Strm)
  passed : List (MRef × Strm)
  deriving DecidableEq, Repr

/-- A barrier group (R378). -/
structure BGroup where
  id : Nat
  bgn : Nat
  ctxs : List (Nat × Nat)
  /-- Contexts of it that have ended here and whose place no other has taken. -/
  gone : Nat
  deriving DecidableEq, Repr

/-! ### Queue operations -/

/-- An operation held at a junction (R122): place 0 to 63 a quad router, 100 + die a crossbar port,
200 the fabric-die router. -/
structure Held where
  op : QOp
  place : Nat
  since : Nat
  allowance : Nat
  deriving DecidableEq, Repr

/-- A parked pop (R118). -/
structure Parked where
  op : QOp
  die : Nat
  deadline : Nat
  deriving DecidableEq, Repr

/-! ### Fabric -/

/-- What a packet this device sent was for. -/
inductive Origin where
  /-- A posted store, of a stream, from a PVA. -/
  | store (m : MRef) (st : Strm) (pva : Word) (num : Nat)
  | arrival (a : Arrival)
  /-- A read, atomic or object operation of a stream, by its request number. -/
  | request (m : MRef) (st : Strm) (id : Nat)
  /-- A piece of a load: its bytes stand at `off` of the slot's data. -/
  | load (m : MRef) (slot : Nat) (off n addr : Nat)
  /-- The withdrawal of a stream's ACQ, by its request number and SEQ (R259). -/
  | withdraw (m : MRef) (st : Strm) (id seq : Nat)
  | queueOp (op : QOp)
  /-- A read of an engine, kept in `fetched`. -/
  | fetch (who : MRef) (tag : Nat) (part : Nat) (dev : DevRef) (peer addr n : Nat)
  /-- A posted write of an engine command of a stream. -/
  | cmdWrite (c : CmdRef) (st : Strm) (pva : Word) (num : Nat)
  /-- A posted verge write of a region of a grid, of the stream that published, to a PVA of the owner it is for. -/
  | verge (v : VergeRef) (region : Nat) (st : Strm) (pva : Word) (grid : List Word) (num : Nat)
  | bucket (b : Bucket)
  | control
  | reply
  deriving DecidableEq, Repr

/-- Remote bytes an engine or a word has asked for, by who asks and for which use; `code` is the answer's. -/
structure Fetch where
  who : MRef
  tag : Nat
  dev : DevRef
  peer : Nat
  addr : Nat
  n : Nat
  code : Option Nat
  bytes : List Byte
  /-- What goes on once the answer has come. -/
  wake : Option Event
  deriving DecidableEq, Repr

/-- A packet not yet acknowledged (R422, R423). -/
structure Unacked where
  p : Packet
  origin : Origin
  tries : Nat
  deriving DecidableEq, Repr

/-- State of a connection (R420). -/
inductive ConnState where
  | opening | open | closed
  deriving DecidableEq, Repr

/-- A reliable connection as this device holds it. -/
structure Conn where
  ref : ConnRef
  state : ConnState
  nextSeq : Nat
  expect : Nat
  acked : Nat
  unacked : List Unacked
  early : List Packet
  waiting : List (Packet × Origin)
  /-- Requests answered with an outstanding response: SEQ and origin. -/
  asked : List (Nat × Origin)
  /-- Requests of the peer that wait at the home here: SEQ and what for. -/
  serving : List (Nat × Packet)
  filling : List (MRef × Nat)
  /-- Arrivals refused for a full queue, by the SEQ refused (R424). -/
  resend : List (Nat × Arrival)
  /-- Wall-clock cycle of the last packet received. -/
  last : Nat
  deriving DecidableEq, Repr

/-! ### The machine -/

/-- A move of the script: a stream issues its next word, or an event happens. -/
inductive Move where
  | issue (m : MRef) (st : Strm)
  | event (e : Event)
  deriving DecidableEq, Repr

/-- An event that has been raised and happens at the wall-clock cycle `due` or later. -/
structure Due where
  ev : Event
  due : Nat
  deriving DecidableEq, Repr

/-- The word being issued: whose, where it stands, and its bits. -/
structure Cur where
  m : MRef
  st : Strm
  pc : Word
  raw : Word
  deriving DecidableEq, Repr

/-- A line of the device log (R4, R415). -/
structure LogLine where
  unit : Nat
  value : Nat
  deriving DecidableEq, Repr

/-- What an owner returns to another device (R370): the owner partition, to whom, for which command and shard. -/
structure Returned where
  part : Nat
  dev : DevRef
  cmd : CmdRef
  shard : Nat
  answer : ShardAnswer
  deriving DecidableEq, Repr

/-- Everything of the device but its host side. -/
structure Mach where
  wclk : Nat
  mem : List Host.Cell
  poison : List Nat
  parts : List Part
  members : List Member
  cores : List CoreRec
  dieTlb : List (Nat × List TlbEntry)
  /-- Walk caches, by die (R21). -/
  walkCache : List (Nat × List WalkEntry)
  walks : List Walk
  liveDies : List Nat
  chiplets : List Chiplet
  hbm : List Stack
  bars : List Bar
  bgroups : List BGroup
  held : List Held
  parked : List Parked
  /-- Per command processor, the queue served last: 64 times its partition plus its number (R371). -/
  cpTurn : List (Nat × Nat)
  fabcfg : Word
  portup : List Nat
  trained : Bool
  conns : List Conn
  fetched : List Fetch
  transit : List Packet
  sent : List Packet
  /-- Buckets that have left the device: with the owner device, or the Ultra Ethernet port and peer. -/
  ueSent : List (Bucket × Option DevRef × Nat × Nat)
  /-- Partials returned to other devices. -/
  ueBack : List Returned
  /-- Partials that wait for a period in which their partition may use an Ultra Ethernet port (R428). -/
  ueHeld : List Returned
  /-- Per port, the partition whose packet it last injected (R426). -/
  injTurn : List (Nat × Nat)
  /-- Interrupts raised, each with the owner it went to (R374, R431). -/
  msix : List (Nat × Option RegAgent)
  devlog : List LogLine
  pending : List Due
  agenda : List Move
  cur : Option Cur
  free : Nat
  nextId : Nat
  deriving DecidableEq, Repr

/-- States of boot (R435), with the codes of BOOTSTAT.STATE. -/
inductive Boot where
  | idle | clearing | verifying | starting | ready
  | badMagic | badLen | badKey | badSig | badHash | rollback
  deriving DecidableEq, Repr

/-- A PCIe port's link (R431): generation and whether it runs sixteen lanes. -/
structure PcieLink where
  gen : Nat
  x16 : Bool
  deriving DecidableEq, Repr

/-- The host side: ownership, boot, attestation, power (R431 to R439). -/
structure HostSide where
  powered : Bool
  owner : Option RegAgent
  /-- Wall-clock cycle at which the lease expires; 0 without an owner. -/
  lease : Nat
  go : Bool
  boot : Boot
  arb : Nat
  svn : Nat
  imageHash : Option (List Byte)
  apbase : Nat
  limw : Nat
  throttled : Bool
  trip : Bool
  attn : List (List Byte)
  /-- The nonce of the request being served. -/
  attgo : Option (List Byte)
  report : List Byte
  links : List (Option PcieLink)
  /-- What boot has copied into command-processor memory, and the entry at which cp0 to cp7 were started (R437). -/
  cpmem : List Byte
  cpEntry : Option Nat
  deriving DecidableEq, Repr

/-- The whole state of the device. -/
structure State where
  host : HostSide
  m : Mach
  deriving DecidableEq, Repr

/-- The host side after power-up (R433, R435, R438, R439); the values of assumption 3 where the spec gives none. -/
def HostSide.reset : HostSide where
  powered := true
  owner := none
  lease := 0
  go := false
  boot := .clearing
  arb := 0
  svn := 0
  imageHash := none
  apbase := 0
  limw := 7000
  throttled := false
  trip := false
  attn := List.replicate 3 (List.replicate 64 0)
  attgo := none
  report := []
  links := [none, none]
  cpmem := []
  cpEntry := none

/-- The rest of the device after power-up: no partition exists before READY (R437), and the device is clearing. -/
def Mach.reset : Mach where
  wclk := 0
  mem := []
  poison := []
  parts := []
  members := []
  cores := []
  dieTlb := []
  walkCache := []
  walks := []
  liveDies := List.range 8
  chiplets := (List.range 16).map fun k => ⟨k, [], [], 0, (List.range 16).map fun g => ⟨g, 20 <<< 16, [], 0, false⟩⟩
  hbm := (List.range 16).map fun k => ⟨k, false, none, [], []⟩
  bars := []
  bgroups := []
  held := []
  parked := []
  cpTurn := []
  fabcfg := 0
  portup := []
  trained := false
  conns := []
  fetched := []
  transit := []
  sent := []
  ueSent := []
  ueBack := []
  ueHeld := []
  injTurn := []
  msix := []
  devlog := []
  pending := [⟨.clearingComplete, 1⟩]
  agenda := []
  cur := none
  free := 0
  nextId := 0

/-- The device right after reset (R435). -/
def State.reset : State := ⟨HostSide.reset, Mach.reset⟩

end Sys2Proof.Machine
end

