-- ==== Sys2Proof/Machine/Mem.lean ====
section
/-!
DEFINITION. Physical memory (R5, R12), page walks and permissions (R10 to R18), the check at a core (R454),
regions (R88), export admission (R27, R28).
-/

namespace Sys2Proof.Machine

/-! ### Bytes -/

/-- One byte; what the list does not hold reads 0 (R435 clears every byte). -/
def memGet : List Host.Cell → Nat → Byte
  | [], _ => 0
  | (k, v) :: r, a => if k = a then v else if a < k then 0 else memGet r a

/-- Write one byte, keeping the addresses rising and no entry zero. -/
def memSet : List Host.Cell → Nat → Byte → List Host.Cell
  | [], a, b => if b = 0 then [] else [(a, b)]
  | (k, v) :: r, a, b =>
    if k = a then (if b = 0 then r else (a, b) :: r)
    else if a < k then (if b = 0 then (k, v) :: r else (a, b) :: (k, v) :: r)
    else (k, v) :: memSet r a b

/-- Addresses strictly rising from `lo`, and no byte zero. -/
def memWfFrom : Nat → List Host.Cell → Bool
  | _, [] => true
  | lo, (k, v) :: r => decide (lo ≤ k) && v != 0 && memWfFrom (k + 1) r

/-- The canonical form of memory. -/
def Memory.wf (m : List Host.Cell) : Bool := memWfFrom 0 m

/-- `n` bytes from an address. -/
def memGets (m : List Host.Cell) (a : Nat) : Nat → List Byte
  | 0 => []
  | n + 1 => memGet m a :: memGets m (a + 1) n

/-- Write bytes from an address on. -/
def memSets (m : List Host.Cell) (a : Nat) : List Byte → List Host.Cell
  | [] => m
  | b :: bs => memSets (memSet m a b) (a + 1) bs

/-- Drop every byte of [a, a + n): they read zero. -/
def memClear (m : List Host.Cell) (a n : Nat) : List Host.Cell := m.filter fun c => c.1 < a || a + n ≤ c.1

/-- Bytes of the machine's memory. -/
def Mach.get (M : Mach) (a n : Nat) : List Byte := memGets M.mem a n

/-- Write bytes of the machine's memory at their home. A poisoned block that is written stays poisoned: the model's choice
(assumption 42). -/
def Mach.put (M : Mach) (a : Nat) (bs : List Byte) : Mach := { M with mem := memSets M.mem a bs }

/-- An eight-byte word. -/
def Mach.word (M : Mach) (a : Nat) : Word := wOfBytes (M.get a 8)

/-- Write an eight-byte word. -/
def Mach.setWord (M : Mach) (a : Nat) (w : Word) : Mach := M.put a (wBytes w)

/-- A four-byte word. -/
def Mach.word32 (M : Mach) (a : Nat) : Nat := leNat (M.get a 4)

/-- A block of the span is poisoned (R77). -/
def Mach.poisoned (M : Mach) (a n : Nat) : Bool := M.poison.any fun b => a / 64 ≤ b && b ≤ (a + n - 1) / 64

/-! ### The physical map (R12) -/

def hbmStack (k : Nat) : Nat := k * 0xC00000000
def capBase : Nat := 0x10000000000
def capChiplet (k : Nat) : Nat := capBase + k * 0x2000000000
def sramBase (core : Nat) : Nat := 0x40000000000 + core * 0x400000
def stagingBase : Nat := 0x41000000000
def bstoreBase (core : Nat) : Nat := 0x42000000000 + core * 0x200000

/-- What a physical address names. -/
inductive PaKind where
  | hbm (stack : Nat)
  | cap (chiplet : Nat)
  | sram (core off : Nat)
  | staging (slice : Nat)
  | bstore (core : Nat)
  | reserved
  deriving DecidableEq, Repr

/-- The range of R12 that holds an address. -/
def paKind (pa : Nat) : PaKind :=
  if pa < 0xC000000000 then .hbm (pa / 0xC00000000)
  else if capBase ≤ pa && pa < 0x30000000000 then .cap ((pa - capBase) / 0x2000000000)
  else if 0x40000000000 ≤ pa && pa < 0x40040000000 then
    .sram ((pa - 0x40000000000) / 0x400000) ((pa - 0x40000000000) % 0x400000)
  else if stagingBase ≤ pa && pa < 0x41020000000 then .staging ((pa - stagingBase) / 0x400000)
  else if 0x42000000000 ≤ pa && pa < 0x42020000000 then .bstore ((pa - 0x42000000000) / 0x200000)
  else .reserved

/-- The die that owns an address. -/
def paDie (pa : Nat) : Option Nat :=
  match paKind pa with
  | .hbm k => some (k / 2)
  | .cap k => some (k / 2)
  | .sram c _ => some (c / 32)
  | .staging n => some (n / 16)
  | .bstore c => some (c / 32)
  | .reserved => none

/-- The HBM stack of an address, while it switches its mode (R73, R74). -/
def Mach.switchingAt (M : Mach) (pa : Nat) : Option Nat :=
  match paKind pa with
  | .hbm k => if M.hbm.any fun s => s.num == k && s.switching.isSome then some k else none
  | _ => none

/-- A partition by its id. -/
def Mach.part (M : Mach) (id : Nat) : Option Part := M.parts.find? fun p => p.id == id

/-- Change a partition. -/
def Mach.updPart (M : Mach) (id : Nat) (f : Part → Part) : Mach :=
  { M with parts := updIf (fun p => p.id == id) f M.parts }

/-- The partition holds the die (R7). -/
def Part.owns (p : Part) (die : Nat) : Bool := p.id ≤ die && die < p.id + p.dies

/-- HRCFG.EN. -/
def Part.hrEn (p : Part) : Bool := p.hrcfg.getLsbD 0

/-- Bytes of a hot-row slot (R59). -/
def hrSlot (cfg : Word) : Nat := 64 <<< wf cfg 1 3

/-- Sets per stack, as a logarithm. -/
def hrSets (cfg : Word) : Nat := wf cfg 4 5

/-- First byte of the hot-row region of a stack (R58). -/
def hrStart (cfg : Word) (stack : Nat) : Nat := hbmStack stack + wf cfg 16 10 * 0x4000000

/-- Bytes of the region in each stack. -/
def hrSize (cfg : Word) : Nat := 16 * 2 ^ hrSets cfg * hrSlot cfg

/-- The span overlaps the hot-row region of one of the partition's stacks. -/
def hrOverlaps (p : Part) (cfg : Word) (a n : Nat) : Bool :=
  (List.range (2 * p.dies)).any fun k =>
    let s := hrStart cfg (2 * p.id + k)
    decide (a < s + hrSize cfg) && decide (s < a + n)

/-- The die that owns an address is the partition's. -/
def ownsPa (p : Part) (pa : Nat) : Bool :=
  match paDie pa with
  | some d => p.owns d
  | none => false

/-- A frame the partition owns: its dies' from the first byte to the last, and not in an enabled hot-row region
(R13, R57). The ranges of a partition's dies lie side by side, so the two ends decide. -/
def ownsFrame (p : Part) (pa n : Nat) : Bool :=
  ownsPa p pa && ownsPa p (pa + n - 1) && !(p.hrEn && hrOverlaps p p.hrcfg pa n)

/-- A frame in the partition's HBM. -/
def ownsHbm (p : Part) (pa n : Nat) : Bool :=
  (match paKind pa with
    | .hbm _ => true
    | _ => false) && ownsFrame p pa n

/-! ### Walks (R14 to R17) -/

/-- Access kinds of R32, with the bits of R17 they need. -/
inductive AKind where
  | read | write | atomic | fetch | queuePush | queuePop | engineRead | engineWrite
  deriving DecidableEq, Repr

/-- KIND of R32. -/
def AKind.code : AKind → Nat
  | .read => 0 | .write => 1 | .atomic => 2 | .fetch => 3 | .queuePush => 4 | .queuePop => 4
  | .engineRead => 5 | .engineWrite => 6

/-- A posted access: its refusal comes back imprecisely (R31). -/
def AKind.posted : AKind → Bool
  | .write | .engineWrite => true
  | _ => false

/-- The leaf's bits allow the access (R17). -/
def AKind.allowed (k : AKind) (r w x : Bool) : Bool :=
  match k with
  | .read | .queuePop | .engineRead => r
  | .write | .queuePush | .engineWrite => w
  | .atomic => r && w
  | .fetch => x

/-- Rows and columns of the pod (R415). -/
def podRows (M : Mach) : Nat := wf M.fabcfg 35 5 + 1
def podCols (M : Mach) : Nat := wf M.fabcfg 30 5 + 1

/-- This device's coordinates. -/
def Mach.self (M : Mach) : DevRef := ⟨wf M.fabcfg 25 5, wf M.fabcfg 20 5⟩

/-- Bits of the page offset below a leaf of a level. -/
def levelShift : Nat → Nat
  | 0 => 48 | 1 => 39 | 2 => 30 | 3 => 21 | _ => 16

/-- Bytes of the table a level's entry points at. -/
def tableBytes : Nat → Nat
  | 0 => 4096 | 4 => 512 | _ => 8192

/-- PT_FORMAT of an entry at a level (R15, R16). -/
def entryMalformed (M : Mach) (level : Nat) (w0 w1 : Word) : Bool :=
  let ty := wf w0 0 2
  let r := w0.getLsbD 2
  let w := w0.getLsbD 3
  let x := w0.getLsbD 4
  let s := w0.getLsbD 5
  let rpart := wf w0 6 3
  let frame := wf w0 9 35 * 512
  let pcol := wf w0 44 5
  let prow := wf w0 49 5
  let raddr := wf w1 0 56
  let res := wf w0 54 10 ≠ 0 || wf w1 56 8 ≠ 0
  match ty with
  | 1 =>
    res || r || w || x || s || rpart ≠ 0 || pcol ≠ 0 || prow ≠ 0 || raddr ≠ 0 || level == 4 ||
      frame % tableBytes (level + 1) ≠ 0
  | 2 =>
    res || rpart ≠ 0 || pcol ≠ 0 || prow ≠ 0 || raddr ≠ 0 || level < 2 ||
      frame % 2 ^ levelShift level ≠ 0 || (w && !r)
  | _ =>
    res || x || s || frame ≠ 0 || level < 2 || raddr % 2 ^ levelShift level ≠ 0 || (w && !r) ||
      prow ≥ podRows M || pcol ≥ podCols M

/-- The block lies on a die that is fenced off (R412). -/
def fenced (M : Mach) (pa : Nat) : Bool :=
  match paDie pa with
  | some d => !M.liveDies.contains d
  | none => false

/-- The entry's index in a level's table (R14). -/
def tableIndex (pva : Word) : Nat → Nat
  | 0 => wf pva 48 8 | 1 => wf pva 39 9 | 2 => wf pva 30 9 | 3 => wf pva 21 9 | _ => wf pva 16 5

/-- FRAME of an entry. -/
def entryFrame (w0 : Word) : Nat := wf w0 9 35 * 512

/-- A TABLE entry the die's walk caches hold for a level of a walk (R21). -/
def cachedTable (M : Mach) (die part : Nat) (pva : Word) (level : Nat) : Option Word :=
  (((aGet M.walkCache die).getD []).find? fun e =>
    e.part == part && e.level == level && e.pre == pva.toNat / 2 ^ levelShift level).map (·.word0)

/-- What a walk finds at one level. -/
inductive WalkStep where
  | table (w0 : Word)
  | leaf (e : TlbEntry)

/-- One level of a walk, read from memory (R14 to R16): no TABLE entry there is used unless it is well-formed and names
the partition's HBM. An INVALID entry raises PT_ABSENT whatever its other bits (assumption 36). -/
def readLevel (M : Mach) (p : Part) (pva : Word) (level table : Nat) : Except XFault WalkStep :=
  let at_ := table + 16 * tableIndex pva level
  let w0 := M.word at_
  let w1 := M.word (at_ + 8)
  let log := levelShift level
  let base := pva.toNat / 2 ^ log * 2 ^ log
  if fenced M table || M.poisoned at_ 16 then .error ⟨0x21, level, w64 (at_ / 64 * 64), pva, false⟩
  else if wf w0 0 2 = 0 then .error ⟨0x02, level, w0, pva, false⟩
  else if entryMalformed M level w0 w1 then .error ⟨0x03, level, w0, pva, false⟩
  else
    match wf w0 0 2 with
    | 1 =>
      if ownsHbm p (entryFrame w0) (tableBytes (level + 1)) then .ok (.table w0)
      else .error ⟨0x04, level, w0, pva, false⟩
    | 2 =>
      if ownsFrame p (entryFrame w0) (2 ^ log) then
        .ok (.leaf ⟨p.id, base, log, .local (entryFrame w0) (w0.getLsbD 5), w0.getLsbD 2, w0.getLsbD 3, w0.getLsbD 4,
          level, w0⟩)
      else .error ⟨0x04, level, w0, pva, false⟩
    | _ =>
      .ok (.leaf ⟨p.id, base, log, .remote ⟨wf w0 49 5, wf w0 44 5⟩ (wf w0 6 3) (wf w1 0 56), w0.getLsbD 2,
        w0.getLsbD 3, false, level, w0⟩)

/-- One level of a walk on a die (R21): a TABLE entry of W0 to W2 may come from the die's walk cache. The spec gives the
caches no size, so an entry that no longer stands in memory may or may not still be held: a free choice at each level
(assumption 36). -/
def walkLevel (M : Mach) (die : Nat) (p : Part) (pva : Word) (level table : Nat) : Except XFault WalkStep :=
  let held : Bool := Config.freeNat M.free / 2 ^ level % 2 = 0
  match cachedTable M die p.id pva level with
  | none => readLevel M p pva level table
  | some w0 =>
    match readLevel M p pva level table with
    | .ok (.table w) => .ok (.table (if w = w0 || held then w0 else w))
    | r => if held then .ok (.table w0) else r

/-- Walk from a table at a level; `fuel` counts the levels left. -/
def walkFrom (M : Mach) (die : Nat) (p : Part) (pva : Word) : Nat → Nat → Nat → Except XFault TlbEntry
  | 0, _, _ => .error ⟨0x03, 4, 0, pva, false⟩
  | fuel + 1, level, table =>
    match walkLevel M die p pva level table with
    | .error f => .error f
    | .ok (.leaf e) => .ok e
    | .ok (.table w0) => walkFrom M die p pva fuel (level + 1) (entryFrame w0)

/-- The TABLE entries of W0 to W2 a walk passes through. -/
def walkTables (M : Mach) (die : Nat) (p : Part) (pva : Word) : Nat → Nat → Nat → List WalkEntry
  | 0, _, _ => []
  | fuel + 1, level, table =>
    match walkLevel M die p pva level table with
    | .ok (.table w0) =>
      ⟨p.id, level, pva.toNat / 2 ^ levelShift level, w0⟩ :: walkTables M die p pva fuel (level + 1) (entryFrame w0)
    | _ => []

/-- Bytes the firmware maps at CARDB: eight descriptors, then eight entry arrays of 16 MiB (R385; assumption 5). -/
def cardSpan : Nat := 0x9000000

/-- Their frames, at the top of the HBM of the partition's lowest die. -/
def cardFrame (p : Part) : Nat := p.id * 0x1800000000 + 0x17F0000000

/-- The address lies in the firmware's mapping at CARDB (R385). -/
def cardHit (p : Part) (pva : Nat) : Bool := p.cardb.toNat ≤ pva && pva < p.cardb.toNat + cardSpan

/-- The W0 table PTROOT names. -/
def tableRoot (p : Part) : Nat := wf p.ptroot 12 32 * 4096

/-- The translation of a page of the firmware's mapping: a 64 KiB leaf, of the partition's frames as any other (R13). -/
def cardWalk (p : Part) (pva : Word) : Except XFault TlbEntry :=
  let base := pva.toNat / 0x10000 * 0x10000
  let pa := cardFrame p + (base - p.cardb.toNat)
  if ownsFrame p pa 0x10000 then .ok ⟨p.id, base, 16, .local pa false, true, true, false, 4, 0⟩
  else .error ⟨0x04, 4, 0, pva, false⟩

/-- Bytes of a member's save area (R406). -/
def saveSpan : Nat := 0x800000

/-- The save area of a member of an existing context that holds an address, as the byte of its frames (R406). A context
whose areas found no room has none (assumption 45). -/
def saveHit (p : Part) (pva : Nat) : Option Nat :=
  p.ctxs.findSome? fun c =>
    let first := wf p.saveb 23 33 * saveSpan + c.id * 256 * saveSpan
    if c.save ≠ 0 && first ≤ pva && pva < first + c.nmem * saveSpan then some (c.save + (pva - first)) else none

/-- The page the firmware maps for a byte of a save area: LOCAL, R = 1, W = 0 (R406). -/
def saveWalk (p : Part) (pva : Word) (pa : Nat) : Except XFault TlbEntry :=
  let frame := pa / 0x10000 * 0x10000
  if ownsFrame p frame 0x10000 then
    .ok ⟨p.id, pva.toNat / 0x10000 * 0x10000, 16, .local frame false, true, false, false, 4, 0⟩
  else .error ⟨0x04, 4, 0, pva, false⟩

/-- A walk of a partition's page table on a die (R14, R25). A root outside the partition's HBM raises PT_FOREIGN in
every walk; no walk level is involved, so LEVEL is 7 and word 0 zero (assumption 36). The firmware's mapping of the save
areas stands where the table has no entry (R406; assumption 45). -/
def walk (M : Mach) (die : Nat) (p : Part) (pva : Word) : Except XFault TlbEntry :=
  if !p.ptroot.getLsbD 0 then .error ⟨0x02, 7, 0, pva, false⟩
  else if !ownsHbm p (tableRoot p) 4096 then .error ⟨0x04, 7, 0, pva, false⟩
  else if cardHit p pva.toNat then cardWalk p pva
  else
    match walkFrom M die p pva 5 0 (tableRoot p), saveHit p pva.toNat with
    | .error f, some pa => if f.code = 0x02 then saveWalk p pva pa else .error f
    | r, _ => r

/-- The result of a walk that starts now (R21). -/
def walkResult (M : Mach) (die part : Nat) (pva : Word) : WalkResult :=
  match M.part part with
  | none => .fault ⟨0x02, 7, 0, pva, false⟩
  | some p =>
    match walk M die p pva with
    | .ok e => .found e
    | .error f => .fault f

/-- Where a translated byte lies. -/
inductive Target where
  | local (pa : Nat)
  | remote (dev : DevRef) (part : Nat) (raddr : Nat)
  deriving DecidableEq, Repr

/-- The target of a PVA under an entry. -/
def TlbEntry.target (e : TlbEntry) (pva : Nat) : Target :=
  match e.leaf with
  | .local pa _ => .local (pa + (pva - e.base))
  | .remote d p ra => .remote d p (ra + (pva - e.base))

/-- The entry covers the address for the partition. -/
def TlbEntry.covers (e : TlbEntry) (part pva : Nat) : Bool :=
  e.part == part && e.base == pva / 2 ^ e.log * 2 ^ e.log

/-- The record of a physical core. -/
def Mach.core (M : Mach) (c : Nat) : CoreRec := (M.cores.find? fun r => r.core == c).getD ⟨c, [], []⟩

/-- Change the record of a physical core. -/
def Mach.setCore (M : Mach) (r : CoreRec) : Mach :=
  { M with
    cores := if M.cores.any (fun x => x.core == r.core) then updIf (fun x => x.core == r.core) (fun _ => r) M.cores
      else M.cores ++ [r] }

/-- A cached translation: the core's, then its die's (R20). -/
def tlbFind (M : Mach) (core : Option Nat) (die part pva : Nat) : Option TlbEntry :=
  ((match core with
    | some c => (M.core c).tlb
    | none => []) ++ (aGet M.dieTlb die).getD []).find? fun e => e.covers part pva

/-- Drop the n-th of the elements a test picks. -/
def dropNth {α : Type} (t : α → Bool) : Nat → List α → List α
  | _, [] => []
  | n, x :: xs => if t x then (match n with
    | 0 => xs
    | n + 1 => x :: dropNth t n xs) else x :: dropNth t n xs

/-- Room for one more in a list that holds at most `size` of the elements a test picks: the spec names no victim, so it is
a free choice (assumption 36). -/
def tlbRoom (free size : Nat) (t : TlbEntry → Bool) (l : List TlbEntry) : List TlbEntry :=
  let n := (l.filter t).length
  if n < size then l else dropNth t (Config.freeNat free % n) l

/-- The entry falls into the same set of the die's TLB. -/
def TlbEntry.sameSet (e x : TlbEntry) : Bool := Config.tlbSet e.log e.base % 512 == Config.tlbSet x.log x.base % 512

/-- Keep a translation in a TLB of 64 entries, fully associative (R20). -/
def tlbKeep (free : Nat) (e : TlbEntry) (l : List TlbEntry) : List TlbEntry :=
  if l.contains e then l else e :: tlbRoom free 64 (fun _ => true) l

/-- Keep a translation in a die's TLB: 512 sets of eight ways (R20). -/
def dieTlbKeep (free : Nat) (e : TlbEntry) (l : List TlbEntry) : List TlbEntry :=
  if l.contains e then l else e :: (if l.length < 8 then l else tlbRoom free 8 e.sameSet l)

/-- Keep the TABLE entries of a walk in the die's walk caches: one for each level and range (R21). -/
def walkKeep (es l : List WalkEntry) : List WalkEntry :=
  es ++ l.filter fun x => !es.any fun e => e.part == x.part && e.level == x.level && e.pre == x.pre

/-- A translation is delivered on a die (R20, R21): where its TLB did not hold it, the walk's TABLE entries of W0 to W2
and the translation are kept there. -/
def dieFill (M : Mach) (die : Nat) (e : TlbEntry) : Mach :=
  let l := (aGet M.dieTlb die).getD []
  if l.contains e then M
  else
    let ts :=
      match M.part e.part with
      | some p => walkTables M die p (w64 e.base) 3 0 (tableRoot p)
      | none => []
    { M with
      dieTlb := aSet M.dieTlb die (dieTlbKeep M.free e l)
      walkCache := aSet M.walkCache die (walkKeep ts ((aGet M.walkCache die).getD []))
      free := M.free + 1 }

/-- Keep a translation in a core's TLB and, where the core missed, in its die's. -/
def tlbFill (M : Mach) (core : Option Nat) (die : Nat) (e : TlbEntry) : Mach :=
  match core with
  | none => dieFill M die e
  | some c =>
    if (M.core c).tlb.contains e then M
    else
      let M := dieFill M die e
      { M.setCore { M.core c with tlb := tlbKeep M.free e (M.core c).tlb } with free := M.free + 1 }

/-- A SCARAB page inside an attached range (R18). -/
def scarabHit (p : Part) (pva : Nat) : Bool :=
  p.attached.any fun t =>
    let base := recF t.table 0 56
    let span := recF t.table 64 56
    decide (base ≤ pva) && decide (pva < base + 2 * p.dies * span)

/-- The walk in progress that a miss of a partition on a die joins (R21). -/
def walkOf (M : Mach) (die part : Nat) (pva : Word) : Option Walk :=
  M.walks.find? fun w => w.part == part && w.die == die && w.block == pva.toNat / 0x10000

/-- What a miss of a partition on a die receives: the result of the walk of its block in progress, else of one of its own
(R21); a fault names the requester's own address. -/
def missResult (M : Mach) (die : Nat) (p : Part) (pva : Word) : Except XFault TlbEntry :=
  match walkOf M die p.id pva with
  | some w =>
    match w.result with
    | .found e => .ok e
    | .fault f => .error { f with pva := pva }
  | none => walk M die p pva

/-- An entry's leaf lets an access through (R17, R18). Every kind of access to a SCARAB page of an attached range raises
SCARAB_ACCESS, also those R18's list does not name (assumption 36). -/
def leafAllows (p : Part) (k : AKind) (pva : Word) (e : TlbEntry) : Except XFault TlbEntry :=
  if !k.allowed e.r e.w e.x then .error ⟨0x05, e.level, e.word0, pva, false⟩
  else
    match e.leaf with
    | .local _ true => if scarabHit p pva.toNat then .error ⟨0x06, e.level, e.word0, pva, false⟩ else .ok e
    | _ => .ok e

/-- Translate one byte for an access kind: the entry, or the fault of R30. -/
def xlate (M : Mach) (core : Option Nat) (die part : Nat) (k : AKind) (pva : Word) : Except XFault TlbEntry :=
  if wf pva 56 8 ≠ 0 then .error ⟨0x01, 7, 0, pva, false⟩
  else
    match M.part part with
    | none => .error ⟨0x02, 7, 0, pva, false⟩
    | some p =>
      let found : Except XFault TlbEntry :=
        match tlbFind M core die part pva.toNat with
        | some e => .ok e
        | none => missResult M die p pva
      match found with
      | .error f => .error f
      | .ok e => leafAllows p k pva e

/-- Tiles of a scratchpad size (R33). -/
def tileCount (size : Nat) : Nat := 256 + 64 * size

/-- The member that occupies a core. -/
def Mach.occupant (M : Mach) (core : Nat) : Option Member := M.members.find? fun m => m.place == .core core

/-- The check at the target core (R454): the core's occupant provides the byte. -/
def windowOk (M : Mach) (pa : Nat) : Bool :=
  match paKind pa with
  | .sram c off =>
    match M.occupant c with
    | some m => off < tileCount m.size * 0x2000
    | none => false
  | .bstore c => (M.occupant c).isSome
  | _ => true

/-- Translate a span of bytes, at most two pages of 64 KiB: the pieces, or the first fault. A byte that the occupant of its
core does not provide faults here, before the word reads what the address holds: of the checks at an object's home the spec
names no order with it (R454; assumption 36). -/
def xspan (M : Mach) (core : Option Nat) (die part : Nat) (k : AKind) (pva : Word) (n : Nat) :
    Except XFault (List (Target × Nat) × List TlbEntry) :=
  let a := pva.toNat
  let n1 := min n (0x10000 - a % 0x10000)
  let check (p : Word) (len : Nat) : Except XFault (Target × Nat × TlbEntry) :=
    match xlate M core die part k p with
    | .error f => .error f
    | .ok e =>
      match e.target p.toNat with
      | .local pa =>
        if fenced M pa then .error ⟨0x21, 7, w64 (pa / 64 * 64), p, false⟩
        else if windowOk M pa && windowOk M (pa + len - 1) then .ok (.local pa, len, e)
        else .error ⟨0x04, 7, 0, p, false⟩
      | t => .ok (t, len, e)
  if a + n > 2 ^ 56 then .error ⟨0x01, 7, 0, pva, false⟩
  else
  match check pva n1 with
  | .error f => .error f
  | .ok (t1, l1, e1) =>
    if n1 = n then .ok ([(t1, l1)], [e1])
    else
      match check (w64 (a + n1)) (n - n1) with
      | .error f => .error f
      | .ok (t2, l2, e2) => .ok ([(t1, l1), (t2, l2)], [e1, e2])

/-- Fill the TLBs with the entries of a span. -/
def tlbFills (M : Mach) (core : Option Nat) (die : Nat) (es : List TlbEntry) : Mach :=
  es.foldl (fun M e => tlbFill M core die e) M

/-- Every byte of the pieces is on this device. -/
def allLocal (ts : List (Target × Nat)) : Option (List (Nat × Nat)) :=
  ts.mapM fun t =>
    match t.1 with
    | .local pa => some (pa, t.2)
    | .remote _ _ _ => none

/-- Bytes of local pieces at their homes. -/
def homeBytes (M : Mach) (ps : List (Nat × Nat)) : List Byte := ps.flatMap fun p => M.get p.1 p.2

/-- A poisoned block among local pieces. -/
def homePoison (M : Mach) (ps : List (Nat × Nat)) : Option Nat :=
  (ps.find? fun p => M.poisoned p.1 p.2).bind fun p =>
    (M.poison.find? fun b => p.1 / 64 ≤ b && b ≤ (p.1 + p.2 - 1) / 64).map (· * 64)

/-- Write bytes over local pieces at their homes. -/
def homeWrite (M : Mach) : List (Nat × Nat) → List Byte → Mach
  | [], _ => M
  | (pa, n) :: ps, bs => homeWrite (M.put pa (bs.take n)) ps (bs.drop n)

/-- Remote pieces of a span. -/
def remotePieces (ts : List (Target × Nat)) : Nat :=
  (ts.filter fun t =>
    match t.1 with
    | .remote _ _ _ => true
    | .local _ => false).length

/-- Translate a span of any length, 64 KiB page by page, from a core's or a die's TLB, and keep the translations there;
the first fault otherwise. -/
def spanLong (core : Option Nat) (die part : Nat) (k : AKind) :
    Nat → Mach → Word → Nat → Except XFault (Mach × List (Target × Nat))
  | 0, M, _, _ => .ok (M, [])
  | fuel + 1, M, pva, n =>
    let n1 := min n (0x10000 - pva.toNat % 0x10000)
    match xspan M core die part k pva n1 with
    | .error f => .error f
    | .ok (ts, es) =>
      let M := tlbFills M core die es
      if n1 = n then .ok (M, ts)
      else
        match spanLong core die part k fuel M (pva + w64 n1) (n - n1) with
        | .error f => .error f
        | .ok (M, rest) => .ok (M, ts ++ rest)

/-- A span of any length; an empty one has no piece. A span that ends above bit 55 faults before any of it is translated
(R10). -/
def longSpan (M : Mach) (core : Option Nat) (die part : Nat) (k : AKind) (pva : Word) (n : Nat) :
    Except XFault (Mach × List (Target × Nat)) :=
  if n = 0 then .ok (M, [])
  else if pva.toNat + n > 2 ^ 56 then .error ⟨0x01, 7, 0, pva, false⟩
  else spanLong core die part k (n / 0x10000 + 2) M pva n

/-- A span in a die's TLB, where engines and the device translate (R20). -/
def dieSpan (M : Mach) (die part : Nat) (k : AKind) (pva : Word) (n : Nat) : Except XFault (Mach × List (Target × Nat)) :=
  longSpan M none die part k pva n

/-- A read by an engine or the device of a partition, at the homes, through the die's TLB, of pages that must be LOCAL:
bytes or the fault. -/
def devRead (M : Mach) (die part : Nat) (k : AKind) (pva : Word) (n : Nat) : Except XFault (Mach × List Byte) :=
  match dieSpan M die part k pva n with
  | .error f => .error f
  | .ok (M, ts) =>
    match allLocal ts with
    | some ps =>
      match homePoison M ps with
      | some pa => .error ⟨0x21, 7, w64 pa, pva, false⟩
      | none => .ok (M, homeBytes M ps)
    | none => .error ⟨0x05, 7, 0, pva, false⟩

/-- A write by an engine or the device, at the homes, of pages that must be LOCAL. -/
def devWrite (M : Mach) (die part : Nat) (k : AKind) (pva : Word) (bs : List Byte) : Except XFault Mach :=
  match dieSpan M die part k pva bs.length with
  | .error f => .error f
  | .ok (M, ts) =>
    match allLocal ts with
    | some ps => .ok (homeWrite M ps bs)
    | none => .error ⟨0x05, 7, 0, pva, false⟩

/-! ### Regions (R88) -/

/-- The enabled region entry that holds an address; none is the default region. -/
def regionOf (p : Part) (pva : Nat) : Option RegionEntry :=
  p.regions.find? fun r => decide (r.base ≤ pva) && decide (pva < r.base + r.pages * 0x10000)

/-- Every byte of a span lies in the default region. -/
def inDefault (p : Part) (pva n : Nat) : Bool := (regionOf p pva).isNone && (regionOf p (pva + n - 1)).isNone

/-! ### Admission at a receiving port (R27, R28) -/

/-- What a remote access asks an export entry for. -/
inductive EKind where
  | r | w | a | q
  deriving DecidableEq, Repr

/-- Ports that receive requests (R414). -/
def fabricPorts : Nat := 62

/-- The cycle from which a port holds the copy of a LOAD (R29). -/
def ExportLoad.madeAt (l : ExportLoad) (port : Nat) : Nat := l.start + 1 + Config.portDelay l.num port

/-- The copy a port holds in a cycle: the newest whose load it has made, loads being listed newest first (R29). -/
def portCopy (port t : Nat) : List ExportEntry → List ExportLoad → List ExportEntry
  | es, [] => es
  | es, l :: ls => if l.madeAt port ≤ t then es else portCopy port t l.old ls

/-- The export entries of the port a request reaches (R29; assumption 43). -/
def Part.exportsAt (p : Part) (t port : Nat) : List ExportEntry := portCopy port t p.exports p.exportLoads

/-- The port a packet enters this device by (R29; assumption 43). -/
def packetPort (p : Packet) : Nat := Config.arrivalPort p.src.row p.src.col p.seq % fabricPorts

/-- An enabled export entry grants every byte (R27 step 2). -/
def exported (es : List ExportEntry) (k : EKind) (addr n : Nat) : Bool :=
  es.any fun e =>
    decide (e.base ≤ addr) && decide (addr + n ≤ e.base + e.pages * 0x10000) &&
      match k with
      | .r => e.r | .w => e.w | .a => e.a | .q => e.q

/-- R27's check 1; a request that comes while the partition is changed fails it (R9). -/
def keyOk (M : Mach) (part : Nat) (key : Nat) : Bool :=
  match M.part part with
  | some p => p.key ≠ 0 && p.key.toNat == key && decide (p.changing ≤ M.wclk)
  | none => false

/-- R27 for a remote access by a port: the local pieces it reaches, or the code of the refusal. The port translates in the
TLB and the walk caches of the partition's lowest die and keeps nothing there: the spec names no die (assumption 43). -/
def admission (M : Mach) (part port key : Nat) (ek : EKind) (ak : AKind) (addr n : Nat) :
    Except Nat (List (Nat × Nat)) :=
  if !keyOk M part key then .error 0x07
  else
    match M.part part with
    | none => .error 0x07
    | some p =>
      if !exported (p.exportsAt M.wclk port) ek addr n then .error 0x08
      else
        match xspan M none part part ak (w64 addr) n with
        | .error f => .error (if f.code = 0x21 then 0x21 else 0x0A)
        | .ok (ts, es) =>
          -- writes, pushes, QOCTL, atomics and object operations need R and W
          if es.any (fun e => !e.r) then .error 0x0A
          else
            match allLocal ts with
            | some ps => .ok ps
            | none => .error 0x09

end Sys2Proof.Machine
end

