-- ==== Sys2Proof/Machine/Ops.lean ====
section
/-!
DEFINITION. The operations every instruction shares: members and streams, scalar results in time (R149 to R151),
hardware loops (R160), issuing a word, waiting, taking a trap (R158, R228, R396 to R399) and returning from one (R224).
-/

namespace Sys2Proof

/-- The streams in the order that breaks ties (R155, R396). -/
def Strm.all : List Strm := [.c, .a, .v, .x]

/-- Number of a stream in records (R230, R397). -/
def Strm.num : Strm → Nat
  | .c => 0 | .a => 1 | .v => 2 | .x => 3

end Sys2Proof

namespace Sys2Proof.Machine

/-! ### Members and streams -/

/-- A member by its name. -/
def Mach.member (M : Mach) (r : MRef) : Option Member := M.members.find? fun m => m.ref == r

/-- Put a member back in its place. -/
def Mach.putMember (M : Mach) (m : Member) : Mach :=
  { M with members := updIf (fun x => x.ref == m.ref) (fun _ => m) M.members }

/-- Change a member. -/
def Mach.updMember (M : Mach) (r : MRef) (f : Member → Member) : Mach :=
  { M with members := updIf (fun x => x.ref == r) f M.members }

/-- A stream of a member. -/
def Member.str (m : Member) : Strm → Stream
  | .c => m.c | .a => m.a | .v => m.v | .x => m.x

/-- Put a stream back. -/
def Member.setStr (m : Member) (st : Strm) (s : Stream) : Member :=
  match st with
  | .c => { m with c := s } | .a => { m with a := s } | .v => { m with v := s } | .x => { m with x := s }

/-- Change a stream. -/
def Member.updStr (m : Member) (st : Strm) (f : Stream → Stream) : Member := m.setStr st (f (m.str st))

/-- The core a member occupies. -/
def Member.core (m : Member) : Option Nat :=
  match m.place with
  | .core c => some c
  | .image => none

/-- The die whose units serve a member: of its core, or of its placement when switched out. -/
def Member.die (m : Member) : Nat :=
  match m.place with
  | .core c => c / 32
  | .image => m.home / 32

/-- Tiles of the member's scratchpad. -/
def Member.tilesN (m : Member) : Nat := tileCount m.size

/-- A fresh number. -/
def Mach.fresh (M : Mach) : Mach × Nat := ({ M with nextId := M.nextId + 1 }, M.nextId)

/-- Raise an event that happens from wall-clock cycle `wclk + d` on. -/
def Mach.raise (M : Mach) (d : Nat) (e : Event) : Mach := { M with pending := M.pending ++ [⟨e, M.wclk + d⟩] }

/-- The last cycle a member can perform before timed data must land (R153): a late load freezes the core there. -/
def Member.limit (m : Member) : Option Nat :=
  let ds := m.slots.toList.filterMap fun l => if l.state = .pending then l.due else none
  leastBy (fun d => d) ds |>.map (· - 1)

/-! ### Logs (R4, R413) -/

/-- Log in the device log. -/
def Mach.logDev (M : Mach) (unit value : Nat) : Mach := { M with devlog := M.devlog ++ [⟨unit, value⟩] }

/-- Write the next entry of a partition's error-log ring (R413), where its ring lies in the partition's HBM. -/
def Mach.logPart (M : Mach) (part cause unit : Nat) (value : Word) : Mach :=
  match M.part part with
  | none => M
  | some p =>
    let base := wf p.elog 12 32 * 4096
    let head := wf p.elog 0 7
    if ownsHbm p base 4096 then
      let a := base + 32 * head
      let M := ((M.setWord a (w64 M.wclk)).setWord (a + 8) (w64 (cause + unit <<< 8))).setWord (a + 16) value
      let M := M.setWord (a + 24) 0
      M.updPart part fun p => { p with elog := w64 (putFld p.elog.toNat 0 7 (head + 1)) }
    else M

/-- Log an ignored write of a partition's register (R4). R413 gives units of cores and ports only: the unit of a host or of
the firmware is 0, the model's choice (assumption 8). -/
def Mach.logIgnored (M : Mach) (part : Nat) (value : Word) : Mach := M.logPart part 0xFF 0 value

/-- Unit number of a member in logs. -/
def Member.unit (m : Member) : Nat :=
  match m.core with
  | some c => c / 32 * 256 + c
  | none => 0

/-! ### Scalar results in time (R149, R150) -/

/-- Write a register; writes to s0 are discarded (R147). -/
def Stream.write (s : Stream) (d : Dst) (v : Word) : Stream :=
  match d with
  | .s n => if n = 0 then s else { s with s := s.s.set n.toNat v n.isLt }
  | .o n => { s with o := s.o.set n.toNat v n.isLt }
  | .none => s

/-- A write of the latch or of a register, with its cycle and the issue cycle of its word. -/
inductive Landing where
  | latch (cycle iss : Nat) (v : Word)
  | reg (cycle iss : Nat) (d : Dst) (v : Word)
  deriving DecidableEq, Repr

/-- Order of landings: by cycle, and within a cycle the later-issued word last (R150). -/
def Landing.before : Landing → Landing → Bool
  | x, y =>
    let k : Landing → Nat × Nat := fun
      | .latch c i _ => (c, i)
      | .reg c i _ _ => (c, i)
    (k x).1 < (k y).1 || ((k x).1 == (k y).1 && (k x).2 ≤ (k y).2)

/-- Insert a landing after those that are not later. -/
def insLanding (x : Landing) : List Landing → List Landing
  | [] => [x]
  | y :: ys => if y.before x then y :: insLanding x ys else x :: y :: ys

/-- Landings of one result up to a cycle. -/
def InFlight.landings (f : InFlight) (t : Nat) : List Landing :=
  if f.slot.isSome then []
  else
    (if !f.latched && f.due ≤ t then
      (match f.writes with
        | [] => []
        | (_, v) :: _ => [.latch f.due f.iss v])
     else []) ++
    (if f.due + 1 ≤ t then f.writes.map fun w => .reg (f.due + 1) f.iss w.1 w.2 else [])

/-- Perform a landing. -/
def Stream.land (s : Stream) : Landing → Stream
  | .latch _ _ v => { s with lat := v }
  | .reg _ _ d v => s.write d v

/-- A waiting word sees a result of its stream written: it looks again in the cycle after the first such (R154). -/
def Wait.seen (w : Wait) (cycles : List Nat) : Wait :=
  if w.granted.isSome then w
  else { w with granted := (leastBy (fun d => d) (cycles.filter fun d => w.tried < d)).map (· + 1) }

/-- Every result that falls in a cycle up to t is written, in order. -/
def Stream.settle (s : Stream) (t : Nat) : Stream :=
  let fs := s.inflight
  let ls := (fs.flatMap fun f => f.landings t).foldl (fun acc x => insLanding x acc) []
  let s := ls.foldl Stream.land s
  { s with
    inflight := (fs.filter fun f => f.slot.isSome || t < f.due + 1).map fun f =>
      if f.slot.isNone && f.due ≤ t then { f with latched := true } else f
    wait := s.wait.map fun w =>
      w.seen ((fs.filter fun f => f.slot.isNone && f.due + 1 ≤ t).map fun f => f.due + 1) }

/-- A free slot. -/
def LSlot.empty : LSlot := ⟨.free, 0, .c, .none, none, .b8, false, 0, 0, 0⟩

/-- Slots whose delivery lies before cycle t are free again (R153). -/
def freeSlots (t : Nat) (v : Vector LSlot 32) : Vector LSlot 32 :=
  v.map fun l =>
    match l.state, l.due with
    | .landed, some d => if d + 1 ≤ t then LSlot.empty else l
    | _, _ => l

/-- Bring a member's core to cycle t. -/
def Member.settle (m : Member) (t : Nat) : Member :=
  { m with
    c := m.c.settle t
    a := m.a.settle t
    v := m.v.settle t
    x := m.x.settle t
    slots := freeSlots t m.slots
    cycle := max m.cycle t }

/-! ### Fetch (R167, R152) -/

/-- The word at a stream's program counter: its bits, or the fault of the fetch.
Code is read at its home. -/
def fetch (M : Mach) (m : Member) (pc : Word) : Except XFault Word :=
  match xspan M m.core m.die m.ref.part .fetch pc 8 with
  | .error f => .error f
  | .ok (ts, _) =>
    match allLocal ts with
    | some ps =>
      match homePoison M ps with
      | some pa => .error ⟨0x21, 7, w64 pa, pc, false⟩
      | none => .ok (wOfBytes (homeBytes M ps))
    | none => .error ⟨0x05, 7, 0, pc, false⟩

/-- The translation of a fetch is cached (R152: otherwise the core freezes until the word is fetched). -/
def fetchHit (M : Mach) (m : Member) (pc : Word) : Bool :=
  (tlbFind M m.core m.die m.ref.part pc.toNat).isSome

/-- The first cycle in which a word may issue by its spacing (R151). -/
def Stream.earliest (s : Stream) (raw : Word) : Nat := max (s.last + max (wordIdle raw).toNat 1) s.floor

/-- When a waiting word issues or looks again: the cycle after its condition held (R154), or after the next result of its
stream is written. -/
def Stream.again (s : Stream) (w : Wait) : Option Nat :=
  w.granted.or (w.seen ((s.inflight.filter fun f => f.slot.isNone).map fun f => f.due + 1)).granted

/-- The stream may take a result or a trap of its own: not parked by a handler, its core running. -/
def Member.mayLand (m : Member) (st : Strm) : Bool :=
  (m.handler.isNone || st == .c) && m.freeze == .none && m.core.isSome

/-- The stream may perform a word: its core runs, no handler holds it, no untimed result or trap of its own is due
(R144, R152, R153, R158). -/
def Member.mayIssue (m : Member) (st : Strm) : Bool :=
  m.mayLand st && (m.str st).running && (m.str st).untimed.isNone && !(m.raised.any fun r => r.1 == st)

/-- The spacing of the word at the program counter; a word that cannot be fetched has none. -/
def nextEarliest (M : Mach) (m : Member) (s : Stream) : Nat :=
  match fetch M m s.pc with
  | .ok raw => s.earliest raw
  | .error _ => s.earliest 0

/-- The cycle in which a stream next issues or attempts its word. -/
def attemptAt (M : Mach) (m : Member) (st : Strm) : Option Nat :=
  let s := m.str st
  if !m.mayIssue st then none
  else
    match s.wait with
    | none => some (nextEarliest M m s)
    | some w => (s.again w).map fun g => max g (nextEarliest M m s)

/-- The last cycle a member can have reached: before late data land, and no later than its streams' next words. -/
def Member.bound (m : Member) (M : Mach) : Option Nat :=
  leastBy (fun d => d) (m.limit.toList ++ Strm.all.filterMap (attemptAt M m))

/-- The architectural cycle a member has reached on the wall clock (R152): a frozen core stays where it is. -/
def Member.now (m : Member) (M : Mach) : Nat :=
  if m.freeze ≠ .none then m.cycle
  else
    match m.bound M with
    | some l => max m.cycle (min (M.wclk - m.skew) l)
    | none => max m.cycle (M.wclk - m.skew)

/-- A freeze ends: the cycle that waited is performed now (R152). -/
def Member.thaw (m : Member) (M : Mach) : Member :=
  { m with freeze := .none, skew := max m.skew (M.wclk - m.cycle) }

/-- The cycle in which a stream's word issues. -/
def issueCycle (M : Mach) (m : Member) (s : Stream) (raw : Word) : Nat :=
  match s.wait with
  | none => s.earliest raw
  | some w => max ((s.again w).getD (m.now M)) (s.earliest raw)

/-! ### Traps -/

/-- A program trap with the word as TVAL. -/
def progTrap (cause : Nat) (tval aux : Word) : TrapInfo := ⟨cause, false, tval, aux, [], false⟩

/-- Illegal instruction (R179). -/
def illInstr (raw : Word) : TrapInfo := progTrap 0x12 raw 0

/-- Illegal operand. -/
def illOpnd (raw : Word) : TrapInfo := progTrap 0x13 raw 0

/-- TAG_POISON with the tile and its cause (R395). -/
def tagPoison (raw : Word) (tile pcause : Nat) : TrapInfo := progTrap 0x14 raw (w64 (tile + pcause <<< 16))

/-- Status word of a translation detail (R32). -/
def xstatus (f : XFault) (k : AKind) : Word :=
  w64 (f.code + f.level <<< 8 + k.code <<< 16 + (if f.remote then 1 <<< 19 else 0))

/-- The system trap XLATE at a word (R30 to R32); a torn-down connection gives ABORT instead (R423), a block that cannot be read ECC (R77, R412). -/
def xlateTrap (raw : Word) (f : XFault) (k : AKind) : TrapInfo :=
  if f.code = 0x22 then ⟨0x22, true, raw, 0, [], false⟩
  else if f.code = 0x21 then ⟨0x21, true, raw, f.word0, [], false⟩ else
  ⟨0x20, true, raw, 0, [f.pva, f.word0, xstatus f k, 0], false⟩

/-- XLATE of an engine command, with its number and committed position. -/
def engineTrap (num : Nat) (f : XFault) (k : AKind) (commit : Nat) : TrapInfo :=
  if f.code = 0x22 then ⟨0x22, true, 0, w64 num, [], false⟩
  else if f.code = 0x21 then ⟨0x21, true, 0, f.word0, [], false⟩ else
  ⟨0x20, true, 0, w64 num, [f.pva, f.word0, xstatus f k, w64 commit], false⟩

/-- The system trap ECC at a word (R77). -/
def eccTrap (raw : Word) (pa : Nat) : TrapInfo := ⟨0x21, true, raw, w64 pa, [], false⟩

/-- An imprecise refusal taken at a word (R31, R48, R46), or a block an engine could not read (R77). -/
def impreciseTrap (raw : Word) (r : Imprecise) : TrapInfo :=
  if r.code = 0x23 then ⟨0x23, true, raw, r.aux, [], false⟩
  else if r.code = 0x22 then ⟨0x22, true, raw, r.aux, [], false⟩
  else if r.code = 0x21 then ⟨0x21, true, raw, r.aux, [], false⟩
  else ⟨0x20, true, raw, r.aux,
    [r.pva, r.word0,
      w64 (r.code + r.level <<< 8 + r.akind <<< 16 + (if r.remote then 1 <<< 19 else 0) + 1 <<< 20 + r.strm.num <<< 21),
      w64 r.commit],
    false⟩

/-- WAIT code of SSTAT (R398). -/
def WaitKind.code : WaitKind → Nat
  | .tag => 1 | .queue => 2 | .mailbox => 3 | .slot => 4 | .acq => 5 | .timeline => 6 | .grid => 7 | .bar => 8
  | .done => 9 | .untimed => 10 | .cpgo => 11 | .matrix => 12

/-- The wait a stream is in, by code. -/
def Stream.waitCode (s : Stream) : Nat :=
  match s.wait, s.untimed with
  | some w, _ => w.kind.code
  | none, some u =>
    match u.needs with
    | .acq _ _ _ => WaitKind.acq.code
    | _ => WaitKind.untimed.code
  | none, none => 0

/-- SSTAT of a stream (R398); the trapping stream is in no wait. -/
def sstat (s : Stream) (trapping : Bool) (lkind : Nat) : Nat :=
  let w := if trapping then 0 else s.waitCode
  let run := if trapping then 3 else if !s.running then 0 else if w ≠ 0 then 2 else 1
  run + w <<< 4 + lkind <<< 8

/-- Where the byte at an offset of the member's save area lies (R406): a LOCAL page readable by the partition. -/
def savePa (M : Mach) (m : Member) (off : Nat) : Option Nat :=
  match M.part m.ref.part with
  | none => none
  | some p =>
    let pva := w64 (wf m.tsave 0 56 + off)
    match walk M m.die p pva with
    | .ok e =>
      match e.target pva.toNat with
      | .local pa => some pa
      | _ => none
    | .error _ => none

/-- Write bytes into the save area, at most n blocks of 64 KiB; no page is smaller, and what is not mapped is lost. -/
def imageBlocks (M : Mach) (m : Member) : Nat → Nat → List Byte → Mach
  | 0, _, _ => M
  | n + 1, off, bs =>
    if bs = [] then M
    else
      let k := 0x10000 - off % 0x10000
      imageBlocks
        (match savePa M m off with
          | some pa => M.put pa (bs.take k)
          | none => M)
        m n (off + k) (bs.drop k)

/-- Write bytes into the save area. -/
def imagePut (M : Mach) (m : Member) (off : Nat) (bs : List Byte) : Mach := imageBlocks M m (bs.length / 0x10000 + 2) off bs

/-- Write words into the save area. -/
def saveWords (M : Mach) (m : Member) (off : Nat) (ws : List Word) : Mach := imagePut M m off (ws.flatMap wBytes)

/-- Drop a core's copies of a line's bytes (R397: the record's lines leave the core's L1). -/
def dropLines (M : Mach) (core : Option Nat) (pa n : Nat) : Mach :=
  match core with
  | none => M
  | some c =>
    let r := M.core c
    M.setCore { r with l1 := r.l1.filter fun x => x.line < pa / 64 || (pa + n - 1) / 64 < x.line }

/-- The stream's next word has been fetched (R398): it was attempted, or the stream runs and the core holds the word's
translation (assumption 46). -/
def Member.fetched (m : Member) (M : Mach) (st : Strm) (attempted : Bool) (pc : Word) : Bool :=
  (m.str st).running && (attempted || (m.str st).wait.isSome || fetchHit M m pc)

/-- One stream's part of the trap record (R398, R399): `pc` is where it goes on, `attempted` says that the word there is
the one that trapped. -/
def streamPart (M : Mach) (m : Member) (st : Strm) (trapping attempted : Bool) (pc : Word) : List Word :=
  let s := m.str st
  let word :=
    match fetch M m pc with
    | .ok w => if m.fetched M st attempted pc then w else 0
    | .error _ => 0
  let faulting : Option Cmd := m.cmds.find? fun c => c.sys.isSome && c.st == st
  let (lk, commit, spec, aux2) : Nat × Nat × Nat × Nat :=
    match st with
    | .x =>
      match m.nest with
      | some n => (1, n.committed, n.spec, 0)
      | none => (0, 0, 0, 0)
    | .a =>
      match m.region, faulting with
      | some r, _ =>
        let taken (i : Nat) : Nat := min 0xFFFF ((m.tc.toList.getD i (0, 0)).1 - r.issue.getD i 0)
        (2, r.marker.toNat, r.lastPc.toNat, taken 0 + taken 1 <<< 16 + taken 2 <<< 32 + taken 3 <<< 48)
      | none, some c => (3, c.pos, max c.pos c.spec, c.ref.tc <<< 62 + c.ref.num % 2 ^ 62)
      | none, none => (0, 0, 0, 0)
    | _ => (0, 0, 0, 0)
  [pc, word, w64 (sstat s trapping lk), w64 commit, w64 spec, w64 aux2, 0, 0]

/-- A PC as lps, lpe, tvec and tepc hold it (R230). -/
def pcField (w : Word) : Word := w &&& 0x00FFFFFFFFFFFFF8

/-- Where the trapping stream resumes (R223, R228). -/
def resumePc (pc : Word) (i : TrapInfo) : Word := if i.next then pc + 8 else pc

/-- The trap record (R397): 64 common bytes and a part for each stream. -/
def trapRecord (M : Mach) (m : Member) (t : Option (Strm × TrapInfo)) (esc pre : Bool) (pcs : Strm → Word) :
    List Word :=
  let (cause, strm, tval, aux, detail) : Nat × Nat × Word × Word × List Word :=
    match t with
    | some (st, i) => (i.cause, st.num, i.tval, i.aux, i.detail)
    | none => (0, 0, 0, 0, [])
  let rstat := cause + strm <<< 16 + (if pre then 1 <<< 22 else 0) + (if esc then 1 <<< 23 else 0)
  let tepc :=
    match t with
    | some (st, i) => pcField (resumePc (pcs st) i)
    | none => 0
  let next (st : Strm) : Word :=
    match t with
    | some (x, _) => if x = st then tepc else pcs st
    | none => pcs st
  [w64 rstat, tepc, tval, aux, detail.getD 0 0, detail.getD 1 0, detail.getD 2 0, detail.getD 3 0] ++
    Strm.all.flatMap fun st =>
      streamPart M m st (t.map (·.1) == some st) (t.any fun x => x.1 == st && !x.2.next) (next st)

/-- Write the trap record at its home and drop the core's copies of its lines. -/
def writeRecord (M : Mach) (m : Member) (r : List Word) : Mach :=
  let M := saveWords M m 0x1000 r
  match savePa M m 0x1000 with
  | some pa => dropLines M m.core pa 320
  | none => M

/-- Set one stream's results and latch aside (R158). -/
def Stream.aside (s : Stream) : Aside := ⟨s.inflight, s.lat⟩

/-- A word in a named wait counts as not issued; it issues in cycle t or later, and the wait has lasted until t (R229). -/
def Stream.unwait (s : Stream) (t : Nat) : Stream :=
  match s.wait with
  | some w => { s with wait := none, floor := max s.floor t, nstall := s.nstall + (t - w.since) }
  | none => s

/-- A stream while a handler runs: no result lands, and a word in a named wait counts as not issued. -/
def Stream.park (s : Stream) (tau : Nat) : Stream := { s.unwait tau with inflight := [] }

/-- Among traps of one cycle: a system trap first, then the stream order (R396). -/
def chooseTrap (l : List (Strm × TrapInfo)) : Option (Strm × TrapInfo) :=
  leastBy (fun x => (if x.2.system then 0 else 4) + x.1.num) l

/-- A member with the trap CSRs written (R228, R395). -/
def Member.trapCsrs (m : Member) (st : Strm) (i : TrapInfo) : Member :=
  { m with
    tcause := w64 i.cause
    tstrm := w64 st.num
    tepc := pcField (resumePc (m.str st).pc i)
    tval := i.tval }

/-- The trap is escalated (R228, R401). -/
def Member.escalates (m : Member) (i : TrapInfo) : Bool := i.system || m.handler.isSome || m.tvec = 0

/-- Escalation: the core stays frozen, and every waiting word counts as not issued. -/
def Member.escalate (m : Member) (st : Strm) (i : TrapInfo) (tau : Nat) : Member :=
  let m := m.trapCsrs st i
  { m with
    freeze := .escalated
    escalated := some (st, i)
    raised := []
    taking := []
    c := m.c.unwait tau
    a := m.a.unwait tau
    v := m.v.unwait tau
    x := m.x.unwait tau }

/-- Handler entry at cycle τ (R158, R228): results and latches are set aside, and C issues from tvec. -/
def Member.enterHandler (m : Member) (st : Strm) (i : TrapInfo) (tau : Nat) : Member :=
  let h : Handler :=
    { tau := tau, strm := st
      c := m.c.aside, a := m.a.aside, v := m.v.aside, x := m.x.aside
      cpc := m.c.pc, crunning := m.c.running, clast := m.c.last, cfloor := (m.c.unwait tau).floor, cuntimed := m.c.untimed, cback := none
      slotDue := m.slots.toList.zipIdx.filterMap fun p => p.1.due.map fun d => (p.2, d) }
  let m := m.trapCsrs st i
  { m with
    handler := some h
    raised := []
    taking := []
    c := { m.c.park tau with pc := m.tvec, running := true, floor := tau + 1, untimed := none }
    a := m.a.park tau
    v := m.v.park tau
    x := m.x.park tau
    slots := m.slots.map fun l => { l with due := none } }

/-- A stream has an ACQ under way at another device (R259). -/
def Stream.acqAway (s : Stream) : Bool :=
  match s.untimed.map Untimed.needs with
  | some (.acq _ _ none) => true
  | _ => false

/-- The ACQs under way at other devices are withdrawn: the member's core is frozen or switched (R259). -/
def settleAcqs (M : Mach) (m : Member) : Mach :=
  Strm.all.foldl (fun M st => if (m.str st).acqAway then M.raise 0 (.acqWithdrawal m.ref st) else M) M

/-- Remote bytes for words that stand in a named wait: those words count as not issued and read anew. -/
def dropAsked (M : Mach) (m : Member) : Mach :=
  let stands (f : Fetch) : Bool :=
    f.who == m.ref && Strm.all.any fun st => (m.str st).wait.any fun w => w.cond == .fetched f.tag
  { M with fetched := M.fetched.filter fun f => !stands f }

/-- Taking a trap (R158, R228, R397, R401): the one operation for every program and system trap. -/
def takeTrap (M : Mach) (m : Member) (st : Strm) (i : TrapInfo) (tau : Nat) : Mach :=
  let esc := m.escalates i
  let M := settleAcqs (dropAsked (writeRecord M m (trapRecord M m (some (st, i)) esc false fun s => (m.str s).pc)) m) m
  if esc then
    let M := M.putMember (m.escalate st i tau)
    let M := M.logPart m.ref.part i.cause m.unit i.tval
    M.raise 0 (.escalation m.ref)
  else M.putMember (m.enterHandler st i tau)

/-- What a trap takes is gone (R31, R455). -/
def Member.take (m : Member) : Taken → Member
  | .refusal st r => m.updStr st fun s => { s with imprecise := dropFirst (fun x => x == r) s.imprecise }
  | .deferred cs cause =>
    { m with
      cmds :=
        updIf (fun c => cs.contains c.ref) (fun c => { c with deferred := c.deferred.filter fun d => d.cause != cause })
          m.cmds }
  | .nest => { m with nest := m.nest.map fun n => { n with fault := none } }

/-- What the raised trap of a stream takes is gone: it is the one that is taken. -/
def Member.takeFor (m : Member) (st : Strm) : Member :=
  (m.taking.filter fun x => x.1 == st).foldl (fun m x => m.take x.2) m

/-- A refusal has been taken: a TLSIG that waited for that looks again (R105). -/
def wakeSignals (M : Mach) (m : Member) : Mach :=
  m.cmds.foldl
    (fun M c =>
      match c.run with
      | .signal _ _ => if c.finished then M else M.raise 1 (.commandCompletion c.ref)
      | _ => M)
    M

/-- A stream that could still issue in cycle t (R158). -/
def issuesAt (M : Mach) (m : Member) (t : Nat) (st : Strm) : Bool := (attemptAt M m st).any fun u => decide (u ≤ t)

/-- At the end of a cycle's issues, one of the traps raised in it is taken (R158, R396). -/
def endCycle (M : Mach) (r : MRef) (t : Nat) : Mach :=
  match M.member r with
  | none => M
  | some m =>
    match chooseTrap m.raised with
    | none => M
    | some (st, i) =>
      if Strm.all.any (issuesAt M m t) then M
      else
        let M := takeTrap M (m.takeFor st) st i t
        if m.taking.any fun x => x.1 == st then wakeSignals M m else M

/-! ### Issuing a word -/

/-- What a word's meaning sees: the machine with the member brought to the issue cycle. -/
structure Ctx where
  M : Mach
  mem : Member
  st : Strm
  t : Nat
  pc : Word
  raw : Word
  deriving Repr

/-- How an issue ends. -/
inductive Res where
  /-- Issued; the stream continues with the next word, under the hardware loops. -/
  | done (M : Mach)
  /-- Issued as a taken branch. -/
  | jump (M : Mach) (target : Word)
  /-- Issued; the meaning has placed the stream itself. -/
  | placed (M : Mach)
  /-- Issued; untimed: the stream waits for its result (R153). -/
  | untimed (M : Mach) (u : Untimed)
  /-- Not issued: a precise trap, nothing performed. -/
  | trap (i : TrapInfo)
  /-- Not issued: a trap that takes a refusal or a deferred fault with it; what the word did before stands. -/
  | trapTaking (M : Mach) (k : Taken) (i : TrapInfo)
  /-- Not issued: a precise trap after effects that stand (SCADD, R257). -/
  | trapAfter (M : Mach) (i : TrapInfo)
  /-- Not issued: a named wait (R154). -/
  | wait (k : WaitKind) (c : WaitCond)
  /-- Not issued: a named wait, begun with an effect that stands. -/
  | waitOn (M : Mach) (k : WaitKind) (c : WaitCond)
  /-- Not issued: the core freezes (R152). -/
  | freeze (f : Freeze)

/-- The issuing stream. -/
def Ctx.s (c : Ctx) : Stream := c.mem.str c.st

/-- The word after w by the hardware loops (R160), with the counts they leave. -/
def loopNext (s : Stream) (pc : Word) : Stream × Word :=
  let level0 (s : Stream) : Stream × Word :=
    if s.lpc0 ≠ 0 ∧ pc = s.lpe0 then
      (if s.lpc0.toNat > 1 then ({ s with lpc0 := s.lpc0 - 1 }, s.lps0) else ({ s with lpc0 := 0 }, pc + 8))
    else (s, pc + 8)
  if s.lpc1 ≠ 0 ∧ pc = s.lpe1 then
    (if s.lpc1.toNat > 1 then ({ s with lpc1 := s.lpc1 - 1 }, s.lps1) else level0 { s with lpc1 := 0 })
  else level0 s

/-- Cycles a word spent in its named wait (R229). -/
def Stream.waited (s : Stream) (t : Nat) : Nat :=
  match s.wait with
  | some w => t - w.since
  | none => 0

/-- The stream has issued its word at cycle t: counters, spacing, no wait. -/
def Stream.issued (s : Stream) (t waited : Nat) : Stream :=
  { s with last := t, floor := t + 1, nissue := s.nissue + 1, nstall := s.nstall + waited, wait := none }

/-- The next word in sequence; no level matches while a handler runs (R162). -/
def Stream.advance (s : Stream) (pc : Word) (handler : Bool) : Stream :=
  if handler then { s with pc := pc + 8 }
  else
    let (s, next) := loopNext s pc
    { s with pc := next }

/-- The stream begins, or goes on with, a named wait. -/
def Stream.startWait (s : Stream) (k : WaitKind) (cond : WaitCond) (t turn limit : Nat) : Stream :=
  let (since, turn, limit) :=
    match s.wait with
    | some w => (w.since, w.turn, w.limit)
    | none => (t, turn, limit)
  let limit :=
    match cond with
    | .milestone _ _ l => l
    | .published _ _ l => l
    | _ => limit
  { s with wait := some ⟨k, cond, since, t, turn, limit, none, none⟩ }

/-- The limit of the wait watchdog (R157). -/
def watchdog (M : Mach) (part : Nat) : Nat :=
  match M.part part with
  | some p => 2 ^ wf p.wdcfg 0 5
  | none => 2 ^ 24

/-- A stream begins a named wait; its turn orders it among waiters (R155). -/
def Mach.beginWait (M : Mach) (r : MRef) (st : Strm) (k : WaitKind) (cond : WaitCond) (t : Nat) : Mach :=
  { M with nextId := M.nextId + 1 }.updMember r fun m => m.updStr st fun s => s.startWait k cond t M.nextId (watchdog M r.part)

/-- An issue of the stream is over: an open region's last issued word is the one before A's next (R399). -/
def Member.passed (m : Member) (st : Strm) : Member :=
  if st = .a then { m with region := m.region.map fun g => { g with lastPc := m.a.pc } } else m

/-- The remote requests of a use are done with. -/
def dropFetched (M : Mach) (who : MRef) (tag : Nat) : Mach :=
  { M with fetched := M.fetched.filter fun f => !(f.who == who && f.tag == tag) }

/-- The tag of the remote bytes a stream's word asks for; the words of a handler have their own. -/
def Ctx.tag (c : Ctx) : Nat := 2 ^ 96 + c.st.num + if c.mem.handler.isSome then 4 else 0

/-- A word that traps, or waits without an effect, keeps no remote bytes: issued again, it reads anew. -/
def Ctx.reread (c : Ctx) (M : Mach) : Mach := dropFetched M c.mem.ref c.tag

/-- Finish an issue. -/
def finish (c : Ctx) : Res → Mach
  | .done M =>
    endCycle
      (M.updMember c.mem.ref fun m =>
        (m.updStr c.st fun s => (s.issued c.t (c.s.waited c.t)).advance c.pc m.handler.isSome).passed c.st)
      c.mem.ref c.t
  | .jump M target =>
    endCycle
      (M.updMember c.mem.ref fun m =>
        (m.updStr c.st fun s => { s.issued c.t (c.s.waited c.t) with pc := target }).passed c.st)
      c.mem.ref c.t
  | .placed M => endCycle M c.mem.ref c.t
  | .untimed M u =>
    let M :=
      M.updMember c.mem.ref fun m =>
        (m.updStr c.st fun s =>
          { (s.issued c.t (c.s.waited c.t)).advance c.pc m.handler.isSome with untimed := some u }).passed c.st
    endCycle M c.mem.ref c.t
  | .trap i => endCycle ((c.reread c.M).updMember c.mem.ref fun m => { m with raised := m.raised ++ [(c.st, i)] }) c.mem.ref c.t
  | .trapTaking M k i =>
    endCycle
      ((c.reread M).updMember c.mem.ref fun m => { m with raised := m.raised ++ [(c.st, i)], taking := m.taking ++ [(c.st, k)] })
      c.mem.ref c.t
  | .trapAfter M i =>
    endCycle ((c.reread M).updMember c.mem.ref fun m => { m with raised := m.raised ++ [(c.st, i)] }) c.mem.ref c.t
  | .wait k cond => endCycle ((c.reread c.M).beginWait c.mem.ref c.st k cond c.t) c.mem.ref c.t
  | .waitOn M k cond => endCycle (M.beginWait c.mem.ref c.st k cond c.t) c.mem.ref c.t
  | .freeze f => c.M.updMember c.mem.ref fun m => { m with freeze := f }

/-- The context of an issue: the member brought to the issue cycle, the wall clock with it. A cycle performed behind the
wall clock was held up (R152). -/
def Cur.ctx (k : Cur) (M : Mach) (m : Member) : Ctx :=
  let t := issueCycle M m (m.str k.st) k.raw
  let m' := { m.settle t with skew := max m.skew (M.wclk - t) }
  ⟨{ M.putMember m' with wclk := max M.wclk (t + m.skew) }, m', k.st, t, k.pc, k.raw⟩

/-- Change everything but the host side. -/
def State.lift (s : State) (f : Mach → Mach) : Host.Outcome State Fault Refusal := .next { s with m := f s.m }

/-- The word being issued, and its member. -/
def Mach.issuer (M : Mach) : Option (Cur × Member) :=
  match M.cur with
  | none => none
  | some k => (M.member k.m).map fun m => (k, m)

/-- The meaning of an instruction word: what it does in its context. The stream check of R144 comes first. -/
def word (i : Instr) (f : Ctx → Res) (s : State) : Host.Outcome State Fault Refusal :=
  match s.m.issuer with
  | none => .fault .noIssuer
  | some (k, m) =>
    let c := k.ctx s.m m
    .next { s with m := finish c (if i.validOn k.st then f c else .trap (illInstr k.raw)) }

/-- A scalar result (R149): the latch at t + L, the register at t + L + 1. -/
def Ctx.result (c : Ctx) (lat : Nat) (d : Dst) (v : Word) : Mach :=
  c.M.updMember c.mem.ref fun m =>
    m.updStr c.st fun s => { s with inflight := s.inflight ++ [⟨c.t + lat, c.t, [(d, v)], false, none⟩] }

/-- As `result`, on a machine the word has already changed. -/
def Ctx.resultOn (c : Ctx) (M : Mach) (lat : Nat) (d : Dst) (v : Word) : Mach := { c with M := M }.result lat d v

/-- Change the issuing member. -/
def Ctx.upd (c : Ctx) (f : Member → Member) : Mach := c.M.updMember c.mem.ref f

/-- The record of an untimed word that issues now. -/
def Ctx.unt (c : Ctx) (needs : Answer) : Untimed where
  iss := c.t
  born := c.t
  last := c.s.last
  pc := c.pc
  raw := c.raw
  lpc0 := c.s.lpc0
  lpc1 := c.s.lpc1
  writes := []
  needs := needs
  job := .nothing
  acquire := none
  slot := none
  pva := 0
  akind := 0
  raddr := 0

/-- An untimed word whose result is known. -/
def Ctx.untimedNow (c : Ctx) (M : Mach) (writes : List (Dst × Word)) : Res :=
  .untimed M { c.unt .ready with writes := writes }

/-- The word stands in an open idempotent region, where only the words of R163 are valid. -/
def Ctx.inRegion (c : Ctx) : Bool := c.st == .a && c.mem.region.isSome

/-- As `word`, for the words R163 does not admit in an open idempotent region: they raise ILL_INSTR there. -/
def wordOut (i : Instr) (f : Ctx → Res) (s : State) : Host.Outcome State Fault Refusal :=
  word i (fun c => if c.inRegion then .trap (illInstr c.raw) else f c) s

/-! ### Return from a trap -/

/-- Results shifted by n cycles. Each stays the result of a word issued before the trap, so that one of a handler word in
the same cycle is the later one (R150). -/
def shiftFlight (n : Nat) (l : List InFlight) : List InFlight := l.map fun f => { f with due := f.due + n }

/-- A stream resumes n cycles later, in cycle rho at the earliest (R158). Results of the handler's own last words that are
still in flight at ERET land in their cycles after it, on the latch too: the spec does not say what becomes of them
(assumption 46). -/
def Stream.resume (s : Stream) (x : Aside) (n rho : Nat) : Stream :=
  { s with
    inflight := shiftFlight n x.inflight ++ s.inflight
    untimed := s.untimed.map fun u => { u with iss := u.iss + n, last := u.last + n }
    lat := x.lat
    last := s.last + n
    floor := max (s.floor + n) rho }

/-- ERET at cycle e (R224, R158): the first issue cycle is ρ = e + 1, and the core resumes as if cycles τ to ρ - 1
had not passed. -/
def Member.leaveHandler (m : Member) (h : Handler) (e : Nat) : Member :=
  let n := e + 1 - h.tau
  let c :=
    { m.c with pc := h.cpc, running := h.crunning, last := h.clast, floor := h.cfloor, untimed := h.cuntimed, wait := none }
  let c :=
    match h.cback with
    | some u => { c with lpc0 := u.lpc0, lpc1 := u.lpc1, nissue := c.nissue - 1, nstall := c.nstall + (h.tau - u.iss) }
    | none => c
  let m :=
    { m with
      handler := none
      c := c.resume h.c n (e + 1)
      a := m.a.resume h.a n (e + 1)
      v := m.v.resume h.v n (e + 1)
      x := m.x.resume h.x n (e + 1)
      slots := h.slotDue.foldl
        (fun (v : Vector LSlot 32) (p : Nat × Nat) => if hp : p.1 < 32 then v.set p.1 { v[p.1] with due := some (p.2 + n) } hp else v) m.slots }
  m.updStr h.strm fun s => { s with pc := m.tepc }

end Sys2Proof.Machine
end

