-- ==== Sys2Proof/Machine/Operands.lean ====
section
/-!
DEFINITION. The operand forms of scalar words: source and destination specifiers (R147, R171), register pairs (R243),
branch and memory offsets (R170), alignment.
-/

namespace Sys2Proof

/-- Bytes of an access (R175). -/
def Size.bytes : Size → Nat
  | .b1 => 1 | .b2 => 2 | .b4 => 4 | .b8 => 8 | .b16 => 16

end Sys2Proof

namespace Sys2Proof.Machine

/-- A main-file register; s0 reads zero (R147). -/
def Stream.main (s : Stream) (n : BitVec 5) : Word := if n = 0 then 0 else s.s[n.toNat]'n.isLt

/-- A register as a source in the issue cycle (R149, R171). -/
def Ctx.reg (c : Ctx) : Reg → Word
  | .s n => c.s.main n
  | .o n => c.s.o[n.toNat]'n.isLt
  | .lat => c.s.lat
  | .zero => 0
  | .coreId => w64 (c.mem.core.getD 0)
  | .ctxId => w64 c.mem.ref.ctx

/-- A source of an S3 word (R170, R171). -/
def Ctx.src (c : Ctx) : Src → Word
  | .reg r => c.reg r
  | .imm v => v.signExtend 64

/-- A destination's register read as a source (LIH, BINS); a special destination reads zero (R234). -/
def Ctx.dst (c : Ctx) : Dst → Word
  | .s n => c.s.main n
  | .o n => c.s.o[n.toNat]'n.isLt
  | .none => 0

/-- A file register read as a source (OPA of SCADD). -/
def Ctx.fileReg (c : Ctx) : FileReg → Word
  | .s n => c.s.main n
  | .o n => c.s.o[n.toNat]'n.isLt

/-- The next register of the same file: the high half of a pair (R243). -/
def pairReg : Reg → Reg
  | .s n => .s (n + 1)
  | .o n => .o (n + 1)
  | r => r

/-- The high destination of a pair (R243). -/
def pairDst : Dst → Dst
  | .s n => .s (n + 1)
  | .o n => .o (n + 1)
  | .none => .none

/-- The target of a branch with an offset in words (R170). -/
def branchTarget (base : Word) (off : BitVec 24) : Word := base + off.signExtend 64 * 8

/-- A MEM address: the base plus the offset in access sizes (R170). -/
def Ctx.memAddr (c : Ctx) (b : Reg) (sz : Size) (off : BitVec 9) : Word :=
  c.reg b + off.signExtend 64 * w64 sz.bytes

/-- A value is a multiple of n. -/
def aligned (w : Word) (n : Nat) : Bool := w.toNat % n == 0

end Sys2Proof.Machine
end

