-- ==== Sys2Proof/Machine/Fabric.lean ====
section
/-!
DEFINITION. Sending on the scale-up fabric: packets (R417, R418), routing (R414, R419), reliable connections
(R420, R422, R423) and admission of requests at the sender (R8).
-/

namespace Sys2Proof.Machine

/-! ### Packets -/

/-- Payload of a write or of a read's answer (R418): the bytes stand at (address mod 64). -/
def wrPayload (addr : Nat) (bs : List Byte) : List Byte :=
  let n := addr % 64 + bs.length
  zeros (addr % 64) ++ bs ++ zeros (roundUp n 64 - n)

/-- The bytes of such a payload. -/
def wrBytes (addr n : Nat) (pl : List Byte) : List Byte := (pl.drop (addr % 64)).take n

/-- One payload beat of words. -/
def beat (ws : List Word) : List Byte :=
  let bs := ws.flatMap wBytes
  bs ++ zeros (64 - bs.length)

/-- KSPEC from a number. -/
def kspec (n : Nat) : BitVec 32 := BitVec.ofNat 32 n

/-- The header of a packet, laid out as R417 has it: the low 24 reserved bits stand in [95:72], the high 8 in [255:248]. -/
def packetHeader (p : Packet) : Nat :=
  p.kspec.toNat + p.dprt <<< 32 + p.dst.col <<< 35 + p.dst.row <<< 40 + p.sprt <<< 45 + p.src.col <<< 48 + p.src.row <<< 53 +
    p.len <<< 58 + p.hops <<< 65 + p.kind <<< 68 + (p.resvd % 2 ^ 24) <<< 72 + p.ack <<< 96 + p.seq <<< 128 + p.key <<< 160 +
    p.addr <<< 192 + (p.resvd / 2 ^ 24) <<< 248

/-- The packet of a 256-bit header and a payload (R417). -/
def packetOfHeader (h : Nat) (payload : List Byte) : Packet where
  addr := fld h 192 56
  key := fld h 160 32
  seq := fld h 128 32
  ack := fld h 96 32
  kind := fld h 68 4
  hops := fld h 65 3
  len := fld h 58 7
  src := ⟨fld h 53 5, fld h 48 5⟩
  sprt := fld h 45 3
  dst := ⟨fld h 40 5, fld h 35 5⟩
  dprt := fld h 32 3
  kspec := BitVec.ofNat 32 h
  payload := payload
  resvd := fld h 72 24 + fld h 248 8 <<< 24

/-- Code of a pooling mode in the model's exchange packets. -/
def poolNum : Pool → Nat
  | .sum => 0 | .wsum => 1 | .mean => 2 | .max => 3

/-- The payload of the packet that carries a bucket on a reliable connection (R430). R418 gives the exchange neither a KIND
nor a layout: ten words, then the entries of R370 (assumption 48). -/
def bucketPayload (b : Bucket) : List Byte :=
  let ws := [b.tid, b.dim, poolNum b.mode, b.shard, b.cmd.m.part, b.cmd.m.ctx, b.cmd.m.rank, b.cmd.tc, b.cmd.num, b.entries.length]
  let es := b.entries.flatMap fun e => leBytes 8 e.1 ++ leBytes 4 e.2.1 ++ leBytes 4 e.2.2.toNat
  let bs := ws.flatMap (leBytes 8) ++ es
  bs ++ zeros (roundUp bs.length 64 - bs.length)

/-- The bucket a packet carries. -/
def packetBucket (p : Packet) : Bucket :=
  let w (i : Nat) : Nat := leNat ((p.payload.drop (8 * i)).take 8)
  let entry (i : Nat) : Nat × Nat × BitVec 32 :=
    let bs := p.payload.drop (80 + 16 * i)
    (leNat (bs.take 8), leNat ((bs.drop 8).take 4), BitVec.ofNat 32 (leNat ((bs.drop 12).take 4)))
  { cmd := ⟨⟨w 4, w 5, w 6⟩, w 7, w 8⟩
    shard := w 3
    src := p.src
    spart := p.sprt
    key := p.key
    dpart := p.dprt
    tid := w 0
    dim := w 1
    mode :=
      match w 2 with
      | 0 => .sum
      | 1 => .wsum
      | 2 => .mean
      | _ => .max
    entries := (List.range (w 9)).map entry
    via := some p }

/-- The event a packet is at its destination (R418); KIND 8 is the model's for the exchange of R430. -/
def packetEvent (p : Packet) : Event :=
  if p.kind = 8 then .bucketReceive (packetBucket p) else
  match p.kind with
  | 0 => .rd p
  | 1 => .wr p
  | 2 => .atom p
  | 3 => .arrive p
  | 4 => .qop p
  | 5 => .obj p
  | 6 => .rsp p
  | _ =>
    match p.kspec.toNat % 16 with
    | 0 => .openConn p
    | 1 => .openack p
    | 2 => .close p
    | _ => .ackOnly p

/-! ### Routing (R414, R419) -/

/-- The port from a device to a peer in its row or column. -/
def portTo (self peer : DevRef) : Option Nat :=
  if self = peer then none
  else if self.row = peer.row then some (if peer.col < self.col then peer.col else peer.col - 1)
  else if self.col = peer.col then some (31 + if peer.row < self.row then peer.row else peer.row - 1)
  else none

/-- The peer at the far end of a port. -/
def portPeer (self : DevRef) (port : Nat) : DevRef :=
  if port < 31 then ⟨self.row, if port < self.col then port else port + 1⟩
  else ⟨if port - 31 < self.row then port - 31 else port - 31 + 1, self.col⟩

/-- Minimal hops between two devices. -/
def hopsBetween (a b : DevRef) : Nat := (if a.row = b.row then 0 else 1) + (if a.col = b.col then 0 else 1)

/-- Ports a packet may leave by: those of minimal routes, then detours when FABCFG.DT allows them. -/
def permittedPorts (M : Mach) (p : Packet) : List Nat :=
  let self := M.self
  let up := M.portup
  let minimal :=
    up.filter fun q =>
      let peer := portPeer self q
      hopsBetween peer p.dst < hopsBetween self p.dst
  let detour :=
    if M.fabcfg.getLsbD 8 then
      up.filter fun q => !minimal.contains q && p.hops + 1 + hopsBetween (portPeer self q) p.dst ≤ 4
    else []
  minimal ++ detour

/-- Units of 64 bytes of a packet (R426). -/
def packetUnits (p : Packet) : Nat := ceilDiv (32 + p.payload.length) 64

/-- Hand a packet to the router: loopback is delivered here, others wait for a permitted port (R419). -/
def route (M : Mach) (p : Packet) : Mach :=
  if p.dst = M.self then M.raise 1 (packetEvent p)
  else
    let M := { M with transit := M.transit ++ [p] }
    match permittedPorts M p with
    | q :: _ => M.raise 1 (.packetForward p q)
    | [] => M.raise 65536 (.routerWaitExpiry p)

/-! ### Connections -/

/-- A connection's context. -/
def Mach.conn (M : Mach) (r : ConnRef) : Option Conn := M.conns.find? fun c => c.ref == r

/-- Keep a connection's context. -/
def Mach.setConn (M : Mach) (c : Conn) : Mach :=
  { M with
    conns :=
      if M.conns.any (fun x => x.ref == c.ref) then updIf (fun x => x.ref == c.ref) (fun _ => c) M.conns
      else M.conns ++ [c] }

/-- A new connection. -/
def Conn.fresh (r : ConnRef) (st : ConnState) : Conn := ⟨r, st, 0, 0, 0, [], [], [], [], [], [], [], 0⟩

/-- A request whose answer carries something back. -/
def Origin.awaits : Origin → Bool
  | .request _ _ _ | .withdraw _ _ _ _ | .load _ _ _ _ _ | .queueOp _ | .fetch _ _ _ _ _ _ _ => true
  | _ => false

/-- Sequence numbers are modulo 2^32. -/
def seqNext (n : Nat) : Nat := (n + 1) % 2 ^ 32

/-- n lies before m in modular order within the window. -/
def seqBefore (n m : Nat) : Bool := 0 < (m + 2 ^ 32 - n) % 2 ^ 32 && (m + 2 ^ 32 - n) % 2 ^ 32 < 2 ^ 31

/-- Queue operations an event carries. -/
def opsOf : Event → List QOp
  | .junctionHold op => [op]
  | .queueHomeService op => [op]
  | .junctionPair x y => [x, y]
  | _ => []

/-- The queue operations on their way to their objects at this device: held, or moving on. -/
def opsUnderWay (M : Mach) : List QOp := M.held.map (·.op) ++ M.pending.flatMap fun d => opsOf d.ev

/-- The SEQ a queue operation of a connection's peer came with. -/
def seqOf (r : ConnRef) (op : QOp) : Option Nat :=
  match op.issuer with
  | .remote dev prt seq => if op.part == r.part && dev == r.dev && prt == r.peer then some seq else none
  | _ => none

/-- The ACK of a connection (R422): everything before the next packet due, but for a queue operation on its way here. -/
def Conn.ackNo (c : Conn) (M : Mach) : Nat :=
  ((opsUnderWay M).filterMap (seqOf c.ref)).foldl (fun a n => if seqBefore n a then n else a) c.expect

/-- Give a packet its SEQ and ACK and hand it to the router; it stays until acknowledged (R422, R423). -/
def transmit (M : Mach) (c : Conn) (p : Packet) (o : Origin) : Mach :=
  let ack := c.ackNo M
  let p := { p with seq := c.nextSeq, ack := ack }
  let c :=
    { c with
      nextSeq := seqNext c.nextSeq
      acked := ack
      unacked := c.unacked ++ [⟨p, o, 0⟩]
      asked := if o.awaits then c.asked ++ [(p.seq, o)] else c.asked }
  let M := (M.setConn c).raise 16384 (.retransmitTimeout c.ref p.seq)
  route M p

/-- A packet of a connection, its addresses filled in. -/
def newPacket (M : Mach) (r : ConnRef) (kind addr : Nat) (ks : BitVec 32) (payload : List Byte) : Packet where
  addr := addr
  key :=
    match M.part r.part with
    | some p => p.key.toNat
    | none => 0
  seq := 0
  ack := 0
  kind := kind
  hops := 0
  len := payload.length / 64
  src := M.self
  sprt := r.part
  dst := r.dev
  dprt := r.peer
  kspec := ks
  payload := payload
  resvd := 0

/-- Open a connection for the packets that wait for it: CTRL OPEN with SEQ 0 (R420). -/
def openFor (M : Mach) (r : ConnRef) (ps : List (Packet × Origin)) : Mach :=
  transmit M { Conn.fresh r .opening with waiting := ps } (newPacket M r 7 0 0 []) .control

/-- Send a packet on its connection, opening it at the first packet of the pair (R420). One whose CLOSE is not yet
acknowledged opens anew only after that (R423; assumption 16). -/
def sendOn (M : Mach) (r : ConnRef) (p : Packet) (o : Origin) : Mach :=
  match M.conn r with
  | none => openFor M r [(p, o)]
  | some c =>
    match c.state with
    | .closed | .opening => M.setConn { c with waiting := c.waiting ++ [(p, o)] }
    | .open =>
      if c.unacked.length < 512 && c.waiting.isEmpty then transmit M c p o
      else M.setConn { c with waiting := c.waiting ++ [(p, o)] }

/-- Send what waits on an open connection while the window has room. -/
def flushWaiting (M : Mach) (r : ConnRef) : Mach :=
  match M.conn r with
  | none => M
  | some c =>
    if c.state = .open then
      let n := 512 - c.unacked.length
      let go := c.waiting.take n
      go.foldl
        (fun M x =>
          match M.conn r with
          | some c => transmit M c x.1 x.2
          | none => M)
        (M.setConn { c with waiting := c.waiting.drop n })
    else M

/-- A CTRL ACK only: it takes no SEQ and is not retransmitted (R422). Its SEQ field names the next packet of its direction,
so that its far end takes it only after the packets sent before it, a refusal among them (assumption 16). -/
def sendAck (M : Mach) (c : Conn) : Mach :=
  let p := { newPacket M c.ref 7 0 (kspec 3) [] with seq := c.nextSeq, ack := c.ackNo M }
  route (M.setConn { c with acked := c.ackNo M }) p

/-- A response to the packet numbered seq (R418); its packet is kept until acknowledged. -/
def respond (M : Mach) (r : ConnRef) (seq code : Nat) (payload : List Byte) : Mach :=
  sendOn M r (newPacket M r 6 seq (kspec code) (if code = 0 then payload else [])) .reply

/-- The partition may send remote requests (R8). -/
def mayRequest (M : Mach) (part : Nat) : Bool :=
  match M.part part with
  | some p => p.key ≠ 0
  | none => false

/-- The refusal of R8 at the requesting device. -/
def keyFault (pva : Word) : XFault := ⟨0x07, 7, 0, pva, false⟩

/-! ### Posted writes of a stream (R107, R109) -/

/-- The packet is a posted write or tile arrival of the stream. -/
def Origin.postedBy (o : Origin) (m : MRef) (st : Strm) : Bool :=
  match o with
  | .store r s _ _ => r == m && s == st
  | .arrival a => a.sender.m == m && a.sender.st == st
  | .cmdWrite k s _ _ => k.m == m && s == st
  | .verge v _ s _ _ _ => v.m == m && s == st
  | _ => false

/-- Words the stream had issued when it posted the packet. -/
def Origin.place : Origin → Nat
  | .store _ _ _ n | .cmdWrite _ _ _ n | .verge _ _ _ _ _ n => n
  | .arrival a => a.sender.num
  | _ => 0

/-- A publication of the stream on a .pod grid still has writes to post: a verge write that has started, for its milestone
words, or a progress report. `p` picks by the words its stream had issued before. -/
def Member.publishing (m : Member) (st : Strm) (p : Nat → Bool) : Bool :=
  m.verges.any (fun v => v.started && v.st == st && recF v.grid 27 3 == 5 && p v.num) ||
    m.reports.any fun x => x.st == st && recF x.grid 27 3 == 5 && p x.num

/-- A posted write of the stream, from a place that a test picks, is not yet acknowledged (R109): an arrival that awaits its
resend is not (R424), nor what a publication still has to post (assumption 6). -/
def outstandingOf (M : Mach) (m : MRef) (st : Strm) (p : Nat → Bool) : Bool :=
  let mine (o : Origin) : Bool := o.postedBy m st && p o.place
  (M.conns.any fun c =>
    c.unacked.any (fun u => mine u.origin) || c.waiting.any (fun w => mine w.2) ||
      c.resend.any (fun x => mine (.arrival x.2))) ||
    (M.member m).any fun x => x.publishing st p

/-- A posted write of the stream is not yet acknowledged. -/
def outstanding (M : Mach) (m : MRef) (st : Strm) : Bool := outstandingOf M m st fun _ => true

/-- Add an imprecise refusal to a stream (R31). -/
def refuse (M : Mach) (m : MRef) (st : Strm) (r : Imprecise) : Mach :=
  M.updMember m fun x => x.updStr st fun s => { s with imprecise := s.imprecise ++ [r] }

/-! ### Commands as their packets know them (R102, R341) -/

/-- A command of a member. -/
def Member.cmd (m : Member) (r : CmdRef) : Option Cmd := m.cmds.find? fun c => c.ref == r

/-- Change a command of a member. -/
def Mach.updCmd (M : Mach) (r : CmdRef) (f : Cmd → Cmd) : Mach :=
  M.updMember r.m fun m => { m with cmds := updIf (fun c => c.ref == r) f m.cmds }

/-- A command of the machine. -/
def Mach.cmd (M : Mach) (r : CmdRef) : Option Cmd := (M.member r.m).bind fun m => m.cmd r

/-- A command that may complete does so by its event. -/
def checkDone (M : Mach) (r : CmdRef) : Mach :=
  match M.cmd r with
  | some c => if c.engineDone && c.out = 0 && !c.finished then M.raise 1 (.commandCompletion r) else M
  | none => M

/-- A sequence stops at iteration q for a refusal that came back (R341); it goes on from there when resumed. -/
def Cmd.stopAt (c : Cmd) (q : Nat) (i : TrapInfo) : Cmd :=
  { c with sys := some i, engineDone := false, pos := min c.pos q, spec := max c.spec c.pos }

/-- The committed position of a command where a posted write or an arrival of its is refused (R31): of a copy sequence the
iteration that sent it. -/
def Cmd.commitAt (c : Cmd) (key : Word) : Nat :=
  match c.run with
  | .copy k =>
    match k.sent.find? fun x => x.1 == key.toNat with
    | some (_, q) => min c.pos q
    | none => c.pos
  | _ => c.pos

/-- The committed position of a command of the machine. -/
def commitOf (M : Mach) (c : CmdRef) (key : Word) : Nat := ((M.cmd c).map fun k => k.commitAt key).getD 0

/-- A copy sequence learns that an arrival or posted write of its is in, or was refused (R341). -/
def copyIn (M : Mach) (r : CmdRef) (key : Word) (refusal : Option TrapInfo) : Mach :=
  M.updCmd r fun c =>
    match c.run with
    | .copy k =>
      match k.sent.find? fun x => x.1 == key.toNat with
      | none => c
      | some (_, q) =>
        let c :=
          { c with run := .copy { k with sent := dropFirst (fun x => x.1 == key.toNat) k.sent, come := k.come || refusal.isNone } }
        match refusal with
        | some i => c.stopAt q i
        | none => c
    | _ => c

/-- One arrival, posted write or response of a command is in. -/
def cmdOneIn (M : Mach) (r : CmdRef) : Mach := checkDone (M.updCmd r fun c => { c with out := c.out - 1 }) r

/-! ### Refusals of posted packets (R8, R31, R142) -/

/-- Change a verge write of a member; one with no region left is over. -/
def Mach.updVerge (M : Mach) (v : VergeRef) (f : Verge → Verge) : Mach :=
  M.updMember v.m fun m =>
    { m with verges := (updIf (fun x => x.ref == v) f m.verges).filter fun x => !(x.started && x.regions.isEmpty) }

/-- A refusal where no walk of this device was involved (R32): of a stream's write, `num` words into it. -/
def Imprecise.posted (code : Nat) (pva : Word) (st : Strm) (akind num : Nat) (remote : Bool) : Imprecise where
  code := code
  pva := pva
  aux := 0
  strm := st
  cmd := none
  verge := none
  akind := akind
  remote := remote
  level := 7
  word0 := 0
  commit := 0
  num := num

/-- As `Imprecise.posted`, of a command's write that carried the position `commit`. -/
def Imprecise.command (code : Nat) (pva : Word) (st : Strm) (c : CmdRef) (commit num : Nat) (remote : Bool) : Imprecise :=
  { Imprecise.posted code pva st 6 num remote with aux := w64 c.num, cmd := some c, commit := commit }

/-- A verge write is refused, by a port or by a walk of its own (R142): imprecise at its stream, with its own PVA, and known
by its grid and owner; the region's slot stays in transfer. Number 28 stands for a progress report, which is taken as any
other posted write. -/
def vergeRefused (M : Mach) (v : VergeRef) (r : Nat) (st : Strm) (grid : List Word) (num : Nat) (f : XFault) : Mach :=
  let x : Imprecise :=
    { Imprecise.posted f.code f.pva st 6 num f.remote with
      verge := if r = 28 then none else some (grid, v.own), level := f.level, word0 := f.word0
      aux := if f.code = 0x21 then f.word0 else 0 }
  (refuse M v.m st x).updVerge v fun y => { y with regions := y.regions.filter fun p => p.1 != r }

/-- A posted write is refused: by a receiving port, or, without a key, before it leaves. -/
def refusePosted (M : Mach) (o : Origin) (code : Nat) (remote : Bool) : Mach :=
  match o with
  | .store m st pva num => refuse M m st (Imprecise.posted code pva st 1 num remote)
  | .cmdWrite c st pva num =>
    let r := Imprecise.command code pva st c (commitOf M c pva) num remote
    cmdOneIn (copyIn (refuse M c.m st r) c pva (some (impreciseTrap 0 r))) c
  | .verge v r st pva grid num => vergeRefused M v r st grid num ⟨code, 7, 0, pva, remote⟩
  | _ => M

/-- Words a stream of a member has issued: the place of what it posts now (R109). -/
def postedNow (M : Mach) (m : MRef) (st : Strm) : Nat := ((M.member m).map fun x => (x.str st).nissue).getD 0

/-- Post a packet: without a key it is refused at this device, before it leaves (R8). -/
def postOn (M : Mach) (r : ConnRef) (p : Packet) (o : Origin) : Mach :=
  if mayRequest M r.part then sendOn M r p o else refusePosted M o 0x07 false

/-- A posted remote write of bytes of a stream: one packet. -/
def postWrite (M : Mach) (m : MRef) (st : Strm) (dev : DevRef) (peer addr : Nat) (pva : Word) (bs : List Byte) :
    Mach :=
  let r : ConnRef := ⟨m.part, dev, peer⟩
  postOn M r (newPacket M r 1 addr (kspec bs.length) (wrPayload addr bs)) (.store m st pva (postedNow M m st))

end Sys2Proof.Machine
end

