-- ==== Sys2Proof/Machine/Num.lean ====
section
/-!
DEFINITION. Number formats and arithmetic (R193 to R218): exact values, one rounding, RN3, conversions, sums.
-/

namespace Sys2Proof.Machine

/-! ### Floating-point values -/

/-- A floating-point format (R194): exponent bits, fraction bits, largest finite code, canonical NaN, and
the code of infinity where the format has one. -/
structure FFmt where
  ew : Nat
  fw : Nat
  maxFin : Nat
  nan : Nat
  inf : Option Nat
  deriving DecidableEq, Repr

def fp32 : FFmt := ⟨8, 23, 0x7F7FFFFF, 0x7FC00000, some 0x7F800000⟩
def fp16 : FFmt := ⟨5, 10, 0x7BFF, 0x7E00, some 0x7C00⟩
def bf16 : FFmt := ⟨8, 7, 0x7F7F, 0x7FC0, some 0x7F80⟩
def e4m3 : FFmt := ⟨4, 3, 0x7E, 0x7F, none⟩
def e5m2 : FFmt := ⟨5, 2, 0x7B, 0x7E, some 0x7C⟩

/-- Bits of an element. -/
def FFmt.width (f : FFmt) : Nat := 1 + f.ew + f.fw

/-- Exponent bias. -/
def FFmt.bias (f : FFmt) : Nat := 2 ^ (f.ew - 1) - 1

/-- The sign bit of a code. -/
def FFmt.sign (f : FFmt) : Nat := 2 ^ (f.ew + f.fw)

/-- An exact value: NaN, an infinity, or (-1)^neg * m * 2^e, plus less than one unit of m when `sticky`. -/
inductive FVal where
  | nan
  | inf (neg : Bool)
  | fin (neg : Bool) (m : Nat) (e : Int) (sticky : Bool)
  deriving DecidableEq, Repr

/-- The value of a code (R194). -/
def fDec (f : FFmt) (code : Nat) : FVal :=
  let c := code % 2 ^ f.width
  let neg := bitOf c (f.ew + f.fw)
  let a := c % f.sign
  if a > f.maxFin then
    if f.inf = some a then .inf neg else .nan
  else
    let ex := a / 2 ^ f.fw
    let fr := a % 2 ^ f.fw
    if ex = 0 then .fin neg fr (1 - (f.bias : Int) - f.fw) false
    else .fin neg (2 ^ f.fw + fr) ((ex : Int) - f.bias - f.fw) false

/-- The code with its sign. -/
def fSigned (f : FFmt) (neg : Bool) (a : Nat) : Nat := if neg then f.sign + a else a

/-- The result where the magnitude is infinite or too large (R200, R201). -/
def fOver (f : FFmt) (toZero sat : Bool) (neg : Bool) : Nat :=
  if sat || toZero then fSigned f neg f.maxFin
  else
    match f.inf with
    | some i => fSigned f neg i
    | none => f.nan

/-- One rounding of an exact value to a format (R200, R201): nearest even, or toward zero; `sat` is SAT. -/
def fRnd (f : FFmt) (rtz sat : Bool) : FVal → Nat
  | .nan => f.nan
  | .inf neg => fOver f false sat neg
  | .fin neg m e sticky =>
    if m = 0 then fSigned f neg 0
    else
      let emin : Int := 1 - (f.bias : Int) - f.fw
      let q : Int := max ((log2 m : Int) + e - f.fw) emin
      let up := (q - e).toNat
      let down := (e - q).toNat
      let m' := m <<< down
      let kept := m' >>> up
      let rest := m' % 2 ^ up
      let half := 2 ^ up / 2
      let inc :=
        if rtz then false
        else rest > half && up ≠ 0 || (rest == half && up ≠ 0 && (sticky || kept % 2 == 1))
      let mant := if inc then kept + 1 else kept
      let code := (q + f.fw + f.bias).toNat * 2 ^ f.fw + mant - 2 ^ f.fw
      if code > f.maxFin then fOver f rtz sat neg else fSigned f neg code

/-- Zero of a sign. -/
def fZero (neg : Bool) : FVal := .fin neg 0 0 false

/-- Exact product (R195, R196). -/
def fMulV : FVal → FVal → FVal
  | .nan, _ => .nan
  | _, .nan => .nan
  | .inf a, .inf b => .inf (a != b)
  | .inf a, .fin b m _ _ => if m = 0 then .nan else .inf (a != b)
  | .fin a m _ _, .inf b => if m = 0 then .nan else .inf (a != b)
  | .fin a m e _, .fin b n g _ => .fin (a != b) (m * n) (e + g) false

/-- Exact sum; a zero sum is +0 unless both terms are -0 (R196). -/
def fAddV : FVal → FVal → FVal
  | .nan, _ => .nan
  | _, .nan => .nan
  | .inf a, .inf b => if a = b then .inf a else .nan
  | .inf a, .fin _ _ _ _ => .inf a
  | .fin _ _ _ _, .inf b => .inf b
  | .fin a m e _, .fin b n g _ =>
    let lo := min e g
    let x : Int := (m <<< (e - lo).toNat : Nat)
    let y : Int := (n <<< (g - lo).toNat : Nat)
    let s := (if a then -x else x) + (if b then -y else y)
    if s = 0 then .fin (a && b && m == 0 && n == 0) 0 lo false else .fin (s < 0) s.natAbs lo false

/-- The opposite value. -/
def fNegV : FVal → FVal
  | .nan => .nan
  | .inf a => .inf (!a)
  | .fin a m e k => .fin (!a) m e k

/-- Quotient with enough bits for one rounding (R195). -/
def fDivV : FVal → FVal → FVal
  | .nan, _ => .nan
  | _, .nan => .nan
  | .inf _, .inf _ => .nan
  | .inf a, .fin b _ _ _ => .inf (a != b)
  | .fin a _ _ _, .inf b => fZero (a != b)
  | .fin a m e _, .fin b n g _ =>
    if n = 0 then (if m = 0 then .nan else .inf (a != b))
    else if m = 0 then fZero (a != b)
    else
      let k := 64 + log2 n
      let q := (m <<< k) / n
      .fin (a != b) q (e - g - k) ((m <<< k) % n ≠ 0)

/-- Integer square root by bits, from bit `k` down. -/
def isqrtAux (n : Nat) : Nat → Nat → Nat
  | 0, r => r
  | k + 1, r =>
    let r' := r + 2 ^ k
    isqrtAux n k (if r' * r' ≤ n then r' else r)

/-- Integer square root, rounded down. -/
def isqrt (n : Nat) : Nat := isqrtAux n (log2 n / 2 + 1) 0

/-- Square root (R195). -/
def fSqrtV : FVal → FVal
  | .nan => .nan
  | .inf a => if a then .nan else .inf false
  | .fin a m e _ =>
    if m = 0 then fZero a
    else if a then .nan
    else
      let s := 128 + (e % 2).toNat
      let m' := m <<< s
      let r := isqrt m'
      .fin false r ((e - s) / 2) (r * r ≠ m')

/-- Reciprocal square root of a finite positive value. -/
def fRsqrtV (m : Nat) (e : Int) : FVal :=
  let m' := if e % 2 = 0 then m else 2 * m
  let e' := if e % 2 = 0 then e else e - 1
  let k := 64 + log2 m'
  let r := isqrt (2 ^ (2 * k) / m')
  .fin false r (-(k : Int) - e' / 2) (r * r * m' ≠ 2 ^ (2 * k))

/-! ### Operations on codes -/

/-- Sum of two codes of a format, rounded once. -/
def fAdd (f : FFmt) (rtz : Bool) (x y : Nat) : Nat := fRnd f rtz false (fAddV (fDec f x) (fDec f y))

/-- Difference. -/
def fSub (f : FFmt) (rtz : Bool) (x y : Nat) : Nat := fRnd f rtz false (fAddV (fDec f x) (fNegV (fDec f y)))

/-- Product. -/
def fMul (f : FFmt) (rtz : Bool) (x y : Nat) : Nat := fRnd f rtz false (fMulV (fDec f x) (fDec f y))

/-- Fused multiply-add, one rounding. -/
def fFma (f : FFmt) (x y d : Nat) : Nat := fRnd f false false (fAddV (fMulV (fDec f x) (fDec f y)) (fDec f d))

/-- Quotient. -/
def fDiv (f : FFmt) (x y : Nat) : Nat := fRnd f false false (fDivV (fDec f x) (fDec f y))

/-- Square root. -/
def fSqrt (f : FFmt) (x : Nat) : Nat := fRnd f false false (fSqrtV (fDec f x))

/-- The code is a NaN. -/
def fIsNan (f : FFmt) (x : Nat) : Bool := fDec f x == .nan

/-- The code is finite. -/
def fIsFin (f : FFmt) (x : Nat) : Bool :=
  match fDec f x with
  | .fin _ _ _ _ => true
  | _ => false

/-- Order of two values that are not NaN: zeros are equal (R195, R196). -/
def fCmpV : FVal → FVal → Ordering
  | .inf a, .inf b => if a = b then .eq else if a then .lt else .gt
  | .inf a, _ => if a then .lt else .gt
  | _, .inf b => if b then .gt else .lt
  | x, y =>
    match fAddV x (fNegV y) with
    | .fin n m _ _ => if m = 0 then .eq else if n then .lt else .gt
    | _ => .eq

/-- Comparison of codes; none when unordered. -/
def fCmp (f : FFmt) (x y : Nat) : Option Ordering :=
  if fIsNan f x || fIsNan f y then none else some (fCmpV (fDec f x) (fDec f y))

/-- Minimum of R204. -/
def fMin (f : FFmt) (x y : Nat) : Nat :=
  match fCmp f x y with
  | none => f.nan
  | some .lt => x
  | some .gt => y
  | some .eq => if bitOf x (f.width - 1) then x else y

/-- Maximum of R204. -/
def fMax (f : FFmt) (x y : Nat) : Nat :=
  match fCmp f x y with
  | none => f.nan
  | some .lt => y
  | some .gt => x
  | some .eq => if bitOf x (f.width - 1) then y else x

/-- Conversion between float formats (R201, R202). -/
def fCvt (src dst : FFmt) (rtz sat : Bool) (x : Nat) : Nat :=
  match fDec src x with
  | .inf neg => if sat then fSigned dst neg dst.maxFin else fOver dst false false neg
  | v => fRnd dst rtz sat v

/-- An integer rounded to a format; zero is +0. -/
def fOfInt (f : FFmt) (rtz sat : Bool) (v : Int) : Nat := fRnd f rtz sat (.fin (v < 0) v.natAbs 0 false)

/-- A value rounded to an integer by mode; none for NaN and infinities. -/
def vToInt (rtz : Bool) : FVal → Option Int
  | .fin neg m e _ =>
    let up := (-e).toNat
    let whole := (m <<< e.toNat) >>> up
    let rest := (m <<< e.toNat) % 2 ^ up
    let half := 2 ^ up / 2
    let inc := !rtz && up ≠ 0 && (rest > half || (rest == half && whole % 2 == 1))
    let n : Int := ((if inc then whole + 1 else whole : Nat) : Int)
    some (if neg then -n else n)
  | _ => none

/-- Limit an integer to a range. -/
def clampI (lo hi v : Int) : Int := if v < lo then lo else if v > hi then hi else v

/-- Saturate to a signed width. -/
def satS (w : Nat) (v : Int) : Int := clampI (-(2 ^ (w - 1) : Nat)) ((2 ^ (w - 1) : Nat) - 1) v

/-- A value converted to an integer of the range [lo, hi] (R201): saturating, NaN gives 0. -/
def vToRange (rtz : Bool) (lo hi : Int) : FVal → Int
  | .nan => 0
  | .inf neg => if neg then lo else hi
  | v => clampI lo hi ((vToInt rtz v).getD 0)

/-! ### RN3 (R197 to R199) -/

/-- M of R197. -/
def rnM : Nat := 549755805696

/-- Pack three residues. -/
def rnPack (f0 f1 f2 : Nat) : Nat := f0 + f1 <<< 13 + f2 <<< 26

/-- The reduced fields of an element (R198). -/
def rnF (x : Nat) : Nat × Nat × Nat := (fld x 0 13 % 8191, fld x 13 13, fld x 26 14 % 8193)

/-- Field-wise modular operation. -/
def rnOp (g : Nat → Nat → Nat) (x y : Nat) : Nat :=
  let (a0, a1, a2) := rnF x
  let (b0, b1, b2) := rnF y
  rnPack (g a0 b0 % 8191) (g a1 b1 % 8192) (g a2 b2 % 8193)

/-- Modular sum. -/
def rnAdd : Nat → Nat → Nat := rnOp (· + ·)

/-- Encoding of an integer (R199); integers outside the signed range are taken modulo M. -/
def rnEnc (v : Int) : Nat := rnPack (v % 8191).toNat (v % 8192).toNat (v % 8193).toNat

/-- Signed value (R199). -/
def rnVal (x : Nat) : Int :=
  let (f0, f1, f2) := rnF x
  let u := (f0 * 274911461376 + f1 * 549688696833 + f2 * 274911453184) % rnM
  if u ≥ 274877902848 then (u : Int) - rnM else u

/-- Canonical form of an element. -/
def rnCanon (x : Nat) : Nat := rnOp (fun a _ => a) x 0

/-- Modular difference and product, through the residues. -/
def rnSub (x y : Nat) : Nat := rnAdd x (rnEnc (-(rnVal y)))

/-- Modular product. -/
def rnMul : Nat → Nat → Nat := rnOp (· * ·)

/-! ### Element types of R173 -/

/-- The float format of a type. -/
def vFmt : VType → FFmt
  | .bf16 => Sys2Proof.Machine.bf16
  | .fp32 => Sys2Proof.Machine.fp32
  | .fp8e4 => e4m3
  | .fp8e5 => e5m2
  | _ => Sys2Proof.Machine.fp32

/-- Bits of an element. -/
def vBits (t : VType) : Nat := 8 * t.bytes

/-- Signed value of an integer element. -/
def vInt (t : VType) (x : Nat) : Int := sgn (vBits t) x

/-- An integer result wrapped or saturated to the element width (R274). -/
def vIntOut (t : VType) (sat : Bool) (v : Int) : Nat := unsgn (vBits t) (if sat then satS (vBits t) v else v)

/-- Conversion of one element (R201, R281). -/
def vConvert (src dst : VType) (rtz sat : Bool) (x : Nat) : Nat :=
  if src.isN then
    if dst.isI then unsgn (vBits dst) (satS (vBits dst) (rnVal x))
    else fOfInt (vFmt dst) rtz sat (rnVal x)
  else if src.isI then
    if dst.isI then
      (if dst.bytes < src.bytes then vIntOut dst sat (vInt src x) else unsgn (vBits dst) (vInt src x))
    else if dst.isN then rnEnc (vInt src x)
    else fOfInt (vFmt dst) rtz sat (vInt src x)
  else
    if dst.isI then
      unsgn (vBits dst) (vToRange rtz (-(2 ^ (vBits dst - 1) : Nat)) ((2 ^ (vBits dst - 1) : Nat) - 1) (fDec (vFmt src) x))
    else if dst.isN then rnEnc (vToRange rtz (-274877902848) 274877902847 (fDec (vFmt src) x))
    else fCvt (vFmt src) (vFmt dst) rtz sat x

/-- The exact value of an element as a float operand (R282). -/
def vValue (t : VType) (x : Nat) : FVal :=
  if t.isI then .fin (vInt t x < 0) (vInt t x).natAbs 0 false else fDec (vFmt t) x

/-- A scaled conversion: the exact product with an FP32 factor, converted once (R282). -/
def vScaleTo (src dst : VType) (rtz sat : Bool) (s x : Nat) : Nat :=
  let v := fMulV (vValue src x) (fDec fp32 s)
  if dst.isI then
    unsgn (vBits dst) (vToRange rtz (-(2 ^ (vBits dst - 1) : Nat)) ((2 ^ (vBits dst - 1) : Nat) - 1) v)
  else fRnd (vFmt dst) rtz sat v

/-! ### Functions of R278 -/

/-- ln 2 times 2^256, rounded down. -/
def ln2Fix : Nat := 0xb17217f7d1cf79abc9e3b39803f2f6af40f343267298b62d8a0d175b8baafa2b

/-- Terms of the exponential series in 256-bit fixed point. -/
def expSeries (t : Nat) : Nat → Nat → Nat → Nat → Nat
  | 0, _, _, acc => acc
  | k + 1, n, term, acc =>
    let term' := term * t / 2 ^ 256 / n
    expSeries t k (n + 1) term' (acc + term')

/-- 2^f for a fraction f given in 256-bit fixed point, in 256-bit fixed point. -/
def exp2Fix (f : Nat) : Nat := expSeries (f * ln2Fix / 2 ^ 256) 80 1 (2 ^ 256) (2 ^ 256)

/-- Terms of the area tangent series. -/
def atanhSeries (z2 : Nat) : Nat → Nat → Nat → Nat → Nat
  | 0, _, _, acc => acc
  | k + 1, n, pow, acc => atanhSeries z2 k (n + 2) (pow * z2 / 2 ^ 256) (acc + pow / n)

/-- log2 of y in [1, 2), y given as m / 2^b, in 256-bit fixed point. -/
def log2Fix (m b : Nat) : Nat :=
  let z := (m - 2 ^ b) * 2 ^ 256 / (m + 2 ^ b)
  2 * atanhSeries (z * z / 2 ^ 256) 100 1 z 0 * 2 ^ 256 / ln2Fix

/-- 2^x of a finite value. An integer power is exact; another is irrational, so one unit is left open. -/
def fExp2V (neg : Bool) (m : Nat) (e : Int) : FVal :=
  -- beyond every format's range the rounding is that of 2^(+-1000)
  if (log2 m : Int) + e ≥ 10 ∧ m ≠ 0 then .fin false 1 (if neg then -1024 else 1024) true
  else
    let x : Int := (m <<< (e + 256).toNat : Nat) >>> (-(e + 256)).toNat
    let exact := m % 2 ^ (-(e + 256)).toNat == 0
    let v : Int := if neg then (if exact then -x else -x - 1) else x
    let i := v / (2 ^ 256 : Int)
    let f := (v % (2 ^ 256 : Int)).toNat
    if f = 0 ∧ exact then .fin false 1 i false else .fin false (exp2Fix f) (i - 256) true

/-- log2 of a finite positive value. A power of two is exact; otherwise the value is irrational. -/
def fLog2V (m : Nat) (e : Int) : FVal :=
  let b := log2 m
  let n : Int := b + e
  if m = 2 ^ b then .fin (n < 0) n.natAbs 0 false
  else
    let v : Int := n * 2 ^ 256 + log2Fix m b
    .fin (v < 0) v.natAbs (-256) true

/-- VEXP2 (R278). -/
def fnExp2 (f : FFmt) (x : Nat) : Nat :=
  fRnd f false false <|
    match fDec f x with
    | .nan => .nan
    | .inf neg => if neg then fZero false else .inf false
    | .fin neg m e _ => if m = 0 then .fin false 1 0 false else fExp2V neg m e

/-- VLOG2 (R278). -/
def fnLog2 (f : FFmt) (x : Nat) : Nat :=
  fRnd f false false <|
    match fDec f x with
    | .nan => .nan
    | .inf neg => if neg then .nan else .inf false
    | .fin neg m e _ => if m = 0 then .inf true else if neg then .nan else fLog2V m e

/-- VRCP (R278). -/
def fnRcp (f : FFmt) (x : Nat) : Nat := fRnd f false false (fDivV (.fin false 1 0 false) (fDec f x))

/-- VRSQ (R278). -/
def fnRsq (f : FFmt) (x : Nat) : Nat :=
  fRnd f false false <|
    match fDec f x with
    | .nan => .nan
    | .inf neg => if neg then .nan else fZero false
    | .fin neg m e _ => if m = 0 then .inf neg else if neg then .nan else fRsqrtV m e

/-! ### Activation (R213, R214) -/

/-- FP32 word number n of a table of bytes. -/
def fpAt (bs : List Byte) (n : Nat) : Nat := leNat ((bs.drop (4 * n)).take 4)

/-- Largest e from 1 to n with XB[e] at most y; 0 if none. -/
def actSegment (tab : List Byte) (y : Nat) : Nat → Nat
  | 0 => 0
  | e + 1 =>
    match fCmp fp32 (fpAt tab (8 * (e + 1))) y with
    | some .lt => e + 1
    | some .eq => e + 1
    | _ => actSegment tab y e

/-- The activation of R214 on an FP32 value; the table is a tile's 8,192 bytes. -/
def actOf (tab : List Byte) (y : Nat) : Nat :=
  if fIsNan fp32 y then fp32.nan
  else
    let e := actSegment tab y 255
    let a := fpAt tab (8 * e + 1)
    let c := fpAt tab (8 * e + 2)
    -- a zero slope gives the intercept, also for an infinite y
    match fDec fp32 a with
    | .fin _ 0 _ _ => if fIsNan fp32 c then fp32.nan else c
    | _ => fFma fp32 a y c

/-! ### Sums in order (R216) -/

/-- A plain FP32 sum, left to right; no terms give +0. -/
def sumPlain : List Nat → Nat
  | [] => 0
  | u :: us => us.foldl (fun s x => fAdd fp32 false s x) u

/-- A sum of products of exact values, one rounding a step. -/
def sumProd : List (FVal × FVal) → Nat
  | [] => 0
  | (a, b) :: us =>
    us.foldl (fun s p => fRnd fp32 false false (fAddV (fDec fp32 s) (fMulV p.1 p.2)))
      (fRnd fp32 false false (fMulV a b))

/-- An INT32 sum, wrapping or saturating after each step. -/
def sumInt (sat : Bool) : List Int → Int
  | [] => 0
  | us => us.foldl (fun s u => let t := s + u; if sat then satS 32 t else sgn 32 (unsgn 32 t)) 0

end Sys2Proof.Machine
end

