-- ==== Sys2Proof/Machine/Tags.lean ====
section
/-!
DEFINITION. Tiles and their tags (R41 to R47), the arrival queue (R45), region journals and epochs (R163 to R166),
checked and consume reads (R44).
-/

namespace Sys2Proof

/-- Code of a scope (R84); a wider scope has the larger code. -/
def Scope.num : Scope → Nat
  | .stream => 0 | .core => 1 | .quad => 2 | .die => 3 | .pkg => 4 | .pod => 5

/-- The wider of two scopes. -/
def Scope.join (a b : Scope) : Scope := if a.num < b.num then b else a

/-- Code of a tile kind (R41). -/
def CType.num : CType → Nat
  | .plain => 0 | .i32 => 1 | .rn3 => 2

/-- An arrival its sender has counted as in already: it was queued (R45). -/
def Arrival.counted (a : Arrival) : Arrival :=
  { a with sender := { a.sender with cmd := none, tsend := false, verge := none } }

end Sys2Proof

namespace Sys2Proof.Machine

/-! ### Tile records -/

/-- TAG code of R41. -/
def Tag.num : Tag → Nat
  | .empty => 0 | .filling => 1 | .full => 2 | .poisoned => 3

/-- A tile's record at context creation (R41, R50). -/
def TileRec.fresh : TileRec := ⟨128, 0, .plain, 0, false, .empty, 0, 0, .stream⟩

/-- A tile's record. -/
def Member.tile (m : Member) (t : Nat) : TileRec := (aGet m.tiles t).getD TileRec.fresh

/-- Set a tile's record. -/
def Member.setTile (m : Member) (t : Nat) (r : TileRec) : Member := { m with tiles := aSet m.tiles t r }

/-- Arrivals that fill a tile. -/
def TileRec.target (r : TileRec) : Nat := r.exp * (r.mulm1 + 1)

/-- The status word (R41). -/
def TileRec.status (r : TileRec) : Word :=
  w64 (r.cnt + r.tag.num <<< 14 + (if r.tdup then 1 <<< 21 else 0) + r.pcause <<< 22 + r.ctype.num <<< 24 +
    r.mulm1 <<< 26 + r.exp <<< 32)

/-- Where byte `off` of a tile lies: in the core's SRAM window, or in the save image (R407). -/
def tilePa (M : Mach) (m : Member) (t off : Nat) : Option Nat :=
  match m.place with
  | .core c => some (sramBase c + t * 0x2000 + off)
  | .image => savePa M m (0x200000 + t * 0x2000 + off)

/-- Bytes of a tile; unmapped parts of an image read zero. -/
def tileBytes (M : Mach) (m : Member) (t off n : Nat) : List Byte :=
  match tilePa M m t off with
  | some pa => M.get pa n
  | none => zeros n

/-- Write bytes of a tile. -/
def tileWrite (M : Mach) (m : Member) (t off : Nat) (bs : List Byte) : Mach :=
  match tilePa M m t off with
  | some pa => M.put pa bs
  | none => M

/-! ### A switched-out member's image (R49, R407, R408) -/

/-- Clear n bytes of the save area that lie in one block of 64 KiB. -/
def imageClear (M : Mach) (m : Member) (off n : Nat) : Mach :=
  match savePa M m off with
  | some pa => { M with mem := memClear M.mem pa n }
  | none => M

/-- Clear the blocks of 64 KiB from an offset on. -/
def imageClears (M : Mach) (m : Member) (off : Nat) : Nat → Mach
  | 0 => M
  | n + 1 => imageClears (imageClear M m (off + n * 0x10000) 0x10000) m off n

/-- n free bytes, one value each. -/
def freeBytes (M : Mach) (n : Nat) : Mach × List Byte :=
  ({ M with free := M.free + n }, (List.range n).map fun i => Config.freeByte (M.free + i))

/-- Free bytes where R407 names contents and gives no layout of them. -/
def imageFree (M : Mach) (m : Member) (off n : Nat) : Mach :=
  let (M, bs) := freeBytes M n
  imagePut M m off bs

/-- A tile's state record (R41). -/
def TileRec.words (r : TileRec) : List Word :=
  [r.status, w64 (r.map.toNat % 2 ^ 64), w64 (r.map.toNat / 2 ^ 64), 0]

/-- A journal entry (R166). -/
def Journal.words (j : Journal) : List Word :=
  [w64 (j.epoch % 2 ^ 32 + (j.rank % 256) <<< 48 + 2 ^ 63), w64 (j.count % 256 + if j.tdup then 256 else 0),
    w64 (j.mask.toNat % 2 ^ 64), w64 (j.mask.toNat / 2 ^ 64)]

/-- Write several groups of words at their offsets. -/
def saveGroups (M : Mach) (m : Member) (l : List (Nat × List Word)) : Mach :=
  l.foldl (fun M x => saveWords M m x.1 x.2) M

/-- A handle in the image: 128 bytes. -/
def handleWords (h : Option Handle) : List Word :=
  match h with
  | none => List.replicate 16 0
  | some x =>
    let kind : Nat :=
      match x.kind with
      | .tensor => 1 | .table => 2 | .grid => 3
    ([w64 kind, x.pva] ++ x.copy.take 8 ++ List.replicate (8 - x.copy.length) 0) ++ List.replicate 6 0

/-- The tile records, the arrival queue, the journal and the floors in the image. -/
def writeTags (M : Mach) (m : Member) : Mach :=
  let M := saveWords M m 0x10000 ((List.range (tileCount m.size)).flatMap fun t => (m.tile t).words)
  let M :=
    m.arrq.zipIdx.foldl
      (fun M x => imagePut (imageFree M m (0xC000 + 80 * x.2) 16) m (0xC010 + 80 * x.2) x.1.data) M
  saveGroups M m
    ((m.journal.map fun j => (0x1F8000 + 32 * j.tile, j.words)) ++ m.floors.map fun f => (0x1FC000 + 8 * f.1, [w64 f.2]))

/-- The image of a switched-out member follows what arrivals, notices and rollbacks do to its records (R41, R49, R166). -/
def syncTags (M : Mach) (r : MRef) : Mach :=
  match M.member r with
  | none => M
  | some m =>
    if m.core.isSome then M
    else
      writeTags
        (imageClear (imageClear (imageClear M m 0xC000 0x1400) m 0x10000 0x4000) m 0x1F8000 0x8000) m

/-! ### Arrivals (R42, R43, R47) -/

/-- Masked bytes over old bytes, from bit i of the mask on. -/
def maskInto (mask : BitVec 64) : Nat → List Byte → List Byte → List Byte
  | i, o :: os, n :: ns => (if mask.getLsbD i then n else o) :: maskInto mask (i + 1) os ns
  | _, _, _ => []

/-- A sum of elements of a combining kind (R47). -/
def combineAdd (k : CType) (x y : Nat) : Nat :=
  match k with
  | .rn3 => rnAdd x y
  | _ => (x + y) % 2 ^ 32

/-- A combining sector over the old bytes, element by element; `dup` adds to the present element. -/
def combineInto (k : CType) (dup : Bool) (mask : BitVec 64) (old new : List Byte) : List Byte :=
  let w := if k = .rn3 then 8 else 4
  (List.range (64 / w)).flatMap fun e =>
    let ob := (old.drop (e * w)).take w
    let bits := (List.range w).filter fun i => mask.getLsbD (e * w + i)
    if bits.isEmpty then ob
    else
      let nb := (List.range w).map fun i => if mask.getLsbD (e * w + i) then (new.drop (e * w)).getD i 0 else 0
      leBytes w (if dup then combineAdd k (leNat ob) (leNat nb) else leNat nb)

/-- A journal entry of a tile. -/
def Member.journalOf (m : Member) (t : Nat) : Option Journal := m.journal.find? fun j => j.tile == t

/-- The region mark of an arrival counts while the issuing member's region of that epoch is open (R166). -/
def liveMark (M : Mach) (a : Arrival) : Option (Nat × Nat) :=
  match a.region with
  | none => none
  | some (rank, ep) =>
    match M.member a.sender.m with
    | some s =>
      match s.region with
      | some r => if r.epoch = ep then some (rank, ep) else none
      | none => none
    | none => none

/-- Record an arrival in the tile's journal entry: bit of a new sector, and one when it counted (R166). -/
def Member.journalAdd (m : Member) (a : Arrival) (mark : Option (Nat × Nat)) (tdup new counted : Bool) : Member :=
  match mark with
  | none => m
  | some (rank, ep) =>
    let j := (m.journalOf a.tile).getD ⟨a.tile, rank, ep, 0, tdup, 0⟩
    let j :=
      { j with
        mask := if new then j.mask ||| (1#128 <<< a.sector) else j.mask
        count := if counted then j.count + 1 else j.count }
    { m with journal := (m.journal.filter fun x => x.tile != a.tile) ++ [j] }

/-- Poison a tile; its queued arrivals are discarded (R43, R45). -/
def Member.poison (m : Member) (t cause : Nat) : Member :=
  { m.setTile t { m.tile t with tag := .poisoned, pcause := cause } with arrq := m.arrq.filter fun a => a.tile != t }

/-- The tile is no longer being filled: no connection has it among those it fills (R46). -/
def dropFilling (M : Mach) (r : MRef) (t : Nat) : Mach :=
  { M with conns := M.conns.map fun c => { c with filling := c.filling.filter fun x => x != (r, t) } }

/-- A connection is filling a tile: with no packet for 2^26 cycles it is aborted (R46, R423). -/
def noteFilling (M : Mach) (a : Arrival) : Mach :=
  match a.sender.conn.bind M.conn with
  | none => M
  | some c =>
    let x := (a.dst, a.tile)
    let M := M.setConn { c with filling := c.filling.filter (fun y => y != x) ++ [x] }
    if c.filling.isEmpty then M.raise (2 ^ 26) (.fillingIdleTimeout c.ref) else M

/-- Apply an arrival to a tile that is not FULL (R43). The entry for a discarded arrival is the model's (assumption 38). -/
def applyArrival (M : Mach) (m : Member) (a : Arrival) : Mach :=
  let r := m.tile a.tile
  let off := a.sector * 64
  let old := tileBytes M m a.tile off 64
  if r.tag = .poisoned then M.logPart m.ref.part 0x14 m.unit (w64 a.tile)
  else if a.poison then
    let M := tileWrite M m a.tile off (maskInto a.mask 0 old (zeros 64))
    dropFilling (M.putMember (m.poison a.tile 1)) a.dst a.tile
  else if a.kind ≠ r.ctype then dropFilling (M.putMember (m.poison a.tile 3)) a.dst a.tile
  else
    let mark := liveMark M a
    let dup := r.map.getLsbD a.sector
    let counted := !dup || a.kind ≠ .plain
    let bytes := if a.kind = .plain then maskInto a.mask 0 old a.data else combineInto a.kind dup a.mask old a.data
    let cnt := if counted then r.cnt + 1 else r.cnt
    let r' :=
      { r with
        cnt := cnt
        map := r.map ||| (1#128 <<< a.sector)
        tdup := r.tdup || (dup && a.kind = .plain)
        tag := if cnt = r.target then .full else .filling
        acq := if counted then r.acq.join a.scope else r.acq }
    let m := (m.setTile a.tile r').journalAdd a mark r.tdup (!dup) counted
    let M := (tileWrite M m a.tile off bytes).putMember m
    if cnt = r.target then dropFilling M a.dst a.tile else noteFilling M a

/-- The lowest epoch a member accepts from a rank (R166). -/
def Member.floorOf (m : Member) (rank : Nat) : Nat := (aGet m.floors rank).getD 0

/-- The arrival lies below its rank's floor: discarded wherever it lands (R166). -/
def Member.stale (m : Member) (a : Arrival) : Bool :=
  match a.region with
  | some (rank, ep) => ep < m.floorOf rank
  | none => false

/-- The tile's journal entry is held for another rank or epoch (R166). -/
def journalBusy (M : Mach) (m : Member) (a : Arrival) : Bool :=
  match liveMark M a, m.journalOf a.tile with
  | some (rank, ep), some j => !(j.rank == rank && j.epoch == ep)
  | _, _ => false

/-- How an arrival ends at its receiver. -/
inductive Deliv where
  /-- Applied, queued or discarded by R43 or R166. -/
  | taken
  /-- Refused for a full arrival queue, or waiting for a journal entry (R45, R166). -/
  | again
  /-- No such member or tile (R48). -/
  | unknown
  deriving DecidableEq, Repr

/-- Deliver an arrival at its die (R45, R48, R49). -/
def deliver (M : Mach) (a : Arrival) : Mach × Deliv :=
  match M.member a.dst with
  | none => (M, .unknown)
  | some m =>
    if m.tilesN ≤ a.tile then (M, .unknown)
    else if m.stale a then (M, .taken)
    else if (m.tile a.tile).tag = .full then
      (if m.arrq.length < 64 then (syncTags (M.putMember { m with arrq := m.arrq ++ [a] }) a.dst, .taken)
       else (M, .again))
    else if journalBusy M m a then (M, .again)
    else (syncTags (applyArrival M m a) a.dst, .taken)

/-- Apply queued entries of a tile that has left FULL, oldest first, until it is FULL again (R45). -/
def drainEntries (M : Mach) (r : MRef) (t : Nat) : List Arrival → Mach
  | [] => M
  | a :: rest =>
    match M.member r with
    | none => M
    | some m =>
      if a.tile = t && (m.tile t).tag ≠ .full && m.arrq.contains a then
        let m := { m with arrq := dropFirst (fun x => x == a) m.arrq }
        let M := M.putMember m
        let M :=
          if m.stale a then M
          else if journalBusy M m a then M.raise 64 (.arrivalRetry a.counted)
          else applyArrival M m a
        drainEntries M r t rest
      else drainEntries M r t rest

/-- Drain the arrival queue of a tile. -/
def drainTile (M : Mach) (r : MRef) (t : Nat) : Mach :=
  match M.member r with
  | none => M
  | some m => drainEntries M r t m.arrq

/-- A consume read completes (R43). -/
def consume (M : Mach) (r : MRef) (t : Nat) : Mach :=
  drainTile
    ((dropFilling M r t).updMember r fun m =>
      m.setTile t { m.tile t with cnt := 0, map := 0, tag := .empty, acq := .stream })
    r t

/-- TAGCLR (R43, R166). -/
def tagClear (M : Mach) (r : MRef) (t : Nat) : Mach :=
  drainTile
    ((dropFilling M r t).updMember r fun m =>
      { m.setTile t { m.tile t with cnt := 0, map := 0, tdup := false, pcause := 0, tag := .empty, acq := .stream } with
        journal := m.journal.filter fun j => j.tile != t })
    r t

/-- Readers observe FULL: the tag, and no journal entry still held (R164, R166). -/
def Member.readable (m : Member) (t : Nat) : Bool := (m.tile t).tag == .full && (m.journalOf t).isNone

/-- The condition of a wait for tiles: all readable, or one poisoned. -/
def Member.tagsSettled (m : Member) (ts : List Nat) : Bool :=
  ts.any (fun t => (m.tile t).tag == .poisoned) || ts.all m.readable

/-- The check before a read of tiles: a trap for a poisoned one, a wait for one not readable (R43, R44). -/
def Ctx.tileCheck (c : Ctx) (ts : List Nat) : Option Res :=
  match ts.find? fun t => (c.mem.tile t).tag == .poisoned with
  | some t => some (.trap (tagPoison c.raw t (c.mem.tile t).pcause))
  | none => if ts.all c.mem.readable then none else some (.wait .tag (.tagsFull ts))

/-- The widest scope among the fills a read observes (R106). -/
def Member.fillScope (m : Member) (ts : List Nat) : Scope :=
  ts.foldl (fun s t => s.join (m.tile t).acq) .stream

/-! ### Regions (R163 to R166) -/

/-- Close the member's open region: notices go to every member its arrivals reached (R166). -/
def closeRegion (M : Mach) (r : MRef) : Mach :=
  match M.member r with
  | none => M
  | some m =>
    match m.region with
    | none => M
    | some g =>
      let M := M.putMember { m with region := none }
      g.reached.foldl (fun M x => M.raise 1 (.closingNotice x r.rank g.epoch)) M

/-- Open a region after the word at `pc` (R163); none of its words has issued yet (R399). -/
def openRegion (M : Mach) (r : MRef) (pc : Word) : Mach :=
  M.updMember r fun m =>
    { m with
      epoch := m.epoch + 1
      region :=
        some
          { marker := pc + 8
            issue := m.tc.toList.map (·.1)
            compl := m.tc.toList.map (·.2)
            bins := []
            epoch := m.epoch + 1
            reached := []
            cmds := []
            lastPc := pc + 8 } }

/-- A closing notice at a receiving member frees the entries held for the rank and epoch (R166). -/
def noticeAt (M : Mach) (r : MRef) (rank epoch : Nat) : Mach :=
  syncTags
    (M.updMember r fun m => { m with journal := m.journal.filter fun j => !(j.rank == rank && j.epoch == epoch) }) r

/-- Take back one tile's contributions; a POISONED tile keeps its tag (R166). -/
def Member.rollTile (m : Member) (j : Journal) : Member :=
  let t := m.tile j.tile
  let cnt := t.cnt - j.count
  m.setTile j.tile
    { t with
      map := t.map &&& ~~~j.mask
      cnt := cnt
      tdup := j.tdup
      tag := if t.tag = .poisoned then .poisoned else if cnt = 0 then .empty else .filling }

/-- A rollback at a receiving member (R166). -/
def rollbackAt (M : Mach) (r : MRef) (rank epoch : Nat) : Mach :=
  match M.member r with
  | none => M
  | some m =>
    let js := m.journal.filter fun j => j.rank == rank && j.epoch == epoch
    let full := js.filter fun j => (m.tile j.tile).tag == .full
    let m := js.foldl Member.rollTile m
    let m :=
      { m with
        journal := m.journal.filter fun j => !(j.rank == rank && j.epoch == epoch)
        floors := aSet m.floors rank (max (m.floorOf rank) (epoch + 1)) }
    let M := js.foldl (fun M j => dropFilling M r j.tile) (M.putMember m)
    syncTags (full.foldl (fun M j => drainTile M r j.tile) M) r

end Sys2Proof.Machine
end

