-- ==== Sys2Proof/Machine/Cache.lean ====
section
/-!
DEFINITION. Where a core's data is held (R82, R86, R87): store buffers, L1 bytes, loads and stores of pieces,
releases and acquires, and the landing of untimed results (R153).
-/

namespace Sys2Proof.Machine

/-! ### L1 (R34, R86) -/

/-- Lines of the member's L1: the rest of the core's 4 MiB (R34). -/
def Member.l1Lines (m : Member) : Nat := (512 - m.tilesN) * 128

/-- The core has an L1. -/
def Member.hasL1 (m : Member) : Bool := m.size < 4

/-- The address lies in the core's own scratchpad, which its streams reach directly (R86). -/
def ownWindow (core pa : Nat) : Bool :=
  match paKind pa with
  | .sram c _ => c == core
  | _ => false

/-- The address lies in another core's window or in a B store, where R454 checks a store as it arrives. -/
def checkedWindow (core pa : Nat) : Bool :=
  match paKind pa with
  | .sram c _ => c != core
  | .bstore _ => true
  | _ => false

/-- Bytes may be held in this core's L1. -/
def cacheable (m : Member) (core pa : Nat) : Bool := m.hasL1 && !ownWindow core pa

/-- Bits [off + n - 1 : off] of a line's masks. -/
def lineMask (off n : Nat) : BitVec 64 := BitVec.ofNat 64 ((2 ^ n - 1) * 2 ^ off)

/-- A line of a core's L1. -/
def l1Line (r : CoreRec) (line : Nat) : Option L1Line := r.l1.find? fun x => x.line == line

/-- A byte of a line, where it is held. -/
def L1Line.byte (x : L1Line) (b : Nat) : Option Byte := if x.valid.getLsbD b then some (x.data.getD b 0) else none

/-- A byte of a core's L1. -/
def l1Byte (r : CoreRec) (pa : Nat) : Option Byte := (l1Line r (pa / 64)).bind fun x => x.byte (pa % 64)

/-- Bytes are stored in a line: they become dirty. -/
def L1Line.store (x : L1Line) (off : Nat) (bs : List Byte) : L1Line :=
  { x with
    data := x.data.take off ++ bs ++ x.data.drop (off + bs.length)
    valid := x.valid ||| lineMask off bs.length
    dirty := x.dirty ||| lineMask off bs.length }

/-- The bytes a line lacks are taken from its home: the line is whole. -/
def L1Line.fill (x : L1Line) (home : List Byte) : L1Line :=
  { x with
    data := (List.range 64).map fun b => if x.valid.getLsbD b then x.data.getD b 0 else home.getD b 0
    valid := BitVec.allOnes 64 }

/-- The dirty bytes of a line reach their homes. -/
def L1Line.toHome (x : L1Line) (mem : List Host.Cell) : List Host.Cell :=
  (List.range 64).foldl
    (fun mem b => if x.dirty.getLsbD b then memSet mem (64 * x.line + b) (x.data.getD b 0) else mem) mem

/-- A line without its dirty marks: one that is not whole is not kept, so that later loads take it from one instant. -/
def L1Line.cleaned (x : L1Line) : Option L1Line :=
  if x.valid = BitVec.allOnes 64 then some { x with dirty := 0 } else none

/-- A line without its clean bytes. -/
def L1Line.dirtyOnly (x : L1Line) : Option L1Line := if x.dirty = 0 then none else some { x with valid := x.dirty }

/-- Put a line into an L1. -/
def l1Put (r : CoreRec) (x : L1Line) : CoreRec := { r with l1 := x :: r.l1.filter fun y => y.line != x.line }

/-- Two lines fall into one set of the member's L1. -/
def Member.sameSet (m : Member) (x y : Nat) : Bool :=
  Config.l1Set x % (m.l1Lines / 8) == Config.l1Set y % (m.l1Lines / 8)

/-- Room for one more line in its set of eight ways (R34): of a full set a line leaves, its dirty bytes to their homes. The
spec names no victim, so it is a free choice (assumption 12). -/
def l1Room (M : Mach) (m : Member) (core line : Nat) : Mach :=
  let r := M.core core
  let ways := if r.l1.length < 8 then [] else r.l1.filter fun x => m.sameSet x.line line
  if ways.length < 8 then M
  else
    match ways[Config.freeNat M.free % ways.length]? with
    | none => M
    | some x =>
      { M.setCore { r with l1 := r.l1.filter fun y => y.line != x.line } with
        mem := x.toHome M.mem
        free := M.free + 1 }

/-- A line as a store or a load finds it: held already, or a new one without bytes. -/
def l1Open (M : Mach) (m : Member) (core line : Nat) : Mach × L1Line :=
  match l1Line (M.core core) line with
  | some x => (M, x)
  | none => (l1Room M m core line, ⟨line, zeros 64, 0, 0⟩)

/-- Write the dirty bytes of the lines a test picks back to their homes; whole lines stay as clean copies. -/
def writeBack (M : Mach) (core : Nat) (pick : Nat → Bool) : Mach :=
  let r := M.core core
  { M.setCore { r with l1 := r.l1.filterMap fun x => if pick x.line then x.cleaned else some x } with
    mem := r.l1.foldl (fun mem x => if pick x.line then x.toHome mem else mem) M.mem }

/-- Drop the clean bytes of the lines a test picks. -/
def dropClean (M : Mach) (core : Nat) (pick : Nat → Bool) : Mach :=
  let r := M.core core
  M.setCore { r with l1 := r.l1.filterMap fun x => if pick x.line then x.dirtyOnly else some x }

/-- The line of an address. -/
def inLine (pa : Nat) (line : Nat) : Bool := line == pa / 64

/-- The lines of some local pieces. -/
def inPieces (ps : List (Nat × Nat)) (line : Nat) : Bool :=
  ps.any fun p => p.1 / 64 ≤ line && line ≤ (p.1 + p.2 - 1) / 64

/-- What an engine has read or written at the homes for a member's stream, the core's clean copies no longer hold: a later
load of the stream reads nothing older (R81). -/
def dropCopies (M : Mach) (r : MRef) (ts : List (Target × Nat)) : Mach :=
  let ps :=
    ts.filterMap fun t =>
      match t.1 with
      | .local pa => some (pa, t.2)
      | .remote _ _ _ => none
  match (M.member r).bind Member.core with
  | some core => if (M.core core).l1.isEmpty then M else dropClean M core (inPieces ps)
  | none => M

/-! ### Store buffers (R87) -/

/-- Bytes of one line reach L1 as dirty bytes, or their home where the core has no L1 for them. -/
def enterL1 (M : Mach) (m : Member) (core pa : Nat) (bs : List Byte) : Mach :=
  if cacheable m core pa then
    let (M, x) := l1Open M m core (pa / 64)
    M.setCore (l1Put (M.core core) (x.store (pa % 64) bs))
  else M.put pa bs

/-- Perform the oldest entry of a stream's store buffer (R87, R99), all of its bytes in one step: the model's choice where
R80 lets an access of more than 8 bytes tear (assumption 12). -/
def performEntry (M : Mach) (m : Member) (core : Nat) (e : SbEntry) : Mach :=
  match e.release with
  | some sc =>
    if sc.num ≤ Scope.core.num then enterL1 M m core e.pa e.bytes
    else dropClean ((writeBack M core fun _ => true).put e.pa e.bytes) core (inLine e.pa)
  | none => enterL1 M m core e.pa e.bytes

/-- Drain a stream's store buffer, oldest first. -/
def drainBuffer (M : Mach) (r : MRef) (st : Strm) : Mach :=
  match M.member r with
  | none => M
  | some m =>
    match m.core with
    | none => M
    | some core =>
      let M := ((m.str st).sb ++ (m.str st).entering).foldl (fun M e => performEntry M m core e) M
      M.updMember r fun m => m.updStr st fun s => { s with sb := [], entering := [] }

/-- Drain one entry, the oldest: the event STORE_BUFFER_DRAIN; entries do not merge (assumption 12). The next store that
waits to enter takes its place, and a core frozen on the full buffer goes on once none waits (R152). -/
def drainOne (M : Mach) (r : MRef) (st : Strm) : Mach :=
  match M.member r with
  | none => M
  | some m =>
    match m.core, (m.str st).sb with
    | some core, e :: rest =>
      let M := performEntry M m core e
      M.updMember r fun m =>
        let m := m.updStr st fun s => { s with sb := rest ++ s.entering.take 1, entering := s.entering.drop 1 }
        if m.freeze = .store st && (m.str st).entering.isEmpty then m.thaw M else m
    | _, _ => M

/-! ### Releases and acquires (R86, R94, R96) -/

/-- A release at a scope by a stream: the store buffer drains, and from .quad on dirty bytes reach their homes.
Posted remote writes are waited for separately (R109). -/
def release (M : Mach) (r : MRef) (st : Strm) (sc : Scope) : Mach :=
  let M := drainBuffer M r st
  match (M.member r).bind Member.core with
  | some core => if sc.num ≤ Scope.core.num then M else writeBack M core fun _ => true
  | none => M

/-- An acquire at a scope: from .quad on, clean copies are dropped. -/
def acquire (M : Mach) (r : MRef) (sc : Scope) : Mach :=
  match (M.member r).bind Member.core with
  | some core => if sc.num ≤ Scope.core.num then M else dropClean M core fun _ => true
  | none => M

/-- Earlier stores of the stream are performed at their homes (R103, R104). -/
def toHomes (M : Mach) (r : MRef) (st : Strm) : Mach := release M r st .pkg

/-- Write back the line of an address from the core's L1 and drop its copy (R254). -/
def flushLine (M : Mach) (r : MRef) (st : Strm) (pa : Nat) : Mach :=
  let M := drainBuffer M r st
  match (M.member r).bind Member.core with
  | some core => dropClean (writeBack M core (inLine pa)) core (inLine pa)
  | none => M

/-! ### Translation of a stream's access -/

/-- Translate a span for a stream of a member and keep the translations. -/
def Ctx.reach (c : Ctx) (k : AKind) (pva : Word) (n : Nat) : Except XFault (Mach × List (Target × Nat)) :=
  match xspan c.M c.mem.core c.mem.die c.mem.ref.part k pva n with
  | .error f => .error f
  | .ok (ts, es) => .ok (tlbFills c.M c.mem.core c.mem.die es, ts)

/-- As `reach`, for an access that is sent where the span is remote: without a key one that waits for its answer is
refused here (R8), a posted one when it is posted. -/
def Ctx.span (c : Ctx) (k : AKind) (pva : Word) (n : Nat) : Except XFault (Mach × List (Target × Nat)) :=
  match c.reach k pva n with
  | .error f => .error f
  | .ok (M, ts) =>
    if remotePieces ts ≠ 0 && !k.posted && !mayRequest c.M c.mem.ref.part then .error (keyFault pva) else .ok (M, ts)

/-- The fault of a translation at the word (R31). -/
def Ctx.xtrap (c : Ctx) (f : XFault) (k : AKind) : Res := .trap (xlateTrap c.raw f k)

/-- A refusal pending for the stream, taken at a release or fence of scope .pod (R31). -/
def Ctx.pendingRefusal (c : Ctx) (sc : Scope) : Option Res :=
  match c.s.imprecise with
  | [] => none
  | r :: _ =>
    if sc = .pod then
      some (.trapTaking c.M (.refusal c.st r) (impreciseTrap c.raw r))
    else none

/-! ### Loads (R82, R244) -/

/-- A byte as a stream of a core reads it: its own store buffer, the core's L1, the home. -/
def loadByte (M : Mach) (s : Stream) (core : Nat) (pa : Nat) : Byte :=
  match (s.sb ++ s.entering).reverse.find? fun e => e.pa ≤ pa && pa < e.pa + e.bytes.length with
  | some e => e.bytes.getD (pa - e.pa) 0
  | none =>
    match l1Byte (M.core core) pa with
    | some b => b
    | none => memGet M.mem pa

/-- A byte that a load of the stream finds at its core, so that it does not go to the home. -/
def byteHeld (M : Mach) (s : Stream) (core pa : Nat) : Bool :=
  (s.sb ++ s.entering).any (fun e => e.pa ≤ pa && pa < e.pa + e.bytes.length) || (l1Byte (M.core core) pa).isSome

/-- Every byte of a local piece is held at the core. -/
def pieceHeld (M : Mach) (s : Stream) (core pa n : Nat) : Bool := (List.range n).all fun i => byteHeld M s core (pa + i)

/-- Bytes of a local piece. -/
def loadBytes (M : Mach) (s : Stream) (core pa n : Nat) : List Byte :=
  (List.range n).map fun i => loadByte M s core (pa + i)

/-- Keep a line whole in the L1, its missing bytes from their homes. -/
def fillLine (M : Mach) (m : Member) (core line : Nat) : Mach :=
  if cacheable m core (64 * line) then
    let (M, x) := l1Open M m core line
    M.setCore (l1Put (M.core core) (x.fill (M.get (64 * line) 64)))
  else M

/-- Keep the lines of a span in the L1. -/
def allocate (M : Mach) (m : Member) (core pa n : Nat) : Mach :=
  (List.range ((pa + n - 1) / 64 - pa / 64 + 1)).foldl (fun M i => fillLine M m core (pa / 64 + i)) M

/-- Load local pieces by a stream. -/
def loadPieces (M : Mach) (m : Member) (s : Stream) (core : Nat) (na : Bool) : List (Nat × Nat) → Mach × List Byte
  | [] => (M, [])
  | (pa, n) :: ps =>
    let bs := loadBytes M s core pa n
    let M := if na || pieceHeld M s core pa n then M else allocate M m core pa n
    let (M, rest) := loadPieces M m s core na ps
    (M, bs ++ rest)

/-- Extend a loaded value (R244). -/
def extendLoad (sz : Size) (sx : Bool) (v : Nat) : Word :=
  if sx then w64 (unsgn 64 (sgn (8 * sz.bytes) v)) else w64 v

/-- The register writes of a load's data: a pair for 16 bytes (R243). -/
def loadWrites (d : Dst) (sz : Size) (sx : Bool) (data : BitVec 128) : List (Dst × Word) :=
  match sz with
  | .b16 => [(d, w64 data.toNat), (pairDst d, w64 (data.toNat >>> 64))]
  | _ => [(d, extendLoad sz sx (data.toNat % 2 ^ (8 * sz.bytes)))]

/-! ### Stores (R245) -/

/-- Cut a piece at lines of 64 bytes. -/
def lineCuts (pa : Nat) (bs : List Byte) : List (Nat × List Byte) :=
  let n := 64 - pa % 64
  if bs.length ≤ n then [(pa, bs)] else [(pa, bs.take n), (pa + n, bs.drop n)]

/-- A store to a window that R454 checks: it arrives as it issues, after the stream's earlier stores, so that its check is
the word's (assumption 37). -/
def storeNow (M : Mach) (m : Member) (st : Strm) (rel : Option Scope) (pa : Nat) (bs : List Byte) : Mach :=
  let M :=
    match rel with
    | some sc => release M m.ref st sc
    | none => drainBuffer M m.ref st
  dropClean (M.put pa bs) (m.core.getD 0) (inPieces [(pa, bs.length)])

/-- The store-buffer entries and posted writes of a store. -/
def storePieces (M : Mach) (m : Member) (st : Strm) (pva : Word) (rel : Option Scope) :
    List (Target × Nat) → List Byte → Mach
  | [], _ => M
  | (t, n) :: ts, bs =>
    let M :=
      match t with
      | .local pa =>
        if checkedWindow (m.core.getD 0) pa then storeNow M m st rel pa (bs.take n)
        else
          let es := (lineCuts pa (bs.take n)).map fun x => (⟨x.1, x.2, rel⟩ : SbEntry)
          let M := M.updMember m.ref fun m => m.updStr st fun s => { s with sb := s.sb ++ es }
          es.foldl (fun M _ => M.raise 1 (.storeBufferDrain m.ref st)) M
      | .remote dev part ra => postWrite M m.ref st dev part ra pva (bs.take n)
    storePieces M m st pva rel ts (bs.drop n)

/-- Entries a store needs in the store buffer. -/
def storeEntries : List (Target × Nat) → Nat
  | [] => 0
  | (.local pa, n) :: ts => (if pa % 64 + n ≤ 64 then 1 else 2) + storeEntries ts
  | (.remote _ _ _, _) :: ts => storeEntries ts

/-! ### Answers of untimed words (R153) -/

/-- Change the untimed word a test picks, in its stream or set aside by a handler. -/
def Member.updUntimed (m : Member) (st : Strm) (p : Untimed → Bool) (f : Untimed → Untimed) : Member :=
  let g : Option Untimed → Option Untimed := fun o => o.map fun u => if p u then f u else u
  let m := m.updStr st fun s => { s with untimed := g s.untimed }
  if st = .c then { m with handler := m.handler.map fun h => { h with cuntimed := g h.cuntimed } } else m

end Sys2Proof.Machine
end

