-- ==== Sys2Proof/Machine/Image.lean ====
section
/-!
DEFINITION. A member's state in its save area (R407, R408): the layout of streams, slots and counters, the image following
what comes after the save (R409), and what a restore reads from it (R410).
-/

namespace Sys2Proof.Machine

/-! ### Layout -/

/-- A set-aside result with its remaining cycles: two words (R408). -/
def resultWords (rem : Nat) (w : Dst × Word) : List Word := [w64 (w.1.code.toNat + rem <<< 32 + 2 ^ 63), w.2]

/-- The set-aside results of a stream: what a landing slot will deliver stands in the slot. -/
def asideWords (now : Nat) (l : List InFlight) : List Word :=
  l.flatMap fun f => if f.slot.isSome then [] else f.writes.flatMap (resultWords (f.due - now))

/-- What a handler set aside for a stream. -/
def Handler.asideOf (h : Handler) : Strm → Aside
  | .c => h.c | .a => h.a | .v => h.v | .x => h.x

/-- The untimed words of a stream: its own, and of C the one a handler has set aside. -/
def Member.untimeds (m : Member) (st : Strm) : List Untimed :=
  (m.str st).untimed.toList ++ if st = .c then (m.handler.bind Handler.cuntimed).toList else []

/-- Results of untimed words that have come and not yet landed: they land as set-aside results with no cycle left. -/
def Member.comeResults (m : Member) (st : Strm) : List (Dst × Word) :=
  (m.untimeds st).flatMap fun u => if u.needs = .ready then u.writes else []

/-- Cycles of IDLE spacing still to run for the next word of a stream. -/
def idleLeft (M : Mach) (m : Member) (st : Strm) : Nat :=
  let s := m.str st
  (match fetch M m s.pc with
    | .ok w => s.earliest w - m.cycle
    | .error _ => s.floor - m.cycle) % 1024

/-- Where a stream's state block lies (R407). -/
def streamAt (st : Strm) : Nat := 0x1400 + 0x400 * st.num

/-- A stream's state block (R408). RUN and WAIT are those of the halt; while a handler runs, its set-aside results stand
beside the handler's own. The latch a handler set aside for C has no place in the layout (assumption 23). -/
def streamBlock (M : Mach) (m : Member) (st : Strm) : List Word :=
  let s := m.str st
  s.s.toList ++ s.o.toList ++ [s.lat, s.pc, w64 (idleLeft M m st), w64 s.status] ++
    [s.lps0, s.lpe0, s.lpc0, s.lps1, s.lpe1, s.lpc1, s.vwin, w64 s.nissue, w64 s.nstall] ++
    List.replicate 11 0 ++ asideWords m.cycle s.inflight ++
    (match m.handler with
      | some h => asideWords h.tau (h.asideOf st).inflight
      | none => []) ++ (m.comeResults st).flatMap (resultWords 0)

/-- State code of a landing slot in the image. -/
def SlotState.num : SlotState → Nat
  | .free => 0 | .pending => 1 | .landed => 2

/-- Remaining cycles of a landing slot; while a handler runs they count from its trap. -/
def slotLeft (m : Member) (k : Nat) (l : LSlot) : Nat :=
  match m.handler with
  | some h => ((aGet h.slotDue k).getD h.tau) - h.tau
  | none => (l.due.getD m.cycle) - m.cycle

/-- A landing slot in the image. -/
def slotWords (m : Member) (k : Nat) (l : LSlot) : List Word :=
  [w64 (l.state.num + l.strm.num <<< 8 + l.dst.code.toNat <<< 16 + (slotLeft m k l % 1024) <<< 32 + l.size.code.toNat <<< 42 +
      (if l.sx then 1 <<< 45 else 0)), 0, w64 (l.data.toNat % 2 ^ 64), w64 (l.data.toNat / 2 ^ 64)]

/-- The counters in the image. -/
def counterWords (m : Member) : List Word := m.tc.toList.flatMap fun p => [w64 p.1, w64 p.2]

/-- The image of a switched-out member follows the landing data, responses and completions that come after its save
(R409). -/
def syncCore (M : Mach) (r : MRef) : Mach :=
  match M.member r with
  | none => M
  | some m =>
    if m.core.isSome || (savePa M m 0).isNone then M
    else
      saveGroups M m
        ((Strm.all.map fun st => (streamAt st, streamBlock M m st)) ++
          [(0x2D00, counterWords m), (0x2E00, m.slots.toList.zipIdx.flatMap fun x => slotWords m x.2 x.1)])

/-! ### Answers of untimed words -/

/-- The result of the untimed word that waits for what a test picks is known; the image of a switched-out member takes it
(R409). -/
def answerIf (M : Mach) (r : MRef) (st : Strm) (p : Answer → Bool) (f : Untimed → Untimed) : Mach :=
  syncCore (M.updMember r fun m => m.updUntimed st (fun u => p u.needs) fun u => { f u with needs := .ready }) r

/-- The untimed word that waits for what a test picks traps. -/
def failIf (M : Mach) (r : MRef) (st : Strm) (p : Answer → Bool) (i : Untimed → TrapInfo) : Mach :=
  M.updMember r fun m => m.updUntimed st (fun u => p u.needs) fun u => { u with needs := .refused (i u) }

/-- The result of the untimed word that waits for `needs` is known. -/
def answer (M : Mach) (r : MRef) (st : Strm) (needs : Answer) (f : Untimed → Untimed) : Mach :=
  answerIf M r st (fun n => n == needs) f

/-- The untimed word that waits for `needs` traps. -/
def failAnswer (M : Mach) (r : MRef) (st : Strm) (needs : Answer) (i : Untimed → TrapInfo) : Mach :=
  failIf M r st (fun n => n == needs) i

/-- The word waits for the answer of request number id: an ACQ, or another. -/
def Answer.ofRequest (id : Nat) : Answer → Bool
  | .response i => i == id
  | .acq i _ _ => i == id
  | _ => false

/-! ### Reading an image back (R410) -/

/-- A word of the save area; one that is not mapped reads as given. -/
def imageWord (M : Mach) (m : Member) (off : Nat) (old : Word) : Word :=
  match savePa M m off with
  | some pa => M.word pa
  | none => old

/-- Bytes of the save area inside one block of 64 KiB; unmapped ones read as given. -/
def imageBytes (M : Mach) (m : Member) (off : Nat) (old : List Byte) : List Byte :=
  match savePa M m off with
  | some pa => M.get pa old.length
  | none => old

/-- Words of the save area from an offset on. -/
def imageWords (M : Mach) (m : Member) (off : Nat) (old : List Word) : List Word :=
  old.zipIdx.map fun x => imageWord M m (off + 8 * x.2) x.1

/-- Results read back from entry i of a stream's block on; one whose VALID is clear is gone. -/
def readWrites (M : Mach) (m : Member) (base : Nat) : Nat → List (Dst × Word) → List (Dst × Word × Nat)
  | _, [] => []
  | i, w :: ws =>
    let w0 := imageWord M m (base + 0x200 + 16 * i) 0
    let rest := readWrites M m base (i + 1) ws
    if w0.getLsbD 63 then
      ((Dst.ofCode (BitVec.ofNat 8 (wf w0 0 8))).getD w.1, imageWord M m (base + 0x208 + 16 * i) w.2, wf w0 32 10) :: rest
    else rest

/-- Set-aside results read back from entry i on, with the next entry's number. -/
def readFlight (M : Mach) (m : Member) (base now : Nat) : Nat → List InFlight → List InFlight × Nat
  | i, [] => ([], i)
  | i, f :: fs =>
    if f.slot.isSome then
      let (rest, j) := readFlight M m base now i fs
      (f :: rest, j)
    else
      let ws := readWrites M m base i f.writes
      let (rest, j) := readFlight M m base now (i + f.writes.length) fs
      (match ws with
        | [] => (rest, j)
        | (_, _, left) :: _ => ({ f with due := now + left, writes := ws.map fun w => (w.1, w.2.1) } :: rest, j))

/-- An untimed word's result read back from entry i on. -/
def readCome (M : Mach) (m : Member) (base i : Nat) (u : Untimed) : Untimed :=
  if u.needs = .ready then { u with writes := (readWrites M m base i u.writes).map fun w => (w.1, w.2.1) } else u

/-- Set what a handler set aside for a stream. -/
def Handler.setAside (h : Handler) (st : Strm) (l : List InFlight) : Handler :=
  match st with
  | .c => { h with c := { h.c with inflight := l } }
  | .a => { h with a := { h.a with inflight := l } }
  | .v => { h with v := { h.v with inflight := l } }
  | .x => { h with x := { h.x with inflight := l } }

/-- A stream read back from its block. -/
def readStream (M : Mach) (m : Member) (st : Strm) : Member :=
  let base := streamAt st
  let w (off : Nat) : Word := imageWord M m (base + off) 0
  let s := m.str st
  let (own, i) := readFlight M m base m.cycle 0 s.inflight
  let (kept, i) : Option Handler × Nat :=
    match m.handler with
    | some h =>
      let (l, i) := readFlight M m base h.tau i (h.asideOf st).inflight
      (some (h.setAside st l), i)
    | none => (none, i)
  let s :=
    { s with
      s := s.s.mapIdx fun k _ => w (8 * k)
      o := s.o.mapIdx fun k _ => w (0x100 + 8 * k)
      lat := w 0x140
      pc := w 0x148
      floor := m.cycle + wf (w 0x150) 0 10
      running := wf (w 0x158) 0 2 ≠ 0
      lps0 := w 0x160, lpe0 := w 0x168, lpc0 := w 0x170, lps1 := w 0x178, lpe1 := w 0x180, lpc1 := w 0x188
      vwin := w 0x190
      nissue := (w 0x198).toNat
      nstall := (w 0x1A0).toNat
      inflight := own
      untimed := s.untimed.map (readCome M m base i) }
  let i := i + ((m.str st).untimed.toList.flatMap fun u => if u.needs = .ready then u.writes else []).length
  let kept :=
    if st = .c then kept.map fun h => { h with cuntimed := h.cuntimed.map (readCome M m base i) } else kept
  { m.setStr st s with handler := kept }

/-- A landing slot read back. -/
def readSlot (M : Mach) (m : Member) (k : Nat) (l : LSlot) : LSlot :=
  let w (i : Nat) : Word := imageWord M m (0x2E00 + 32 * k + 8 * i) 0
  let w0 := w 0
  { l with
    state :=
      match wf w0 0 2 with
      | 0 => .free
      | 1 => .pending
      | _ => .landed
    strm :=
      match wf w0 8 2 with
      | 0 => .c
      | 1 => .a
      | 2 => .v
      | _ => .x
    dst := (Dst.ofCode (BitVec.ofNat 8 (wf w0 16 8))).getD l.dst
    due := if l.due.isSome then some (m.cycle + wf w0 32 10) else none
    size := (Size.ofCode (BitVec.ofNat 3 (wf w0 42 3))).getD l.size
    sx := w0.getLsbD 45
    data := BitVec.ofNat 128 ((w 2).toNat + (w 3).toNat <<< 64) }

/-- A handle read back. -/
def readHandle (M : Mach) (m : Member) (k : Nat) : Option Handle :=
  let w (i : Nat) : Word := imageWord M m (0x2480 + 128 * k + 8 * i) 0
  let copy := (List.range 8).map fun i => w (2 + i)
  match wf (w 0) 0 2 with
  | 0 => none
  | 1 => some ⟨.tensor, copy, w 1⟩
  | 2 => some ⟨.table, copy, w 1⟩
  | _ => some ⟨.grid, copy, w 1⟩

/-- An operand queue read back: the rows and reserved places it counts, the rows' bytes from their places. -/
def readQueue (M : Mach) (m : Member) (k : Nat) (q : List QRow) : List QRow :=
  let n := imageWord M m (0x2D40 + 8 * k) 0
  (q.take (wf n 0 6 + wf n 8 6)).zipIdx.map fun x =>
    { x.1 with data := imageBytes M m (0x4000 + 0x1000 * k + 128 * x.2) x.1.data, landed := x.1.landed || decide (x.2 < wf n 0 6) }

/-- A tile's record read back (R41); the scopes counted into a fill have no place in it. -/
def readTile (M : Mach) (m : Member) (t : Nat) : TileRec :=
  let w (i : Nat) : Word := imageWord M m (0x10000 + 32 * t + 8 * i) 0
  { exp := wf (w 0) 32 8
    mulm1 := wf (w 0) 26 6
    ctype :=
      match wf (w 0) 24 2 with
      | 0 => .plain
      | 1 => .i32
      | _ => .rn3
    pcause := wf (w 0) 22 2
    tdup := (w 0).getLsbD 21
    tag :=
      match wf (w 0) 14 2 with
      | 0 => .empty
      | 1 => .filling
      | 2 => .full
      | _ => .poisoned
    cnt := wf (w 0) 0 14
    map := BitVec.ofNat 128 ((w 1).toNat + (w 2).toNat <<< 64)
    acq := (m.tile t).acq }

/-- A journal entry read back (R166); a tile whose entry is free has none. -/
def readJournal (M : Mach) (m : Member) (t : Nat) : Option Journal :=
  let w (i : Nat) : Word := imageWord M m (0x1F8000 + 32 * t + 8 * i) 0
  if (w 0).getLsbD 63 then
    some ⟨t, wf (w 0) 48 8, wf (w 0) 0 32, wf (w 1) 0 8, (w 1).getLsbD 8, BitVec.ofNat 128 ((w 2).toNat + (w 3).toNat <<< 64)⟩
  else none

/-- An accumulator set read back, as far as it holds outputs. -/
def readAcc (M : Mach) (m : Member) (k : Nat) (x : AccSet) : AccSet :=
  let base := 0x38000 + 0x30000 * k
  { x with
    rn := x.rn.zipIdx.map fun r => imageWords M m (base + 1024 * r.2) r.1
    p := x.p.zipIdx.map fun r =>
      r.1.zipIdx.map fun v =>
        let w := imageWord M m (base + 0x20000 + 512 * r.2 + 8 * (v.2 / 2)) 0
        BitVec.ofNat 32 (if v.2 % 2 = 0 then w.toNat else w.toNat / 2 ^ 32) }

/-- What a restore reads from the member's image (R410): every field that R406 to R408 lay out. What they give no layout
stands in the member's record (assumption 23). -/
def readImage (M : Mach) (m : Member) : Member :=
  if (savePa M m 0).isNone || wf (imageWord M m 0 0) 0 2 ≠ 1 then m
  else
    let m := { m with cycle := (imageWord M m 0x10 0).toNat }
    let m := Strm.all.foldl (fun m st => readStream M m st) m
    let csr (i : Nat) : Word := imageWord M m (0x2D80 + 8 * i) 0
    let tiles := tileCount m.size
    { m with
      mbs := m.mbs.mapIdx fun k _ => (imageWord M m (0x2400 + 16 * k) 0, (imageWord M m (0x2408 + 16 * k) 0).getLsbD 0)
      handles := m.handles.mapIdx fun k _ => readHandle M m k
      hl := m.hl.mapIdx fun k _ => imageWord M m (0x2C80 + 8 * k) 0
      tc := m.tc.mapIdx fun k _ =>
        ((imageWord M m (0x2D00 + 16 * k) 0).toNat, (imageWord M m (0x2D08 + 16 * k) 0).toNat)
      queues := m.queues.mapIdx fun k q => readQueue M m k q
      tvec := csr 0, tcause := csr 1, tstrm := csr 2, tepc := csr 3, tval := csr 4, tscr := csr 5
      slots := m.slots.mapIdx fun k l => readSlot M m k l
      arrq := m.arrq.zipIdx.map fun x => { x.1 with data := imageBytes M m (0xC010 + 80 * x.2) x.1.data }
      tiles := (List.range tiles).map fun t => (t, readTile M m t)
      journal := (List.range tiles).filterMap (readJournal M m)
      floors := m.floors.map fun f => (f.1, (imageWord M m (0x1FC000 + 8 * f.1) 0).toNat)
      acc := m.acc.mapIdx fun k x => readAcc M m k x }

end Sys2Proof.Machine
end

