-- ==== Sys2Proof/Machine/Home.lean ====
section
/-!
DEFINITION. Operations at a home: atomics (R253, R254), binding objects (R92 to R95), shared by the words of streams
and by the packets of other partitions.
-/

namespace Sys2Proof.Machine

/-! ### Atomics (R253) -/

/-- The new value of an atomic on an element of `w8` (8 or 4) bytes; 0x5B adds RN3 elements (R257). -/
def atomNew (op : Nat) (w8 : Bool) (old v k : Nat) : Nat :=
  let n := if w8 then 64 else 32
  let v := v % 2 ^ n
  match op with
  | 0x50 => (old + v) % 2 ^ n
  | 0x51 => old &&& v
  | 0x52 => old ||| v
  | 0x53 => old ^^^ v
  | 0x54 => if sgn n old < sgn n v then old else v
  | 0x55 => if sgn n old < sgn n v then v else old
  | 0x56 => min old v
  | 0x57 => max old v
  | 0x58 => v
  | 0x59 => if old = k % 2 ^ n then v else old
  | 0x5A => fAdd fp32 false old v
  | _ => rnAdd old v

/-- Perform an atomic at its home: the machine after it, and the old value. -/
def homeAtom (M : Mach) (pa op : Nat) (w8 : Bool) (v k : Nat) : Mach × Nat :=
  let n := if w8 then 8 else 4
  let old := leNat (M.get pa n)
  (M.put pa (leBytes n (atomNew op w8 old v k)), old)

/-! ### Binding objects (R92) -/

/-- The holder fields of a stream, in place in word 1 (R92). -/
def holderBits (M : Mach) (m : MRef) (st : Strm) : Nat :=
  st.num <<< 26 + (m.rank % 256) <<< 28 + (m.ctx % 4096) <<< 36 + (m.part % 8) <<< 48 + M.self.col <<< 51 + M.self.row <<< 56

/-- Word 1 names no reserved bit. -/
def objWellFormed (w1 : Nat) : Bool := fld w1 61 2 = 0 && fld w1 1 25 = 0

/-- How an object operation ends at its home. -/
inductive ObjEnd where
  /-- Performed; the version it observed or made. -/
  | version (M : Mach) (v : Word)
  /-- It waits (R95). -/
  | waits
  /-- A program trap; nothing changed. -/
  | trap (cause : Nat)

/-- REL at an object's home, after its release (R94 steps 2 and 3). -/
def homeRel (M : Mach) (pa holder : Nat) : ObjEnd :=
  let v := M.word pa
  let w1 := (M.word (pa + 8)).toNat
  if !objWellFormed w1 then .trap 0x13
  else if bitOf w1 63 && fld w1 26 35 ≠ fld holder 26 35 then .trap 0x1E
  else
    let M := M.setWord pa (v + 1)
    .version (if bitOf w1 63 then M.setWord (pa + 8) (w64 (w1 - 2 ^ 63)) else M) (v + 1)

/-- Kinds of ACQ (R95). -/
inductive AcqKind where
  | ge (n : Nat)
  | nw
  | x
  deriving DecidableEq, Repr

/-- ACQ at an object's home (R95). -/
def homeAcq (M : Mach) (pa holder : Nat) (k : AcqKind) : ObjEnd :=
  let v := M.word pa
  let w1 := (M.word (pa + 8)).toNat
  if !objWellFormed w1 then .trap 0x13
  else
    match k with
    | .ge n => if n ≤ v.toNat then .version M v else .waits
    | .nw => .version M v
    | .x =>
      if !bitOf w1 0 then .trap 0x13
      else if bitOf w1 63 then .waits
      else .version (M.setWord (pa + 8) (w64 (2 ^ 63 + fld holder 26 35 <<< 26 + fld w1 0 26))) v

/-- An ACQ at an object's home is answered now: with a version, or by a trap (R92, R95). -/
def acqAnswered (M : Mach) (pa holder : Nat) (k : AcqKind) : Bool :=
  M.poisoned pa 16 ||
    match homeAcq M pa holder k with
    | .waits => false
    | _ => true

/-- REL on the default object (R93). -/
def defaultRel (M : Mach) (part : Nat) : ObjEnd :=
  let v := ((M.part part).map (·.defver)).getD 0
  .version (M.updPart part fun p => { p with defver := p.defver + 1 }) (v + 1)

/-- ACQ on the default object (R93). -/
def defaultAcq (M : Mach) (part : Nat) (k : AcqKind) : ObjEnd :=
  let v := ((M.part part).map (·.defver)).getD 0
  match k with
  | .ge n => if n ≤ v.toNat then .version M v else .waits
  | .nw => .version M v
  | .x => .trap 0x13

end Sys2Proof.Machine
end

