-- ==== Sys2Proof/Machine/Queue.lean ====
section
/-!
DEFINITION. Queue objects: junctions, pairs, service at the home, parking (R111 to R126), the words PUSH, POP and
QOCTL (R343), and their events.
-/

namespace Sys2Proof

/-- Whether the operation is a push. -/
def QOp.isPush (op : QOp) : Bool :=
  match op.form with
  | .push _ => true
  | _ => false

end Sys2Proof

namespace Sys2Proof.Machine

/-! ### Names -/

/-- The device and partition that issued an operation, as one number (R123). -/
def remoteIssuer (dev : DevRef) (part : Nat) : Nat := 8 + (dev.row * 32 + dev.col) * 8 + part

/-- Junctions: 0 to 63 quad routers, 100 + die crossbar ports, 200 the fabric-die router. -/
def fabricJunction : Nat := 200

/-- A die's crossbar port. -/
def crossbar (die : Nat) : Nat := 100 + die

/-- JLVL of a junction (R116). -/
def jlvl (place : Nat) : Nat := if place < 64 then 1 else if place < 200 then 2 else 3

/-- Hold slots of a junction (R122). -/
def holdSlots (place : Nat) : Nat := if place < 64 then 64 else if place < 200 then 256 else 128

/-- Pairing window of a class in ns (R120). -/
def pairWindow (p : Part) (k : Nat) : Nat := if k < 4 then wf p.qwin0 (16 * k) 10 else wf p.qwin1 (16 * (k - 4)) 10

/-- Wall-clock cycles of a number of ns at 940 MHz, rounded down, at least one. -/
def nsCycles (ns : Nat) : Nat := max 1 (ns * 940 / 1000)

/-- Discipline code (R112). -/
def discNum : Disc → Nat
  | .bag => 0
  | .stack => 1

/-- The word of R116. -/
def opStatus (level code : Nat) : Word := w64 (level <<< 8 + code)

/-- Eligible junctions of an operation issued by a core (R121). -/
def coreRoute (core homeDie : Nat) : List Nat :=
  let die := core / 32
  if die = homeDie then [core / 4, crossbar die] else [core / 4, crossbar die, fabricJunction, crossbar homeDie]

/-- Of one issued by a die's distributor. -/
def distRoute (die homeDie : Nat) : List Nat :=
  if die = homeDie then [crossbar die] else [crossbar die, fabricJunction, crossbar homeDie]

/-- Of one issued by a command processor, or admitted from a REMOTE leaf. -/
def farRoute (homeDie : Nat) : List Nat := [fabricJunction, crossbar homeDie]

/-! ### Job-card queues (R385, R386) -/

/-- PVA of the job-card object of a priority (R385). -/
def cardObject (p : Part) (prio : Nat) : Nat := p.cardb.toNat + 64 * prio

/-- The fields a job-card operation carries. -/
def cardArgs : QArgs := ⟨.pkg, 7, .bag⟩

/-- The crossbar die of the job-card objects: the partition's lowest (R385). -/
def cardDie (p : Part) : Nat := p.id

/-- A distributor's POP.w on a job-card object leaves, while the active table has room (R386). -/
def distPop (M : Mach) (part die prio : Nat) : Mach :=
  match M.part part with
  | none => M
  | some p =>
    if 64 ≤ p.tasks.length || !M.liveDies.contains die || !p.ptroot.getLsbD 0 then M
    else
      let w := pairWindow p 7
      let op : QOp :=
        ⟨M.nextId, .popW, part, cardObject p prio, part, cardArgs, .dist part die prio, w, w,
          distRoute die (cardDie p)⟩
      { M with nextId := M.nextId + 1 }.raise 1 (.junctionHold op)

/-- Push a card (R385): by a command processor, or by the master distributor of a die. -/
def pushCard (M : Mach) (part prio : Nat) (card : BitVec 128) (die : Option Nat) : Mach :=
  match M.part part with
  | none => M
  | some p =>
    let w := pairWindow p 7
    let (issuer, rt) : QIssuer × List Nat :=
      match die with
      | some die => (.dist part die prio, distRoute die (cardDie p))
      | none => (.cp part 0, farRoute (cardDie p))
    let op : QOp := ⟨M.nextId, .push card, part, cardObject p prio, part, cardArgs, issuer, w, w, rt⟩
    { M with nextId := M.nextId + 1 }.raise 1 (.junctionHold op)

/-! ### Answers -/

/-- How an operation ends. -/
inductive QEnd where
  | status (level code : Nat) (payload : BitVec 128)
  /-- A program trap at the issuing instruction (R113, R117). -/
  | trap (cause : Nat)
  | fault (f : XFault)
  | ecc (pa : Nat)

/-- Write new values over the destinations of an untimed word. -/
def fillWrites (ws : List (Dst × Word)) (vs : List Word) : List (Dst × Word) :=
  (ws.zip vs).map fun x => (x.1.1, x.2)

/-- Deliver the end of an operation to its issuer (R116, R125, R385). -/
def replyOp (M : Mach) (op : QOp) (e : QEnd) : Mach :=
  match op.issuer with
  | .stream m st =>
    match e with
    | .status level code pl =>
      answer M m st (.queueOp op.id) fun u =>
        { u with
          writes := fillWrites u.writes [opStatus level code, w64 pl.toNat, w64 (pl.toNat >>> 64)]
          acquire := if !op.isPush && code = 0 then some op.args.scope else none }
    | .trap cause => failAnswer M m st (.queueOp op.id) fun u => progTrap cause u.raw (w64 op.pva)
    | .fault f => failAnswer M m st (.queueOp op.id) fun u => xlateTrap u.raw f .queuePop
    | .ecc pa => failAnswer M m st (.queueOp op.id) fun u => eccTrap u.raw pa
  | .remote dev part seq =>
    let r : ConnRef := ⟨op.part, dev, part⟩
    match e with
    | .status level code pl =>
      respond M r seq 0 (beat [opStatus level code, w64 pl.toNat, w64 (pl.toNat >>> 64), 0])
    | .trap cause => respond M r seq 0 (beat [0, 0, 0, w64 cause])
    | .fault _ => respond M r seq 0x0A []
    | .ecc _ => respond M r seq 0x21 []
  | .cp part _ =>
    match op.form, e with
    | .push _, .status _ 0 _ => M
    | .push card, _ => M.raise 4096 (.cardRepush part ((card.toNat >>> 56) % 8) ⟨card, none⟩)
    | _, _ => M
  | .dist part die prio =>
    match op.form, e with
    | .push _, .status _ 0 _ => M
    | .push card, _ => M.raise 4096 (.cardRepush part prio ⟨card, some die⟩)
    | _, .status _ 0 card => M.raise 1 (.cardAdmission part die card)
    | _, _ => distPop M part die prio

/-! ### Junctions (R121 to R126) -/

/-- A push and a pop that may pair (R123). -/
def pairs (x y : QOp) : Bool :=
  x.isPush != y.isPush && x.part == y.part && x.pva == y.pva && x.ipart == y.ipart && x.args == y.args

/-- The held operation an arriving one pairs with: the one that came first. -/
def heldMatch (M : Mach) (op : QOp) (place : Nat) : Option Held :=
  M.held.find? fun h => h.place == place && pairs h.op op

/-- An operation arrives at its next junction, or at the home. -/
def arriveAt (M : Mach) (op : QOp) : Mach :=
  match op.route with
  | [] => M.raise 1 (.queueHomeService op)
  | j :: _ =>
    match heldMatch M op j with
    | some h => M.raise 0 (.junctionPair h.op op)
    | none => M.raise 0 (.junctionHold op)

/-- Both operations of a pair are answered at the junction (R124). -/
def pairAt (M : Mach) (place : Nat) (x y : QOp) : Mach :=
  let payload : BitVec 128 :=
    match x.form, y.form with
    | .push p, _ => p
    | _, .push p => p
    | _, _ => 0
  let e (o : QOp) : QEnd := .status (jlvl place) 0 (if o.isPush then 0 else payload)
  let M := { M with held := M.held.filter fun h => h.op.id != x.id && h.op.id != y.id }
  replyOp (replyOp M x (e x)) y (e y)

/-- Hold slots in use at a junction; the fabric-die router keeps a table for each partition, and an operation uses its home
partition's: the model's choice (R122, assumption 30). -/
def heldCount (M : Mach) (op : QOp) (place : Nat) : Nat :=
  (M.held.filter fun h => h.place == place && (place < 200 || h.op.part == op.part)).length

/-- JUNCTION_HOLD: hold an operation, or forward it where it may not be held (R122). -/
def holdAt (M : Mach) (op : QOp) : Mach :=
  match op.route with
  | [] => M.raise 1 (.queueHomeService op)
  | j :: rest =>
    match heldMatch M op j with
    | some h => pairAt M j h.op op
    | none =>
      let allowance := if rest.isEmpty then op.budget else min op.budget (op.window / 4)
      if allowance = 0 || holdSlots j ≤ heldCount M op j then arriveAt M { op with route := rest }
      else
        { M with held := M.held ++ [(⟨op, j, M.wclk, allowance⟩ : Held)] }.raise (nsCycles allowance) (.holdExpiry op.id)

/-- HOLD_EXPIRY: the operation goes on to the next hop (R122, R126). -/
def releaseHold (M : Mach) (id : Nat) : Mach :=
  match M.held.find? fun h => h.op.id == id with
  | none => M
  | some h =>
    let M := { M with held := M.held.filter fun x => x.op.id != id }
    arriveAt M { h.op with budget := h.op.budget - h.allowance, route := h.op.route.drop 1 }

/-- JUNCTION_PAIR of a held and an arriving operation. -/
def pairEvent (M : Mach) (held arriving : QOp) : Mach :=
  match M.held.find? fun h => h.op == held && pairs h.op arriving with
  | some h => pairAt M h.place h.op arriving
  | none => arriveAt M arriving

/-! ### Service at the home (R117) -/

/-- The local frame of a span in a partition, as its home reaches it. A page that has become REMOTE since the operation
left or the object was enabled is no LOCAL frame: QO_FORMAT, since R30 keeps EXPORT_CHAIN for admission and R113 calls such a
descriptor malformed (DESIGN CHOICE, assumption 30). -/
def homeSpan (M : Mach) (part : Nat) (k : AKind) (pva n : Nat) : Except QEnd Nat :=
  match xspan M none part part k (w64 pva) n with
  | .error f => .error (.fault f)
  | .ok (ts, _) =>
    match allLocal ts with
    | some [(pa, _)] => .ok pa
    | _ => .error (.trap 0x1D)

/-- The frame of a descriptor lies in HBM or a staging slice (R113). -/
def descFrame (pa : Nat) : Bool :=
  match paKind pa with
  | .hbm _ => true
  | .staging _ => true
  | _ => false

/-- A descriptor's entry array: its PVA. -/
def descStore (d : List Word) : Nat := fld (recW d 1) 0 56

/-- Words 0 to 7 of a descriptor are well-formed (R113), the entry array apart. -/
def descWellFormed (d : List Word) : Bool :=
  let c := recW d 0
  let s := recW d 1
  fld c 48 15 = 0 && fld c 29 3 = 0 && fld c 19 5 = 0 && fld c 11 5 = 0 && fld c 1 7 = 0 &&
    fld c 24 5 < 25 && fld c 8 3 < 6 && fld s 56 8 = 0 && fld s 0 6 = 0 &&
    fld (recW d 2) 25 39 = 0 && fld (recW d 3) 11 53 = 0 && (d.drop 4).all (· == 0)

/-- Every page of the entry array is LOCAL on the home die with R and W (R113). -/
def storeOk (M : Mach) (part homeDie store bytes : Nat) : Bool :=
  (List.range ((store % 0x10000 + bytes + 0xFFFF) / 0x10000)).all fun i =>
    match xlate M none part part .atomic (w64 (store / 0x10000 * 0x10000 + i * 0x10000)) with
    | .ok e =>
      match e.target (store / 0x10000 * 0x10000 + i * 0x10000) with
      | .local pa => paDie pa == some homeDie
      | _ => false
    | .error _ => false

/-- Operations parked on an object, oldest first, as the home's parking table holds them: the table is keyed by partition and
object PVA, and where software has written PARKED, or named the frame by a second PVA, the table and not the descriptor's field
decides (R117, R118; DESIGN CHOICE, assumption 30). -/
def parkedOn (M : Mach) (part pva : Nat) : List Parked := M.parked.filter fun x => x.op.part == part && x.op.pva == pva

/-- The fields an operation carries agree with the descriptor (R117). -/
def opMatches (op : QOp) (c : Nat) : Bool :=
  fld c 0 1 = discNum op.args.disc && fld c 8 3 = op.args.scope.num && fld c 16 3 = op.args.cls.toNat

/-- Read or write one entry of an object. -/
def entryAt (M : Mach) (op : QOp) (store e : Nat) : Except QEnd Nat := homeSpan M op.part .atomic (store + 16 * e) 16

/-- A push at the home (R117); a COUNT that software has raised above the capacity reads as a full array (R114). -/
def homePush (M : Mach) (op : QOp) (pa : Nat) (d : List Word) (p : BitVec 128) : Mach :=
  let n := fld (recW d 2) 0 25
  match parkedOn M op.part op.pva with
  | w :: _ =>
    let M := { M with parked := M.parked.filter fun x => x.op.id != w.op.id }
    let M := M.setWord (pa + 24) (w64 (recW d 3 - 1))
    replyOp (replyOp M w.op (.status 0 0 p)) op (.status 0 0 0)
  | [] =>
    if 2 ^ fld (recW d 0) 24 5 ≤ n then replyOp M op (.status 0 2 0)
    else
      match entryAt M op (descStore d) n with
      | .error e => replyOp M op e
      | .ok ea => replyOp ((M.put ea (leBytes 16 p.toNat)).setWord (pa + 16) (w64 (n + 1))) op (.status 0 0 0)

/-- bagChoice of this part (R117). -/
def bagChoice (n : Nat) : Nat := n - 1

/-- A pop at the home (R117, R118); no entry outside the array is reached whatever COUNT holds (R114). -/
def homePop (M : Mach) (op : QOp) (pa homeDie : Nat) (d : List Word) : Mach :=
  let n := min (fld (recW d 2) 0 25) (2 ^ fld (recW d 0) 24 5)
  let wtmo := fld (recW d 0) 32 16
  if 0 < n then
    let k := if fld (recW d 0) 0 1 = 1 then n - 1 else bagChoice n
    match entryAt M op (descStore d) k, entryAt M op (descStore d) (n - 1) with
    | .ok ek, .ok el =>
      let p := leNat (M.get ek 16)
      let M := M.put ek (M.get el 16)
      replyOp (M.setWord (pa + 16) (w64 (n - 1))) op (.status 0 0 (BitVec.ofNat 128 p))
    | .error e, _ => replyOp M op e
    | _, .error e => replyOp M op e
  else if op.form = .popN || wtmo = 0 then replyOp M op (.status 0 1 0)
  else if 1024 ≤ (M.parked.filter fun x => x.die == homeDie).length then replyOp M op (.status 0 4 0)
  else
    let M := { M with parked := M.parked ++ [(⟨op, homeDie, M.wclk + wtmo * 1024⟩ : Parked)] }
    (M.setWord (pa + 24) (w64 (fld (recW d 3) 0 11 + 1))).raise (wtmo * 1024) (.parkedPopTimeout op.id)

/-- QUEUE_HOME_SERVICE: one operation at its home, indivisibly (R117). -/
def serveHome (M : Mach) (op : QOp) : Mach :=
  match homeSpan M op.part (if op.isPush then .queuePush else .queuePop) op.pva 64 with
  | .error e => replyOp M op e
  | .ok pa =>
    if M.poisoned pa 64 then replyOp M op (.ecc (pa / 64 * 64))
    else
      let d := wordsOf 8 (M.get pa 64)
      if !descFrame pa then replyOp M op (.trap 0x1D)
      else if !opMatches op (recW d 0) then replyOp M op (.trap 0x1C)
      else if !bitOf (recW d 0) 63 then replyOp M op (.status 0 5 0)
      else
        match op.form with
        | .push p => homePush M op pa d p
        | _ => homePop M op pa ((paDie pa).getD 0) d

/-- A push on an object is due at its home in this cycle: it is served before a deadline (R118). -/
def pushDue (M : Mach) (part pva : Nat) : Bool :=
  M.pending.any fun d =>
    decide (d.due ≤ M.wclk) &&
      match d.ev with
      | .queueHomeService op => op.isPush && op.part == part && op.pva == pva
      | _ => false

/-- PARKED_POP_TIMEOUT (R118). -/
def parkedTimeout (M : Mach) (id : Nat) : Mach :=
  match M.parked.find? fun x => x.op.id == id with
  | none => M
  | some x =>
    if M.wclk < x.deadline then M
    else if pushDue M x.op.part x.op.pva then M.raise 0 (.parkedPopTimeout id)
    else
      let M := { M with parked := M.parked.filter fun y => y.op.id != id }
      let M :=
        match homeSpan M x.op.part .queuePop x.op.pva 64 with
        | .ok pa => M.setWord (pa + 24) (w64 ((M.word (pa + 24)).toNat - 1))
        | .error _ => M
      replyOp M x.op (.status 0 3 0)

/-- QOCTL functions. -/
inductive QFn where
  | en | dis | cnt
  deriving DecidableEq, Repr

/-- QOCTL at the home (R119): its result, or the trap. -/
def homeCtl (M : Mach) (part pa : Nat) (pva : Nat) (fn : QFn) : Except Nat (Mach × Word) :=
  let d := wordsOf 8 (M.get pa 64)
  let c := recW d 0
  if !descFrame pa then .error 0x1D
  else
    match fn with
    | .cnt => .ok (M, w64 (fld (recW d 2) 0 25))
    | .dis =>
      let M := M.setWord pa (w64 (fld c 0 63))
      let M := M.setWord (pa + 24) (w64 (recW d 3 - fld (recW d 3) 0 11))
      let ps := parkedOn M part pva
      let M := { M with parked := M.parked.filter fun x => !(x.op.part == part && x.op.pva == pva) }
      .ok (ps.foldl (fun M x => replyOp M x.op (.status 0 5 0)) M, 0)
    | .en =>
      if !descWellFormed d || !storeOk M part ((paDie pa).getD 0) (descStore d) (16 * 2 ^ fld c 24 5) then .error 0x1D
      else .ok (M.setWord pa (w64 (fld c 0 63 + 2 ^ 63)), 0)

/-! ### Issue by a stream (R115, R343) -/

/-- FN14 of a queue operation (R343). -/
def opFn (op : QOp) : Nat :=
  op.args.scope.num <<< 11 + op.args.cls.toNat <<< 8 + discNum op.args.disc <<< 7 +
    (match op.form with
      | .popW => 1 <<< 6
      | .push _ | .popN => 0)

/-- KSPEC of a QOP packet (R418). -/
def opKspec (op : QOp) : BitVec 32 := kspec (opFn op + if op.isPush then 0 else 1 <<< 14)

/-- Payload of a QOP packet. -/
def opPayload (op : QOp) : List Byte :=
  match op.form with
  | .push p => beat [w64 p.toNat, w64 (p.toNat >>> 64)]
  | _ => beat []

/-- The pairing window of a class in a partition (R120). -/
def windowOf (M : Mach) (part cls : Nat) : Nat := ((M.part part).map fun p => pairWindow p cls).getD 0

/-- The operation leaves the core, or the device for a remote home (R121); it takes its window now (R120). -/
def launchOp (M : Mach) (m : Member) (op : QOp) (pva : Word) (k : AKind) : Mach :=
  let w := windowOf M op.ipart op.args.cls.toNat
  let op := { op with window := w, budget := w }
  match xlate M m.core m.die m.ref.part k pva with
  | .error f => replyOp M op (.fault f)
  | .ok e =>
    match e.target pva.toNat with
    | .local pa => arriveAt M { op with route := coreRoute (m.core.getD m.home) ((paDie pa).getD 0) }
    | .remote dev part ra =>
      sendOn M ⟨m.ref.part, dev, part⟩ (newPacket M ⟨m.ref.part, dev, part⟩ 4 ra (opKspec op) (opPayload op))
        (.queueOp op)

/-- PUSH and POP at issue: alignment, translation, the release of a push, then the wait for the answer. -/
def Ctx.queueWord (c : Ctx) (o : Reg) (form : QForm) (q : QArgs) (writes : List (Dst × Word)) : Res :=
  let pva := c.reg o
  let k : AKind :=
    match form with
    | .push _ => .queuePush
    | _ => .queuePop
  if !aligned pva 64 then .trap (illOpnd c.raw)
  else
    match c.span k pva 64 with
    | .error f => c.xtrap f k
    | .ok (M, _) =>
      let (M, id) := M.fresh
      let op : QOp := ⟨id, form, c.mem.ref.part, pva.toNat, c.mem.ref.part, q, .stream c.mem.ref c.st, 0, 0, []⟩
      let u := { c.unt (.queueOp id) with writes := writes, pva := pva, akind := k.code }
      if op.isPush then
        match c.pendingRefusal q.scope with
        | some r => r
        | none =>
        let M := release M c.mem.ref c.st q.scope
        if q.scope = .pod && outstanding M c.mem.ref c.st then
          .untimed M { u with needs := .acknowledged, job := .queue op }
        else .untimed (launchOp M c.mem op pva k) u
      else .untimed (launchOp M c.mem op pva k) u

/-- A payload of two halves. -/
def pairPayload (lo hi : Word) : BitVec 128 := BitVec.ofNat 128 (lo.toNat + hi.toNat <<< 64)

/-- R343. -/
def execPush (d : Dst) (o lo hi : Reg) (q : QArgs) (s : State) : Host.Outcome State Fault Refusal :=
  wordOut (.push d o lo hi q) (fun c => c.queueWord o (.push (pairPayload (c.reg lo) (c.reg hi))) q [(d, 0)]) s

/-- R343. -/
def execPopN (d : Dst) (o : Reg) (lo hi : Dst) (q : QArgs) (s : State) : Host.Outcome State Fault Refusal :=
  wordOut (.popN d o lo hi q) (fun c => c.queueWord o .popN q [(d, 0), (lo, 0), (hi, 0)]) s

/-- R343. -/
def execPopW (d : Dst) (o : Reg) (lo hi : Dst) (q : QArgs) (s : State) : Host.Outcome State Fault Refusal :=
  wordOut (.popW d o lo hi q) (fun c => c.queueWord o .popW q [(d, 0), (lo, 0), (hi, 0)]) s

/-- Code of a QOCTL function (R343). -/
def QFn.num : QFn → Nat
  | .en => 0 | .dis => 1 | .cnt => 2

/-- QOCTL at issue (R119, R343). -/
def Ctx.ctlWord (c : Ctx) (d : Dst) (o : Reg) (fn : QFn) : Res :=
  let pva := c.reg o
  if !aligned pva 64 then .trap (illOpnd c.raw)
  else
    match c.span .atomic pva 64 with
    | .error f => c.xtrap f .queuePop
    | .ok (M, (.local pa, _) :: _) =>
      if M.poisoned pa 64 then .trap (eccTrap c.raw (pa / 64 * 64))
      else
        match homeCtl (flushLine M c.mem.ref c.st pa) c.mem.ref.part pa pva.toNat fn with
        | .error cause => .trap (progTrap cause c.raw pva)
        | .ok (M, v) => c.untimedNow M [(d, v)]
    | .ok (M, (.remote dev part ra, _) :: _) =>
      let (M, id) := M.fresh
      let r : ConnRef := ⟨c.mem.ref.part, dev, part⟩
      .untimed
        (sendOn M r (newPacket M r 4 ra (kspec (fn.num + 1 <<< 15)) (beat [])) (.request c.mem.ref c.st id))
        { c.unt (.response id) with writes := [(d, 0)], pva := pva, akind := AKind.queuePop.code }
    | .ok (_, []) => .trap (illOpnd c.raw)

/-- R119. -/
def execQoctlEn (d : Dst) (o : Reg) (s : State) : Host.Outcome State Fault Refusal :=
  wordOut (.qoctlEn d o) (fun c => c.ctlWord d o .en) s

/-- R119. -/
def execQoctlDis (d : Dst) (o : Reg) (s : State) : Host.Outcome State Fault Refusal :=
  wordOut (.qoctlDis d o) (fun c => c.ctlWord d o .dis) s

/-- R119. -/
def execQoctlCnt (d : Dst) (o : Reg) (s : State) : Host.Outcome State Fault Refusal :=
  wordOut (.qoctlCnt d o) (fun c => c.ctlWord d o .cnt) s

/-! ### Events -/

/-- R117. -/
def execQueueHomeService (op : QOp) (s : State) : Host.Outcome State Fault Refusal := s.lift fun M => serveHome M op

/-- R124. -/
def execJunctionPair (held arriving : QOp) (s : State) : Host.Outcome State Fault Refusal :=
  s.lift fun M => pairEvent M held arriving

/-- R122. -/
def execJunctionHold (op : QOp) (s : State) : Host.Outcome State Fault Refusal := s.lift fun M => holdAt M op

/-- R122. -/
def execHoldExpiry (id : Nat) (s : State) : Host.Outcome State Fault Refusal := s.lift fun M => releaseHold M id

/-- R118. -/
def execParkedPopTimeout (id : Nat) (s : State) : Host.Outcome State Fault Refusal := s.lift fun M => parkedTimeout M id

end Sys2Proof.Machine
end

