-- ==== Sys2Proof/Machine/MemOps.lean ====
section
/-!
DEFINITION. The scalar memory words (R242 to R251) and the landing of their data (R40, R153).
-/

namespace Sys2Proof.Machine

/-- The slot is free (R40). -/
def Member.slotFree (m : Member) (k : BitVec 5) : Bool := (m.slots[k.toNat]'k.isLt).state == .free

/-- Set a landing slot. -/
def Member.setSlot (m : Member) (k : Nat) (l : LSlot) : Member :=
  if h : k < 32 then { m with slots := m.slots.set k l h } else m

/-- Requests for the remote pieces of a load; `off` is the offset of the next piece (R109). -/
def requestPieces (M : Mach) (m : MRef) (slot : Nat) : Nat → List (Target × Nat) → Mach
  | _, [] => M
  | off, (t, n) :: ts =>
    let M :=
      match t with
      | .local _ => M
      | .remote dev part ra =>
        let r : ConnRef := ⟨m.part, dev, part⟩
        sendOn M r (newPacket M r 0 ra (kspec n) []) (.load m slot off n ra)
    requestPieces M m slot (off + n) ts

/-- Local bytes of a load, zero where a piece is remote. -/
def localPart (M : Mach) (m : Member) (s : Stream) (core : Nat) (na : Bool) : List (Target × Nat) → Mach × List Byte
  | [] => (M, [])
  | (.local pa, n) :: ts =>
    let (M, bs) := loadPieces M m s core na [(pa, n)]
    let (M, rest) := localPart M m s core na ts
    (M, bs ++ rest)
  | (.remote _ _ _, n) :: ts =>
    let (M, rest) := localPart M m s core na ts
    (M, zeros n ++ rest)

/-- A poisoned block among the local pieces of a span. -/
def spanPoison (M : Mach) (ts : List (Target × Nat)) : Option Nat :=
  homePoison M
    (ts.filterMap fun t =>
      match t.1 with
      | .local pa => some (pa, t.2)
      | .remote _ _ _ => none)

/-- The stacks that switch their mode to which the pieces of a span go that a test picks (R74). -/
def switchingStacks (M : Mach) (goes : Nat → Nat → Bool) (ts : List (Target × Nat)) : List Nat :=
  (ts.filterMap fun t =>
    match t.1 with
    | .local pa => if goes pa t.2 then M.switchingAt pa else none
    | .remote _ _ _ => none).foldl (fun l k => insertNat k l) []

/-- A load waits at the controllers of switching stacks: its slot's data come once each is in its new mode. -/
def waitStacks (M : Mach) (r : MRef) (slot : Nat) (ks : List Nat) : Mach :=
  if ks.isEmpty then M
  else { M with hbm := updIf (fun s => ks.contains s.num) (fun s => { s with waiting := s.waiting ++ [(r, slot)] }) M.hbm }

/-- The switch a load waited for is over (R74). -/
def stackReady (M : Mach) (r : MRef) (k : Nat) : Mach :=
  match M.member r with
  | none => M
  | some m =>
    if h : k < 32 then
      let l := m.slots[k]
      if l.state = .pending && l.req ≠ 0 then
        let M := M.putMember (m.setSlot k { l with req := l.req - 1 })
        if l.req = 1 then M.raise 1 (.dataLanding r k) else M
      else M
    else M

/-- A load of translated pieces (R153, R244, R345): it takes the slot; with an arrival offset it is timed, unless a piece
is remote: a word that waits for a remote response is untimed (R109, R153). -/
def Ctx.loadFrom (c : Ctx) (d : Dst) (slot : BitVec 5) (arr : BitVec 10) (sz : Size) (sx na : Bool) (addr : Word)
    (span : Except XFault (Mach × List (Target × Nat))) : Res :=
  if !c.mem.slotFree slot then .wait .slot (.slotFree slot.toNat)
  else
    match span with
    | .error f => c.xtrap f .read
    | .ok (M, ts) =>
      match spanPoison M ts with
      | some pa => .trap (eccTrap c.raw pa)
      | none =>
        -- what the core holds does not go to the stack
        let busy := switchingStacks M (fun pa n => !pieceHeld M c.s (c.mem.core.getD 0) pa n) ts
        let (M, bs) := localPart M c.mem c.s (c.mem.core.getD 0) na ts
        let rem := remotePieces ts
        let due := if arr = 0 || rem ≠ 0 then none else some (c.t + arr.toNat)
        let l : LSlot := ⟨.pending, BitVec.ofNat 128 (leNat bs), c.st, d, due, sz, sx, rem + busy.length, c.pc, c.raw⟩
        let M := M.updMember c.mem.ref fun m => m.setSlot slot.toNat l
        let M := waitStacks M c.mem.ref slot.toNat busy
        let M :=
          if rem + busy.length = 0 then M.raise 1 (.dataLanding c.mem.ref slot.toNat)
          else requestPieces M c.mem.ref slot.toNat 0 ts
        match due with
        | some t' =>
          .done
            (M.updMember c.mem.ref fun m =>
              m.updStr c.st fun s =>
                { s with inflight := s.inflight ++ [⟨t', c.t, loadWrites d sz sx 0, false, some slot.toNat⟩] })
        | none =>
          .untimed M
            { c.unt .slot with
              writes := loadWrites d sz sx 0
              slot := some slot.toNat
              pva := addr }

/-- A load at an address. -/
def Ctx.load (c : Ctx) (d : Dst) (slot : BitVec 5) (arr : BitVec 10) (sz : Size) (sx na : Bool) (addr : Word) : Res :=
  c.loadFrom d slot arr sz sx na addr (c.span .read addr sz.bytes)

/-- R244. -/
def execLd (d : Dst) (b : Reg) (slot : BitVec 5) (arr : BitVec 10) (sz : Size) (sx na : Bool) (off : BitVec 9)
    (s : State) : Host.Outcome State Fault Refusal :=
  word (.ld d b slot arr sz sx na off) (fun c => c.load d slot arr sz sx na (c.memAddr b sz off)) s

/-- Bytes a scalar store writes: the low bytes of the register, or of the pair (R243, R245). -/
def Ctx.storeBytes (c : Ctx) (v : Reg) (sz : Size) : List Byte :=
  leBytes sz.bytes ((c.reg v).toNat + (c.reg (pairReg v)).toNat <<< 64)

/-- R245, R152. -/
def execSt (v b : Reg) (sz : Size) (off : BitVec 9) (s : State) : Host.Outcome State Fault Refusal :=
  word (.st v b sz off)
    (fun c =>
      let addr := c.memAddr b sz off
      match c.span .write addr sz.bytes with
      | .error f => c.xtrap f .write
      | .ok (M, ts) =>
        if 8 < c.s.sb.length + storeEntries ts then .freeze (.store c.st)
        else .done (storePieces M c.mem c.st addr none ts (c.storeBytes v sz))) s

/-- A prefetch of a local line by a core's occupant (R247): a clean copy, unless a window or a fenced die makes it
nothing (R454, R412). -/
def prefLine (M : Mach) (m : Member) (core pa : Nat) : Mach :=
  match paKind pa with
  | .sram _ _ => M
  | _ => if fenced M pa || !windowOk M pa then M else allocate M m core (pa / 64 * 64) 64

/-- R247: nothing, or a clean copy of the line; a miss joins a walk (R21). -/
def execPref (b : Reg) (sz : Size) (off : BitVec 9) (s : State) : Host.Outcome State Fault Refusal :=
  word (.pref b sz off)
    (fun c =>
      let addr := c.memAddr b sz off
      let core := c.mem.core.getD 0
      let block := addr.toNat / 0x10000
      if wf addr 56 8 ≠ 0 || !c.mem.hasL1 then .done c.M
      else
        match tlbFind c.M c.mem.core c.mem.die c.mem.ref.part addr.toNat with
        | none =>
          let part := c.mem.ref.part
          let die := c.mem.die
          let here (w : Walk) : Bool := w.part == part && w.die == die && w.block == block
          .done
            (if c.M.walks.any here then
              { c.M with walks := updIf here (fun w => { w with joined := w.joined ++ [(core, addr)] }) c.M.walks }
             else
              { c.M with walks := c.M.walks ++ [(⟨part, die, block, [(core, addr)], walkResult c.M die part addr⟩ : Walk)] }.raise 1
                (.walkComplete part die block))
        | some _ =>
          match xlate c.M c.mem.core c.mem.die c.mem.ref.part .read addr with
          | .ok e =>
            match e.target addr.toNat with
            | .local pa => .done (prefLine c.M c.mem core pa)
            | .remote _ _ _ => .done c.M
          | .error _ => .done c.M) s

/-- A prefetch that joined a walk receives the translation it found (R21): nothing where its leaf does not let it read. -/
def prefWalked (M : Mach) (die : Nat) (e : TlbEntry) (core : Nat) (pva : Word) : Mach :=
  match (M.part e.part).map fun p => leafAllows p .read pva e with
  | some (.ok e) =>
    let M := tlbFill M (some core) die e
    match e.target pva.toNat, M.occupant core with
    | .local pa, some m => prefLine M m core pa
    | _, _ => M
  | _ => M

/-- R21: a walk ends; each joined miss receives its result, the prefetches their lines. -/
def endWalk (M : Mach) (part die block : Nat) : Mach :=
  let here (w : Walk) : Bool := w.part == part && w.die == die && w.block == block
  match M.walks.find? here with
  | none => M
  | some w =>
    let M := { M with walks := M.walks.filter fun w => !here w }
    match w.result with
    | .fault _ => M
    | .found e => w.joined.foldl (fun M j => prefWalked M die e j.1 j.2) M

/-- R248: the line's bytes reach L1, or their home. -/
def Ctx.flushAt (c : Ctx) (M : Mach) (sc : Scope) (pa : Nat) : Mach :=
  let M := drainBuffer M c.mem.ref c.st
  if sc.num ≤ Scope.core.num then M else writeBack M (c.mem.core.getD 0) (inLine pa)

/-- CFLUSH and CINV (R248). -/
def Ctx.lineWord (c : Ctx) (addr : Word) (sc : Scope) (inv : Bool) : Res :=
  match c.reach .read addr 1 with
  | .error f => c.xtrap f .read
  | .ok (M, (.local pa, _) :: _) =>
    let M := c.flushAt M sc pa
    .done (if inv && Scope.core.num < sc.num then dropClean M (c.mem.core.getD 0) (inLine pa) else M)
  | .ok (M, _) => .done (drainBuffer M c.mem.ref c.st)

/-- R248. -/
def execCflush (sc : Scope) (b : Reg) (sz : Size) (off : BitVec 9) (s : State) : Host.Outcome State Fault Refusal :=
  wordOut (.cflush sc b sz off) (fun c => c.lineWord (c.memAddr b sz off) sc false) s

/-- R248. -/
def execCinv (sc : Scope) (b : Reg) (sz : Size) (off : BitVec 9) (s : State) : Host.Outcome State Fault Refusal :=
  wordOut (.cinv sc b sz off) (fun c => c.lineWord (c.memAddr b sz off) sc true) s

/-- Every byte of the span lies in the partition's default region (R88). -/
def Ctx.default (c : Ctx) (addr : Word) (n : Nat) : Bool :=
  match c.M.part c.mem.ref.part with
  | some p => inDefault p addr.toNat n
  | none => true

/-- R99, R249. -/
def execStrel (sc : Scope) (v b : Reg) (sz : Size) (off : BitVec 9) (s : State) : Host.Outcome State Fault Refusal :=
  wordOut (.strel sc v b sz off)
    (fun c =>
      let addr := c.memAddr b sz off
      let bs := c.storeBytes v sz
      if !aligned addr sz.bytes || !c.default addr sz.bytes then .trap (illOpnd c.raw)
      else
        match c.span .write addr sz.bytes with
        | .error f => c.xtrap f .write
        | .ok (M, ts) =>
          match c.pendingRefusal sc with
          | some r => r
          | none =>
            if sc = .pod && outstanding M c.mem.ref c.st then
              .untimed M { c.unt .acknowledged with job := .strel sc addr bs, pva := addr, akind := 1 }
            else if remotePieces ts = 0 then
              (if 8 < c.s.sb.length + storeEntries ts then .freeze (.store c.st)
               else .done (storePieces M c.mem c.st addr (some sc) ts bs))
            else .done (storePieces (release M c.mem.ref c.st sc) c.mem c.st addr none ts bs)) s

/-- The enabled region object whose VERSION word stands at an address (R97). -/
def Ctx.versionWord (c : Ctx) (addr : Word) : Bool :=
  match c.M.part c.mem.ref.part with
  | some p => p.regions.any fun r => r.obj == addr.toNat
  | none => false

/-- The result of an object operation at the word, acquiring at the scope (R95). -/
def Ctx.objResult (c : Ctx) (e : ObjEnd) (obj : Word) (d : Dst) (sc : Option Scope) (wt : WaitCond) : Res :=
  match e with
  | .version M v => .untimed M { c.unt .ready with writes := [(d, v)], acquire := sc }
  | .waits => .wait .acq wt
  | .trap 0x13 => .trap (illOpnd c.raw)
  | .trap cause => .trap (progTrap cause c.raw obj)

/-- The FN27 field and the scope of an ACQ packet (R258, R418); `rn` numbers the register of .ge, else 0. -/
def acqKspec (k : AcqKind) (rn : Nat) (sc : Scope) : BitVec 32 :=
  kspec
    ((match k with
      | .ge _ => 0
      | .nw => 1
      | .x => 2) + rn <<< 2 + sc.num <<< 27)

/-- The operand of ACQ.ge. -/
def AcqKind.operand : AcqKind → Nat
  | .ge n => n
  | _ => 0

/-- The packet of an ACQ at a remote object (R98, R418). -/
def acqPacket (M : Mach) (m : MRef) (st : Strm) (dev : DevRef) (part ra : Nat) (k : AcqKind) (rn : Nat) (sc : Scope) : Packet :=
  newPacket M ⟨m.part, dev, part⟩ 5 ra (acqKspec k rn sc) (beat [w64 k.operand, w64 (holderBits M m st)])

/-- R97, R100, R250. -/
def execLdacq (sc : Scope) (d : Dst) (b : Reg) (slot : BitVec 5) (sz : Size) (off : BitVec 9) (s : State) :
    Host.Outcome State Fault Refusal :=
  wordOut (.ldacq sc d b slot sz off)
    (fun c =>
      let addr := c.memAddr b sz off
      let version := sz = .b8 && c.versionWord addr
      if !c.mem.slotFree slot then .wait .slot (.slotFree slot.toNat)
      else if !aligned addr sz.bytes || !(version || c.default addr sz.bytes) then .trap (illOpnd c.raw)
      else
        let k : AKind := if version then .atomic else .read
        match c.span k addr sz.bytes with
        | .error f => c.xtrap f k
        | .ok (M, (.local pa, _) :: _) =>
          match homePoison M [(pa, sz.bytes)] with
          | some q => .trap (eccTrap c.raw q)
          | none =>
            let M := flushLine M c.mem.ref c.st pa
            let got : ObjEnd :=
              if version then homeAcq M pa 0 .nw else .version M (w64 (leNat (M.get pa sz.bytes)))
            match got with
            | .version M v =>
              let busy := switchingStacks M (fun _ _ => true) [(.local pa, sz.bytes)]
              let l : LSlot :=
                ⟨.pending, BitVec.ofNat 128 v.toNat, c.st, d, none, sz, false, busy.length, c.pc, c.raw⟩
              let M := waitStacks (M.updMember c.mem.ref fun m => m.setSlot slot.toNat l) c.mem.ref slot.toNat busy
              .untimed (if busy.isEmpty then M.raise 1 (.dataLanding c.mem.ref slot.toNat) else M)
                { c.unt .slot with writes := [(d, 0)], slot := some slot.toNat, acquire := some sc, pva := addr }
            | _ => .trap (illOpnd c.raw)
        | .ok (M, ts) =>
          let l : LSlot := ⟨.pending, 0, c.st, d, none, sz, false, 1, c.pc, c.raw⟩
          let M := M.updMember c.mem.ref fun m => m.setSlot slot.toNat l
          let u :=
            { c.unt .slot with
              writes := [(d, 0)], slot := some slot.toNat, acquire := some sc, pva := addr, akind := k.code }
          match version, ts with
          | true, (.remote dev part ra, _) :: _ =>
            -- an ACQ.nw of the object, at its home (R97, R98)
            let (M, id) := M.fresh
            .untimed (sendOn M ⟨c.mem.ref.part, dev, part⟩ (acqPacket M c.mem.ref c.st dev part ra .nw 0 sc)
              (.request c.mem.ref c.st id)) { u with needs := .response id }
          | _, _ => .untimed (requestPieces M c.mem.ref slot.toNat 0 ts) u) s

/-! ### Landing (R40, R153) -/

/-- Fill in the value of the result that waits for a slot. -/
def fillFlight (k : Nat) (ws : List (Dst × Word)) (l : List InFlight) : List InFlight :=
  l.map fun f => if f.slot = some k then { f with writes := ws, slot := none } else f

/-- Results of a stream, also those a handler has set aside. -/
def Member.fillSlot (m : Member) (st : Strm) (k : Nat) (ws : List (Dst × Word)) : Member :=
  let m := m.updStr st fun s => { s with inflight := fillFlight k ws s.inflight }
  { m with
    handler := m.handler.map fun h =>
      match st with
      | .c => { h with c := { h.c with inflight := fillFlight k ws h.c.inflight } }
      | .a => { h with a := { h.a with inflight := fillFlight k ws h.a.inflight } }
      | .v => { h with v := { h.v with inflight := fillFlight k ws h.v.inflight } }
      | .x => { h with x := { h.x with inflight := fillFlight k ws h.x.inflight } } }

/-- A queue place's data land (R325): `k` is its number. -/
def Member.placeLanded (m : Member) (k : Nat) : Member :=
  { m with queues := m.queues.map fun q => q.map fun r => if r.id = k then { r with landed := true } else r }

/-- DATA_LANDING: the data of a slot land; slots from 32 on name queue places. -/
def landData (M : Mach) (r : MRef) (k : Nat) : Mach :=
  match M.member r with
  | none => M
  | some m =>
    if h : k < 32 then
      let l := m.slots[k]
      if l.state = .pending && l.req = 0 then
        let ws := loadWrites l.dst l.size l.sx l.data
        match l.due with
        | some due =>
          let m := { m with skew := max m.skew (M.wclk - due) }
          M.putMember ((m.setSlot k { l with state := .landed }).fillSlot l.strm k ws)
        | none =>
          let m := m.setSlot k { l with state := .landed }
          let m := m.fillSlot l.strm k ws
          M.putMember
            (m.updUntimed l.strm (fun u => u.needs == .slot && u.slot == some k) fun u =>
              { u with needs := .ready, writes := ws })
      else M
    else M.updMember r fun m => m.placeLanded (k - 32)

/-- R40. -/
def execDataLanding (m : MRef) (slot : Nat) (s : State) : Host.Outcome State Fault Refusal :=
  s.lift fun M => syncCore (landData M m slot) m

/-- The oldest entry goes to a home in a stack that switches its mode, where it waits (R74). -/
def drainHeld (M : Mach) (r : MRef) (st : Strm) : Bool :=
  match M.member r with
  | none => false
  | some m =>
    match m.core, (m.str st).sb with
    | some core, e :: _ => (e.release.isSome || !cacheable m core e.pa) && (M.switchingAt e.pa).isSome
    | _, _ => false

/-- R87. -/
def execStoreBufferDrain (m : MRef) (st : Strm) (s : State) : Host.Outcome State Fault Refusal :=
  s.lift fun M => if drainHeld M m st then M.raise 16 (.storeBufferDrain m st) else drainOne M m st

/-- R152: the word is fetched; its translation is kept. -/
def execFetchMissFill (m : MRef) (st : Strm) (s : State) : Host.Outcome State Fault Refusal :=
  s.lift fun M =>
    match M.member m with
    | none => M
    | some x =>
      match xspan M x.core x.die m.part .fetch (x.str st).pc 8 with
      | .ok (_, es) => tlbFills M x.core x.die es
      | .error _ => M

/-- R21. -/
def execWalkComplete (part die block : Nat) (s : State) : Host.Outcome State Fault Refusal :=
  s.lift fun M => endWalk M part die block

end Sys2Proof.Machine
end

