-- ==== Sys2Proof/Machine/Engine.lean ====
section
/-!
DEFINITION. Reads and writes of engines on behalf of a stream (R79, R103): spans of any length, remote reads by
request (R109), posted remote writes (R107).
-/

namespace Sys2Proof.Machine

/-! ### Spans -/

/-- The pieces of a member's span, with the refusal of R8 for a remote one that waits for its answer. -/
def memberSpan (M : Mach) (m : Member) (core : Option Nat) (k : AKind) (pva : Word) (n : Nat) :
    Except XFault (Mach × List (Target × Nat)) :=
  match longSpan M core m.die m.ref.part k pva n with
  | .error f => .error f
  | .ok (M, ts) =>
    if remotePieces ts ≠ 0 && !k.posted && !mayRequest M m.ref.part then .error (keyFault pva) else .ok (M, ts)

/-- A span of a command, translated by its die's engines (R20). -/
def spanAll (M : Mach) (m : Member) (k : AKind) (pva : Word) (n : Nat) : Except XFault (Mach × List (Target × Nat)) :=
  memberSpan M m none k pva n

/-! ### Reads -/

/-- The answered bytes that cover an address of another partition, or the refusal. -/
def fetchedAt (M : Mach) (who : MRef) (tag : Nat) (dev : DevRef) (peer a : Nat) : Option (Except Nat Byte) :=
  (M.fetched.find? fun f =>
    f.who == who && f.tag == tag && f.dev == dev && f.peer == peer && f.addr ≤ a && a < f.addr + f.n).bind fun f =>
    match f.code with
    | none => none
    | some 0 => some (.ok (f.bytes.getD (a - f.addr) 0))
    | some k => some (.error k)

/-- The address has been asked for. -/
def askedFor (M : Mach) (who : MRef) (tag : Nat) (dev : DevRef) (peer a : Nat) : Bool :=
  M.fetched.any fun f =>
    f.who == who && f.tag == tag && f.dev == dev && f.peer == peer && f.addr ≤ a && a < f.addr + f.n

/-- Ask for a piece of another partition, at most 4,096 bytes a packet (R418). -/
def askPiece (M : Mach) (who : MRef) (tag : Nat) (wake : Option Event) (dev : DevRef) (peer a n : Nat) : Mach :=
  (List.range (ceilDiv n 4096)).foldl
    (fun M i =>
      let addr := a + 4096 * i
      let len := min 4096 (n - 4096 * i)
      if askedFor M who tag dev peer addr then M
      else
        let r : ConnRef := ⟨who.part, dev, peer⟩
        let M := { M with fetched := M.fetched ++ [(⟨who, tag, dev, peer, addr, len, none, [], wake⟩ : Fetch)] }
        sendOn M r (newPacket M r 0 addr (kspec len) []) (.fetch who tag who.part dev peer addr len))
    M

/-- A word whose block another device has been asked for: an untimed load (R153, R352). It has issued, and acts when the
bytes are there, on the registers and the latch as it read them. -/
def Ctx.await (c : Ctx) (M : Mach) : Res :=
  .untimed M { c.unt (.fetched c.tag) with job := .again c.s.s c.s.o c.s.lat }

/-- How a read ends. -/
inductive ReadEnd where
  | bytes (M : Mach) (bs : List Byte)
  | fault (f : XFault)
  | ecc (pa : Nat)
  /-- Requests are under way; the read is made again when they are answered. -/
  | asking (M : Mach)

/-- Bytes of a remote piece that have come, or none when some have not. -/
def fetchedBytes (M : Mach) (who : MRef) (tag : Nat) (dev : DevRef) (peer a : Nat) :
    Nat → Option (Except Nat (List Byte))
  | 0 => some (.ok [])
  | n + 1 =>
    match fetchedAt M who tag dev peer a with
    | none => none
    | some (.error k) => some (.error k)
    | some (.ok b) =>
      match fetchedBytes M who tag dev peer (a + 1) n with
      | some (.ok bs) => some (.ok (b :: bs))
      | r => r

/-- Read translated pieces. -/
def readPieces (M : Mach) (who : MRef) (tag : Nat) (wake : Option Event) (pva : Word) : List (Target × Nat) → ReadEnd
  | [] => .bytes M []
  | (.local pa, n) :: ts =>
    match homePoison M [(pa, n)] with
    | some q => .ecc q
    | none =>
      match readPieces M who tag wake pva ts with
      | .bytes M' bs => .bytes M' (M.get pa n ++ bs)
      | r => r
  | (.remote dev peer a, n) :: ts =>
    match fetchedBytes M who tag dev peer a n with
    | some (.error 0x21) => .ecc 0
    | some (.error k) => .fault ⟨k, 7, 0, pva, true⟩
    | some (.ok b) =>
      match readPieces M who tag wake pva ts with
      | .bytes M' bs => .bytes M' (b ++ bs)
      | r => r
    | none =>
      let M := askPiece M who tag wake dev peer a n
      match readPieces M who tag wake pva ts with
      | .asking M' => .asking M'
      | .bytes M' _ => .asking M'
      | _ => .asking M

/-- Read a translated span of a member at the homes. `tag` names the use. -/
def readSpanned (m : Member) (tag : Nat) (wake : Option Event) (pva : Word) :
    Except XFault (Mach × List (Target × Nat)) → ReadEnd
  | .error f => .fault f
  | .ok (M, ts) => readPieces (dropCopies M m.ref ts) m.ref tag wake pva ts

/-- Read a span of a member's command. -/
def readAny (M : Mach) (m : Member) (tag : Nat) (wake : Option Event) (k : AKind) (pva : Word) (n : Nat) : ReadEnd :=
  readSpanned m tag wake pva (spanAll M m k pva n)

/-- Ask for every remote byte of some spans; whether any is still to come. Faults show at the reads themselves. -/
def prefetch (M : Mach) (m : Member) (tag : Nat) (wake : Option Event) (k : AKind) :
    List (Word × Nat) → Mach × Bool
  | [] => (M, false)
  | (pva, n) :: rest =>
    match readAny M m tag wake k pva n with
    | .asking M =>
      let (M, _) := prefetch M m tag wake k rest
      (M, true)
    | _ => prefetch M m tag wake k rest

/-! ### Writes -/

/-- A stack that is switching its mode and that a translated span goes to (R74). -/
def spanStack (M : Mach) : Except XFault (Mach × List (Target × Nat)) → Option Nat
  | .ok (_, ts) => (switchingStacks M (fun _ _ => true) ts).head?
  | .error _ => none

/-- A stack of a partition is switching its mode: its engines wait at their next step, so that none of their accesses comes
to the stack meanwhile (R73, R74; assumption 47). -/
def enginesHeld (M : Mach) (part : Nat) : Bool :=
  match M.part part with
  | some p => M.hbm.any fun s => s.switching.isSome && p.owns (s.num / 2)
  | none => false

/-- A step of an engine, or again later while a stack is switching. -/
def engineStep (M : Mach) (part : Nat) (e : Event) (f : Mach → Mach) : Mach :=
  if enginesHeld M part then M.raise 16 e else f M

/-- Packets the remote pieces of a write take. -/
def remotePackets (ts : List (Target × Nat)) : Nat :=
  (ts.map fun t =>
    match t.1 with
    | .local _ => 0
    | .remote _ _ _ => ceilDiv t.2 4096).sum

/-- Write pieces: local ones at their homes, remote ones posted for the stream or its command, which counts them. -/
def writePieces (M : Mach) (m : MRef) (st : Strm) (cmd : Option CmdRef) (pva : Word) :
    List (Target × Nat) → List Byte → Mach
  | [], _ => M
  | (.local pa, n) :: ts, bs => writePieces (M.put pa (bs.take n)) m st cmd pva ts (bs.drop n)
  | (.remote dev peer a, n) :: ts, bs =>
    let cuts := chunks 4096 (ceilDiv n 4096) (bs.take n)
    let r : ConnRef := ⟨m.part, dev, peer⟩
    let M :=
      cuts.zipIdx.foldl
        (fun M x =>
          let addr := a + 4096 * x.2
          let p := newPacket M r 1 addr (kspec x.1.length) (wrPayload addr x.1)
          match cmd with
          | some c => postOn (M.updCmd c fun k => { k with out := k.out + 1 }) r p (.cmdWrite c st pva (postedNow M m st))
          | none => postOn M r p (.store m st pva (postedNow M m st)))
        M
    writePieces M m st cmd pva ts (bs.drop n)

/-- Write a member's span of any length at the homes: the machine, or the fault. -/
def writeAny (M : Mach) (m : Member) (st : Strm) (cmd : Option CmdRef) (k : AKind) (pva : Word) (bs : List Byte) :
    Except XFault Mach :=
  match spanAll M m k pva bs.length with
  | .error f => .error f
  | .ok (M, ts) => .ok (writePieces (dropCopies M m.ref ts) m.ref st cmd pva ts bs)

end Sys2Proof.Machine
end

