-- ==== Sys2Proof/Machine/Atomics.lean ====
section
/-!
DEFINITION. The atomic words (R252 to R256) and SCADD (R257).
-/

namespace Sys2Proof.Machine

/-- Scope of an ordered atomic. -/
def ordScope : AOrd → Option Scope
  | .rlx => none
  | .acq s => some s
  | .rel s => some s
  | .ar s => some s

/-- The atomic releases (R255). -/
def ordReleases : AOrd → Option Scope
  | .rel s => some s
  | .ar s => some s
  | _ => none

/-- The atomic acquires (R255). -/
def ordAcquires : AOrd → Option Scope
  | .acq s => some s
  | .ar s => some s
  | _ => none

/-- ORD code (R252). -/
def ordNum : AOrd → Nat
  | .rlx => 0
  | .acq _ => 1
  | .rel _ => 2
  | .ar _ => 3

/-- KSPEC of an ATOM packet (R418). -/
def atomKspec (op : Nat) (w : Bool) (o : AOrd) : BitVec 32 :=
  kspec (op + (if w then 1 <<< 8 else 0) + ordNum o <<< 9 + ((ordScope o).map Scope.num).getD 0 <<< 11)

/-- Perform an atomic of a stream at its home (R254): local homes answer at once, remote ones by a response.
The release has been performed. The result is the machine, and the old value of a local home. -/
def performAtom (M : Mach) (m : Member) (st : Strm) (id op : Nat) (w : Bool) (o : AOrd) (ts : List (Target × Nat))
    (v k : Word) : Mach × Option Word :=
  match ts with
  | (.local pa, _) :: _ =>
    let M := flushLine M m.ref st pa
    let (M, old) := homeAtom M pa op w v.toNat k.toNat
    (M, some (w64 old))
  | (.remote dev part ra, _) :: _ =>
    let r : ConnRef := ⟨m.ref.part, dev, part⟩
    (sendOn M r (newPacket M r 2 ra (atomKspec op w o) (beat [v, k])) (.request m.ref st id), none)
  | [] => (M, some 0)

/-- An atomic word: alignment, region and translation, then release, the home, and acquire (R252 to R256). -/
def Ctx.atomic (c : Ctx) (op : Nat) (a : AtomArgs) (k : Word) : Res :=
  let addr := c.reg a.b
  let v := c.reg a.v
  let n := if a.w then 8 else 4
  if !aligned addr n || (a.ord ≠ .rlx && !c.default addr n) then .trap (illOpnd c.raw)
  else
    match c.span .atomic addr n with
    | .error f => c.xtrap f .atomic
    | .ok (M, ts) =>
      match spanPoison M ts with
      | some pa => .trap (eccTrap c.raw pa)
      | none =>
        let rel := ordReleases a.ord
        match rel.bind c.pendingRefusal with
        | some r => r
        | none =>
          let M :=
            match rel with
            | some sc => release M c.mem.ref c.st sc
            | none => M
          let u :=
            { c.unt .ready with
              writes := [(a.d, 0)]
              acquire := ordAcquires a.ord
              pva := addr
              akind := AKind.atomic.code }
          let u' := { u with job := .atom op a.w a.ord addr v k }
          if rel = some .pod && outstanding M c.mem.ref c.st then .untimed M { u' with needs := .acknowledged }
          else
            match spanStack M (.ok (M, ts)) with
            | some q => .untimed M { u' with needs := .stack q }
            | none =>
            let (M, id) := M.fresh
            match performAtom M c.mem c.st id op a.w a.ord ts v k with
            | (M, some old) => .untimed M { u with writes := [(a.d, old)] }
            | (M, none) => .untimed M { u with needs := .response id }

/-- R253. -/
def execAadd (a : AtomArgs) (s : State) : Host.Outcome State Fault Refusal :=
  wordOut (.aadd a) (fun c => c.atomic 0x50 a 0) s

/-- R253. -/
def execAand (a : AtomArgs) (s : State) : Host.Outcome State Fault Refusal :=
  wordOut (.aand a) (fun c => c.atomic 0x51 a 0) s

/-- R253. -/
def execAor (a : AtomArgs) (s : State) : Host.Outcome State Fault Refusal :=
  wordOut (.aor a) (fun c => c.atomic 0x52 a 0) s

/-- R253. -/
def execAxor (a : AtomArgs) (s : State) : Host.Outcome State Fault Refusal :=
  wordOut (.axor a) (fun c => c.atomic 0x53 a 0) s

/-- R253. -/
def execAmin (a : AtomArgs) (s : State) : Host.Outcome State Fault Refusal :=
  wordOut (.amin a) (fun c => c.atomic 0x54 a 0) s

/-- R253. -/
def execAmax (a : AtomArgs) (s : State) : Host.Outcome State Fault Refusal :=
  wordOut (.amax a) (fun c => c.atomic 0x55 a 0) s

/-- R253. -/
def execAminu (a : AtomArgs) (s : State) : Host.Outcome State Fault Refusal :=
  wordOut (.aminu a) (fun c => c.atomic 0x56 a 0) s

/-- R253. -/
def execAmaxu (a : AtomArgs) (s : State) : Host.Outcome State Fault Refusal :=
  wordOut (.amaxu a) (fun c => c.atomic 0x57 a 0) s

/-- R253. -/
def execAxchg (a : AtomArgs) (s : State) : Host.Outcome State Fault Refusal :=
  wordOut (.axchg a) (fun c => c.atomic 0x58 a 0) s

/-- R253. -/
def execAcas (a : AtomArgs) (k : Reg) (s : State) : Host.Outcome State Fault Refusal :=
  wordOut (.acas a k) (fun c => c.atomic 0x59 a (c.reg k)) s

/-- R253. -/
def execAfadd (a : AtomArgs) (s : State) : Host.Outcome State Fault Refusal :=
  wordOut (.afadd a) (fun c => c.atomic 0x5A a 0) s

/-! ### SCADD (R257) -/

/-- Bytes of an element and the adding atomic of a type. -/
def scadElem : ScType → Nat × Nat
  | .i32 => (4, 0x50)
  | .fp32 => (4, 0x5A)
  | .rn3 => (8, 0x5B)

/-- Add a source row into the local destination pieces element by element, at the homes. -/
def addRow (M : Mach) (m : MRef) (st : Strm) (et : ScType) : List (Target × Nat) → List Byte → Mach
  | [], _ => M
  | (.local pa, n) :: ts, bs =>
    let (w, op) := scadElem et
    let M :=
      (List.range (n / w)).foldl
        (fun M j =>
          (homeAtom (flushLine M m st (pa + j * w)) (pa + j * w) op (w == 8) (leNat ((bs.drop (j * w)).take w)) 0).1)
        M
    addRow M m st et ts (bs.drop n)
  | (.remote _ _ _, n) :: ts, bs => addRow M m st et ts (bs.drop n)

/-- The tag of the additions SCADD has asked other devices for. -/
def rowTag (st : Strm) : Nat := 2 ^ 97 + st.num

/-- Ask for the additions of a row's remote elements, one ATOM each; their answers are kept until the row is done. -/
def askRow (M : Mach) (m : MRef) (st : Strm) (et : ScType) : List (Target × Nat) → List Byte → Mach
  | [], _ => M
  | (.local _, n) :: ts, bs => askRow M m st et ts (bs.drop n)
  | (.remote dev part ra, n) :: ts, bs =>
    let (w, op) := scadElem et
    let r : ConnRef := ⟨m.part, dev, part⟩
    let M :=
      (List.range (n / w)).foldl
        (fun M j =>
          let a := ra + j * w
          let M := { M with fetched := M.fetched ++ [(⟨m, rowTag st, dev, part, a, w, none, [], none⟩ : Fetch)] }
          sendOn M r (newPacket M r 2 a (atomKspec op (w == 8) .rlx) (beat [w64 (leNat ((bs.drop (j * w)).take w))]))
            (.fetch m (rowTag st) m.part dev part a w))
        M
    askRow M m st et ts (bs.drop n)

/-- The tag of SCADD's questions whether the ports of a row's pages let it in. -/
def probeTag (st : Strm) : Nat := 2 ^ 98 + st.num

/-- Ask the port of every remote piece of a row, by an ATOM that changes nothing (AOR of 0 at its first element), whether
it lets the row in: no page of a refused row is added to (R257; assumption 16). -/
def askProbes (M : Mach) (m : MRef) (st : Strm) (et : ScType) : List (Target × Nat) → Mach
  | [] => M
  | (.local _, _) :: ts => askProbes M m st et ts
  | (.remote dev part ra, _) :: ts =>
    let (w, _) := scadElem et
    let r : ConnRef := ⟨m.part, dev, part⟩
    let M := { M with fetched := M.fetched ++ [(⟨m, probeTag st, dev, part, ra, w, none, [], none⟩ : Fetch)] }
    askProbes
      (sendOn M r (newPacket M r 2 ra (atomKspec 0x52 (w == 8) .rlx) (beat [0]))
        (.fetch m (probeTag st) m.part dev part ra w)) m st et ts

/-- Codes of the answers to a row's questions or remote additions: none is kept before they are asked for. -/
def rowCodes (M : Mach) (m : MRef) (tag : Nat) : List (Option Nat) :=
  (M.fetched.filter fun f => f.who == m && f.tag == tag).map (·.code)

/-- What the answers to a row's requests say. -/
inductive RowAnswers where
  | unasked | coming | refused (code : Nat) | granted
  deriving DecidableEq, Repr

/-- The answers under a tag. -/
def rowAnswers (M : Mach) (m : MRef) (tag : Nat) : RowAnswers :=
  let codes := rowCodes M m tag
  if codes.isEmpty then .unasked
  else if codes.contains none then .coming
  else
    match codes.find? fun x => x ≠ some 0 with
    | some (some code) => .refused code
    | _ => .granted

/-- How far SCADD comes: the entry it stands at, padding entries met; a fault there; answers still to come; or a stack that
is switching its mode. -/
structure ScaddEnd where
  M : Mach
  run : ScaddRun
  stop : Option TrapInfo
  asks : Bool
  held : Option Nat

/-- The address of a list entry or row: the sum is unbounded (R10). -/
def scaddAddr (a : Word) (off n : Nat) : Except XFault Word :=
  if a.toNat + off + n > 2 ^ 56 then .error ⟨0x01, 7, 0, w64 (a.toNat + off), false⟩ else .ok (w64 (a.toNat + off))

/-- Translate a list entry or a row. -/
def scaddRow (M : Mach) (m : Member) (k : AKind) (a : Word) (off n : Nat) : Except XFault (Mach × List (Target × Nat)) :=
  match scaddAddr a off n with
  | .error f => .error f
  | .ok pva => memberSpan M m m.core k pva n

/-- A read of the list or the source by the stream, at the homes. -/
def scaddRead (M : Mach) (m : Member) (st : Strm) (a : Word) (off n : Nat) : ReadEnd :=
  match scaddAddr a off n with
  | .error f => .fault f
  | .ok pva => readSpanned m (2 ^ 96 + st.num) none pva (memberSpan M m m.core .read pva n)

/-- A stack switching its mode that the next entry, its source row or its destination row goes to (R74). -/
def scaddHeld (M : Mach) (m : Member) (r : ScaddRun) : Option Nat :=
  let idx := scaddRow M m .read r.idx (4 * r.k) 4
  let src := scaddRow M m .read r.src (r.k * r.bytes) r.bytes
  let dst :=
    match idx with
    | .ok (_, [(.local pa, _)]) => spanStack M (scaddRow M m .atomic r.base (leNat (M.get pa 4) * r.bytes) r.bytes)
    | _ => none
  ((spanStack M idx).or (spanStack M src)).or dst

/-- The loop of R257 over the entries left. A row with remote elements is added there first, and the next entry waits
for the answers; where the row has other pieces too, the ports are asked before: nothing at or after a refused row is
performed. -/
def scaddLoop (m : Member) (st : Strm) (raw : Word) : Nat → Mach → ScaddRun → ScaddEnd
  | 0, M, r => ⟨M, r, none, false, none⟩
  | left + 1, M, r =>
    let stop (f : XFault) (ak : AKind) : ScaddEnd :=
      ⟨M, r, some { xlateTrap raw f ak with
        detail := if f.code = 0x21 || f.code = 0x22 then [] else [f.pva, f.word0, xstatus f ak, w64 r.k] }, false, none⟩
    if (scaddHeld M m r).isSome then ⟨M, r, none, false, scaddHeld M m r⟩
    else
    match scaddRead M m st r.idx (4 * r.k) 4 with
    | .fault f => stop f .read
    | .ecc pa => ⟨M, r, some (eccTrap raw pa), false, none⟩
    | .asking M => ⟨M, r, none, true, none⟩
    | .bytes M ib =>
      let i := leNat ib
      if i = 0xFFFFFFFF then scaddLoop m st raw left M { r with k := r.k + 1, pads := r.pads + 1 }
      else
        match scaddRow M m .atomic r.base (i * r.bytes) r.bytes with
        | .error f => stop f .atomic
        | .ok (M, ts) =>
          match scaddRead M m st r.src (r.k * r.bytes) r.bytes with
          | .fault f => stop f .read
          | .ecc pa => ⟨M, r, some (eccTrap raw pa), false, none⟩
          | .asking M => ⟨M, r, none, true, none⟩
          | .bytes M row =>
            let go (M : Mach) : ScaddEnd := scaddLoop m st raw left (addRow M m.ref st r.et ts row) { r with k := r.k + 1 }
            match spanPoison M ts with
            | some pa => ⟨M, r, some (eccTrap raw pa), false, none⟩
            | none =>
              if remotePieces ts = 0 then go M
              else
                let refused (code : Nat) : ScaddEnd := stop ⟨code, 7, 0, w64 (r.base.toNat + i * r.bytes), true⟩ .atomic
                match (if ts.length = 1 then RowAnswers.granted else rowAnswers M m.ref (probeTag st)) with
                | .unasked => ⟨askProbes M m.ref st r.et ts, r, none, true, none⟩
                | .coming => ⟨M, r, none, true, none⟩
                | .refused code => refused code
                | .granted =>
                  match rowAnswers M m.ref (rowTag st) with
                  | .unasked => ⟨askRow M m.ref st r.et ts row, r, none, true, none⟩
                  | .coming => ⟨M, r, none, true, none⟩
                  | .refused code => refused code
                  | .granted => go (dropFetched (dropFetched M m.ref (rowTag st)) m.ref (probeTag st))

/-- SCADD goes on: the machine, and the untimed word as it then stands. -/
def scaddRun (M : Mach) (m : Member) (st : Strm) (u : Untimed) (r : ScaddRun) : Mach × Untimed :=
  let e := scaddLoop m st u.raw (r.n - r.k) M r
  let swept (M : Mach) : Mach :=
    dropFetched (dropFetched (dropFetched M m.ref (2 ^ 96 + st.num)) m.ref (rowTag st)) m.ref (probeTag st)
  match e.stop, e.asks, e.held with
  | some i, _, _ => (swept e.M, { u with needs := .refused i, job := .nothing })
  | none, _, some q => (e.M, { u with needs := .stack q, job := .scadd e.run })
  | none, true, none => (e.M, { u with needs := .rows, job := .scadd e.run })
  | none, false, none => (swept e.M, { u with needs := .ready, job := .nothing, writes := fillWrites u.writes [w64 e.run.pads] })

/-- The destination a file register is. -/
def fileDst : FileReg → Dst
  | .s n => .s n
  | .o n => .o n

/-- R257. The stream's stores and the core's dirty bytes are at their homes before the first element is read. -/
def execScadd (d : FileReg) (b idx src : Reg) (et : ScType) (rlen : BitVec 10) (s : State) :
    Host.Outcome State Fault Refusal :=
  wordOut (.scadd d b idx src et rlen)
    (fun c =>
      let n := (c.fileReg d).toNat
      if 0xFFFFFFFF < n || !aligned (c.reg b) 64 || !aligned (c.reg idx) 4 || !aligned (c.reg src) 64 then
        .trap (illOpnd c.raw)
      else
        let M := toHomes c.M c.mem.ref c.st
        let u := { c.unt .ready with writes := [(fileDst d, 0)], akind := AKind.atomic.code }
        let (M, u) := scaddRun M c.mem c.st u ⟨c.reg b, c.reg idx, c.reg src, et, rlen.toNat * 64, n, 0, 0⟩
        match u.needs with
        | .refused i => .trapAfter M i
        | _ => .untimed M u) s

end Sys2Proof.Machine
end

