-- ==== Sys2Proof/Machine/Commands.lean ====
section
/-!
DEFINITION. Asynchronous commands and timeline counters (R102), deferred faults (R455), completion.
-/

namespace Sys2Proof

/-- The tag of a command's remote reads. -/
def CmdRef.tag (r : CmdRef) : Nat := r.tc + 4 * r.num + 1

/-- The remote requests of a command name this event as what goes on. -/
def CmdRef.wake (r : CmdRef) : Option Event := some (.commandCompletion r)

end Sys2Proof

namespace Sys2Proof.Machine

/-- The pair of numbers of a counter. -/
def Member.counter (m : Member) (tc : BitVec 2) : Nat × Nat := m.tc[tc.toNat]'tc.isLt

/-- The epoch of the member's open region (R166). -/
def Member.openEpoch (m : Member) : Option Nat := m.region.map (·.epoch)

/-- A new command of a counter: it takes the next number (R102). -/
def Member.takeNumber (m : Member) (tc : BitVec 2) (st : Strm) (run : CmdRun) : Member × CmdRef :=
  let n := (m.counter tc).1 + 1
  let ref : CmdRef := ⟨m.ref, tc.toNat, n⟩
  let c : Cmd :=
    { ref := ref, st := st, run := run, out := 0, engineDone := false, finished := false
      oob := false, emptyBag := false, err := false, ovf := false, fault := false
      nbad := 0, first := 0, pos := 0, spec := 0, deferred := []
      epoch := if st = .a then m.openEpoch else none
      sys := none }
  ({ m with
      tc := m.tc.set tc.toNat (n, (m.counter tc).2) tc.isLt
      cmds := m.cmds ++ [c]
      region := if st = .a then m.region.map fun g => { g with cmds := g.cmds ++ [ref] } else m.region },
   ref)

/-- Issue a command by the word's stream. -/
def Ctx.issueCmd (c : Ctx) (M : Mach) (tc : BitVec 2) (run : CmdRun) : Mach × CmdRef :=
  match M.member c.mem.ref with
  | none => (M, ⟨c.mem.ref, tc.toNat, 0⟩)
  | some m =>
    let (m, ref) := m.takeNumber tc c.st run
    (M.putMember m, ref)

/-- The completion number of a counter: every command up to it has completed (R102). -/
def completionOf (m : Member) (tc : Nat) : Nat :=
  let issue := (m.tc.toList.getD tc (0, 0)).1
  let open_ := m.cmds.filter fun c => c.ref.tc == tc && !c.finished
  match leastBy (fun c : Cmd => c.ref.num) open_ with
  | some c => c.ref.num - 1
  | none => issue

/-- The status words that hold a command: copy sequences (R342), embedding commands (R360), or none. -/
def CmdRun.kind : CmdRun → Nat
  | .copy _ => 1
  | .lookup _ | .update _ _ _ _ _ _ | .exchange _ => 2
  | .replay _ _ _ _ | .flush _ _ | .tget _ _ _ _ | .bld _ _ _ _ _ _ _ | .signal _ _ => 0

/-- The command is among the sixteen most recent of its kind on its counter (R342, R360). -/
def Cmd.recent (c : Cmd) (m : Member) : Bool :=
  c.run.kind != 0 &&
    (m.cmds.filter fun x => x.ref.tc == c.ref.tc && x.run.kind == c.run.kind && c.ref.num < x.ref.num).length < 16

/-- The command is a TLSIG .pod that covers a refused write of its stream: one the stream itself posted before it (R31,
R105, R109). A command's writes are covered by the waits for the command. -/
def Cmd.coversPosted (c : Cmd) (r : Imprecise) : Bool :=
  match c.run with
  | .signal .pod n => r.strm == c.st && r.cmd.isNone && decide (r.num ≤ n)
  | _ => false

/-- The command is a TLSIG .pod that covers a refusal which no word has taken yet (R31). -/
def Cmd.covers (c : Cmd) (m : Member) : Bool := (m.str c.st).imprecise.any c.coversPosted

/-- Keep the commands that are unfinished, hold a deferred fault, have a status word, or cover a refusal. -/
def pruneCmds (m : Member) : Member :=
  { m with cmds := m.cmds.filter fun c => !c.finished || !c.deferred.isEmpty || c.recent m || c.covers m }

/-- Bring the completion numbers up to date. -/
def settleCounters (m : Member) : Member :=
  let m := pruneCmds m
  { m with tc := m.tc.mapIdx fun i p => (p.1, max p.2 (completionOf m i)) }

/-- The status word of a sequence (R342). -/
def copyStatus (m : Member) (tc : BitVec 2) (n : Nat) : Word :=
  match m.cmds.find? fun c => c.ref.tc == tc.toNat && c.ref.num == n && c.run.kind == 1 with
  | some c =>
    if c.recent m then
      let bad := c.fault || c.sys.isSome
      w64 (c.pos % 2 ^ 48 + (if bad then 2 ^ 61 else 0) + (if c.oob then 2 ^ 62 else 0) +
        (if c.finished || bad then 2 ^ 63 else 0))
    else w64 (2 ^ 60)
  | none => w64 (2 ^ 60)

/-- The status word of an embedding command (R360). -/
def lookupStatus (m : Member) (tc : BitVec 2) (n : Nat) : Word :=
  match m.cmds.find? fun c => c.ref.tc == tc.toNat && c.ref.num == n && c.run.kind == 2 with
  | some c =>
    if c.recent m then
      let bad := c.fault || c.sys.isSome
      let bit (b : Bool) (i : Nat) : Nat := if b then 2 ^ i else 0
      w64
        ((if c.nbad = 0 then 0xFFFFFFFF else c.first % 2 ^ 32) + c.nbad <<< 32 + bit c.ovf 57 + bit bad 58 +
          bit c.err 60 + bit c.emptyBag 61 + bit c.oob 62 + bit (c.finished || bad) 63)
    else w64 (2 ^ 59)
  | none => w64 (2 ^ 59)

/-- Status words of the sixteen most recent commands of a kind on every counter, by number modulo 16. -/
def statusWords (m : Member) (kind : Nat) (f : Nat → Nat → Word) : List Word :=
  (List.range 4).flatMap fun tc =>
    (List.range 16).map fun k =>
      match m.cmds.find? fun c => c.ref.tc == tc && c.run.kind == kind && c.recent m && c.ref.num % 16 == k with
      | some c => f tc c.ref.num
      | none => 0

/-- The image of a switched-out member follows the completions and the status words of its commands (R409). -/
def syncCmds (M : Mach) (r : MRef) : Mach :=
  match M.member r with
  | none => M
  | some m =>
    if m.core.isSome || (savePa M m 0).isNone then M
    else
      saveGroups M m
        [(0x2D00, counterWords m), (0x3200, statusWords m 1 fun tc n => copyStatus m (BitVec.ofNat 2 tc) n),
          (0x3400, statusWords m 2 fun tc n => lookupStatus m (BitVec.ofNat 2 tc) n)]

/-- COMMAND_COMPLETION: a command whose engine is done and whose arrivals and writes are in completes (R102). -/
def completeCmd (M : Mach) (r : CmdRef) : Mach :=
  match M.cmd r with
  | none => M
  | some c =>
    if c.engineDone && c.out = 0 then
      let M := M.updCmd r fun c => { c with finished := true }
      syncCmds (dropFetched (M.updMember r.m settleCounters) r.m (r.tc + 4 * r.num + 1)) r.m
    else M

/-- Sectors of one row (R357). -/
def rowSectors (dim : Nat) : Nat := ceilDiv (4 * dim) 64

/-- DIM of a table record (R348). -/
def tDim (t : List Word) : Nat := recF t 256 11 + 1

/-- Tiles that hold sectors of a lookup and lack others of it: sectors that have arrived belong to complete bags, or to
bags with fewer sectors outstanding than they have. -/
def LookupRun.halfFilled (k : LookupRun) : List Nat :=
  let n := rowSectors (tDim k.table)
  let tilesOf (b : Nat) : List Nat := (List.range n).map fun i => (k.sect + b * n + i) / 128
  let part := (k.bags.filter fun x => x.2.1 < n).map (·.1)
  let missing := ((List.range k.nbag).filter fun b => !k.ended.contains b).flatMap tilesOf
  ((k.ended ++ part).flatMap tilesOf).eraseDups.filter missing.contains

/-- A level as a new context has it (R332). -/
def CLevel.fresh : CLevel := ⟨1, ⟨0, 0, 0⟩, ⟨0, 0, 0⟩⟩

/-- A level of the shadow. -/
def CopyCfg.level (k : CopyCfg) (lv : Nat) : CLevel := k.lev.getD lv CLevel.fresh

/-! ### The walk (R338, R339) -/

/-- Iterations of a sequence. -/
def CopyCfg.total (k : CopyCfg) : Nat := (List.range 6).foldl (fun n lv => n * (k.level lv).count) 1

/-- Iterations of the levels below `lv`. -/
def CopyCfg.below (k : CopyCfg) (lv : Nat) : Nat := (List.range lv).foldl (fun n l => n * (k.level l).count) 1

/-- The index of a level in iteration p: odometer order, level 0 fastest. -/
def CopyCfg.idx (k : CopyCfg) (p lv : Nat) : Nat := p / k.below lv % (k.level lv).count

/-- A signed value that fits n bits. -/
def fitsInt (n : Nat) (v : Int) : Option Int := if -(2 ^ (n - 1) : Int) ≤ v && v < 2 ^ (n - 1) then some v else none

/-- A side of a level. -/
def CLevel.side (l : CLevel) (dst : Bool) : CSide := if dst then l.dst else l.src

/-- Origin plus index, signed 32-bit; none overflows. -/
def CopyCfg.coord (k : CopyCfg) (dst : Bool) (p lv : Nat) : Option Int :=
  fitsInt 32 (((k.level lv).side dst).org + k.idx p lv)

/-- The six coordinates of a side; `g` replaces the coordinate of the gathered level. -/
def CopyCfg.coords (k : CopyCfg) (dst : Bool) (p : Nat) (g : Option (Nat × Nat)) : Option (List Int) :=
  (List.range 6).mapM fun lv =>
    (k.coord dst p lv).map fun v =>
      match g with
      | some (lev, x) => if lev = lv then (x : Int) else v
      | none => v

/-- The coordinates lie outside the side's window. -/
def CopyCfg.outside (k : CopyCfg) (dst : Bool) (cs : List Int) : Bool :=
  cs.zipIdx.any fun x =>
    let e := ((k.level x.2).side dst).ext
    e ≠ 0 && (x.1 < 0 || (e : Int) ≤ x.1)

/-- The sum of coordinates times strides, every product and sum in signed 64 bits; none overflows. -/
def CopyCfg.affine (k : CopyCfg) (dst : Bool) (cs : List Int) : Option Int :=
  cs.zipIdx.foldl
    (fun acc x =>
      match acc, fitsInt 64 (x.1 * ((k.level x.2).side dst).stride) with
      | some a, some v => fitsInt 64 (a + v)
      | _, _ => none)
    (some 0)

/-- The address of a side: base plus sum. A tile's is a byte of the target's scratchpad (R340). -/
def CopyCfg.address (k : CopyCfg) (dst : Bool) (cs : List Int) : Option Int :=
  let base : Int :=
    if dst then (if k.tile then ((wf k.dstBase 16 9 * 8192 + wf k.dstBase 0 7 * 64 : Nat) : Int) else k.dstBase.toInt)
    else k.srcBase.toInt
  (k.affine dst cs).bind fun v => fitsInt 64 (base + v)

/-- Iterations of a sequence from q on, n of them, write to a tile of the target (R338, R340). -/
def CopyCfg.fillsLater (k : CopyCfg) (t : Nat) : Nat → Nat → Bool
  | 0, _ => false
  | n + 1, q =>
    (match k.coords true q none with
      | some cs =>
        !k.outside true cs &&
          match k.address true cs with
          | some a => decide (0 ≤ a ∧ a.toNat / 8192 = t)
          | none => false
      | none => false) || k.fillsLater t n (q + 1)

/-- Tiles of the target to which sectors of a sequence have left and which lack some: not sent yet, or on the way. None
while no sector has arrived (R46). -/
def CopyRun.halfFilled (k : CopyRun) (pos : Nat) : List Nat :=
  if !k.come then []
  else
    k.tiles.filter fun t =>
      (k.sent.any fun x => x.1 / 65536 % 512 == t) || k.cfg.fillsLater t (k.cfg.total - pos) pos

/-- Tiles on this device that a command's transfer was still filling, where a system fault stops it (R46). -/
def fillingTiles (M : Mach) (c : Cmd) : List (MRef × Nat) :=
  match c.run with
  | .tget _ g _ k => if k = 0 then [] else [(c.ref.m, g / 128)]
  | .copy k =>
    let w := k.cfg.dstBase
    if w.getLsbD 63 && decide ((⟨wf w 56 5, wf w 51 5⟩ : DevRef) ≠ M.self) then []
    else (k.halfFilled c.pos).map fun t => (⟨wf w 48 3, wf w 36 12, wf w 28 8⟩, t)
  | .lookup k => k.halfFilled.map fun t => (⟨k.part, k.ctx, k.member⟩, t)
  | .exchange x => x.run.halfFilled.map fun t => (⟨x.run.part, x.run.ctx, x.run.member⟩, t)
  | _ => []

/-- The receiving port injects an abort for every tile the transfer was still filling (R46). -/
def abortTransfer (M : Mach) (r : CmdRef) : Mach :=
  match M.cmd r with
  | none => M
  | some c => (fillingTiles M c).foldl (fun M x => M.raise 1 (.abortEvent x.1 x.2)) M

/-- How far the engine of a command has read ahead (R399): past the last bag of a lookup that has left, else its position. -/
def Cmd.ahead (c : Cmd) : Nat :=
  let started (k : LookupRun) : Nat := ((k.bags.map (·.1)) ++ k.ended).foldl (fun n b => max n (b + 1)) c.pos
  match c.run with
  | .lookup k => started k
  | .exchange x => started x.run
  | _ => c.pos

/-- A system fault stops a command (R31, R401). A transfer aborted by its connection waits, as a refusal, for the word that
takes it (R395); every other fault is taken at the command's issuing stream at once, after the restore where the member is
switched out. -/
def engineFault (M : Mach) (r : CmdRef) (i : TrapInfo) : Mach :=
  match M.cmd r with
  | none => M
  | some c =>
    let M := abortTransfer (M.updCmd r fun c => { c with sys := some i, spec := max c.spec c.ahead }) r
    if i.cause = 0x22 then syncCmds (refuse M r.m c.st (Imprecise.command 0x22 0 c.st r c.pos 0 true)) r.m
    else
      match M.member r.m with
      | none => M
      | some m =>
        if m.freeze = .escalated || m.freeze = .halted || m.core.isNone then syncCmds M r.m
        else
          let now := m.now M
          let m := m.settle now
          takeTrap (M.putMember m) m c.st i now

/-- A deferred fault of a command: of each cause the lowest position is kept (R455). -/
def Cmd.defer (c : Cmd) (cause pos : Nat) : Cmd :=
  if c.deferred.any fun d => d.cause == cause then
    { c with
      deferred := c.deferred.map fun d => if d.cause = cause then { d with pos := min d.pos pos } else d }
  else { c with deferred := c.deferred ++ [⟨cause, pos⟩] }

/-- Bags of a lookup below which every bag is complete (R359). -/
def LookupRun.committed (k : LookupRun) : Nat :=
  ((List.range k.nbag).find? fun b => !k.ended.contains b).getD k.nbag

/-- The lookup a command is, or the one inside an exchange. -/
def Cmd.lookup (c : Cmd) : Option LookupRun :=
  match c.run with
  | .lookup k => some k
  | .exchange x => some x.run
  | _ => none

/-- Change the lookup of a command. -/
def Cmd.setLookup (c : Cmd) (k : LookupRun) : Cmd :=
  match c.run with
  | .lookup _ => { c with run := .lookup k, pos := k.committed }
  | .exchange x => { c with run := .exchange { x with run := k }, pos := k.committed }
  | _ => c

/-- The engine of a command has nothing left to do. -/
def engineEnds (M : Mach) (r : CmdRef) : Mach := checkDone (M.updCmd r fun c => { c with engineDone := true }) r

/-- Stop an exchange with FAULT (R370, R429). -/
def stopExchange (M : Mach) (r : CmdRef) : Mach := engineEnds (M.updCmd r fun c => { c with fault := true }) r

/-- A refusal of a bucket, taken imprecisely; the command stops with FAULT. -/
def refuseExchange (M : Mach) (r : CmdRef) (code : Nat) (remote : Bool) : Mach :=
  match M.cmd r with
  | none => M
  | some c => stopExchange (refuse M r.m c.st (Imprecise.command code 0 c.st r c.pos 0 remote)) r

/-- A bag is complete; with the last one the engine is done. -/
def bagEnds (M : Mach) (r : CmdRef) (k : LookupRun) (bag : Nat) : Mach :=
  let k := { k with bags := k.bags.filter fun x => x.1 != bag, ended := k.ended ++ [bag] }
  let M := M.updCmd r fun c => c.setLookup k
  if k.ended.length = k.nbag then engineEnds M r else M

/-- A bag whose last sector is in: its status byte is written, and it is complete (R358, R359). Where the write faults, the
bag waits with no sector outstanding until the command goes on. -/
def endBag (M : Mach) (r : CmdRef) (bag status : Nat) : Mach :=
  match M.member r.m, M.cmd r with
  | some m, some c =>
    match c.lookup with
    | none => M
    | some k =>
      if k.stat = 0 then bagEnds M r k bag
      else
        match writeAny M m c.st (some r) .engineWrite (k.stat + w64 bag) [BitVec.ofNat 8 status] with
        | .ok M => bagEnds M r k bag
        | .error f =>
          let k := { k with bags := k.bags.map fun x => if x.1 = bag then (bag, 0, status) else x }
          engineFault (M.updCmd r fun c => c.setLookup k) r (engineTrap r.num f .engineWrite k.committed)
  | _, _ => M

/-- A sector of a lookup is in, or refused. -/
def lookupIn (M : Mach) (r : CmdRef) (taddr : Word) : Mach :=
  match (M.cmd r).bind Cmd.lookup with
  | none => M
  | some k =>
    let x := wf taddr 16 9 * 128 + wf taddr 0 7
    let bag := (x - k.sect) / rowSectors (tDim k.table)
    match k.bags.find? fun b => b.1 == bag with
    | none => M
    | some (_, left, status) =>
      if left ≤ 1 then endBag M r bag status
      else
        M.updCmd r fun c =>
          c.setLookup { k with bags := k.bags.map fun b => if b.1 = bag then (bag, left - 1, status) else b }

/-- Every command a wait for number n covers is complete or stopped by a refusal, or is a TLSIG that waits for one of the
stream's refusals to be taken (R31, R105, R341). -/
def Member.blockedTo (m : Member) (st : Strm) (tc n : Nat) : Bool :=
  decide (n ≤ (m.tc.toList.getD tc (0, 0)).1) &&
    m.cmds.all fun c =>
      !(c.ref.tc == tc && decide (c.ref.num ≤ n)) || c.finished || c.sys.isSome || (c.st == st && c.covers m)

/-! ### Deferred faults (R455) -/

/-- The command is covered by a wait for number n on counter tc. -/
def Cmd.coveredBy (c : Cmd) (tc n : Nat) : Bool := c.ref.tc == tc && c.ref.num ≤ n

/-- The deferred fault a wait takes: lowest counter, lowest command, lowest position. -/
def pickDeferred (cs : List Cmd) : Option (Cmd × Deferred) :=
  match leastBy (fun c : Cmd => c.ref.tc * 2 ^ 64 + c.ref.num) (cs.filter fun c => !c.deferred.isEmpty) with
  | none => none
  | some c => (leastBy (fun d : Deferred => d.pos) c.deferred).map fun d => (c, d)

/-- The trap of a deferred fault. -/
def deferredTrap (raw : Word) (c : Cmd) (d : Deferred) : TrapInfo :=
  ⟨d.cause, false, raw, w64 c.ref.num, [w64 c.ref.tc, w64 d.pos, 0, 0], false⟩

/-- What stands in the way of a wait's completion: a refusal of a covered write, then a deferred fault (R396, R455). It is
gone once its trap is taken. -/
def Ctx.waitFaults (c : Ctx) (cov : Cmd → Bool) (imp : Imprecise → Bool) (strs : List Strm) : Option Res :=
  let refused : Option (Strm × Imprecise) :=
    strs.findSome? fun st => ((c.mem.str st).imprecise.find? imp).map fun r => (st, r)
  match refused with
  | some (st, r) => some (.trapTaking c.M (.refusal st r) (impreciseTrap c.raw r))
  | none =>
    match pickDeferred (c.mem.cmds.filter cov) with
    | some (k, d) =>
      some (.trapTaking c.M (.deferred ((c.mem.cmds.filter cov).map (·.ref)) d.cause) (deferredTrap c.raw k d))
    | none => none

end Sys2Proof.Machine
end

