-- ==== Sys2Proof/Machine/Sync.lean ====
section
/-!
DEFINITION. The synchronisation words (R258 to R266), barriers (R159), mailboxes (R39), and their events.
-/

namespace Sys2Proof.Machine

/-! ### Binding objects (R94, R95, R259) -/

/-- Wait condition of an ACQ. -/
def acqCond (part pa : Nat) (k : AcqKind) : WaitCond :=
  match k with
  | .ge n => .versionGe part pa n
  | .nw => .versionGe part pa 0
  | .x => .notHeld pa

/-- Two conditions are of ACQs at one object: the default object, or the one at an address of this device. -/
def sameObject : WaitCond → WaitCond → Bool
  | .versionGe _ pa _, .versionGe _ qa _ => pa == qa
  | .defverGe _, .defverGe _ => true
  | _, _ => false

/-- The version at which the waiting ACQ.ge was answered at its object (R95): a later write does not undo that. -/
def Ctx.met (c : Ctx) (cond : WaitCond) : Option Word :=
  match c.s.wait with
  | some w => if sameObject w.cond cond then w.met.map w64 else none
  | none => none

/-- The version of the default object (R93). -/
def Mach.defver (M : Mach) (part : Nat) : Word := ((M.part part).map (·.defver)).getD 0

/-- ACQ.nw on the default object: it orders as FENCE does (R101). -/
def Ctx.acqDefaultNow (c : Ctx) (d : Dst) (sc : Scope) : Res :=
  match c.pendingRefusal sc with
  | some r => r
  | none =>
    let M := release c.M c.mem.ref c.st sc
    let u := { c.unt .ready with writes := [(d, M.defver c.mem.ref.part)], acquire := some sc }
    if sc = .pod && outstanding M c.mem.ref c.st then .untimed M { u with needs := .acknowledged, job := .acqNw }
    else .untimed M u

/-- ACQ (R95, R259); `rn` numbers the register of .ge. At an object in a stack that switches its mode it waits (R74). -/
def Ctx.acq (c : Ctx) (d : Dst) (o : Reg) (sc : Scope) (k : AcqKind) (rn : Nat) : Res :=
  let obj := c.reg o
  if !aligned obj 64 then .trap (illOpnd c.raw)
  else if obj = 0 then
    match k, c.met (.defverGe 0) with
    | .nw, _ => c.acqDefaultNow d sc
    | .ge n, some v => c.objResult (.version c.M v) obj d (some sc) (.defverGe n)
    | k, _ => c.objResult (defaultAcq c.M c.mem.ref.part k) obj d (some sc) (.defverGe k.operand)
  else
    match c.span .atomic obj 16 with
    | .error f => c.xtrap f .atomic
    | .ok (M, (.local pa, _) :: _) =>
      let cond := acqCond c.mem.ref.part pa k
      match c.met cond with
      | some v => c.objResult (.version M v) obj d (some sc) cond
      | none =>
        if M.poisoned pa 16 then .trap (eccTrap c.raw (pa / 64 * 64))
        else if (M.switchingAt pa).isSome then .wait .acq cond
        else
          let M := flushLine M c.mem.ref c.st pa
          c.objResult (homeAcq M pa (holderBits M c.mem.ref c.st) k) obj d (some sc) cond
    | .ok (M, (.remote dev part ra, _) :: _) =>
      let (M, id) := M.fresh
      .untimed (sendOn M ⟨c.mem.ref.part, dev, part⟩ (acqPacket M c.mem.ref c.st dev part ra k rn sc)
          (.request c.mem.ref c.st id))
        { c.unt (.acq id (watchdog M c.mem.ref.part) none) with
          writes := [(d, 0)], acquire := some sc, pva := obj, akind := AKind.atomic.code, raddr := ra }
    | .ok (_, []) => .trap (illOpnd c.raw)

/-- R95. -/
def execAcqGe (d : Dst) (o : Reg) (sc : Scope) (n : BitVec 5) (s : State) : Host.Outcome State Fault Refusal :=
  wordOut (.acqGe d o sc n) (fun c => c.acq d o sc (.ge (c.s.main n).toNat) n.toNat) s

/-- R95. -/
def execAcqNw (d : Dst) (o : Reg) (sc : Scope) (s : State) : Host.Outcome State Fault Refusal :=
  wordOut (.acqNw d o sc) (fun c => c.acq d o sc .nw 0) s

/-- R95. -/
def execAcqX (d : Dst) (o : Reg) (sc : Scope) (s : State) : Host.Outcome State Fault Refusal :=
  wordOut (.acqX d o sc) (fun c => c.acq d o sc .x 0) s

/-- What a REL meets at its object once its release is done. -/
inductive RelEnd where
  | version (M : Mach) (v : Word)
  | sent (M : Mach)
  | trap (i : TrapInfo)

/-- REL after its release (R94 steps 2 and 3): at the default object, at a local home, or by a packet. -/
def performRel (M : Mach) (m : Member) (st : Strm) (id : Nat) (obj : Word) (sc : Scope) (raw : Word) : RelEnd :=
  let fromEnd (e : ObjEnd) : RelEnd :=
    match e with
    | .version M v => .version M v
    | .waits => .trap (illOpnd raw)
    | .trap 0x13 => .trap (illOpnd raw)
    | .trap cause => .trap (progTrap cause raw obj)
  if obj = 0 then fromEnd (defaultRel M m.ref.part)
  else
    match xspan M m.core m.die m.ref.part .atomic obj 16 with
    | .error f => .trap (xlateTrap raw f .atomic)
    | .ok ((.local pa, _) :: _, _) => fromEnd (homeRel (flushLine M m.ref st pa) pa (holderBits M m.ref st))
    | .ok ((.remote dev part ra, _) :: _, _) =>
      let r : ConnRef := ⟨m.ref.part, dev, part⟩
      .sent
        (sendOn M r (newPacket M r 5 ra (kspec (sc.num <<< 27 + 1 <<< 30)) (beat [0, w64 (holderBits M m.ref st)]))
          (.request m.ref st id))
    | .ok ([], _) => .trap (illOpnd raw)

/-- R94, R259. -/
def execRel (d : Dst) (o : Reg) (sc : Scope) (s : State) : Host.Outcome State Fault Refusal :=
  wordOut (.rel d o sc)
    (fun c =>
      let obj := c.reg o
      if !aligned obj 64 then .trap (illOpnd c.raw)
      else
        match (if obj = 0 then .ok (c.M, []) else c.span .atomic obj 16) with
        | .error f => c.xtrap f .atomic
        | .ok (M, ts) =>
          match spanPoison M ts, c.pendingRefusal sc with
          | some pa, _ => .trap (eccTrap c.raw pa)
          | none, some r => r
          | none, none =>
            let M := release M c.mem.ref c.st sc
            -- on the default object it orders as FENCE does (R101)
            let u :=
              { c.unt .ready with
                writes := [(d, 0)], pva := obj, akind := AKind.atomic.code, acquire := if obj = 0 then some sc else none }
            if sc = .pod && outstanding M c.mem.ref c.st then
              .untimed M { u with needs := .acknowledged, job := .rel obj sc }
            else
              match spanStack M (.ok (M, ts)) with
              | some q => .untimed M { u with needs := .stack q, job := .rel obj sc }
              | none =>
              let (M, id) := M.fresh
              match performRel M c.mem c.st id obj sc c.raw with
              | .version M v => .untimed M { u with writes := [(d, v)] }
              | .sent M => .untimed M { u with needs := .response id }
              | .trap i => .trap i) s

/-- FENCE at a scope (R101, R260); `wide` is XFENCE's action on L1 (R104). -/
def Ctx.fenceWord (c : Ctx) (sc : Scope) (wide : Bool) : Res :=
  match c.pendingRefusal sc with
  | some r => r
  | none =>
    let M := release c.M c.mem.ref c.st sc
    let M := if wide then acquire (toHomes M c.mem.ref c.st) c.mem.ref .pkg else M
    if sc = .pod && outstanding M c.mem.ref c.st then
      .untimed M { c.unt .acknowledged with acquire := some sc }
    else .done (acquire M c.mem.ref sc)

/-- R101. -/
def execFence (sc : Scope) (s : State) : Host.Outcome State Fault Refusal :=
  wordOut (.fence sc) (fun c => c.fenceWord sc false) s

/-- R104. -/
def execXfence (sc : Scope) (s : State) : Host.Outcome State Fault Refusal :=
  wordOut (.xfence sc) (fun c => c.fenceWord sc true) s

/-! ### Operand-queue counts (R38, R261) -/

/-- Rows of a queue that could be popped at once (R38). -/
def readyRows (q : List QRow) : Nat := (q.takeWhile fun r => r.landed).length

/-- An operand queue. -/
def Member.queue (m : Member) (q : BitVec 3) : List QRow := m.queues[q.toNat]'q.isLt

/-- R261. -/
def execWaitcGe (q : BitVec 3) (x : Reg) (s : State) : Host.Outcome State Fault Refusal :=
  wordOut (.waitcGe q x)
    (fun c =>
      let n := (c.reg x).toNat
      if 32 < n then .trap (illOpnd c.raw)
      else if n ≤ readyRows (c.mem.queue q) then .done c.M
      else .wait .timeline (.queueRows q.toNat n)) s

/-- R261. -/
def execWaitcLe (q : BitVec 3) (x : Reg) (s : State) : Host.Outcome State Fault Refusal :=
  wordOut (.waitcLe q x)
    (fun c =>
      let n := (c.reg x).toNat
      if readyRows (c.mem.queue q) ≤ n then .done c.M else .wait .timeline (.queueAtMost q.toNat n)) s

/-! ### Timeline counters (R102, R262, R263) -/

/-- A refusal covered by a wait for number n of counter tc: of a covered command, or of a write the stream posted before a
covered TLSIG (R31, R105). -/
def coversRefusal (m : Member) (st : Strm) (tc n : Nat) (r : Imprecise) : Bool :=
  match r.cmd with
  | some k => k.tc == tc && decide (k.num ≤ n)
  | none =>
    r.strm == st && m.cmds.any fun c => c.coveredBy tc n && c.coversPosted r

/-- The wait of a TLWAIT is over: the completion number is there, or only refusals that this TLWAIT takes stand in its way;
and no open region of the A stream hides a covered command from another stream (R164). -/
def timelineOk (m : Member) (st : Strm) (tc n : Nat) : Bool :=
  (decide (n ≤ (m.tc.toList.getD tc (0, 0)).2) ||
    (m.blockedTo st tc n && (m.str st).imprecise.any (coversRefusal m st tc n))) &&
    (st == Strm.a ||
      match m.region with
      | some g => !(g.cmds.any fun r => r.tc == tc && decide (r.num ≤ n))
      | none => true)

/-- R262: it holds until the counter reaches X, then takes refusals and deferred faults; when it completes it closes the
region it covers, and acquires. -/
def execTlwait (tc : BitVec 2) (x : Reg) (s : State) : Host.Outcome State Fault Refusal :=
  word (.tlwait tc x)
    (fun c =>
      let n := (c.reg x).toNat
      let k := tc.toNat
      if !timelineOk c.mem c.st k n then .wait .timeline (.completed k n)
      else
        match c.waitFaults (fun q => q.coveredBy k n) (coversRefusal c.mem c.st k n) [c.st] with
        | some r => r
        | none =>
          let covers := (c.mem.region.map fun g => g.cmds.any fun r => r.tc == k && decide (r.num ≤ n)).getD false
          let M := if c.st = Strm.a && covers then closeRegion c.M c.mem.ref else c.M
          .done (acquire M c.mem.ref .pkg)) s

/-- An arrival refused as packet seq has gone out again: what waits for the packets before a mark now waits for its new
number (R23, R424). -/
def moveMarks (M : Mach) (r : ConnRef) (seq : Nat) : Mach :=
  match M.conn r with
  | none => M
  | some c =>
    let n := (c.nextSeq + c.waiting.length) % 2 ^ 32
    let move (x : ConnRef × Nat) : ConnRef × Nat := if x.1 = r && seqBefore seq x.2 then (r, n) else x
    let inv (v : Inv) : Inv := { v with marks := v.marks.map move }
    M.updPart r.part fun p => { p with invs := p.invs.map inv, rgnload := p.rgnload.map fun x => (x.1, inv x.2) }

/-- A TLSIG is done: at .pod every write its stream posted before it is acknowledged, and no refusal of one stands untaken
(R105, R109; assumption 16). -/
def signalDone (M : Mach) (m : Member) (c : Cmd) (sc : Scope) (num : Nat) : Bool :=
  !(sc == .pod && outstandingOf M m.ref c.st fun n => n ≤ num) && !c.covers m

/-- TLSIG commands whose writes are acknowledged complete (R105). -/
def settleSignals (M : Mach) : Mach :=
  (M.members.flatMap fun m =>
    m.cmds.filterMap fun c =>
      match c.run with
      | .signal sc num => if !c.engineDone && signalDone M m c sc num then some c.ref else none
      | _ => none).foldl engineEnds M

/-- R105, R263. -/
def execTlsig (d : Dst) (tc : BitVec 2) (sc : Scope) (s : State) : Host.Outcome State Fault Refusal :=
  wordOut (.tlsig d tc sc)
    (fun c =>
      let M := release c.M c.mem.ref c.st sc
      let (M, ref) := c.issueCmd M tc (.signal sc c.s.nissue)
      .done (c.resultOn (settleSignals M) 1 d (w64 ref.num))) s

/-! ### Mailboxes (R39, R265) -/

/-- Two words wait for the same thing of one mailbox or operand queue: its room, or what it holds (R155). -/
def sameQueue : WaitCond → WaitCond → Bool
  | .queueRoom q _, .queueRoom r _ => q == r
  | .queueRows q _, .queueRows r _ => q == r
  | x, y => x == y

/-- A stream that began to wait earlier for the same thing is served first (R155); a WAITC takes nothing and is not in the
line. -/
def Ctx.mustQueue (c : Ctx) (cond : WaitCond) : Bool :=
  let mine := (c.s.wait.map (·.turn)).getD c.M.nextId
  Strm.all.any fun st =>
    st != c.st &&
      match (c.mem.str st).wait with
      | some w => w.kind != .timeline && sameQueue w.cond cond && decide (w.turn < mine)
      | none => false

/-- R265. -/
def execMbw (mb : BitVec 3) (x : Reg) (s : State) : Host.Outcome State Fault Refusal :=
  wordOut (.mbw mb x)
    (fun c =>
      let b := c.mem.mbs[mb.toNat]'mb.isLt
      let cond : WaitCond := .mailboxEmpty mb.toNat
      if b.2 || c.mustQueue cond then .wait .mailbox cond
      else
        let M := release c.M c.mem.ref c.st .core
        .done (M.updMember c.mem.ref fun m => { m with mbs := m.mbs.set mb.toNat (c.reg x, true) mb.isLt })) s

/-- R265. -/
def execMbr (d : Dst) (mb : BitVec 3) (s : State) : Host.Outcome State Fault Refusal :=
  wordOut (.mbr d mb)
    (fun c =>
      let b := c.mem.mbs[mb.toNat]'mb.isLt
      let cond : WaitCond := .mailboxFull mb.toNat
      if !b.2 || c.mustQueue cond then .wait .mailbox cond
      else
        let M := c.upd fun m => { m with mbs := m.mbs.set mb.toNat (b.1, false) mb.isLt }
        .done (c.resultOn M 1 d b.1)) s

/-! ### Tags (R266) -/

/-- A tile operand: its number, when below the tile count (R33, R258). -/
def Ctx.tileOp (c : Ctx) (x : Reg) : Option Nat :=
  let t := (c.reg x).toNat
  if t < c.mem.tilesN then some t else none

/-- R266. -/
def execTagarm (x y : Reg) (ct : CType) (mulm1 : BitVec 6) (s : State) : Host.Outcome State Fault Refusal :=
  wordOut (.tagarm x y ct mulm1)
    (fun c =>
      let e := (c.reg y).toNat
      match c.tileOp x with
      | none => .trap (illOpnd c.raw)
      | some t =>
        let r := c.mem.tile t
        if e = 0 || 128 < e || r.tag ≠ .empty then .trap (illOpnd c.raw)
        else
          .done
            (c.upd fun m => m.setTile t { r with exp := e, mulm1 := mulm1.toNat, ctype := ct, tdup := false })) s

/-- R266. -/
def execTagsetFull (x : Reg) (s : State) : Host.Outcome State Fault Refusal :=
  wordOut (.tagsetFull x)
    (fun c =>
      match c.tileOp x with
      | none => .trap (illOpnd c.raw)
      | some t =>
        let r := c.mem.tile t
        match r.tag with
        | .poisoned => .trap (illOpnd c.raw)
        | .full => .done (release c.M c.mem.ref c.st .core)
        | _ =>
          let M := release c.M c.mem.ref c.st .core
          .done
            (M.updMember c.mem.ref fun m =>
              m.setTile t { r with cnt := r.target, tag := .full, acq := r.acq.join .core })) s

/-- R266. -/
def execTagsetPoison (x : Reg) (s : State) : Host.Outcome State Fault Refusal :=
  wordOut (.tagsetPoison x)
    (fun c =>
      match c.tileOp x with
      | none => .trap (illOpnd c.raw)
      | some t =>
        if (c.mem.tile t).tag = .poisoned then .done c.M else .done (c.upd fun m => m.poison t 0)) s

/-- R266. -/
def execTagclr (x : Reg) (s : State) : Host.Outcome State Fault Refusal :=
  wordOut (.tagclr x)
    (fun c =>
      match c.tileOp x with
      | none => .trap (illOpnd c.raw)
      | some t => .done (tagClear c.M c.mem.ref t)) s

/-- TAGWT's result: the status word (R266). -/
def Ctx.tagResult (c : Ctx) (M : Mach) (d : Dst) (t : Nat) : Res := .done (c.resultOn M 1 d (c.mem.tile t).status)

/-- R266. -/
def execTagwtNw (d : Dst) (y : Reg) (s : State) : Host.Outcome State Fault Refusal :=
  wordOut (.tagwtNw d y)
    (fun c =>
      match c.tileOp y with
      | none => .trap (illOpnd c.raw)
      | some t => c.tagResult c.M d t) s

/-- R266: on FULL it acquires as a checked read does. -/
def execTagwtFull (d : Dst) (y : Reg) (s : State) : Host.Outcome State Fault Refusal :=
  wordOut (.tagwtFull d y)
    (fun c =>
      match c.tileOp y with
      | none => .trap (illOpnd c.raw)
      | some t =>
        if !c.mem.tagsSettled [t] then .wait .tag (.tagsFull [t])
        else if c.mem.readable t then c.tagResult (acquire c.M c.mem.ref (c.mem.fillScope [t])) d t
        else c.tagResult c.M d t) s

/-- R266. -/
def execTagwtEmpty (d : Dst) (y : Reg) (s : State) : Host.Outcome State Fault Refusal :=
  wordOut (.tagwtEmpty d y)
    (fun c =>
      match c.tileOp y with
      | none => .trap (illOpnd c.raw)
      | some t =>
        match (c.mem.tile t).tag with
        | .empty => c.tagResult c.M d t
        | .poisoned => c.tagResult c.M d t
        | _ => .wait .tag (.tagEmpty t)) s

/-! ### Barriers (R159, R264) -/

/-- A member's placement quad. -/
def Member.quad (m : Member) : Nat := m.home / 4

/-- A member's placement die. -/
def Member.homeDie (m : Member) : Nat := m.home / 32

/-- The barrier group of a member's context (R378). -/
def groupOf (M : Mach) (m : MRef) : Nat :=
  (((M.part m.part).bind fun p => p.ctxs.find? fun c => c.id == m.ctx).map (·.bgrp)).getD 0

/-- The key of the episode a member's BAR joins (R159). -/
def barKey (M : Mach) (m : Member) (sc : Scope) : List Nat :=
  match sc with
  | .stream => []
  | .core => [m.ref.part, m.ref.ctx, m.ref.rank]
  | .quad => [m.ref.part, m.ref.ctx, m.quad]
  | .die => [m.ref.part, m.ref.ctx, m.homeDie]
  | .pkg => [m.ref.part, m.ref.ctx]
  | .pod => [groupOf M m.ref]

/-- Streams of a mask (R159). -/
def maskStreams (mask : Nat) : List Strm := Strm.all.filter fun st => bitOf mask st.num

/-- The participants of an episode; none while a context of a barrier group does not exist yet (R378). -/
def participants (M : Mach) (b : Bar) : Option (List (MRef × Strm)) :=
  let cs (p : Member → Bool) : List (MRef × Strm) := (M.members.filter p).map fun m => (m.ref, .c)
  match b.scope, b.key with
  | .core, [p, x, r] => some ((maskStreams b.mask).map fun st => (⟨p, x, r⟩, st))
  | .quad, [p, x, q] => some (cs fun m => m.ref.part == p && m.ref.ctx == x && m.quad == q)
  | .die, [p, x, d] => some (cs fun m => m.ref.part == p && m.ref.ctx == x && m.homeDie == d)
  | .pkg, [p, x] => some (cs fun m => m.ref.part == p && m.ref.ctx == x)
  | .pod, [g] =>
    match M.bgroups.find? fun k => k.id == g with
    | some k =>
      if k.ctxs.length = k.bgn then some (cs fun m => k.ctxs.contains (m.ref.part, m.ref.ctx)) else none
    | none => none
  | _, _ => none

/-- The episode record of a scope and key. -/
def barFind (M : Mach) (sc : Scope) (key : List Nat) : Option Bar :=
  M.bars.find? fun b => b.scope == sc && b.key == key

/-- Keep an episode record; an empty one is dropped. -/
def barPut (M : Mach) (b : Bar) : Mach :=
  let rest := M.bars.filter fun x => !(x.scope == b.scope && x.key == b.key)
  { M with bars := if b.arrived.isEmpty && b.passed.isEmpty then rest else rest ++ [b] }

/-- Every participant has arrived. -/
def barComplete (M : Mach) (b : Bar) : Bool :=
  !b.arrived.isEmpty &&
    match participants M b with
    | some ps => ps.all fun x => b.arrived.contains x
    | none => false

/-- R159, R264. -/
def execBar (sc : Scope) (mask : BitVec 4) (s : State) : Host.Outcome State Fault Refusal :=
  wordOut (.bar sc mask)
    (fun c =>
      let me := (c.mem.ref, c.st)
      let key := barKey c.M c.mem sc
      let b := (barFind c.M sc key).getD ⟨sc, key, mask.toNat, [], []⟩
      if sc = .stream then .done (release c.M c.mem.ref c.st .stream)
      else if b.passed.contains me then
        .done (acquire (barPut c.M { b with passed := b.passed.filter fun x => x != me }) c.mem.ref sc)
      else if b.arrived.contains me then .wait .bar .episode
      else if Scope.core.num < sc.num && c.st ≠ .c then .trap (illOpnd c.raw)
      else if sc = .core && !bitOf mask.toNat c.st.num then .trap (illOpnd c.raw)
      else if sc = .core && !b.arrived.isEmpty && b.mask ≠ mask.toNat then .trap (illOpnd c.raw)
      else if sc = .pod && groupOf c.M c.mem.ref = 0 then .trap (illOpnd c.raw)
      else
        match c.pendingRefusal sc with
        | some r => r
        | none =>
          let M := release c.M c.mem.ref c.st sc
          if sc = .pod && outstanding M c.mem.ref c.st then .waitOn M .bar .acked
          else
            .waitOn (barPut M { b with mask := mask.toNat, arrived := b.arrived ++ [me] }) .bar .episode) s

/-- A stream's wait is over: its word issues d cycles from now. -/
def grantAfter (M : Mach) (r : MRef) (st : Strm) (d : Nat) : Mach :=
  match M.member r with
  | none => M
  | some m =>
    M.updMember r fun x =>
      x.updStr st fun s =>
        { s with wait := s.wait.map fun w => if w.granted.isNone then { w with granted := some (m.now M + d) } else w }

/-- A stream's wait is over: its word issues from the next cycle on (R154). -/
def grant (M : Mach) (r : MRef) (st : Strm) : Mach := grantAfter M r st 1

/-- Cycles from the last arrival to the end of an episode (R159); at .pod they depend on the routes: a free number. -/
def barLatency (M : Mach) : Scope → Nat
  | .stream => 1
  | .core => 4
  | .quad => 12
  | .die => 40
  | .pkg => 110
  | .pod => Config.freeNat M.free + 1

/-- Every participant on this device has arrived at the .pod episode of a group with contexts elsewhere: contexts on
other devices, of which the device knows nothing, count as arrived when the barrier network says so; after the end of a
context here the episode cannot complete (R378). -/
def podComplete (M : Mach) (b : Bar) : Bool :=
  match b.scope, b.key with
  | .pod, [g] =>
    match M.bgroups.find? fun k => k.id == g with
    | some k =>
      decide (k.ctxs.length < k.bgn) && k.gone == 0 && !b.arrived.isEmpty &&
        M.members.all fun m => !k.ctxs.contains (m.ref.part, m.ref.ctx) || b.arrived.contains (m.ref, .c)
    | none => false
  | _, _ => false

/-- BARRIER_EPISODE_COMPLETE: the episode the member takes part in at a scope lets its participants pass. -/
def endEpisode (M : Mach) (r : MRef) (sc : Scope) : Mach :=
  match M.member r with
  | none => M
  | some m =>
    match barFind M sc (barKey M m sc) with
    | none => M
    | some b =>
      if barComplete M b || podComplete M b then
        let d := barLatency M sc
        let M := { barPut M { b with arrived := [], passed := b.passed ++ b.arrived } with free := M.free + 1 }
        b.arrived.foldl
          (fun M x =>
            match (M.member x.1).bind fun m => (m.str x.2).wait with
            | some w => if w.cond = .episode then grantAfter M x.1 x.2 d else M
            | none => M)
          M
      else M

/-! ### Events -/

/-- A stream waiting on a condition that holds now is granted. -/
def wakeIf (M : Mach) (r : MRef) (st : Strm) (p : Member → WaitCond → Bool) : Mach :=
  match M.member r with
  | none => M
  | some m =>
    match (m.str st).wait with
    | some w => if p m w.cond then grant M r st else M
    | none => M

/-- R44. -/
def execTagCheckSatisfied (m : MRef) (st : Strm) (s : State) : Host.Outcome State Fault Refusal :=
  s.lift fun M =>
    wakeIf M m st fun m cond =>
      match cond with
      | .tagsFull ts => m.tagsSettled ts
      | .tagEmpty t => (m.tile t).tag == .empty || (m.tile t).tag == .poisoned
      | _ => false

/-- R155. -/
def execMailboxWake (m : MRef) (st : Strm) (s : State) : Host.Outcome State Fault Refusal :=
  s.lift fun M =>
    wakeIf M m st fun m cond =>
      match cond with
      | .mailboxEmpty k => (m.mbs.toList.map (·.2)).getD k false == false
      | .mailboxFull k => (m.mbs.toList.map (·.2)).getD k false
      | .queueRoom q n => (m.queues.toList.getD q []).length + n ≤ 32
      | .queueRows q n => n ≤ readyRows (m.queues.toList.getD q [])
      | .queueAtMost q n => readyRows (m.queues.toList.getD q []) ≤ n
      | _ => false

/-- R159. -/
def execBarrierEpisodeComplete (m : MRef) (sc : Scope) (s : State) : Host.Outcome State Fault Refusal :=
  s.lift fun M => endEpisode M m sc

/-- A waiting ACQ is answered at its home: its condition holds, or the object has become malformed (R92, R95); not while
the object's stack switches its mode (R74). -/
def acqHolds (M : Mach) (part : Nat) : WaitCond → Bool
  | .versionGe _ pa n => (M.switchingAt pa).isNone && acqAnswered M pa 0 (.ge n)
  | .notHeld pa => (M.switchingAt pa).isNone && acqAnswered M pa 0 .x
  | .defverGe n => n ≤ (M.defver part).toNat
  | _ => false

/-- The version at which a waiting ACQ.ge is answered now (R95). -/
def acqMet (M : Mach) (part : Nat) (c : WaitCond) : Option Nat :=
  match c with
  | .versionGe _ pa n => if M.poisoned pa 16 || !objWellFormed (M.word (pa + 8)).toNat || !acqHolds M part c then none
    else if n ≤ (M.word pa).toNat then some (M.word pa).toNat else none
  | .defverGe _ => if acqHolds M part c then some (M.defver part).toNat else none
  | _ => none

/-- R95: the waiting ACQ is tested again; one of a version keeps the version that answered it. -/
def execAcqHomeRetest (m : MRef) (st : Strm) (s : State) : Host.Outcome State Fault Refusal :=
  s.lift fun M =>
    (wakeIf M m st fun x cond => acqHolds M x.ref.part cond).updMember m fun x =>
      x.updStr st fun s =>
        { s with wait := s.wait.map fun w => if w.met.isNone then { w with met := acqMet M m.part w.cond } else w }

/-- An untimed word counts as not issued from cycle t on: its stream stands at it again, with the spacing and the loop
counts before it. -/
def Member.unissued (m : Member) (st : Strm) (u : Untimed) (t : Nat) : Member :=
  let m :=
    m.updStr st fun s =>
      { s with
        pc := u.pc, lpc0 := u.lpc0, lpc1 := u.lpc1, last := u.last, nissue := s.nissue - 1, untimed := none, wait := none
        nstall := s.nstall + (t - u.iss)
        floor := max s.floor t }
  let m := if st = .a then { m with region := m.region.map fun g => { g with lastPc := u.pc } } else m
  match u.slot with
  | some k => m.setSlot k LSlot.empty
  | none => m

/-- A withdrawn ACQ counts as not issued (R259), in its stream or set aside by a handler. While a handler runs, the cycles
from its trap on have not passed for the streams it parks (R158). -/
def Member.withdrawn (m : Member) (st : Strm) (p : Untimed → Bool) (now : Nat) : Member :=
  let t :=
    match m.handler with
    | some h => if st = .c then now + 1 else h.tau
    | none => now + 1
  let m :=
    match (m.str st).untimed with
    | some u => if p u then m.unissued st u t else m
    | none => m
  if st = .c then
    { m with
      handler := m.handler.map fun h =>
        match h.cuntimed with
        | some u =>
          if p u then
            { h with cpc := u.pc, clast := u.last, cfloor := max h.cfloor h.tau, cuntimed := none, cback := some u }
          else h
        | none => h }
  else m

/-- The packet that withdraws the request of a number: an OBJ with KIND 3, the object's address and the SEQ of the ACQ
(assumption 39). -/
def withdrawPacket (M : Mach) (r : ConnRef) (addr seq : Nat) : Packet := newPacket M r 5 addr (kspec 3) (beat [w64 seq])

/-- A withdrawal was refused at the home's port: the request waits on. -/
def withdrawRefused (M : Mach) (r : MRef) (st : Strm) (id : Nat) : Mach :=
  let stays (u : Untimed) : Untimed :=
    match u.needs with
    | .acq i limit (some _) => if i = id then { u with needs := .acq i limit none } else u
    | _ => u
  M.updMember r fun m =>
    { (m.updStr st fun s => { s with untimed := s.untimed.map stays }) with
      handler := if st = .c then m.handler.map fun h => { h with cuntimed := h.cuntimed.map stays } else m.handler }

/-- Withdraw a stream's ACQ at another device, with the word to time out where that succeeds (R95, R259): a request that
has not left is removed here, and one that has left is followed by the withdrawal on its connection. -/
def withdrawAcq (M : Mach) (r : MRef) (st : Strm) (late : Bool) : Mach :=
  match M.member r with
  | none => M
  | some m =>
    (m.untimeds st).foldl
      (fun M u =>
        match u.needs with
        | .acq id limit none =>
          let o : Origin := .request r st id
          match M.conns.findSome? fun c => (c.asked.find? fun x => x.2 == o).map fun x => (c.ref, x.1) with
          | some (k, seq) =>
            let M := M.updMember r fun m =>
              m.updUntimed st (fun v => v.needs == .acq id limit none) fun v => { v with needs := .acq id limit (some late) }
            sendOn M k (withdrawPacket M k u.raddr seq) (.withdraw r st id seq)
          | none =>
            let M :=
              { M with conns := M.conns.map fun c => { c with waiting := c.waiting.filter fun w => w.2 != o } }
            if late then failIf M r st (fun n => n == .acq id limit none) fun u => progTrap 0x15 u.raw (w64 WaitKind.acq.code)
            else M.updMember r fun m => m.withdrawn st (fun v => v.needs == .acq id limit none) (m.now M)
        | _ => M)
      M

/-- The home has removed a withdrawn request: no answer comes, and the ACQ counts as not issued (R259), or times out. -/
def acqRemoved (M : Mach) (r : MRef) (st : Strm) (id seq : Nat) : Mach :=
  let o : Origin := .request r st id
  let M :=
    { M with conns := M.conns.map fun c => { c with asked := c.asked.filter fun x => !(x.1 == seq && x.2 == o) } }
  let is (late : Bool) (n : Answer) : Bool :=
    match n with
    | .acq i _ (some l) => i == id && l == late
    | _ => false
  let M := failIf M r st (is true) fun u => progTrap 0x15 u.raw (w64 WaitKind.acq.code)
  M.updMember r fun m => m.withdrawn st (fun v => is false v.needs) (m.now M)

/-- A stream waits at an object of this device. -/
def Member.acqWaits (m : Member) (st : Strm) : Bool := (m.str st).wait.any fun w => w.kind == .acq

/-- R259: a waiting request is removed at its home, and the ACQ counts as not issued; at another device a withdrawal
follows the request. -/
def execAcqWithdrawal (m : MRef) (st : Strm) (s : State) : Host.Outcome State Fault Refusal :=
  s.lift fun M =>
    let M :=
      if (M.member m).any fun x => x.acqWaits st then M.updMember m fun x => x.updStr st fun s => s.unwait (x.now M)
      else M
    withdrawAcq M m st false

end Sys2Proof.Machine
end

