-- ==== Sys2Proof/Machine/Untimed.lean ====
section
/-!
DEFINITION. The landing of untimed results (R153), jobs performed after acknowledgement (R109), tile arrivals and
their events (R43 to R49, R166).
-/

namespace Sys2Proof.Machine

/-! ### Untimed results -/

/-- The trap of an untimed word is taken: the word counts as not issued (R31). -/
def unissue (M : Mach) (m : Member) (st : Strm) (u : Untimed) (taking : Option Taken) (i : TrapInfo) : Mach :=
  let now := m.now M
  let m := (m.settle now).unissued st u now
  let ks := taking.toList.map fun k => (st, k)
  endCycle (M.putMember { m with raised := m.raised ++ [(st, i)], taking := m.taking ++ ks }) m.ref now

/-- The sealed grid of a handle register. -/
def Member.grid (m : Member) (h : Nat) : Option (List Word) :=
  match m.handles.toList.getD h none with
  | some x => if x.kind = .grid then some x.copy else none
  | none => none

/-- A result lands: the latch in cycle c, the register in c + 1; the next word issues from c + 1 on. -/
def landResult (M : Mach) (m : Member) (st : Strm) (u : Untimed) : Mach :=
  let t := m.now M
  let m := m.settle t
  let m :=
    m.updStr st fun s =>
      { s with
        inflight := if u.writes.isEmpty then s.inflight else s.inflight ++ [⟨t, u.born, u.writes, false, none⟩]
        untimed := none
        floor := max s.floor (t + 1)
        nstall := s.nstall + (t - u.iss) }
  let m := m.settle t
  let m :=
    match u.slot with
    | some k => m.setSlot k LSlot.empty
    | none => m
  let m :=
    match u.needs with
    | .vergeWrites g own => { m with joined := m.joined.filter fun j => !(j.own == own && j.grid == g) }
    | _ => m
  let M := M.putMember m
  match u.acquire with
  | some sc => acquire M m.ref sc
  | none => M

/-- A job's effect at its home, once its release is complete (R94, R99, R109, R254). -/
def performJob (M : Mach) (m : Member) (st : Strm) (u : Untimed) : Mach :=
  let setNeeds (M : Mach) (n : Answer) (ws : List (Dst × Word)) : Mach :=
    M.updMember m.ref fun x =>
      x.updStr st fun s =>
        { s with untimed := s.untimed.map fun v => { v with needs := n, job := .nothing, writes := ws } }
  -- an access to a stack that switches its mode waits for it (R74)
  let held (M : Mach) (q : Nat) : Mach :=
    M.updMember m.ref fun x =>
      x.updStr st fun s => { s with untimed := s.untimed.map fun v => { v with needs := .stack q } }
  let (M, id) := M.fresh
  match u.job with
  | .nothing => setNeeds M .ready u.writes
  | .atom op w o pva v k =>
    match memberSpan M m m.core .atomic pva (if w then 8 else 4) with
    | .error f => setNeeds M (.refused (xlateTrap u.raw f .atomic)) []
    | .ok (M, ts) =>
      match spanStack M (.ok (M, ts)) with
      | some q => held M q
      | none =>
        match performAtom M m st id op w o ts v k with
        | (M, some old) => setNeeds M .ready (fillWrites u.writes [old])
        | (M, none) => setNeeds M (.response id) u.writes
  | .rel obj sc =>
    match (if obj = 0 then none else spanStack M (memberSpan M m m.core .atomic obj 16)) with
    | some q => held M q
    | none =>
      match performRel M m st id obj sc u.raw with
      | .version M v => setNeeds M .ready (fillWrites u.writes [v])
      | .sent M => setNeeds M (.response id) u.writes
      | .trap i => setNeeds M (.refused i) []
  | .acqNw => setNeeds M .ready (fillWrites u.writes [M.defver m.ref.part])
  | .strel sc pva bs =>
    match memberSpan M m m.core .write pva bs.length with
    | .error f => setNeeds M (.refused (xlateTrap u.raw f .write)) []
    | .ok (M, ts) => setNeeds (storePieces (release M m.ref st sc) m st pva (some sc) ts bs) .ready []
  | .queue op =>
    launchOp (setNeeds M (.queueOp op.id) u.writes) m op (w64 op.pva)
      (if op.isPush then .queuePush else .queuePop)
  | .scadd r =>
    let (M, v) := scaddRun M m st u r
    M.updMember m.ref fun x => x.updUntimed st (fun w => w == u) fun _ => v
  | .again _ _ _ => M

/-- Every verge write and progress report of an owner's earlier milestones is performed (R137). -/
def leaving (m : Member) (g : List Word) (own : Nat) : Bool :=
  m.verges.all (fun v => !(v.grid == g && v.ref.own == own)) && m.reports.all fun r => !(r.grid == g && r.ref.own == own)

/-- The verge writes of a publication whose cells have not left the owner's block yet (R138). -/
def Member.unread (m : Member) (g : List Word) (own ms : Nat) : List Verge :=
  m.verges.filter fun v => v.grid == g && v.ref.own == own && v.ref.ms == ms && !v.started && !v.spilled

/-- The answer an untimed word needs is there. -/
def untimedReady (M : Mach) (m : Member) (st : Strm) (u : Untimed) : Bool :=
  match u.needs with
  | .ready => true
  | .refused _ => true
  | .acknowledged => !outstanding M m.ref st
  | .stack k => !M.hbm.any fun s => s.num == k && s.switching.isSome
  | .rows =>
    M.fetched.all fun f =>
      !(f.who == m.ref && (f.tag == 2 ^ 96 + st.num || f.tag == rowTag st || f.tag == probeTag st)) || f.code.isSome
  | .fetched tag => M.fetched.all fun f => !(f.who == m.ref && f.tag == tag) || f.code.isSome
  | .published g own ms _ => (m.unread g own ms).isEmpty
  | .vergeWrites g own => leaving m g own
  | _ => false

/-- The word is a SCADD with entries left. -/
def Untimed.scadds (u : Untimed) : Bool :=
  match u.needs, u.job with
  | .rows, _ => true
  | .stack _, .scadd _ => true
  | _, _ => false

/-- SCADD's next entries can be performed: their answers are in, and the word has issued, whatever its core does (R152, R257):
a switched-out member's SCADD runs to its end too. -/
def rowsReady (M : Mach) (m : Member) (st : Strm) : Bool :=
  (m.str st).untimed.any fun u => u.scadds && untimedReady M m st u

/-- UNTIMED_RESULT_LANDING: the result lands, the word traps, or its job is performed. A word whose block has come from
another device goes on in `landLate`. -/
def landUntimed (M : Mach) (r : MRef) (st : Strm) : Mach :=
  match M.member r with
  | none => M
  | some m =>
    match (m.str st).untimed with
    | none => M
    | some u =>
      if rowsReady M m st then syncCore (performJob M m st u) r
      else if !m.mayLand st || !untimedReady M m st u then M
      else
        match u.needs with
        | .refused i => unissue M m st u none i
        | .acknowledged =>
          match (m.str st).imprecise with
          | x :: _ => unissue M m st u (some (.refusal st x)) (impreciseTrap u.raw x)
          | [] => performJob M m st u
        | .stack _ => performJob M m st u
        | .fetched _ => M
        | _ => landResult M m st u

/-! ### Arrivals at this device -/

/-- A write or arrival of a verge write's region is in (R140). -/
def vergeOneIn (M : Mach) (v : VergeRef) (r : Nat) : Mach :=
  (M.updVerge v fun x =>
    { x with regions := x.regions.map fun p => if p.1 = r then (r, p.2 - 1) else p }).raise 1 (.vergeWriteComplete v)

/-- The arrival is of a discarded run of its command: the number it bears has been given again (R165, R166). -/
def discardedRun (M : Mach) (a : Arrival) : Bool :=
  match a.region, a.sender.cmd.bind M.cmd with
  | some (_, e), some c => c.epoch != some e
  | _, _ => false

/-- An arrival's sender learns that it is in: its command, or its count of tile sends. -/
def arrivalIn (M : Mach) (a : Arrival) : Mach :=
  let s := a.sender
  let M := if s.tsend then M.updMember s.m fun m => { m with tsends := m.tsends - 1 } else M
  let M :=
    match s.verge with
    | some (v, r, _) => vergeOneIn M v r
    | none => M
  match s.cmd with
  | some c => if discardedRun M a then M else cmdOneIn (lookupIn (copyIn M c s.taddr none) c s.taddr) c
  | none => M

/-- The arrival's sender learns that it was refused (R48): REFUSED, or KEY_MISMATCH as XLATE, which names the access kind
of TSEND or of an engine (R32). -/
def arrivalRefused (M : Mach) (a : Arrival) (code : Nat) (remote : Bool) : Mach :=
  let s := a.sender
  let x : Imprecise :=
    match s.cmd with
    | some c => Imprecise.command code s.taddr s.st c (commitOf M c s.taddr) s.num remote
    | none => Imprecise.posted code s.taddr s.st (if s.tsend then 1 else 6) s.num remote
  let r : Imprecise :=
    { x with aux := if code = 0x23 then s.taddr else x.aux, verge := s.verge.map fun v => (v.2.2, v.1.own) }
  let M := refuse M s.m s.st r
  let M :=
    match s.verge with
    | some (v, k, _) => M.updVerge v fun x => { x with regions := x.regions.filter fun p => p.1 != k }
    | none => M
  arrivalIn
    (match s.cmd with
      | some c => if discardedRun M a then M else copyIn M c s.taddr (some (impreciseTrap 0 r))
      | none => M) a

/-- ARRIVAL and ARRIVAL_RETRY: deliver an arrival on this device (R43, R45, R48). -/
def arriveHere (M : Mach) (a : Arrival) : Mach :=
  match deliver M a with
  | (M, .taken) => arrivalIn M a
  | (M, .again) => M.raise 64 (.arrivalRetry a)
  | (M, .unknown) => arrivalRefused M a 0x23 false

/-- R43. -/
def execArrival (a : Arrival) (s : State) : Host.Outcome State Fault Refusal := s.lift fun M => arriveHere M a

/-- R45. -/
def execArrivalRetry (a : Arrival) (s : State) : Host.Outcome State Fault Refusal := s.lift fun M => arriveHere M a

/-- R46: an abort at a tile still being filled. -/
def execAbortEvent (m : MRef) (tile : Nat) (s : State) : Host.Outcome State Fault Refusal :=
  s.lift fun M =>
    syncTags
      ((dropFilling M m tile).updMember m fun x =>
        match (x.tile tile).tag with
        | .empty => x.poison tile 2
        | .filling => x.poison tile 2
        | _ => x)
      m

/-- R166. -/
def execClosingNotice (m : MRef) (rank epoch : Nat) (s : State) : Host.Outcome State Fault Refusal :=
  s.lift fun M => noticeAt M m rank epoch

/-- R166. -/
def execRollback (m : MRef) (rank epoch : Nat) (s : State) : Host.Outcome State Fault Refusal :=
  s.lift fun M => rollbackAt M m rank epoch

/-- R156: a word that has waited 2^TLOG cycles raises WAIT_TIMEOUT, the kind of its wait in AUX. -/
def Wait.watched (w : Wait) : Bool :=
  match w.kind with
  | .slot => false
  | .untimed => false
  | .grid => false
  | _ => true

/-- A stream's ACQ at another device has waited to its limit: it is withdrawn, and times out where the home removes it
(R95, R156). -/
def acqTimeout (M : Mach) (x : Member) (st : Strm) : Mach :=
  match (x.str st).untimed with
  | some u =>
    match u.needs with
    | .acq _ limit none => if u.iss + limit ≤ x.now M && x.mayLand st then withdrawAcq M x.ref st true else M
    | _ => M
  | none => M

/-- R156. -/
def execWaitTimeout (m : MRef) (st : Strm) (s : State) : Host.Outcome State Fault Refusal :=
  s.lift fun M =>
    match M.member m with
    | none => M
    | some x =>
      match (x.str st).wait with
      | none => acqTimeout M x st
      | some w =>
        let now := x.now M
        if w.watched && w.granted.isNone && x.freeze = .none && w.since + w.limit ≤ now then
          let raw :=
            match fetch M x (x.str st).pc with
            | .ok r => r
            | .error _ => 0
          let x := x.settle now
          let x := x.updStr st fun s => s.unwait now
          endCycle
            (M.putMember { x with raised := x.raised ++ [(st, progTrap 0x15 raw (w64 w.kind.code))] }) m now
        else M

end Sys2Proof.Machine
end

