-- ==== Sys2Proof/Machine/Port.lean ====
section
/-!
DEFINITION. Receiving ports and routers: packets of the scale-up fabric (R414 to R427), admission (R27, R425),
acknowledgement and teardown (R422 to R424), FABCFG and port events (R415, R416).
-/

namespace Sys2Proof.Machine

/-! ### Arrivals that leave the device or the partition -/

/-- Code of a kind in packets (R418). -/
def arrivalKspec (a : Arrival) : BitVec 32 :=
  kspec (a.kind.num + a.scope.num <<< 2 + if a.poison then 1 <<< 5 else 0)

/-- Bits [47:0] of a tile address (R323). -/
def arrivalAddr (a : Arrival) : Nat := a.sector + a.tile <<< 16 + a.dst.rank <<< 28 + a.dst.ctx <<< 36

/-- Send an arrival to a member of a partition of a device: here, or as a packet (R48, R107); no core has a tile that a
packet could not name. -/
def sendArrival (M : Mach) (dev : DevRef) (a : Arrival) : Mach :=
  if dev = M.self && a.dst.part = a.sender.m.part then M.raise 1 (.arrival a)
  else if !mayRequest M a.sender.m.part then arrivalRefused M a 0x07 false
  else if 512 ≤ a.tile then arrivalRefused M a 0x23 false
  else
    let r : ConnRef := ⟨a.sender.m.part, dev, a.dst.part⟩
    sendOn M r
      (newPacket M r 3 (arrivalAddr a) (arrivalKspec a) (beat [w64 a.mask.toNat] ++ a.data ++ zeros (64 - a.data.length)))
      (.arrival a)

/-! ### Packets at a port -/

/-- A scope code of a packet. -/
def scopeOk (n : Nat) : Bool := n < 6

/-- KSPEC of a kind has no bit but those R418 gives it, and every code in it has a meaning; bit 15 of a QOP marks QOCTL
(assumption 7), KIND 3 of an OBJ a withdrawal (assumption 39). -/
def kspecOk (kind k : Nat) : Bool :=
  match kind with
  | 0 => k < 2 ^ 13
  | 1 => k < 2 ^ 16 && scopeOk (fld k 13 3)
  | 2 => k < 2 ^ 14 && 0x50 ≤ k % 256 && k % 256 ≤ 0x5B && scopeOk (fld k 11 3)
  | 3 => k < 2 ^ 6 && k % 4 ≠ 3 && scopeOk (fld k 2 3)
  | 4 =>
    k < 2 ^ 16 &&
      (if bitOf k 15 then !bitOf k 14 && fld k 0 14 < 3
       else scopeOk (fld k 11 3) && fld k 0 6 = 0 && (bitOf k 14 || !bitOf k 6))
  | 5 =>
    k < 2 ^ 31 && scopeOk (fld k 27 3) &&
      (if bitOf k 30 then fld k 0 27 = 0 else fld k 7 20 = 0 && (k % 4 = 0 || fld k 2 5 = 0))
  | 6 => k < 2 ^ 8 && ([0x00, 0x07, 0x08, 0x09, 0x0A, 0x21, 0x23, 0x24].contains k)
  | 7 => k < 4
  | _ => false

/-- A packet keeps the form R417 and R418 fix: every field within its width in the header, no reserved bit, a KIND that
stands, and the LEN of its kind. A response's LEN is held against its request too (`rspFits`). -/
def packetOk (p : Packet) : Bool :=
  let k := p.kspec.toNat
  let bytes := k % 2 ^ 13
  let sized := 1 ≤ bytes && bytes ≤ 4096
  let beats (n : Nat) : Bool := p.len == n && p.payload.length == 64 * n
  p.resvd == 0 && packetOfHeader (packetHeader p) p.payload == p && kspecOk p.kind k &&
  match p.kind with
  | 0 => sized && beats 0
  | 1 => sized && beats (ceilDiv (p.addr % 64 + bytes) 64)
  | 2 => beats 1
  | 3 => beats 2
  | 4 => beats 1
  | 5 => beats 1
  | 6 => beats p.len && (if k = 0 then 1 ≤ p.len && p.len ≤ 65 else p.len == 0)
  | 7 => beats 0
  | _ => false

/-- Beats of the answer with code 0 to a request (R418): those of its bytes for a read, else one. -/
def Origin.answerBeats : Origin → Nat
  | .load _ _ _ n addr => ceilDiv (addr % 64 + n) 64
  | .fetch _ _ _ _ _ addr n => ceilDiv (addr % 64 + n) 64
  | _ => 1

/-- A response with code 0 has the LEN its request gives it (R418). -/
def rspFits (c : Conn) (p : Packet) : Bool :=
  p.kind ≠ 6 || p.kspec.toNat % 256 ≠ 0 ||
    match c.asked.find? fun x => x.1 == p.addr % 2 ^ 32 with
    | some (_, o) => p.len == o.answerBeats
    | none => true

/-- Refuse or fail what a request was for (R31, R423). -/
def failOrigin (M : Mach) (o : Origin) (code : Nat) : Mach :=
  let tr (u : Untimed) : TrapInfo :=
    if code = 0x22 then ⟨0x22, true, u.raw, 0, [], false⟩
    else if code = 0x21 then eccTrap u.raw 0
    else ⟨0x20, true, u.raw, 0, [u.pva, 0, w64 (code + 7 <<< 8 + u.akind <<< 16 + 1 <<< 19), 0], false⟩
  match o with
  | .arrival a => arrivalRefused M a code true
  | .request m st id => failIf M m st (Answer.ofRequest id) tr
  | .queueOp op =>
    match op.issuer with
    | .stream m st => failAnswer M m st (.queueOp op.id) tr
    | _ => M
  | .load m slot _ _ _ =>
    match M.member m with
    | none => M
    | some x =>
      if h : slot < 32 then
        M.updMember m fun x =>
          x.updUntimed x.slots[slot].strm (fun u => u.needs == .slot && u.slot == some slot) fun u =>
            { u with needs := .refused (tr u) }
      else M
  | .fetch who tag _ dev peer addr n =>
    let hit (f : Fetch) : Bool :=
      f.who == who && f.tag == tag && f.dev == dev && f.peer == peer && f.addr == addr && f.n == n
    let wakes := (M.fetched.filter hit).filterMap fun f => f.wake
    let M := { M with fetched := updIf hit (fun f => { f with code := some code }) M.fetched }
    wakes.foldl (fun M e => M.raise 1 e) M
  | .store _ _ _ _ => refusePosted M o code true
  | .cmdWrite _ _ _ _ => refusePosted M o code true
  | .verge _ _ _ _ _ _ => refusePosted M o code true
  | .withdraw m st id _ => withdrawRefused M m st id
  | .bucket b => refuseExchange M b.cmd code true
  | .control | .reply => M

/-- A posted packet is acknowledged (R422). -/
def ackOrigin (M : Mach) (o : Origin) : Mach :=
  match o with
  | .arrival a => arrivalIn M a
  | .cmdWrite c _ pva _ => cmdOneIn (copyIn M c pva none) c
  | .verge v r _ _ _ _ => vergeOneIn M v r
  | _ => M

/-- Take a cumulative acknowledgement (R422). -/
def takeAck (M : Mach) (r : ConnRef) (ack : Nat) : Mach :=
  match M.conn r with
  | none => M
  | some c =>
    let done := c.unacked.filter fun u => seqBefore u.p.seq ack
    let M := M.setConn { c with unacked := c.unacked.filter fun u => !seqBefore u.p.seq ack }
    flushWaiting (settleSignals (done.foldl (fun M u => ackOrigin M u.origin) M)) r

/-- The tiles a connection is still filling are aborted (R46, R423). -/
def abortFilling (M : Mach) (c : Conn) : Mach := c.filling.foldl (fun M x => M.raise 1 (.abortEvent x.1 x.2)) M

/-- A connection's context is gone. -/
def dropConn (M : Mach) (r : ConnRef) : Mach := { M with conns := M.conns.filter fun x => x.ref != r }

/-- Tear a connection down (R423). -/
def teardown (M : Mach) (r : ConnRef) : Mach :=
  match M.conn r with
  | none => M
  | some c =>
    let M := dropConn M r
    let M := c.asked.foldl (fun M x => failOrigin M x.2 0x22) M
    let posted := (c.unacked.map fun u => u.origin) ++ c.waiting.map fun w => w.2
    let M := posted.foldl (fun M o => if o.awaits then M else failOrigin M o 0x22) M
    let M := (c.waiting.filter fun w => w.2.awaits).foldl (fun M w => failOrigin M w.2 0x22) M
    let M := c.resend.foldl (fun M x => failOrigin M (.arrival x.2) 0x22) M
    settleSignals (abortFilling M c)

/-- The CLOSE of a connection is acknowledged, or given up: a later packet of the pair opens a new one (R423). -/
def endClose (M : Mach) (r : ConnRef) : Mach :=
  match M.conn r with
  | none => M
  | some c => if c.waiting.isEmpty then dropConn M r else openFor (dropConn M r) r c.waiting

/-- A side that tears a connection down tells the other with CTRL CLOSE (R423), the last packet of its direction: it takes
its SEQ and stays until it is acknowledged (R422). -/
def teardownHere (M : Mach) (r : ConnRef) : Mach :=
  match M.conn r with
  | none => M
  | some c =>
    if c.state = .closed then endClose M r
    else
      transmit (teardown M r) { Conn.fresh r .closed with nextSeq := c.nextSeq, expect := c.expect }
        (newPacket M r 7 0 (kspec 2) []) .control

/-- An OPEN that comes when a connection has been silent for 2^18 cycles opens a new one: the CLOSE of the old one was lost,
and no packet of it can still be on its way (R423; assumption 16). -/
def Conn.stale (c : Conn) (M : Mach) : Bool := c.state ≠ .closed && decide (c.expect ≠ 0 ∧ c.last + 2 ^ 18 ≤ M.wclk)

/-- The context an arriving OPEN finds: a new one where there was none, or only a closed or a stale one. -/
def openHere (M : Mach) (r : ConnRef) : Mach :=
  match M.conn r with
  | none => M.setConn (Conn.fresh r .open)
  | some c =>
    if c.state = .closed then M.setConn { Conn.fresh r .open with waiting := c.waiting }
    else if c.stale M then (teardown M r).setConn (Conn.fresh r .open)
    else M

/-- R27's checks on a RD, WR, ATOM, QOP or OBJ packet (R425): the local pieces it reaches, or the code of its refusal. -/
def packetReach (M : Mach) (p : Packet) : Except Nat (List (Nat × Nat)) :=
  let k := p.kspec.toNat
  match p.kind with
  | 0 => admission M p.dprt (packetPort p) p.key .r .read p.addr (k % 2 ^ 13)
  | 1 => admission M p.dprt (packetPort p) p.key .w .write p.addr (k % 2 ^ 13)
  | 2 => admission M p.dprt (packetPort p) p.key .a .atomic p.addr (if bitOf k 8 then 8 else 4)
  | 4 =>
    admission M p.dprt (packetPort p) p.key .q
      (if bitOf k 15 then .atomic else if bitOf k 14 then .queuePop else .queuePush) p.addr 64
  | _ => admission M p.dprt (packetPort p) p.key .a .atomic p.addr 16

/-- A request goes to a stack that switches its mode: it waits, and the packets behind it (R74). -/
def packetHeld (M : Mach) (p : Packet) : Bool :=
  ([0, 1, 2, 4, 5].contains p.kind) &&
    match packetReach M p with
    | .ok ps => ps.any fun x => (M.switchingAt x.1).isSome
    | .error _ => false

/-- What a packet does once it is its turn. -/
abbrev Apply := Mach → ConnRef → Mach

/-- The connection a packet comes on, as its receiver names it. -/
def packetConn (p : Packet) : ConnRef := ⟨p.dprt, p.src, p.sprt⟩

/-- A CTRL ACK only is taken once every packet sent before it is in (R422; assumption 16). On a closed connection it may be
the acknowledgement of the CLOSE. -/
def takeAckOnly (M : Mach) (c : Conn) (p : Packet) : Mach :=
  if seqBefore c.expect p.seq then M
  else
    let M := takeAck M c.ref p.ack
    match M.conn c.ref with
    | some c => if c.state = .closed && c.unacked.isEmpty then endClose M c.ref else M
    | none => M

/-- A packet at this device: forwarded with one more hop taken, dropped where its form is not the one `ok` says, held for its
turn, or applied (R417, R419, R422). -/
def receiveAs (M : Mach) (ok : Bool) (p : Packet) (apply : Apply) : Mach :=
  if p.dst ≠ M.self then route M { p with hops := p.hops + 1 }
  else if !ok then M.logDev (0xF000 + p.sprt) p.addr
  else
    let r : ConnRef := packetConn p
    let M := if p.kind == 7 && p.kspec.toNat % 16 == 0 && p.seq == 0 then openHere M r else M
    match M.conn r with
    | none => M
    | some c =>
      if !rspFits c p then M.logDev (0xF000 + p.sprt) p.addr
      else
      let M : Mach := M.setConn { c with last := M.wclk }
      if p.kind = 7 && p.kspec.toNat % 16 = 3 then takeAckOnly M c p
      else if c.state = .closed then M
      else if p.seq = c.expect && packetHeld M p then M.raise 16 (packetEvent p)
      else if p.seq = c.expect then
        let c : Conn := { c with expect := seqNext c.expect, last := M.wclk }
        let M := M.setConn { c with early := c.early.filter fun q => q.seq != c.expect }
        let M := apply M r
        let M := takeAck M r p.ack
        let M := M.raise 256 (.ackIdleTimeout r)
        match c.early.find? fun q => q.seq == c.expect with
        | some q => M.raise 0 (packetEvent q)
        | none => M
      else if seqBefore c.expect p.seq && !c.early.any (fun q => q.seq == p.seq) then
        M.setConn { c with early := c.early ++ [p], last := M.wclk }
      else if seqBefore p.seq c.expect then
        -- a duplicate: it is not performed again, and the acknowledgement that was lost is due once more
        (M.setConn { c with acked := p.seq, last := M.wclk }).raise 256 (.ackIdleTimeout r)
      else M

/-- A packet of R418. -/
def receive (M : Mach) (p : Packet) (apply : Apply) : Mach := receiveAs M (packetOk p) p apply

/-! ### Requests at their home (R425) -/

/-- RD. -/
def homeRd (p : Packet) : Apply := fun M r =>
  match packetReach M p with
  | .error code => respond M r p.seq code []
  | .ok ps =>
    match homePoison M ps with
    | some _ => respond M r p.seq 0x21 []
    | none => respond M r p.seq 0 (wrPayload p.addr (homeBytes M ps))

/-- WR. -/
def homeWr (p : Packet) : Apply := fun M r =>
  let n := p.kspec.toNat % 2 ^ 13
  match packetReach M p with
  | .error code => respond M r p.seq code []
  | .ok ps => homeWrite M ps (wrBytes p.addr n p.payload)

/-- ATOM. -/
def homeAtomPkt (p : Packet) : Apply := fun M r =>
  let op := p.kspec.toNat % 256
  let w := p.kspec.getLsbD 8
  let ws := wordsOf 2 p.payload
  match packetReach M p with
  | .error code => respond M r p.seq code []
  | .ok ((pa, n) :: _) =>
    if M.poisoned pa n then respond M r p.seq 0x21 []
    else
      let (M, old) := homeAtom M pa op w (recW ws 0) (recW ws 1)
      respond M r p.seq 0 (beat [w64 old])
  | .ok [] => M

/-- Kind of an arrival packet. -/
def kindOf (n : Nat) : CType :=
  match n with
  | 0 => .plain
  | 1 => .i32
  | _ => .rn3

/-- Scope of a code. -/
def scopeOf (n : Nat) : Scope :=
  match n with
  | 0 => .stream | 1 => .core | 2 => .quad | 3 => .die | 4 => .pkg | _ => .pod

/-- The arrival an ARRIVE packet carries (R418). -/
def packetArrival (r : ConnRef) (p : Packet) : Arrival :=
  let k := p.kspec.toNat
  { dst := ⟨p.dprt, fld p.addr 36 12, fld p.addr 28 8⟩
    tile := fld p.addr 16 9
    sector := fld p.addr 0 7
    kind := kindOf (k % 4)
    poison := bitOf k 5
    scope := scopeOf (fld k 2 3)
    mask := BitVec.ofNat 64 (leNat (p.payload.take 8))
    data := (p.payload.drop 64).take 64
    region := none
    sender := ⟨⟨8, 0, 0⟩, .c, none, false, 0, none, some r, 0⟩ }

/-- ARRIVE: check 1 of R27 alone (R425). -/
def homeArrive (p : Packet) : Apply := fun M r =>
  if !keyOk M p.dprt p.key then respond M r p.seq 0x07 []
  else
    match deliver M (packetArrival r p) with
    | (M, .taken) => M
    | (M, .again) => respond M r p.seq 0x24 []
    | (M, .unknown) => respond M r p.seq 0x23 []

/-- The queue operation of this device that a QOP packet of its own carries, back to this device (R121). -/
def ownOp (M : Mach) (p : Packet) : Option QOp :=
  if p.src = M.self then
    (M.conn ⟨p.sprt, p.dst, p.dprt⟩).bind fun c =>
      (c.asked.find? fun x => x.1 == p.seq).bind fun x =>
        match x.2 with
        | .queueOp op => some op
        | _ => none
  else none

/-- The queue operation a QOP packet carries (R418, R343). The packet has no field for the window its issuer's partition
gave it when it left (R120): of one from another device it is a free number (assumption 40). -/
def packetOp (M : Mach) (p : Packet) : QOp :=
  let k := p.kspec.toNat
  let ws := wordsOf 2 p.payload
  let form : QForm :=
    if !bitOf k 14 then .push (pairPayload (ws.getD 0 0) (ws.getD 1 0)) else if bitOf k 6 then .popW else .popN
  let args : QArgs := ⟨scopeOf (fld k 11 3), BitVec.ofNat 3 (fld k 8 3), if bitOf k 7 then .stack else .bag⟩
  let own := ownOp M p
  let w := (own.map QOp.window).getD (Config.freeNat M.free % 1024)
  let from_ := if own.isSome then p.sprt else remoteIssuer p.src p.sprt
  ⟨M.nextId, form, p.dprt, p.addr, from_, args, .remote p.src p.sprt p.seq, w, w, []⟩

/-- QOP: admitted, then through the home device's junctions (R121); bit 15 of KSPEC marks QOCTL (log 7). -/
def homeQop (p : Packet) : Apply := fun M r =>
  let k := p.kspec.toNat
  let ctl := bitOf k 15
  match packetReach M p with
  | .error code => respond M r p.seq code []
  | .ok ((pa, _) :: _) =>
    if M.poisoned pa 64 then respond M r p.seq 0x21 []
    else if ctl then
      let fn : QFn :=
        match fld k 0 2 with
        | 0 => .en
        | 1 => .dis
        | _ => .cnt
      match homeCtl M p.dprt pa p.addr fn with
      | .ok (M, v) => respond M r p.seq 0 (beat [v, 0])
      | .error cause => respond M r p.seq 0 (beat [0, w64 cause])
    else
      let op := packetOp M p
      arriveAt { M with nextId := M.nextId + 1, free := M.free + 1 } { op with route := farRoute ((paDie pa).getD 0) }
  | .ok [] => M

/-- The ACQ an OBJ packet asks for. -/
def packetAcq (p : Packet) : AcqKind :=
  match fld p.kspec.toNat 0 2 with
  | 0 => .ge (leNat (p.payload.take 8))
  | 1 => .nw
  | _ => .x

/-- A withdrawal that was let in, at the home: the waiting request it names by its SEQ and its address is removed, and beat
word 1 says whether one was (R259, assumption 39). -/
def homeWithdraw (p : Packet) : Apply := fun M r =>
  match M.conn r with
  | none => M
  | some c =>
    let seq := leNat (p.payload.take 8)
    let named (x : Nat × Packet) : Bool := x.1 == seq && x.2.addr == p.addr
    respond (M.setConn { c with serving := c.serving.filter fun x => !named x }) r p.seq 0 (beat [0, w01 (c.serving.any named)])

/-- OBJ: an ACQ that waits is kept, and is tested again by its own event (R95, R422). -/
def homeObj (p : Packet) : Apply := fun M r =>
  let holder := leNat ((p.payload.drop 8).take 8)
  match packetReach M p with
  | .error code => respond M r p.seq code []
  | .ok ((pa, _) :: _) =>
    if p.kspec.toNat % 4 = 3 && !bitOf p.kspec.toNat 30 then homeWithdraw p M r
    else if M.poisoned pa 16 then respond M r p.seq 0x21 []
    else
      match (if bitOf p.kspec.toNat 30 then homeRel M pa holder else homeAcq M pa holder (packetAcq p)) with
      | .version M v => respond M r p.seq 0 (beat [v, 0])
      | .trap cause => respond M r p.seq 0 (beat [0, w64 cause])
      | .waits =>
        match M.conn r with
        | some c => M.setConn { c with serving := c.serving.filter (fun x => x.1 != p.seq) ++ [(p.seq, p)] }
        | none => M
  | .ok [] => M

/-- An OBJ packet that waits at the home is tested again. -/
def retestObj (M : Mach) (p : Packet) : Option Mach :=
  let r : ConnRef := packetConn p
  match M.conn r with
  | none => none
  | some c =>
    if c.serving.any fun x => x.2 == p then
      some (if packetHeld M p then M.raise 16 (.obj p) else homeObj p (M.setConn { c with serving := c.serving.filter fun x => x.2 != p }) r)
    else none

/-! ### Responses (R422) -/

/-- Put n bytes into a number of 16 bytes at an offset. -/
def putBytes (old off : Nat) (bs : List Byte) : Nat := putFld old (8 * off) (8 * bs.length) (leNat bs)

/-- What a request's answer with code 0 gives. -/
def answerOrigin (M : Mach) (o : Origin) (pl : List Byte) : Mach :=
  let ws := wordsOf 4 pl
  match o with
  | .request m st id =>
    if recW ws 1 = 0 then
      answerIf M m st (Answer.ofRequest id) fun u => { u with writes := fillWrites u.writes [ws.getD 0 0] }
    else
      failIf M m st (Answer.ofRequest id) fun u =>
        if recW ws 1 = 0x13 then illOpnd u.raw else progTrap (recW ws 1) u.raw u.pva
  | .queueOp op =>
    if recW ws 3 = 0 then
      replyOp M op (.status (fld (recW ws 0) 8 3) (fld (recW ws 0) 0 4) (pairPayload (ws.getD 1 0) (ws.getD 2 0)))
    else replyOp M op (.trap (recW ws 3))
  | .load m slot off n addr =>
    match M.member m with
    | none => M
    | some x =>
      if h : slot < 32 then
        let l := x.slots[slot]
        let l :=
          { l with
            data := BitVec.ofNat 128 (putBytes l.data.toNat off (wrBytes addr n pl))
            req := l.req - 1 }
        let M := M.putMember (x.setSlot slot l)
        if l.req = 0 then M.raise 0 (.dataLanding m slot) else M
      else M
  | .fetch who tag _ dev peer addr n =>
    let hit (f : Fetch) : Bool :=
      f.who == who && f.tag == tag && f.dev == dev && f.peer == peer && f.addr == addr && f.n == n
    let wakes := (M.fetched.filter hit).filterMap fun f => f.wake
    let M :=
      { M with fetched := updIf hit (fun f => { f with code := some 0, bytes := wrBytes addr n pl }) M.fetched }
    wakes.foldl (fun M e => M.raise 1 e) M
  | .withdraw m st id seq => if recW ws 1 = 0 then M else acqRemoved M m st id seq
  | _ => M

/-- RSP: the answer of a request, or the refusal of a posted packet. -/
def takeRsp (p : Packet) : Apply := fun M r =>
  let seq := p.addr % 2 ^ 32
  let code := p.kspec.toNat % 256
  match M.conn r with
  | none => M
  | some c =>
    match c.asked.find? fun x => x.1 == seq with
    | some (_, o) =>
      let M := M.setConn { c with asked := c.asked.filter fun x => x.1 != seq }
      if code = 0 then answerOrigin M o p.payload else failOrigin M o code
    | none =>
      match c.unacked.find? fun u => u.p.seq == seq with
      | none => M
      | some u =>
        if code = 0 then M
        else
          let c := { c with unacked := c.unacked.filter fun x => x.p.seq != seq }
          match code, u.origin with
          | 0x24, .arrival a => (M.setConn { c with resend := c.resend ++ [(seq, a)] }).raise 64 (.arrivalResend r seq)
          | _, o => settleSignals (failOrigin (M.setConn c) o code)

/-! ### Events -/

/-- R425. -/
def execRd (p : Packet) (s : State) : Host.Outcome State Fault Refusal := s.lift fun M => receive M p (homeRd p)

/-- R425. -/
def execWr (p : Packet) (s : State) : Host.Outcome State Fault Refusal := s.lift fun M => receive M p (homeWr p)

/-- R425. -/
def execAtom (p : Packet) (s : State) : Host.Outcome State Fault Refusal := s.lift fun M => receive M p (homeAtomPkt p)

/-- R424. -/
def execArrive (p : Packet) (s : State) : Host.Outcome State Fault Refusal := s.lift fun M => receive M p (homeArrive p)

/-- R425. -/
def execQop (p : Packet) (s : State) : Host.Outcome State Fault Refusal := s.lift fun M => receive M p (homeQop p)

/-- R425; a waiting ACQ of this packet is tested again instead (R95). -/
def execObj (p : Packet) (s : State) : Host.Outcome State Fault Refusal :=
  s.lift fun M =>
    match retestObj M p with
    | some M => M
    | none => receive M p (homeObj p)

/-- R422. -/
def execRsp (p : Packet) (s : State) : Host.Outcome State Fault Refusal := s.lift fun M => receive M p (takeRsp p)

/-- R420: it is answered by OPENACK; packets that waited for a CLOSE leave after it. -/
def execOpenConn (p : Packet) (s : State) : Host.Outcome State Fault Refusal :=
  s.lift fun M =>
    receive M p fun M r =>
      match M.conn r with
      | some c => flushWaiting (transmit M c (newPacket M r 7 0 (kspec 1) []) .control) r
      | none => M

/-- R420: packets that waited leave. -/
def execOpenack (p : Packet) (s : State) : Host.Outcome State Fault Refusal :=
  s.lift fun M =>
    receive M p fun M r =>
      match M.conn r with
      | some c => flushWaiting (M.setConn { c with state := .open }) r
      | none => M

/-- The acknowledgement of a CLOSE: a CTRL ACK only that passes its SEQ (R422). -/
def ackClose (M : Mach) (p : Packet) : Mach :=
  route M { newPacket M (packetConn p) 7 0 (kspec 3) [] with seq := p.ack, ack := seqNext p.seq }

/-- R423: CLOSE acts in its turn, and is acknowledged. One that comes again while packets before it are missing acts then: its
sender no longer sends them (assumption 16). -/
def execClose (p : Packet) (s : State) : Host.Outcome State Fault Refusal :=
  s.lift fun M =>
    if p.dst ≠ M.self then route M { p with hops := p.hops + 1 }
    else if !packetOk p then M.logDev (0xF000 + p.sprt) p.addr
    else
      match M.conn (packetConn p) with
      | none => ackClose M p
      | some c =>
        if c.state = .closed || seqBefore p.seq c.expect then ackClose M p
        else if p.seq = c.expect || c.early.any fun q => q.seq == p.seq then teardown (ackClose M p) (packetConn p)
        else M.setConn { c with early := c.early ++ [p], last := M.wclk }

/-- R422. -/
def execAckOnly (p : Packet) (s : State) : Host.Outcome State Fault Refusal :=
  s.lift fun M => receive M p fun M _ => M

/-- R422: a side with nothing to send acknowledges alone. -/
def execAckIdleTimeout (c : ConnRef) (s : State) : Host.Outcome State Fault Refusal :=
  s.lift fun M =>
    match M.conn c with
    | some k =>
      if k.acked ≠ k.ackNo M then sendAck M k
      else if k.acked ≠ k.expect then M.raise 256 (.ackIdleTimeout c)
      else M
    | none => M

/-- R423. -/
def execRetransmitTimeout (c : ConnRef) (seq : Nat) (s : State) : Host.Outcome State Fault Refusal :=
  s.lift fun M =>
    match M.conn c with
    | none => M
    | some k =>
      match k.unacked.find? fun u => u.p.seq == seq with
      | none => M
      | some u =>
        if 64 ≤ u.tries then M.raise 1 (.teardown c)
        else
          let p := { u.p with ack := k.ackNo M }
          let k :=
            { k with
              acked := k.ackNo M
              unacked := updIf (fun x => x.p.seq == seq) (fun x => { x with p := p, tries := x.tries + 1 }) k.unacked }
          route ((M.setConn k).raise 16384 (.retransmitTimeout c seq)) p

/-- R423. -/
def execTeardown (c : ConnRef) (s : State) : Host.Outcome State Fault Refusal := s.lift fun M => teardownHere M c

/-- R423: tiles still being filled after 2^26 cycles without a packet are aborted. -/
def execFillingIdleTimeout (c : ConnRef) (s : State) : Host.Outcome State Fault Refusal :=
  s.lift fun M =>
    match M.conn c with
    | none => M
    | some k =>
      if k.filling.isEmpty then M
      else if M.wclk < k.last + 2 ^ 26 then M.raise (k.last + 2 ^ 26 - M.wclk) (.fillingIdleTimeout c)
      else abortFilling (M.setConn { k with filling := [] }) k

/-- R424: the arrival goes out again with a new SEQ. -/
def execArrivalResend (c : ConnRef) (seq : Nat) (s : State) : Host.Outcome State Fault Refusal :=
  s.lift fun M =>
    match M.conn c with
    | none => M
    | some k =>
      match k.resend.find? fun x => x.1 == seq with
      | none => M
      | some (_, a) =>
        let M := sendArrival (M.setConn { k with resend := k.resend.filter fun x => x.1 != seq }) c.dev a
        settleSignals (moveMarks M c seq)

/-- R419: a packet that found no permitted port is dropped. -/
def execRouterWaitExpiry (p : Packet) (s : State) : Host.Outcome State Fault Refusal :=
  s.lift fun M => if (permittedPorts M p).isEmpty then { M with transit := dropFirst (fun x => x == p) M.transit } else M

/-- The next period boundary of a partition is due when something waits for it (R392, R394). -/
def needPeriod (M : Mach) (part : Nat) : Mach :=
  let waiting :=
    M.pending.any fun d =>
      match d.ev with
      | .periodBoundary q => q == part
      | _ => false
  match M.part part with
  | some p =>
    let period := max 1 (wf p.schcfg 0 17)
    if waiting then M else M.raise (period - M.wclk % period) (.periodBoundary part)
  | none => M

/-- The partition's budget for an Ultra Ethernet port is spent (R393). -/
def Part.ueSpent (p : Part) (port : Nat) : Bool :=
  wf p.budg0 32 32 ≠ 0 && decide (wf p.budg0 32 32 ≤ (aGet p.ueUsed port).getD 0)

/-- Charge units of 64 bytes to an Ultra Ethernet port of a partition (R428). -/
def chargeUe (M : Mach) (part port n : Nat) : Mach :=
  needPeriod (M.updPart part fun p => { p with ueUsed := aSet p.ueUsed port ((aGet p.ueUsed port).getD 0 + n) }) part

/-- Units of a message of partials. -/
def Returned.units (x : Returned) : Nat :=
  let bytes :=
    match x.answer with
    | .partials ps => (ps.map fun p => 16 + 4 * p.row.length).sum
    | .refused _ => 0
  ceilDiv (32 + bytes) 64

/-- Partials leave for another device by the owner's lowest Ultra Ethernet port with budget left, or wait for the next period
(R428, R394); which of the eight ports takes them is the model's choice (assumption 26). -/
def returnPartials (M : Mach) (x : Returned) : Mach :=
  match M.part x.part with
  | none => M
  | some p =>
    match (List.range 8).find? fun k => !p.ueSpent k with
    | some k => chargeUe { M with ueBack := M.ueBack ++ [x] } p.id k x.units
    | none =>
      if p.schcfg.getLsbD 48 then { M with ueBack := M.ueBack ++ [x] }
      else needPeriod { M with ueHeld := M.ueHeld ++ [x] } p.id

/-- Partials that waited for a partition's next period are tried again. -/
def flushReturned (M : Mach) (part : Nat) : Mach :=
  (M.ueHeld.filter fun x => x.part == part).foldl returnPartials
    { M with ueHeld := M.ueHeld.filter fun x => x.part != part }

/-- Charge a packet that leaves its own device (R426). -/
def chargeLink (M : Mach) (p : Packet) (port : Nat) : Mach :=
  if p.src = M.self then
    M.updPart p.sprt fun q =>
      { q with lnkUsed := aSet q.lnkUsed port ((aGet q.lnkUsed port).getD 0 + packetUnits p) }
  else M

/-- The partition's link budget for the port is spent (R393, R394). -/
def linkSpent (M : Mach) (p : Packet) (port : Nat) : Bool :=
  p.src == M.self &&
    match M.part p.sprt with
    | some q => wf q.budg0 0 32 ≠ 0 && decide (wf q.budg0 0 32 ≤ (aGet q.lnkUsed port).getD 0)
    | none => false

/-- SLACK lends the partition the port (R394): no partition with budget left for it has a packet that waits for it. -/
def linkLent (M : Mach) (p : Packet) (port : Nat) : Bool :=
  ((M.part p.sprt).any fun q => q.schcfg.getLsbD 48) &&
    !M.transit.any fun x =>
      x.src == M.self && x.sprt != p.sprt && (permittedPorts M x).contains port && !linkSpent M x port

/-- A packet in transit from another device waits for the port: it goes ahead of this device's own (R426). -/
def transitFirst (M : Mach) (p : Packet) (port : Nat) : Bool :=
  p.src == M.self && M.transit.any fun x => x.src != M.self && (permittedPorts M x).head? == some port

/-- Partitions of this device with a packet for a port which their budget lets leave; `p` stands for its own. -/
def injectors (M : Mach) (p : Packet) (port : Nat) : List Nat :=
  (M.transit.filter fun x =>
    x.src == M.self && (x == p || (permittedPorts M x).head? == some port) && (!linkSpent M x port || linkLent M x port)).map
      (·.sprt)

/-- The partition whose turn it is at a port: round-robin among local injections (R426). -/
def injectNext (M : Mach) (p : Packet) (port : Nat) : Option Nat :=
  leastBy (fun q => (q + 7 - (aGet M.injTurn port).getD 7) % 8) (injectors M p port)

/-- R419, R426: a packet leaves by a permitted port. -/
def execPacketForward (p : Packet) (port : Nat) (s : State) : Host.Outcome State Fault Refusal :=
  s.lift fun M =>
    if !M.transit.contains p || !(permittedPorts M p).contains port then M
    else if transitFirst M p port then M.raise 1 (.packetForward p port)
    else if linkSpent M p port && !linkLent M p port then
      let period := ((M.part p.sprt).map fun q => wf q.schcfg 0 17).getD 4096
      (needPeriod M p.sprt).raise (max 1 period) (.packetForward p port)
    else if p.src = M.self && injectNext M p port ≠ some p.sprt then M.raise 1 (.packetForward p port)
    else
      let M := if linkSpent M p port then M else chargeLink M p port
      let M := if p.src = M.self then needPeriod M p.sprt else M
      { M with
        transit := dropFirst (fun x => x == p) M.transit
        injTurn := if p.src = M.self then aSet M.injTurn port p.sprt else M.injTurn
        sent := M.sent ++ [p] }

/-- Packets in transit look for a port again. -/
def rerouteAll (M : Mach) : Mach :=
  M.transit.foldl
    (fun M p =>
      match permittedPorts M p with
      | q :: _ => M.raise 1 (.packetForward p q)
      | [] => M.raise 65536 (.routerWaitExpiry p))
    M

/-- R415: a port comes up when both lanes train and the far end agrees on the pod and its own place. -/
def execPortTraining (port : Nat) (lanes : Bool) (rowsM1 colsM1 : Nat) (peer : DevRef) (s : State) :
    Host.Outcome State Fault Refusal :=
  s.lift fun M =>
    let want := portPeer M.self port
    let inside := want.row < podRows M && want.col < podCols M
    if 62 ≤ port || !inside || !lanes then M
    else if rowsM1 + 1 = podRows M && colsM1 + 1 = podCols M && peer = want then
      rerouteAll { M with trained := true, portup := insertNat port M.portup }
    else { M with trained := true, portup := M.portup.filter fun q => q != port }.logDev (0xF000 + port) (peer.row * 32 + peer.col)

/-- R416: the port goes down and routing avoids it. -/
def execLinkReplayFailure (port : Nat) (s : State) : Host.Outcome State Fault Refusal :=
  s.lift fun M => rerouteAll { M with portup := M.portup.filter fun q => q != port }

/-- A write of FABCFG: only the firmware's, and only before any port trains (R415). -/
def fabcfgPut (M : Mach) (ag : RegAgent) (v : Word) : Mach :=
  let w := v &&& 0x000000FFFFF30100
  let bad := wf v 25 5 > wf v 35 5 || wf v 20 5 > wf v 30 5 || 2 ≤ wf v 16 2
  if ag ≠ .fw || M.trained || bad then M.logDev 0xF100 v.toNat
  else
    let M := { M with fabcfg := w }
    if w = v then M else M.logDev 0xF100 v.toNat

/-- R415. -/
def execFabcfgWrite (ag : RegAgent) (v : Word) (s : State) : Host.Outcome State Fault Refusal :=
  s.lift fun M => fabcfgPut M ag v

end Sys2Proof.Machine
end

