-- ==== Sys2Proof/Machine/Sched.lean ====
section
/-!
DEFINITION. Tasks, distributors, dispatch and retirement of iterations (R145, R379 to R391), creation and removal of
contexts (R376 to R378, R50), the end of an iteration and of a context (R401, R402).
-/

namespace Sys2Proof.Machine

/-! ### Memory as the device reaches it -/

/-- A command processor's name in requests of its queue q. -/
def cpRef (part q : Nat) : MRef := ⟨part, 4096 + q, 0⟩

/-- The master distributor's name in requests. -/
def masterRef (part : Nat) : MRef := ⟨part, 8192, 0⟩

/-- Raise an event unless the same is already raised. -/
def raiseOnce (M : Mach) (d : Nat) (e : Event) : Mach :=
  if M.pending.any fun x => x.ev == e then M else M.raise d e

/-- Translate a span of the device for a partition, with the refusal of R8 for a remote one that waits for its answer. -/
def devSpan (M : Mach) (part : Nat) (k : AKind) (pva : Word) (n : Nat) :
    Except XFault (Mach × List (Target × Nat)) :=
  match dieSpan M part part k pva n with
  | .error f => .error f
  | .ok (M, ts) =>
    if remotePieces ts ≠ 0 && !k.posted && !mayRequest M part then .error (keyFault pva) else .ok (M, ts)

/-- Read at the homes for a command processor or distributor. -/
def devReadAny (M : Mach) (part : Nat) (who : MRef) (tag : Nat) (wake : Option Event) (pva : Word) (n : Nat) : ReadEnd :=
  match devSpan M part .engineRead pva n with
  | .error f => .fault f
  | .ok (M, ts) => readPieces M who tag wake pva ts

/-- Store at the homes for a command processor or distributor; remote pieces are posted. -/
def devStore (M : Mach) (part : Nat) (who : MRef) (pva : Word) (bs : List Byte) : Except XFault Mach :=
  match devSpan M part .engineWrite pva bs.length with
  | .error f => .error f
  | .ok (M, ts) => .ok (writePieces M who .c none pva ts bs)

/-! ### Task control blocks (R379) -/

/-- The words of a record of n words, when it can be read. -/
def recRead (M : Mach) (part n : Nat) (pva : Nat) : Option (List Word) :=
  match devRead M part part .engineRead (w64 pva) (8 * n) with
  | .ok (_, bs) => some (wordsOf n bs)
  | .error _ => none

/-- A TCB's sixteen words. -/
def tcbRead (M : Mach) (part tcb : Nat) : Option (List Word) := recRead M part 16 tcb

/-- STATE of a control word. -/
def tcbState (w : Nat) : Nat := fld w 40 3

/-- Write a control word at its home. -/
def tcbPut (M : Mach) (part tcb w : Nat) : Mach :=
  match devWrite M part part .engineWrite (w64 tcb) (leBytes 8 w) with
  | .ok M => M
  | .error _ => M

/-- Successors: inline, then overflow (R391). -/
def successors (M : Mach) (part : Nat) (r : List Word) : List Nat :=
  let inl := (List.range (min 8 (fld (recW r 0) 16 4))).map fun i => recW r (8 + i)
  let n := fld (recW r 0) 48 16
  match (if n = 0 then some [] else recRead M part n (recW r 6)) with
  | some ws => inl ++ ws.map BitVec.toNat
  | none => inl

/-- Write the completion word: a STREL at its home (R110, R391). -/
def writeCompletion (M : Mach) (part : Nat) (r : List Word) (v : Nat) : Mach :=
  match devStore M part (masterRef part) (w64 (recW r 4)) (leBytes 8 v) with
  | .ok M => M
  | .error _ => M.logPart part 0xFF 0 (w64 (recW r 4))

/-! ### Cards (R385, R386) -/

/-- The ready time of now. -/
def Mach.cardTime (M : Mach) : Nat := fld M.wclk 10 32

/-- A job card. -/
def jobCard (M : Mach) (tcb prio : Nat) : BitVec 128 := BitVec.ofNat 128 (tcb + prio <<< 56 + M.cardTime <<< 64)

/-- Live dies of a partition, rising. -/
def liveOf (M : Mach) (p : Part) : List Nat := (List.range p.dies).filterMap fun i =>
  if M.liveDies.contains (p.id + i) then some (p.id + i) else none

/-- The master distributor's die (R387). -/
def masterDie (M : Mach) (p : Part) : Nat := (liveOf M p).headD p.id

/-- A queue operation is the pop of a distributor on an object. -/
def isPopOf (part die prio : Nat) (op : QOp) : Bool := op.issuer == .dist part die prio && !op.isPush

/-- The pop of a distributor on an object is outstanding. -/
def popOut (M : Mach) (part die prio : Nat) : Bool :=
  let mine := isPopOf part die prio
  M.held.any (fun h => mine h.op) || M.parked.any (fun h => mine h.op) ||
    M.pending.any fun d =>
      match d.ev with
      | .junctionHold op => mine op
      | .queueHomeService op => mine op
      | .junctionPair x y => mine x || mine y
      | _ => false

/-- Every live die keeps one pop outstanding on each of the eight objects, while the active table has room (R386). -/
def ensurePops (M : Mach) (part : Nat) : Mach :=
  match M.part part with
  | none => M
  | some p =>
    if 64 ≤ p.tasks.length then M
    else
      (liveOf M p).foldl
        (fun M die => (List.range 8).foldl (fun M k => if popOut M part die k then M else distPop M part die k) M) M

/-- The distributors of a partition look for work. -/
def dispatchAll (M : Mach) (part : Nat) : Mach :=
  match M.part part with
  | none => M
  | some p => (liveOf M p).foldl (fun M d => raiseOnce M 1 (.chunkDispatch part d)) M

/-- Publish the card of a task that has become ready (R380, R381). -/
def publishCard (M : Mach) (part tcb w : Nat) (die : Option Nat) : Mach :=
  pushCard M part (fld w 20 3) (jobCard M tcb (fld w 20 3)) die

/-! ### Finishing tasks (R381, R382, R391) -/

/-- A task is finished: no list holds it any more. -/
def finishTask (M : Mach) (part tcb : Nat) : Mach :=
  let M :=
    M.updPart part fun p =>
      { p with
        tasks := p.tasks.filter fun t => t.tcb != tcb
        launched := p.launched.filter fun x => x != tcb
        sizes := aDel p.sizes tcb
        queues := p.queues.map fun q => { q with tasks := q.tasks.filter fun x => x != tcb } }
  match M.part part with
  | none => M
  | some p =>
    let M := M.updPart part fun p => { p with cards := [] }
    p.cards.foldl (fun M x => M.raise 1 (.cardAdmission part x.1 x.2)) (ensurePops M part)

/-- An active task of a partition. -/
def activeTask (M : Mach) (part tcb : Nat) : Option Task :=
  (M.part part).bind fun p => p.tasks.find? fun t => t.tcb == tcb

/-- Change an active task. -/
def updTask (M : Mach) (part tcb : Nat) (f : Task → Task) : Mach :=
  M.updPart part fun p => { p with tasks := updIf (fun t => t.tcb == tcb) f p.tasks }

/-- A failed task is finished once no iteration of it runs (R382). -/
def settleFailed (M : Mach) (part tcb code : Nat) : Mach :=
  match activeTask M part tcb with
  | none => finishTask M part tcb
  | some t =>
    if t.running.isEmpty then finishTask M part tcb
    else updTask M part tcb fun t => { t with failed := some code, claimed := [], reissue := [] }

/-- A task fails (R382): completion word, successors, and its end once nothing of it runs. One that has failed already does
not fail again, but may be finished now. -/
def failTask (M : Mach) (part tcb code : Nat) : Mach :=
  match tcbRead M part tcb with
  | none => settleFailed (M.logPart part 0xFF 0 (w64 tcb)) part tcb code
  | some r =>
    if tcbState (recW r 0) = 5 then settleFailed M part tcb code
    else
      let M := tcbPut M part tcb (putFld (recW r 0) 40 3 5)
      let M := writeCompletion M part r (2 ^ 63 + code)
      settleFailed ((successors M part r).foldl (fun M s => M.raise 1 (.predDecrement part s true)) M) part tcb code

/-- A predecessor retires or fails (R381, R382). -/
def decrementPred (M : Mach) (part tcb : Nat) (failed : Bool) : Mach :=
  match tcbRead M part tcb, M.part part with
  | some r, some p =>
    let w := recW r 0
    let st := tcbState w
    if failed then failTask M part tcb 2
    else if fld w 0 16 = 0 then (failTask M part tcb 1).logPart part 0xFF 0 (w64 tcb)
    else
      let w := w - 1
      if fld w 0 16 = 0 && st = 1 then
        let w := putFld w 40 3 2
        publishCard (tcbPut M part tcb w) part tcb w (some (masterDie M p))
      else tcbPut M part tcb w
  | _, _ => M.logPart part 0xFF 0 (w64 tcb)

/-! ### Loop nests (R383, R384) -/

/-- The six counts of a loop-nest record or size block. -/
def countsOf (ws : List Word) (first : Nat) : List Nat :=
  (List.range 6).map fun i => fld (recW ws (first + i / 2)) (32 * (i % 2)) 32

/-- ORDk. -/
def ordOf (nest : List Word) (k : Nat) : Nat := fld (recW nest 0) (8 + 3 * k) 3

/-- The record passes R383 with these counts. -/
def nestOk (nest : List Word) (counts : List Nat) : Bool :=
  let w0 := recW nest 0
  let nd := fld w0 0 3
  let pos := List.range 6
  fld w0 3 5 = 0 && fld w0 26 6 = 0 && nd ≤ 5 && fld w0 32 32 ≠ 0 && (nest.drop 4).all (fun w => w == 0) &&
    pos.all (fun d => d > nd || ((pos.filter fun k => k ≤ nd && ordOf nest k == d).length == 1)) &&
    pos.all (fun k => k ≤ nd || ordOf nest k == 0) &&
    pos.all (fun d => d ≤ nd || counts.getD d 1 == 1) && counts.foldl (· * ·) 1 < 2 ^ 48

/-- Indices of iteration n, dimension by dimension (R384). -/
def iterIndices (nest : List Word) (counts : List Nat) : Nat → Nat → Nat → List (Nat × Nat)
  | 0, _, _ => []
  | fuel + 1, k, n =>
    let d := ordOf nest k
    let c := max 1 (counts.getD d 1)
    (d, n % c) :: iterIndices nest counts fuel (k + 1) (n / c)

/-- What s(1 + d) holds for iteration n. -/
def iterIndex (nest : List Word) (counts : List Nat) (n d : Nat) : Nat :=
  (aGet (iterIndices nest counts (fld (recW nest 0) 0 3 + 1) 0 n) d).getD 0

/-- R380's checks 2 to 7 of a TCB. -/
def tcbFields (M : Mach) (part : Nat) (r : List Word) : Bool :=
  let w := recW r 0
  let top (i : Nat) : Bool := recW r i < 2 ^ 56
  let nsucc := fld w 16 4
  fld w 43 5 = 0 && fld w 27 1 = 0 && recW r 7 = 0 && [1, 2, 4, 6, 8, 9, 10, 11, 12, 13, 14, 15].all top &&
    nsucc ≤ 8 && (List.range 8).all (fun i => i < nsucc || recW r (8 + i) == 0) &&
    (fld w 24 3 = 4 || fld w 24 3 = 5) && recW r 1 % 64 = 0 && recW r 4 % 8 = 0 &&
    (match M.part part with
      | none => false
      | some p =>
        inDefault p (recW r 4) 8 &&
          match p.ctxs.find? fun c => c.id == fld w 28 12 with
          | some c => (List.range (ceilDiv c.nmem 4)).any fun g => bitOf (recW r 3) g
          | none => false)

/-- R380's checks of a TCB apart from STATE, and R383's of its loop nest. -/
def tcbOk (M : Mach) (part : Nat) (r nest : List Word) (counts : List Nat) : Bool :=
  tcbFields M part r && nestOk nest counts

/-- The loop nest of a task: its record, and the counts of its size block or the record's own. -/
def taskNest (M : Mach) (p : Part) (tcb : Nat) (r : List Word) : Option (List Word × List Nat) :=
  (recRead M p.id 8 (recW r 1)).map fun nest => (nest, (aGet p.sizes tcb).getD (countsOf nest 1))

/-! ### Admission (R385) -/

/-- A task enters the active table. -/
def admitTask (M : Mach) (part tcb : Nat) (card : BitVec 128) (r nest : List Word) (counts : List Nat) : Mach :=
  let w := recW r 0
  let t : Task :=
    { tcb := tcb, ctx := fld w 28 12, prio := fld w 20 3, ready := fld card.toNat 64 32, age := 0
      total := counts.foldl (· * ·) 1, chunk := fld (recW nest 0) 32 32, cursor := 0, mirror := 0
      claimed := [], reissue := [], running := [], retired := 0, failed := none, counts := counts
      block := r, nest := nest }
  let M := tcbPut M part tcb (putFld w 40 3 3)
  let M := M.updPart part fun p => { p with tasks := p.tasks ++ [t] }
  let M := raiseOnce M (2 ^ 39) (.ageRefresh part)
  if t.total = 0 then M.raise 1 (.taskRetire part tcb) else dispatchAll M part

/-- A distributor judges a card it has received (R385); while the table is full it keeps the card (R386). -/
def admitCard (M : Mach) (part die : Nat) (card : BitVec 128) : Mach :=
  let drop (M : Mach) : Mach := ensurePops (M.logPart part 0xFF 0 (w64 card.toNat)) part
  match M.part part with
  | none => M
  | some p =>
    if 64 ≤ p.tasks.length then M.updPart part fun p => { p with cards := p.cards ++ [(die, card)] }
    else
      let c := card.toNat
      let tcb := fld c 0 56
      if fld c 59 5 ≠ 0 || fld c 96 32 ≠ 0 then drop M
      else
        match tcbRead M part tcb with
        | none => drop M
        | some r =>
          match taskNest M p tcb r with
          | none => drop M
          | some (nest, counts) =>
            let w := recW r 0
            if tcbState w = 2 || (tcbState w = 0 && fld w 0 16 = 0 && tcb % 128 = 0 && tcbOk M part r nest counts) then
              ensurePops (admitTask M part tcb card r nest counts) part
            else drop M

/-! ### Dispatch (R388, R145) -/

/-- Age of a task in units of 1,024 cycles, saturated (R388). -/
def Task.ageAt (t : Task) (M : Mach) : Nat :=
  if 2 ^ 31 ≤ t.age then 2 ^ 31 else min (2 ^ 31) ((M.cardTime + 2 ^ 32 - t.ready) % 2 ^ 32)

/-- The master refreshes every age (R388). -/
def refreshAges (M : Mach) (part : Nat) : Mach :=
  let M := M.updPart part fun p => { p with tasks := p.tasks.map fun t => { t with age := t.ageAt M } }
  match M.part part with
  | some p => if p.tasks.isEmpty then M else raiseOnce M (2 ^ 39) (.ageRefresh part)
  | none => M

/-- Order of choice among tasks: effective priority, age, PVA (R388). -/
def Task.order (t : Task) (M : Mach) (p : Part) : Nat :=
  let age := t.ageAt M
  let step := wf p.schcfg 32 16
  let eff := min 7 (t.prio + if step = 0 then 0 else age / step)
  (7 - eff) * 2 ^ 128 + (2 ^ 31 - age) * 2 ^ 64 + t.tcb

/-- The context of a member. -/
def ctxOf (M : Mach) (m : MRef) : Option Context :=
  (M.part m.part).bind fun p => p.ctxs.find? fun c => c.id == m.ctx

/-- A member that can take an iteration (R388). -/
def Member.isFree (m : Member) (M : Mach) : Bool :=
  m.core.isSome && m.task.isNone && !m.preempt && m.freeze == .none &&
    match ctxOf M m.ref with
    | some c => !c.ending
    | none => false

/-- Members on a core of a die that a task may use, free or not (R388). -/
def permittedAll (M : Mach) (p : Part) (die : Nat) (t : Task) : List Member :=
  M.members.filter fun m =>
    m.ref.part == p.id && m.ref.ctx == t.ctx && m.core.isSome && m.die == die && bitOf (recW t.block 3) (m.ref.rank / 4)

/-- Free members of a die that a task may use, in rising rank. -/
def permitted (M : Mach) (p : Part) (die : Nat) (t : Task) : List Member :=
  let ms := (permittedAll M p die t).filter fun m => m.isFree M
  (List.range 256).filterMap fun k => ms.find? fun m => m.ref.rank == k

/-- Unclaimed work of a task. -/
def Task.unclaimed (t : Task) : Bool := t.failed.isNone && (!t.reissue.isEmpty || t.cursor * t.chunk < t.total)

/-- Work a die has claimed. -/
def Task.claimOf (t : Task) (die : Nat) : Option (Nat × Nat) := (t.claimed.find? fun x => x.1 == die).map (·.2)

/-- Claim the next chunk for a die: the mirror takes the new cursor first (R387). -/
def Task.claim (t : Task) (die : Nat) : Task :=
  match t.reissue with
  | x :: rest => { t with claimed := t.claimed ++ [(die, x.1, x.2)], reissue := rest }
  | [] =>
    let first := t.cursor * t.chunk
    let n := min t.chunk (t.total - first)
    { t with claimed := t.claimed ++ [(die, first, n)], mirror := t.cursor + 1, cursor := t.cursor + 1 }

/-- A stream at the start of an iteration (R145). -/
def Stream.atDispatch (s : Stream) (now : Nat) : Stream :=
  { s with
    s := Vector.replicate 32 0, o := Vector.replicate 8 0, lat := 0, running := false, last := now, floor := now + 1
    inflight := [], wait := none, untimed := none
    lps0 := 0, lpe0 := 0, lpc0 := 0, lps1 := 0, lpe1 := 0, lpc1 := 0, vwin := 0 }

/-- PVA of a member's save area (R406). -/
def saveArea (p : Part) (m : MRef) : Nat := (wf p.saveb 23 33 * 0x800000 + (m.ctx * 256 + m.rank) * 0x800000) % 2 ^ 56

/-- A member takes an iteration (R145, R384). -/
def Member.start (m : Member) (p : Part) (t : Task) (n now : Nat) : Member :=
  let c := m.c.atDispatch now
  let regs : Vector Word 32 :=
    (((((((c.s.set 1 (w64 (iterIndex t.nest t.counts n 0))).set 2 (w64 (iterIndex t.nest t.counts n 1))).set 3
      (w64 (iterIndex t.nest t.counts n 2))).set 4 (w64 (iterIndex t.nest t.counts n 3))).set 5
      (w64 (iterIndex t.nest t.counts n 4))).set 6 (w64 (iterIndex t.nest t.counts n 5))).set 7 (t.block.getD 2 0))
  { m with
    c := { c with s := regs, pc := pcField (m.entry.getD 0 0), running := true }
    a := m.a.atDispatch now
    v := m.v.atDispatch now
    x := m.x.atDispatch now
    tvec := 0, tcause := 0, tstrm := 0, tepc := 0, tval := 0, tscr := 0
    tsave := w64 (saveArea p m.ref)
    handler := none
    raised := []
    taking := []
    task := some (t.tcb, n) }

/-- Dispatch iterations from `first` on, one to each member. -/
def startOn (M : Mach) (p : Part) (t : Task) : Nat → List Member → Mach
  | _, [] => M
  | n, m :: ms =>
    let now := m.now M
    let m := (m.settle now).start p t n now
    let M := M.putMember m
    startOn (updTask M p.id t.tcb fun t => { t with running := t.running ++ [(n, m.ref)] }) p t (n + 1) ms

/-- CHUNK_DISPATCH: when its die has a free member, a distributor dispatches what it has claimed of a task, or claims the next
chunk of a task with a permitted member on the die (R388), one whose last claim there is dispatched (assumption 14). -/
def dispatchDie (M : Mach) (part die : Nat) : Mach :=
  match M.part part with
  | none => M
  | some p =>
    if !M.liveDies.contains die || !p.owns die then M
    else
      let best (l : List Task) : Option Task := leastBy (fun t : Task => t.order M p) l
      let claimed := p.tasks.filter fun t => t.failed.isNone && (t.claimOf die).isSome && !(permitted M p die t).isEmpty
      let free := M.members.any fun m => m.ref.part == p.id && m.die == die && m.isFree M
      match best claimed with
      | some t =>
        match t.claimOf die with
        | none => M
        | some (first, n) =>
          let ms := (permitted M p die t).take n
          let k := ms.length
          let rest := dropFirst (fun x => x == (die, first, n)) t.claimed
          let M :=
            updTask M part t.tcb fun t =>
              { t with claimed := if k < n then (die, first + k, n - k) :: rest else rest }
          raiseOnce (startOn M p t first ms) 1 (.chunkDispatch part die)
      | none =>
        match best (p.tasks.filter fun t =>
          free && t.unclaimed && (t.claimOf die).isNone && !(permittedAll M p die t).isEmpty) with
        | some t => raiseOnce (updTask M part t.tcb fun t => t.claim die) 0 (.chunkDispatch part die)
        | none => M

/-! ### Retirement (R390, R391) -/

/-- The master learns that an iteration has ended. -/
def reportIteration (M : Mach) (m : MRef) (tcb n : Nat) : Mach :=
  let part := m.part
  let M := updTask M part tcb fun t => { t with running := t.running.filter (fun x => x != (n, m)), retired := t.retired + 1 }
  match activeTask M part tcb with
  | none => M
  | some t =>
    if t.failed.isSome then (if t.running.isEmpty then finishTask M part tcb else M)
    else if t.retired = t.total then M.raise 1 (.taskRetire part tcb)
    else M

/-- TASK_RETIRE: completion word, STATE, then the successors once the completion write is performed (R391). -/
def retireTask (M : Mach) (part tcb : Nat) : Mach :=
  match activeTask M part tcb, tcbRead M part tcb with
  | some t, some r =>
    if t.failed.isSome || t.retired < t.total then M
    else
      let M :=
        if tcbState (recW r 0) = 4 then M
        else tcbPut (writeCompletion M part t.block (recW t.block 5)) part tcb (putFld (recW r 0) 40 3 4)
      if outstanding M (masterRef part) .c then M.raise 64 (.taskRetire part tcb)
      else
        (successors M part t.block).foldl (fun M s => M.raise 1 (.predDecrement part s false)) (finishTask M part tcb)
  | _, _ => M

/-- The member is free: its iteration is reported, and its die looks for work. -/
def freeMember (M : Mach) (r : MRef) : Mach :=
  match M.member r with
  | none => M
  | some m =>
    match m.task with
    | none => M
    | some (tcb, n) =>
      let M := reportIteration (M.updMember r fun m => { m with task := none }) r tcb n
      raiseOnce M 1 (.chunkDispatch r.part m.die)

/-! ### Ending an iteration and a context (R401, R402) -/

/-- The bin tails an open region's commands have moved stand again as at its marker (R165). -/
def restoreBins (M : Mach) (m : Member) (g : Region) : Mach :=
  g.bins.foldl
    (fun M b =>
      match devWrite M m.die m.ref.part .engineWrite (w64 (b.1 + 8)) (leBytes 8 b.2) with
      | .ok M => M
      | .error _ => M)
    M

/-- Cancel an open region: its epoch ends, and every member its arrivals reached rolls back before anything else
happens (R165 step 3, R166). -/
def cancelRegion (M : Mach) (r : MRef) : Mach :=
  match M.member r with
  | none => M
  | some m =>
    match m.region with
    | none => M
    | some g =>
      let M := M.putMember { m with region := none, epoch := m.epoch + 1 }
      { M with agenda := (g.reached.map fun x => Move.event (.rollback x r.rank g.epoch)) ++ M.agenda }

/-- A stream halted for good. -/
def Stream.ended (s : Stream) : Stream :=
  { s with running := false, inflight := [], wait := none, untimed := none, status := 0 }

/-- A command counted as completed with FAULT (R402): one that has not completed, or one of the discarded region. -/
def Cmd.ended (epoch : Option Nat) (c : Cmd) : Cmd :=
  if c.finished then { c with fault := c.fault || (epoch.isSome && c.epoch == epoch) }
  else { c with finished := true, engineDone := true, fault := true, sys := none }

/-- Packets whose origin a test picks answer to nobody any more. -/
def forgetOrigins (M : Mach) (gone : Origin → Bool) : Mach :=
  let f (o : Origin) : Origin := if gone o then .control else o
  { M with
    conns :=
      M.conns.map fun c =>
        { c with
          unacked := c.unacked.map fun u => { u with origin := f u.origin }
          waiting := c.waiting.map fun w => (w.1, f w.2)
          asked := c.asked.map fun a => (a.1, f a.2) } }

/-- The tag under which verge writes and reports of a member read its owner table. -/
def vergeTag : Nat := 2 ^ 98

/-- What a member's loads and engines have asked for is on its way to nobody (R402). -/
def dropRequests (M : Mach) (r : MRef) : Mach :=
  let M :=
    forgetOrigins M fun o =>
      match o with
      | .load m slot _ _ _ => m == r && decide (slot < 32)
      | .fetch who tag _ _ _ _ _ => who == r && tag != vergeTag
      | _ => false
  { M with
    fetched := M.fetched.filter fun f => !(f.who == r && f.tag != vergeTag)
    hbm := M.hbm.map fun k => { k with waiting := k.waiting.filter fun w => w.1 != r } }

/-- Barrier episodes without what some members did in them; a record that holds nothing then ends. -/
def dropArrivals (gone : MRef → Bool) (bs : List Bar) : List Bar :=
  (bs.map fun b =>
    { b with arrived := b.arrived.filter fun x => !gone x.1, passed := b.passed.filter fun x => !gone x.1 }).filter
    fun b => !(b.arrived.isEmpty && b.passed.isEmpty)

/-- The open region of a member whose iteration ends is discarded: its bin tails, contributions and arrivals (R402). -/
def abandonRegion (M : Mach) (r : MRef) : Mach :=
  match M.member r with
  | none => M
  | some m =>
    match m.region with
    | none => M
    | some g => cancelRegion (restoreBins M m g) r

/-- End the iteration of a member (R402). Its arrivals in barrier episodes end with it: R159 keeps them across traps and
pre-emption only, and the choice for this case is the model's (assumption 14). -/
def endIteration (M : Mach) (r : MRef) : Mach :=
  let epoch := (M.member r).bind Member.openEpoch
  let M := dropRequests (abandonRegion M r) r
  let M := { M with bars := dropArrivals (fun m => m == r) M.bars }
  let M :=
    M.updMember r fun m =>
      let now := m.now M
      let m := m.settle now
      let m :=
        { m with
          c := m.c.ended, a := m.a.ended, v := m.v.ended, x := m.x.ended
          handler := none, raised := [], taking := [], escalated := none, owed := []
          nest := none
          lastPos := (m.nest.map (·.committed)).getD m.lastPos
          freeze := if m.core.isSome then .none else .halted
          skew := M.wclk - now
          slots := Vector.replicate 32 LSlot.empty
          cmds := m.cmds.map (Cmd.ended epoch) }
      settleCounters m
  let M := syncCmds (syncCore M r) r
  match M.member r with
  | none => M
  | some m =>
    match m.task with
    | none => M
    | some (tcb, n) =>
      let M := M.updMember r fun m => { m with task := none }
      let M :=
        updTask M r.part tcb fun t => { t with running := t.running.filter fun x => x != (n, r), failed := some 4 }
      raiseOnce (failTask M r.part tcb 4) 1 (.chunkDispatch r.part m.die)

/-- Members of a context. -/
def membersOf (M : Mach) (part ctx : Nat) : List Member :=
  M.members.filter fun m => m.ref.part == part && m.ref.ctx == ctx

/-- Remove a context from the context map; what its members did in barrier episodes goes with them (R159). -/
def removeContext (M : Mach) (part ctx : Nat) : Mach :=
  { M.updPart part fun p => { p with ctxs := p.ctxs.filter fun c => c.id != ctx } with
    members := M.members.filter fun m => !(m.ref.part == part && m.ref.ctx == ctx)
    bars := dropArrivals (fun m => m.part == part && m.ctx == ctx) M.bars
    hbm := M.hbm.map fun k => { k with waiting := k.waiting.filter fun w => !(w.1.part == part && w.1.ctx == ctx) }
    bgroups :=
      (updIf (fun g : BGroup => g.ctxs.contains (part, ctx))
        (fun g => { g with ctxs := g.ctxs.filter fun x => x != (part, ctx), gone := g.gone + 1 }) M.bgroups).filter
        fun g => !g.ctxs.isEmpty }

/-- End a context (R401): its members as R402, its tasks fail. -/
def endContext (M : Mach) (part ctx : Nat) : Mach :=
  let M := (membersOf M part ctx).foldl (fun M m => endIteration M m.ref) M
  let ts := ((M.part part).map fun p => p.tasks.filter fun t => t.ctx == ctx).getD []
  removeContext (ts.foldl (fun M t => failTask M part t.tcb 4) M) part ctx

/-! ### Contexts (R376 to R378) -/

/-- Halted streams of a new member. -/
def Stream.fresh : Stream where
  s := Vector.replicate 32 0
  o := Vector.replicate 8 0
  lat := 0
  pc := 0
  running := false
  last := 0
  floor := 0
  inflight := []
  wait := none
  untimed := none
  lps0 := 0
  lpe0 := 0
  lpc0 := 0
  lps1 := 0
  lpe1 := 0
  lpc1 := 0
  vwin := 0
  nissue := 0
  nstall := 0
  sb := []
  entering := []
  imprecise := []
  status := 0

/-- A copy shadow with nothing in it (R333). -/
def CopyCfg.fresh : CopyCfg := ⟨[], 0, 0, false, none, 0⟩

/-- A matrix shadow with nothing in it (R304). -/
def XCfg.fresh : XCfg := ⟨[], 0, 0, 0, 0, none⟩

/-- A new member of a context (R50, R145). -/
def Member.fresh (r : MRef) (home nmem size : Nat) (entry : List Word) (place : Place) (wclk : Nat) : Member where
  ref := r
  place := place
  home := home
  nmem := nmem
  size := size
  entry := entry
  cycle := 0
  skew := wclk
  freeze :=
    match place with
    | .core _ => .none
    | .image => .halted
  c := Stream.fresh
  a := Stream.fresh
  v := Stream.fresh
  x := Stream.fresh
  tvec := 0
  tcause := 0
  tstrm := 0
  tepc := 0
  tval := 0
  tscr := 0
  tsave := 0
  handler := none
  raised := []
  taking := []
  escalated := none
  owed := []
  preempt := false
  task := none
  tiles := []
  arrq := []
  journal := []
  floors := []
  epoch := 0
  region := none
  queues := Vector.replicate 8 []
  mbs := Vector.replicate 8 (0, false)
  slots := Vector.replicate 32 LSlot.empty
  handles := Vector.replicate 16 none
  hl := Vector.replicate 16 0
  tc := Vector.replicate 4 (0, 0)
  cmds := []
  tsends := 0
  copy := CopyCfg.fresh
  acc := Vector.replicate 4 ⟨.empty, [], [], false, none⟩
  shadow := XCfg.fresh
  nest := none
  lastPos := 0
  joined := []
  verges := []
  reports := []
  vbusy := 0
  nextId := 0

/-- A core's arrays before any member runs on it: zero, with an empty L1 (R410). -/
def clearCore (M : Mach) (c : Nat) : Mach :=
  let M := M.setCore { M.core c with l1 := [] }
  { M with mem := memClear (memClear M.mem (sramBase c) 0x400000) (bstoreBase c) 0x200000 }

/-- Cores of the quads a launch record names, rising (R377, R378). -/
def quadCores (M : Mach) (p : Part) (quads : Nat) : List Nat :=
  (List.range 64).flatMap fun q =>
    let die := p.id + q / 8
    if bitOf quads q && q < 8 * p.dies && M.liveDies.contains die then
      (List.range 4).map fun i => p.id * 32 + 4 * q + i
    else []

/-- The launch record is refused (R377). -/
def launchBad (M : Mach) (p : Part) (r : List Word) : Bool :=
  let w5 := recW r 5
  let w7 := recW r 7
  let size := fld w5 32 3
  let timg := recW r 4
  let cores := quadCores M p (recW r 6)
  [0, 1, 2, 3, 4].any (fun i => 2 ^ 56 ≤ recW r i) || recW r 0 = 0 || fld w5 48 16 ≠ 0 || fld w5 35 5 ≠ 0 ||
    fld w5 25 7 ≠ 0 || fld w7 32 32 ≠ 0 || 4 < size || tileCount size < fld w5 16 9 + fld w5 0 16 ||
    timg % 0x2000 ≠ 0 || (fld w7 0 16 ≠ 0 && fld w7 16 16 = 0) || cores.isEmpty ||
    cores.length < fld w5 40 8 + 1

/-- A barrier group's number: the tenant's key and BGRP; 0 for none. -/
def groupId (p : Part) (w7 : Nat) : Nat := if fld w7 0 16 = 0 then 0 else fld w7 0 16 + p.key.toNat <<< 16

/-- The group refuses a further context, or one with another BGN (R378): by what this device has counted, or, in a pod of
several devices, by the record another device may keep of it, which is a free value (assumption 15). -/
def groupBad (M : Mach) (id bgn : Nat) : Bool :=
  (match M.bgroups.find? fun g => g.id == id with
    | some g => g.bgn ≠ bgn || decide (g.bgn ≤ g.ctxs.length)
    | none => false) ||
    (1 < podRows M * podCols M && Config.groupElsewhere M.free id bgn)

/-- Count a context into its barrier group. -/
def joinGroup (M : Mach) (id bgn : Nat) (x : Nat × Nat) : Mach :=
  if id = 0 then M
  else if M.bgroups.any fun g => g.id == id then
    { M with bgroups := updIf (fun g => g.id == id) (fun g => { g with ctxs := g.ctxs ++ [x], gone := g.gone - 1 }) M.bgroups }
  else { M with bgroups := M.bgroups ++ [(⟨id, bgn, [x], 0⟩ : BGroup)] }

/-! ### The image (R407, R408) -/

/-- An accumulator set. -/
def Member.accSet (m : Member) (n : Nat) : AccSet := m.acc.toList.getD n ⟨.empty, [], [], false, none⟩

/-- ctxinfo (R230). -/
def Member.ctxinfo (m : Member) : Word :=
  w64 (m.ref.rank % 256 + ((m.nmem - 1) % 256) <<< 8 + (m.ref.part % 8) <<< 16 + (m.ref.ctx % 4096) <<< 32)

/-- An accumulator set at its place in the image. -/
def saveAcc (M : Mach) (m : Member) (k : Nat) : Mach :=
  let x := m.accSet k
  let base := 0x38000 + 0x30000 * k
  let M := x.rn.zipIdx.foldl (fun M r => saveWords M m (base + 1024 * r.2) r.1) M
  x.p.zipIdx.foldl
    (fun M r => imagePut M m (base + 0x20000 + 512 * r.2) (r.1.flatMap fun v => leBytes 4 v.toNat)) M

/-- The remaining state of R407 (R409, step 3), the marker and the record apart. -/
def writeImage (M : Mach) (m : Member) : Mach :=
  let M := imageClear M m 0x28 (0x1000 - 0x28)
  let M := imageClear M m 0x1140 (0xD400 - 0x1140)
  let M := imageClear M m 0xD480 (0x10000 - 0xD480)
  let M := imageClears M m 0x10000 14
  let M := imageClear M m 0xF0000 0x8000
  let M := imageClear M m 0x1F8000 0x8000
  let M := imageClears M m (0x200000 + tileCount m.size * 0x2000) (64 - tileCount m.size / 8)
  let M :=
    saveGroups M m
      ((Strm.all.map fun st => (streamAt st, streamBlock M m st)) ++
       [(0x2400, m.mbs.toList.flatMap fun b => [b.1, w01 b.2]),
        (0x2480, m.handles.toList.flatMap handleWords),
        (0x2C80, m.hl.toList),
        (0x2D00, counterWords m),
        (0x2D40, m.queues.toList.map fun q =>
          w64 (readyRows q + (q.length - readyRows q) <<< 8)),
        (0x2D80, [m.tvec, m.tcause, m.tstrm, m.tepc, m.tval, m.tscr]),
        (0x2E00, m.slots.toList.zipIdx.flatMap fun x => slotWords m x.2 x.1),
        (0x3200, statusWords m 1 fun tc n => copyStatus m (BitVec.ofNat 2 tc) n),
        (0x3400, statusWords m 2 fun tc n => lookupStatus m (BitVec.ofNat 2 tc) n)])
  let M := m.queues.toList.zipIdx.foldl (fun M q => imagePut M m (0x4000 + 0x1000 * q.2) (q.1.flatMap fun r => r.data)) M
  let M := writeTags M m
  let M := imageFree M m 0xE000 0x2000
  let M :=
    match m.nest with
    | some n => if n.held.isEmpty then M else imageFree M m 0x14000 0x24000
    | none => M
  (List.range 4).foldl (fun M k => saveAcc M m k) M

/-- The header of a switched-out member's image (R407). -/
def writeHeader (M : Mach) (m : Member) : Mach :=
  saveWords M m 0 [1, m.ctxinfo, w64 m.cycle, w64 M.wclk, w64 m.size]

/-- The marker and its bin-tail list: 0 without an open region. -/
def writeMarker (M : Mach) (m : Member) : Mach :=
  let M := imageClear M m 0xD400 0x80
  let M := imageClears (imageClear M m 0xF8000 0x8000) m 0x100000 15
  let M := imageClear M m 0x1F0000 0x8000
  match m.region with
  | none => M
  | some g =>
    let nums := (g.issue.zip g.compl).flatMap fun p => [w64 p.1, w64 p.2]
    saveGroups M m
      [(0xD400, g.marker :: nums ++ [w64 g.epoch]), (0xF8000, g.bins.flatMap fun b => [w64 b.1, w64 b.2])]

/-! ### New members (R378) -/

/-- Place a new member on its core, or switched out when the core holds another (R378, R410). -/
def placeMember (M : Mach) (p : Part) (ctx nmem size : Nat) (entry : List Word) (rank home : Nat) : Mach :=
  let r : MRef := ⟨p.id, ctx, rank⟩
  let (M, place) : Mach × Place :=
    if (M.occupant home).isNone then (clearCore M home, .core home) else (M, .image)
  let m := { Member.fresh r home nmem size entry place M.wclk with tsave := w64 (saveArea p r) }
  let M := { M with members := M.members ++ [m] }
  match place with
  | .core _ => saveWords M m 0 [3]
  | .image =>
    let M := writeHeader (writeMarker (writeImage (imageClear M m 0x1000 0x140) m) m) m
    imageClears (imageClears M m 0x200000 (tileCount size / 8)) m 0x600000 32

/-- Copy the tile images into every member (R378). -/
def copyImages (M : Mach) (part ctx first : Nat) (images : List (List Byte)) : Mach :=
  (membersOf M part ctx).foldl
    (fun M m => images.zipIdx.foldl (fun M x => tileWrite M m (first + x.2) 0 x.1) M) M

/-- Frames for the save areas of n members (R406): the first that are free, from the top of the partition's HBM down, beside
the firmware's queue objects and the areas of other contexts. The spec does not say where the firmware puts them
(assumption 45). -/
def saveFrames (p : Part) (n : Nat) : Nat → Nat → Nat
  | 0, _ => 0
  | fuel + 1, base =>
    let clear (a k : Nat) : Bool := base + n * saveSpan ≤ a || a + k ≤ base
    if ownsHbm p base (n * saveSpan) && clear (cardFrame p) cardSpan && p.ctxs.all fun c => clear c.save (c.nmem * saveSpan) then
      base
    else saveFrames p n fuel (base - saveSpan)

/-- Create a context from a launch record whose checks have passed. -/
def createContext (M : Mach) (p : Part) (ctx : Nat) (r : List Word) (images : List (List Byte)) : Mach :=
  let w5 := recW r 5
  let w7 := recW r 7
  let n := fld w5 40 8 + 1
  let entry := r.take 4
  let gid := groupId p w7
  let top := (p.id + p.dies) * 0x1800000000
  let c : Context := ⟨ctx, n, fld w5 32 3, entry, gid, false, saveFrames p n 0x10000 (top - n * saveSpan)⟩
  let cores := (quadCores M p (recW r 6)).take n
  let M := M.updPart p.id fun p => { p with ctxs := p.ctxs ++ [c] }
  let M := joinGroup M gid (fld w7 16 16) (p.id, ctx)
  let M := cores.zipIdx.foldl (fun M x => placeMember M p ctx n (fld w5 32 3) entry x.2 x.1) M
  dispatchAll (copyImages M p.id ctx (fld w5 16 9) images) p.id

/-! ### Events -/

/-- R381. -/
def execPredDecrement (part tcb : Nat) (failed : Bool) (s : State) : Host.Outcome State Fault Refusal :=
  s.lift fun M => decrementPred M part tcb failed

/-- R385. -/
def execCardAdmission (part die : Nat) (card : BitVec 128) (s : State) : Host.Outcome State Fault Refusal :=
  s.lift fun M => admitCard M part die card

/-- R385: the card goes out again after its back-off, by the way its sender's cards take (R121). -/
def execCardRepush (part prio : Nat) (card : CardPush) (s : State) : Host.Outcome State Fault Refusal :=
  s.lift fun M => pushCard M part prio card.card card.die

/-- R388. -/
def execChunkDispatch (part die : Nat) (s : State) : Host.Outcome State Fault Refusal :=
  s.lift fun M => dispatchDie M part die

/-- R391. -/
def execTaskRetire (part tcb : Nat) (s : State) : Host.Outcome State Fault Refusal :=
  s.lift fun M => retireTask M part tcb

/-- R388. -/
def execAgeRefresh (part : Nat) (s : State) : Host.Outcome State Fault Refusal := s.lift fun M => refreshAges M part

/-- R402, R382. -/
def execEndTheIteration (m : MRef) (s : State) : Host.Outcome State Fault Refusal :=
  s.lift fun M => endIteration M m

/-- R401. -/
def execEndTheContext (part ctx : Nat) (s : State) : Host.Outcome State Fault Refusal :=
  s.lift fun M => endContext M part ctx

end Sys2Proof.Machine
end

