-- ==== Sys2Proof/Machine/System.lean ====
section
/-!
DEFINITION. The stream, trap and register words (R220 to R230), idempotent regions' words (R163, R226), DONE (R227).
-/

namespace Sys2Proof.Machine

/-- R220. -/
def execNop (s : State) : Host.Outcome State Fault Refusal := word .nop (fun c => .done c.M) s

/-- A stream started by GO (R146): its entry PC, C's operand file, GO as its previous issue. -/
def Stream.started (s : Stream) (entry : Word) (o : Vector Word 8) (t : Nat) : Stream :=
  if entry = 0 then { s with o := o }
  else { s with pc := pcField entry, running := true, o := o, last := t, floor := t + 1, wait := none }

/-- R146, R221. -/
def execGo (s : State) : Host.Outcome State Fault Refusal :=
  word .go
    (fun c =>
      let m := c.mem
      if m.a.running || m.v.running || m.x.running || m.handler.isSome then .trap (illOpnd c.raw)
      else
        .done
          (c.upd fun m =>
            { m with
              a := m.a.started (m.entry.getD 1 0) m.c.o c.t
              v := m.v.started (m.entry.getD 2 0) m.c.o c.t
              x := m.x.started (m.entry.getD 3 0) m.c.o c.t })) s

/-- R222. -/
def execHalt (s : State) : Host.Outcome State Fault Refusal :=
  word .halt
    (fun c =>
      if c.st = Strm.c then .trap (illOpnd c.raw)
      else
        let M := c.upd fun m => m.updStr c.st fun s => { s with running := false }
        .done (if c.st = Strm.a then closeRegion M c.mem.ref else M)) s

/-- R223. -/
def execTrap (x : Src) (s : State) : Host.Outcome State Fault Refusal :=
  wordOut (.trap x) (fun c => .trap ⟨0x10, false, c.src x, 0, [], true⟩) s

/-- R223. -/
def execBrk (n : BitVec 16) (s : State) : Host.Outcome State Fault Refusal :=
  wordOut (.brk n) (fun _ => .trap ⟨0x11, false, n.setWidth 64, 0, [], true⟩) s

/-- R224. -/
def execEret (s : State) : Host.Outcome State Fault Refusal :=
  word .eret
    (fun c =>
      match c.mem.handler with
      | none => .trap (illOpnd c.raw)
      | some h =>
        .placed
          (c.upd fun m =>
            { m with c := { m.c with nissue := m.c.nissue + 1 } }.leaveHandler h c.t)) s

/-- What a CSR reads (R229, R230). -/
def Ctx.csr (c : Ctx) : Csr → Word
  | .lps0 => c.s.lps0
  | .lpe0 => c.s.lpe0
  | .lpc0 => c.s.lpc0
  | .lps1 => c.s.lps1
  | .lpe1 => c.s.lpe1
  | .lpc1 => c.s.lpc1
  | .vwin => c.s.vwin
  | .spcfg => w64 c.mem.size
  | .tvec => c.mem.tvec
  | .tcause => c.mem.tcause
  | .tstrm => c.mem.tstrm
  | .tepc => c.mem.tepc
  | .tval => c.mem.tval
  | .tscr => c.mem.tscr
  | .tsave => c.mem.tsave
  | .cycle => w64 c.t
  | .wclk => w64 c.M.wclk
  | .nissue => w64 c.s.nissue
  | .nstall => w64 c.s.nstall
  | .ctxinfo => c.mem.ctxinfo

/-- R225. -/
def execCsrr (d : Dst) (n : Csr) (s : State) : Host.Outcome State Fault Refusal :=
  word (.csrr d n) (fun c => .done (c.result 1 d (c.csr n))) s

/-- The bits of a CSR a CSRW may set; none for a read-only CSR (R229, R230, R36). -/
def csrMask : Csr → Option Word
  | .lps0 | .lpe0 | .lps1 | .lpe1 | .tvec | .tepc => some 0x00FFFFFFFFFFFFF8
  | .lpc0 | .lpc1 => some 0xFFFFFFFF
  | .vwin => some 7
  | .tscr => some 0xFFFFFFFFFFFFFFFF
  | .spcfg | .tcause | .tstrm | .tval | .tsave | .cycle | .wclk | .nissue | .nstall | .ctxinfo => none

/-- Write a CSR. -/
def Member.setCsr (m : Member) (st : Strm) (n : Csr) (v : Word) : Member :=
  match n with
  | .lps0 => m.updStr st fun s => { s with lps0 := v }
  | .lpe0 => m.updStr st fun s => { s with lpe0 := v }
  | .lpc0 => m.updStr st fun s => { s with lpc0 := v }
  | .lps1 => m.updStr st fun s => { s with lps1 := v }
  | .lpe1 => m.updStr st fun s => { s with lpe1 := v }
  | .lpc1 => m.updStr st fun s => { s with lpc1 := v }
  | .vwin => m.updStr st fun s => { s with vwin := v }
  | .tvec => { m with tvec := v }
  | .tepc => { m with tepc := v }
  | .tscr => { m with tscr := v }
  | _ => m

/-- R225: the word first advances under the loop CSRs as they stood, then the CSR takes the value; reserved bits and
read-only CSRs are ignored and logged (R4). -/
def execCsrw (n : Csr) (x : Reg) (s : State) : Host.Outcome State Fault Refusal :=
  word (.csrw n x)
    (fun c =>
      let v := c.reg x
      let M := c.upd fun m => m.updStr c.st fun s => (s.issued c.t (c.s.waited c.t)).advance c.pc m.handler.isSome
      match csrMask n with
      | none => .placed (M.logPart c.mem.ref.part 0xFF c.mem.unit v)
      | some k =>
        let M := M.updMember c.mem.ref fun m => m.setCsr c.st n (v &&& k)
        .placed (if v &&& k = v then M else M.logPart c.mem.ref.part 0xFF c.mem.unit v)) s

/-- R163: an open region is closed first. -/
def execIdem (s : State) : Host.Outcome State Fault Refusal :=
  word .idem (fun c => .done (openRegion (closeRegion c.M c.mem.ref) c.mem.ref c.pc)) s

/-- R163, R226. -/
def execIdemEnd (s : State) : Host.Outcome State Fault Refusal :=
  word .idemEnd (fun c => .done (closeRegion c.M c.mem.ref)) s

/-- A, V and X are halted, and every command and tile send of the member is complete (R227);
a command that a refusal stopped, or a TLSIG that one holds, waits for DONE to take it (R31). -/
def Member.quiet (m : Member) : Bool :=
  !m.a.running && !m.v.running && !m.x.running && m.tsends == 0 && m.cmds.all fun c => c.finished || c.sys.isSome || c.covers m

/-- The completion scope of the member's task (R379, R390). -/
def taskScope (M : Mach) (m : Member) : Scope :=
  match m.task with
  | none => .pkg
  | some (tcb, _) =>
    match activeTask M m.ref.part tcb with
    | some t => if fld (recW t.block 0) 24 3 = 5 then .pod else .pkg
    | none => .pkg

/-- A posted write of any stream of a member is not yet acknowledged. -/
def anyOutstanding (M : Mach) (m : MRef) : Bool := Strm.all.any fun st => outstanding M m st

/-- R227, R390. -/
def execDone (s : State) : Host.Outcome State Fault Refusal :=
  word .done
    (fun c =>
      if c.mem.handler.isSome then .trap (illOpnd c.raw)
      else if !c.mem.quiet then .wait .done .memberQuiet
      else
        let c : Ctx := { c with M := acquire (closeRegion c.M c.mem.ref) c.mem.ref .pkg }
        match c.waitFaults (fun _ => true) (fun _ => true) Strm.all with
        | some r => r
        | none =>
          let sc := taskScope c.M c.mem
          let M := Strm.all.foldl (fun M st => release M c.mem.ref st sc) c.M
          if sc = Scope.pod && anyOutstanding M c.mem.ref then .waitOn M .done .acked
          else
            let M :=
              M.updMember c.mem.ref fun m =>
                { m with
                  c := { (m.c.issued c.t (c.s.waited c.t)).advance c.pc false with running := false } }
            .placed (freeMember M c.mem.ref)) s

end Sys2Proof.Machine
end

