-- ==== Sys2Proof/Machine/Registers.lean ====
section
/-!
DEFINITION. The partition control block (R24 to R29, R59, R60, R89 to R93, R120, R157, R372, R392, R393, R406, R413,
R421, R429), invalidations, table loads, and the forming and changing of partitions (R7 to R9, R78).
-/

namespace Sys2Proof.Machine

/-! ### Errors that no word of a member met (R77) -/

/-- The member's core may take a trap: it has one, and it is neither escalated nor halted (R401, R403). -/
def Member.mayTrap (m : Member) : Bool := m.core.isSome && m.freeze ≠ .escalated && m.freeze ≠ .halted

/-- A system fault that no word of the member caused, taken on its C stream, now or once its core may take it. -/
def memberFault (M : Mach) (r : MRef) (i : TrapInfo) : Mach :=
  match M.member r with
  | none => M
  | some m =>
    if m.mayTrap then
      let now := m.now M
      let m := m.settle now
      takeTrap (M.putMember m) m .c i now
    else M.putMember { m with owed := m.owed ++ [i] }

/-- The oldest fault that a core could not take is taken as it runs again. -/
def payOwed (M : Mach) (r : MRef) : Mach :=
  match M.member r with
  | none => M
  | some m =>
    match m.owed with
    | i :: rest => if m.mayTrap then memberFault (M.putMember { m with owed := rest }) r i else M
    | [] => M

/-- The member that takes an error which no member's access met: the first of the partition on a core, else its first, once it
is restored (assumption 42). -/
def anyMember (M : Mach) (part : Nat) : Option MRef :=
  ((M.members.find? fun m => m.ref.part == part && m.core.isSome).or (M.members.find? fun m => m.ref.part == part)).map (·.ref)

/-- A unit of the device has read a poisoned block for a partition: the system ECC fault (R77). -/
def partFault (M : Mach) (part unit pa : Nat) : Mach :=
  let M := M.logPart part 0x21 unit (w64 pa)
  match anyMember M part with
  | some r => memberFault M r ⟨0x21, true, 0, w64 pa, [], false⟩
  | none => M

/-! ### Who may write (R24, R434) -/

/-- The owner in a cycle: its lease has not ended (R434). -/
def HostSide.ownerAt (h : HostSide) (now : Nat) : Option RegAgent := if now < h.lease then h.owner else none

/-- The agent's writes of registers take effect: the owner's and the firmware's. -/
def HostSide.admits (h : HostSide) (now : Nat) (ag : RegAgent) : Bool := ag == .fw || h.ownerAt now == some ag

/-- Change everything but the host side, seeing the host side. -/
def State.liftH (s : State) (f : HostSide → Mach → Mach) : Host.Outcome State Fault Refusal :=
  .next { s with m := f s.host s.m }

/-- A register write that is ignored is logged. -/
def ignoreWrite (M : Mach) (part : Nat) (v : Word) : Mach :=
  match M.part part with
  | some _ => M.logIgnored part v
  | none => M.logDev part v.toNat

/-- A write through a mask: reserved bits are dropped and logged (R4). -/
def maskWrite (M : Mach) (part : Nat) (v mask : Word) (f : Word → Part → Part) : Mach :=
  let M := M.updPart part (f (v &&& mask))
  if v &&& mask = v then M else M.logIgnored part v

/-! ### Invalidations (R23, R26) -/

/-- What an invalidation drops (R26): every translation and walk-cache entry of a partition, or those of a page. -/
inductive InvKind where
  | all
  | page (pva : Nat)
  deriving DecidableEq, Repr

/-- A cached translation that goes. -/
def InvKind.drops (k : InvKind) (part : Nat) (e : TlbEntry) : Bool :=
  match k with
  | .all => true
  | .page pva => e.covers part pva

/-- A walk-cache entry that goes: for a page, those used on its walk. -/
def InvKind.dropsWalk (k : InvKind) (e : WalkEntry) : Bool :=
  match k with
  | .all => true
  | .page pva => e.pre == pva / 2 ^ levelShift e.level

/-- Drop cached translations and walk-cache entries of a partition (R26). Its walks in progress find what the table says
now. -/
def dropTlb (M : Mach) (part : Nat) (k : InvKind) : Mach :=
  let keep (e : TlbEntry) : Bool := !(e.part == part && k.drops part e)
  let M : Mach :=
    { M with
      cores := M.cores.map fun r => { r with tlb := r.tlb.filter keep }
      dieTlb := M.dieTlb.map fun x => (x.1, x.2.filter keep)
      walkCache := M.walkCache.map fun x => (x.1, x.2.filter fun e => !(e.part == part && k.dropsWalk e)) }
  { M with
    walks := updIf (fun w => w.part == part) (fun w => { w with result := walkResult M w.die part (w64 (w.block * 0x10000)) })
      M.walks }

/-- Everything the partition's streams have stored is performed at its home, and no L1 copy stays (R23, R91). -/
def fenceAll (M : Mach) (part : Nat) : Mach :=
  let ms := M.members.filter fun m => m.ref.part == part
  let M := ms.foldl (fun M m => Strm.all.foldl (fun M st => release M m.ref st .pkg) M) M
  ms.foldl (fun M m => acquire M m.ref .pkg) M

/-- What is under way for a partition now (R23, R91). -/
def invNow (M : Mach) (part : Nat) (cfg : Option Word) : Inv where
  marks := (M.conns.filter fun c => c.ref.part == part).map fun c => (c.ref, (c.nextSeq + c.waiting.length) % 2 ^ 32)
  ops := M.nextId
  loads := M.hbm.flatMap fun k => k.waiting.filter fun w => w.1.part == part
  cfg := cfg

/-- A request that has been accepted but whose data have not come back. A waiting ACQ and a parked pop count as performed
(R422). -/
def Origin.unanswered (o : Origin) (M : Mach) : Bool :=
  match o with
  | .load _ _ _ _ _ => true
  | .fetch _ _ _ _ _ _ _ => true
  | .request m st _ =>
    match ((M.member m).bind fun x => (x.str st).untimed).map Untimed.needs with
    | some (Answer.acq _ _ _) => false
    | some _ => true
    | none => false
  | _ => false

/-- A connection has performed everything sent before a mark, and no arrival before it awaits a resend (R422, R424). -/
def invPassed (M : Mach) (x : ConnRef × Nat) : Bool :=
  match M.conn x.1 with
  | none => true
  | some c =>
    !seqBefore c.nextSeq x.2 && !(c.unacked.any fun u => seqBefore u.p.seq x.2) &&
      !(c.resend.any fun y => seqBefore y.1 x.2) &&
      !(c.asked.any fun y => seqBefore y.1 x.2 && y.2.unanswered M)

/-- A queue operation of the partition from before a number is on its way to its object. -/
def opsBefore (M : Mach) (part n : Nat) : Bool :=
  (opsUnderWay M).any fun op => op.part == part && decide (op.id < n)

/-- Every access from before has completed (R23). -/
def Inv.passed (v : Inv) (M : Mach) (part : Nat) : Bool :=
  v.marks.all (invPassed M) && !opsBefore M part v.ops && v.loads.all fun w => M.hbm.all fun k => !k.waiting.contains w

/-- Start an invalidation: GO reads 1 until R23's completion. -/
def startInv (M : Mach) (part : Nat) (k : InvKind) (cfg : Option Word) : Mach :=
  let v := invNow M part cfg
  (dropTlb (M.updPart part fun q => { q with tlbinv := q.tlbinv ||| 1, invs := q.invs ++ [v] }) part k).raise 1
    (.tlbinvComplete part)

/-- Bits of TLBINV a write may set (R26). -/
def tlbinvMask : Word := 0xC0FFFFFFFFFF0001

/-- A write of TLBINV (R26). -/
def tlbinvPut (M : Mach) (p : Part) (v : Word) : Mach :=
  if p.tlbinv.getLsbD 0 || 2 ≤ wf v 62 2 then M.logIgnored p.id v
  else
    let M := maskWrite M p.id v tlbinvMask fun w q => { q with tlbinv := w }
    if !v.getLsbD 0 then M
    else startInv M p.id (if wf v 62 2 = 0 then .all else .page (wf v 16 40 * 0x10000)) none

/-! ### Table bases and the hot-row region (R60) -/

/-- A physical table base lies in the region of an enabled HRCFG. -/
def inHotRegion (p : Part) (cfg : Word) (base : Nat) : Bool := cfg.getLsbD 0 && hrOverlaps p cfg base 1

/-- A physical table base lies in the hot-row region, or in one that HRCFG is about to name. -/
def Part.hotBase (p : Part) (base : Nat) : Bool :=
  inHotRegion p p.hrcfg base || p.invs.any fun v => v.cfg.any fun w => inHotRegion p w base

/-- Bases the partition control block names by physical address. -/
def tableBases (p : Part) : List Nat :=
  [wf p.ptroot 12 32 * 4096, wf p.expctl 10 34 * 1024, wf p.rgnctl 17 27 * 131072, wf p.hqctl 11 33 * 2048,
    wf p.elog 12 32 * 4096, wf p.connb 20 24 * 1048576, wf p.uepeer 12 32 * 4096]

/-- A write of a register with a table base: not into the enabled hot-row region. -/
def basePut (M : Mach) (p : Part) (v mask : Word) (base : Nat) (f : Word → Part → Part) : Mach :=
  if p.hotBase base then M.logIgnored p.id v else maskWrite M p.id v mask f

/-- A write of PTROOT: a TLBINV of kind ALL goes with it (R25). -/
def ptrootPut (M : Mach) (p : Part) (v : Word) : Mach :=
  if p.hotBase (wf v 12 32 * 4096) then M.logIgnored p.id v
  else
    let M := maskWrite M p.id v 0x00000FFFFFFFF001 fun w q => { q with ptroot := w }
    ensurePops (startInv M p.id .all none) p.id

/-! ### Export and region tables (R28, R29, R88 to R91) -/

/-- An export entry as a port holds it; none when disabled. -/
def exportEntry (lo hi : Nat) : Option ExportEntry :=
  let base := fld hi 0 56
  if fld hi 56 8 ≠ 0 || fld lo 8 16 ≠ 0 || fld lo 0 3 ≠ 0 || base % 0x10000 ≠ 0 then none
  else if fld lo 24 40 = 0 || !bitOf lo 7 then none
  else some ⟨base, fld lo 24 40, bitOf lo 6, bitOf lo 5, bitOf lo 4, bitOf lo 3⟩

/-- An export entry that is disabled for a bit that must be zero is logged. -/
def exportBad (lo hi : Nat) : Bool :=
  fld hi 56 8 ≠ 0 || fld lo 8 16 ≠ 0 || fld lo 0 3 ≠ 0 || fld hi 0 16 ≠ 0

/-- The words of a physical table of entries of `n` words. -/
def tableWords (M : Mach) (base n count : Nat) : List (List Word) :=
  (List.range count).map fun i => wordsOf n (M.get (base + 8 * n * i) (8 * n))

/-- EXPCTL as it reads in a wall-clock cycle: LOAD is 1 until every port holds the new copy (R29). -/
def Part.expctlAt (p : Part) (t : Nat) : Word := if t < p.expdue then p.expctl ||| 0x80 else p.expctl

/-- LOAD: the table is read, and each port holds it from a cycle of its own on (R29). -/
def loadExports (M : Mach) (part : Nat) (es : List ExportEntry) : Mach :=
  { M with free := M.free + 1 }.updPart part fun q =>
    let l : ExportLoad := ⟨q.exports, M.wclk, M.free⟩
    { q with
      exportLoads := l :: if M.wclk < q.expdue then q.exportLoads else []
      exports := es
      expdue := (List.range fabricPorts).foldl (fun t k => max t (l.madeAt k)) q.expdue }

/-- A table the device reads for a partition is poisoned: ECC (R77), and nothing of it is taken. -/
def tablePoison (M : Mach) (part base n : Nat) : Option Mach :=
  (homePoison M [(base, n)]).map fun pa => partFault M part 0 pa

/-- A write of EXPCTL; LOAD copies the table into the ports (R29). A BASE outside the partition's HBM is logged and
nothing is copied: the model's choice (assumption 43). -/
def expctlPut (M : Mach) (p : Part) (v : Word) : Mach :=
  let base := wf v 10 34 * 1024
  if p.hotBase base then M.logIgnored p.id v
  else
    let n := min 64 (wf v 0 7)
    let M := if 64 < wf v 0 7 then M.logIgnored p.id v else M
    let M := maskWrite M p.id v 0x00000FFFFFFFFCFF fun w q => { q with expctl := w64 (putFld w.toNat 7 1 0) }
    if !v.getLsbD 7 then M
    else if !ownsHbm p base 1024 then M.logIgnored p.id v
    else
      match tablePoison M p.id base (16 * n) with
      | some M => M
      | none =>
      let es := tableWords M base 2 n
      let M := es.foldl (fun M e => if exportBad (recW e 0) (recW e 1) then M.logIgnored p.id (e.getD 1 0) else M) M
      loadExports M p.id (es.filterMap fun e => exportEntry (recW e 0) (recW e 1))

/-- A region entry with V and a length. -/
def regionOn (e : List Word) : Bool := bitOf (recW e 0) 0 && fld (recW e 1) 0 40 ≠ 0

/-- A region entry is well-formed (R88). -/
def regionOk (e : List Word) : Bool :=
  fld (recW e 0) 1 15 = 0 && fld (recW e 0) 56 8 = 0 && fld (recW e 1) 40 24 = 0 && fld (recW e 2) 56 8 = 0 &&
    recW e 3 = 0 && fld (recW e 2) 0 6 = 0

/-- The entry's range and object. -/
def regionOfWords (e : List Word) : RegionEntry := ⟨fld (recW e 0) 16 40 * 0x10000, fld (recW e 1) 0 40, fld (recW e 2) 0 56⟩

/-- The enabled entries of a region table, and those that are disabled and logged (R88). -/
def classRegions (es : List (List Word)) : List RegionEntry × List RegionEntry :=
  let on := es.filter regionOn
  let good := (on.filter regionOk).map regionOfWords
  let covered (r : RegionEntry) : Bool := good.any fun g => decide (g.base ≤ r.obj) && decide (r.obj < g.base + g.pages * 0x10000)
  (good.filter fun r => !covered r,
   ((on.filter fun e => !regionOk e).map regionOfWords) ++ good.filter covered)

/-- Install the region table that LOAD named in `v` (R91). -/
def installRegions (M : Mach) (p : Part) (v : Word) : Mach :=
  let base := wf v 17 27 * 131072
  let M := fenceAll M p.id
  let M := M.updPart p.id fun q => { q with rgnctl := w64 (putFld q.rgnctl.toNat 13 1 0), rgnload := none }
  if !ownsHbm p base 131072 then M.logIgnored p.id v
  else
    match tablePoison M p.id base (32 * min 4096 (wf v 0 13)) with
    | some M => M
    | none =>
    let (on, off) := classRegions (tableWords M base 4 (min 4096 (wf v 0 13)))
    let M := off.foldl (fun M r => M.logIgnored p.id (w64 r.base)) M
    M.updPart p.id fun q => { q with regions := on }

/-- A region table being installed takes effect once every write from before it is performed (R91). -/
def goOnLoad (M : Mach) (part : Nat) : Mach :=
  match (M.part part).bind fun p => p.rgnload.map fun x => (p, x) with
  | none => M
  | some (p, w, v) => if v.passed M part then installRegions M p w else M.raise 64 (.tlbinvComplete part)

/-- A write of RGNCTL (R89): LOAD reads 1 from a write of 1 until the table is installed, whatever else is written. -/
def rgnctlPut (M : Mach) (p : Part) (v : Word) : Mach :=
  let busy := p.rgnload.isSome
  if busy && v.getLsbD 13 then M.logIgnored p.id v
  else if p.hotBase (wf v 17 27 * 131072) then M.logIgnored p.id v
  else
    let M := if 4096 < wf v 0 13 then M.logIgnored p.id v else M
    let M :=
      maskWrite M p.id v 0x00000FFFFFFE3FFF fun w q => { q with rgnctl := if busy then w ||| 0x2000 else w }
    if !v.getLsbD 13 then M
    else
      let x := invNow M p.id none
      goOnLoad (M.updPart p.id fun q => { q with rgnload := some (v, x) }) p.id

/-! ### HRCFG (R59, R60) -/

/-- Zero the hot-row region of every stack of the partition. -/
def zeroRegion (M : Mach) (p : Part) (cfg : Word) : Mach :=
  if !cfg.getLsbD 0 then M
  else
    (List.range (2 * p.dies)).foldl
      (fun M k => { M with mem := memClear M.mem (hrStart cfg (2 * p.id + k)) (hrSize cfg) }) M

/-- A write that makes HRCFG `w` changes EN, or BASE, SETS or SLOT of an enabled region. -/
def hrChanges (old w : Word) : Bool :=
  let fields (x : Word) : Nat × Nat × Nat := (wf x 1 3, wf x 4 5, wf x 16 10)
  (w.getLsbD 0 != old.getLsbD 0) || (w.getLsbD 0 && fields w != fields old)

/-- HRCFG takes a value: translations cached meanwhile go, and the old region and the new are zeroed (R60). -/
def hrcfgTake (M : Mach) (part : Nat) (w : Word) : Mach :=
  match M.part part with
  | none => M
  | some p =>
    let M := if hrChanges p.hrcfg w then zeroRegion (zeroRegion (dropTlb M part .all) p p.hrcfg) p w else M
    M.updPart part fun q => { q with hrcfg := w }

/-- TLBINV_COMPLETE (R23): the oldest invalidation ends once every access from before it has completed; HRCFG takes the
value that waited for it (R60). A region table being installed goes on (R91). -/
def endInv (M : Mach) (part : Nat) : Mach :=
  let M := goOnLoad M part
  match (M.part part).map (·.invs) with
  | some (v :: rest) =>
    if !v.passed M part then M.raise 64 (.tlbinvComplete part)
    else
      let M := fenceAll M part
      let M :=
        match v.cfg with
        | some w => hrcfgTake M part w
        | none => M
      let M :=
        M.updPart part fun q =>
          { q with invs := rest, tlbinv := if rest.isEmpty then q.tlbinv &&& ~~~1#64 else q.tlbinv }
      if rest.isEmpty then M else M.raise 1 (.tlbinvComplete part)
  | _ => M

/-- The value HRCFG has once every write of it has taken effect. -/
def Part.hrNext (p : Part) : Word := ((p.invs.filterMap (·.cfg)).getLast?).getD p.hrcfg

/-- A write of HRCFG, by the firmware (R59, R60). -/
def hrcfgPut (M : Mach) (p : Part) (ag : RegAgent) (v : Word) : Mach :=
  let w := v &&& 0x01F0FFFF03FF01FF
  let en := v.getLsbD 0
  let cdiv := wf v 52 5
  let bad :=
    cdiv < 2 || 16 < cdiv || (en && (wf v 4 5 < 10 || 16 < wf v 4 5 || wf v 1 3 = 7)) ||
      0xC00000000 < wf v 16 10 * 0x4000000 + hrSize w
  if ag ≠ .fw || !p.attached.isEmpty || bad then M.logIgnored p.id v
  else if en && (tableBases p).any (inHotRegion p w) then M.logIgnored p.id v
  else
    let M := if w = v then M else M.logIgnored p.id v
    if hrChanges p.hrNext w || p.invs.any (·.cfg.isSome) then startInv M p.id .all (some w)
    else M.updPart p.id fun q => { q with hrcfg := w }

/-! ### The other registers -/

/-- A write of SCHCFG: in force from the next period boundary (R392). -/
def schcfgPut (M : Mach) (p : Part) (v : Word) : Mach :=
  let period := wf v 0 17
  if period < 1024 || 65536 < period then M.logIgnored p.id v
  else
    needPeriod (maskWrite M p.id v 0x0001FFFF0001FFFF fun w q => { q with schnext := some w }) p.id

/-- A write of HQCTL (R372). -/
def hqctlPut (M : Mach) (p : Part) (v : Word) : Mach :=
  let M := if 64 < wf v 0 7 && !p.hotBase (wf v 11 33 * 2048) then M.logIgnored p.id v else M
  basePut M p v 0x00000FFFFFFFF87F (wf v 11 33 * 2048) fun w q => { q with hqctl := w }

/-! ### Clearing and partitions (R7, R9, R78) -/

/-- CARDB as the firmware chooses it (R385; assumption 5). -/
def cardbValue : Word := 0x00FF000000000000

/-- A partition as the firmware forms it: registers at the resets of their field maps, CDIV of HRCFG at 2 (R59), class 7 of
QWIN1 at 256 ns (R385). -/
def Part.fresh (id dies : Nat) (key : BitVec 32) : Part where
  id := id
  dies := dies
  key := key
  ptroot := 0
  tlbinv := 0
  expctl := 0
  hrcfg := 0x0020000000000000
  rgnctl := 0
  defver := 0
  qwin0 := 0
  qwin1 := 0x0100000000000000
  wdcfg := 24
  hqctl := 0
  schcfg := 0x0000004000001000
  schnext := none
  budg0 := 0
  budg1 := 0
  cardb := cardbValue
  saveb := 0
  elog := 0
  connb := 0
  uepeer := 0
  exports := []
  exportLoads := []
  expdue := 0
  changing := 0
  regions := []
  invs := []
  rgnload := none
  attached := []
  ctxs := []
  queues := []
  tasks := []
  cards := []
  sizes := []
  launched := []
  cpUsed := 0
  lnkUsed := []
  ueUsed := []

/-- Physical ranges a die owns (R12): two stacks, two chiplets, its cores' arrays and B stores, its slices. -/
def dieRanges (d : Nat) : List (Nat × Nat) :=
  [(hbmStack (2 * d), 2 * 0xC00000000), (capChiplet (2 * d), 2 * 0x2000000000), (sramBase (32 * d), 32 * 0x400000),
    (bstoreBase (32 * d), 32 * 0x200000), (stagingBase + 16 * d * 0x400000, 16 * 0x400000)]

/-- A chiplet with every directory entry, sketch, count and unusable mark zeroed (R78). -/
def Chiplet.cleared (c : Chiplet) : Chiplet := ⟨c.num, [], [], 0, []⟩

/-- Clear a die's resources (R9, R78). -/
def clearDie (M : Mach) (d : Nat) : Mach :=
  let M := { M with mem := (dieRanges d).foldl (fun m (r : Nat × Nat) => memClear m r.1 r.2) M.mem }
  { M with
    poison := M.poison.filter fun b => !((dieRanges d).any fun (r : Nat × Nat) => r.1 ≤ b * 64 && b * 64 < r.1 + r.2)
    cores := M.cores.map fun (r : CoreRec) => if r.core / 32 = d then { r with l1 := [] } else r
    chiplets := M.chiplets.map fun (c : Chiplet) => if c.num / 2 = d then c.cleared else c }

/-- Write the descriptor of a job-card object (R385, R112). -/
def cardDescriptor (M : Mach) (p : Part) (k : Nat) : Mach :=
  let w0 := 2 ^ 63 + 64 <<< 32 + 20 <<< 24 + 7 <<< 16 + 4 <<< 8
  let store := p.cardb.toNat + 0x1000000 * (k + 1)
  let a := cardFrame p + 64 * k
  (((M.put a (zeros 64)).setWord a (w64 w0)).setWord (a + 8) (w64 store))

/-- The firmware forms a partition. R9 lists no register: that a new key, or a cleared lowest die, puts the other registers of
the control block back to their resets is the model's choice (assumption 29). -/
def formPart (M : Mach) (id dies : Nat) (key : BitVec 32) : Mach :=
  let p := Part.fresh id dies key
  let M := { M with parts := (M.parts.filter fun q => q.id != id) ++ [p] }
  (List.range 8).foldl (fun M k => cardDescriptor M p k) M

/-- Connections of a partition are torn down (R423). -/
def dropConns (M : Mach) (part : Nat) : Mach :=
  (M.conns.filter fun c => c.ref.part == part || (c.ref.dev == M.self && c.ref.peer == part)).foldl
    (fun M c => teardownHere M c.ref) M

/-- Physical address of a queue's descriptor (R372). -/
def queueDesc (p : Part) (q : Nat) : Nat := wf p.hqctl 11 33 * 2048 + 32 * q

/-- HEAD of a queue. -/
def queueHead (M : Mach) (p : Part) (q : Nat) : Nat := fld (M.word (queueDesc p q + 8)).toNat 0 32

/-- A hardware queue is enabled and holds commands: HEAD ≠ TAIL (R372). -/
def queueHolds (M : Mach) (p : Part) (q : Nat) : Bool :=
  let a := queueDesc p q
  decide (q < min 64 (wf p.hqctl 0 7)) && ownsHbm p a 32 && (M.word a).getLsbD 63 &&
    queueHead M p q != wf (M.word (a + 16)) 0 32

/-- Every context is switched out and every queue drained (R9). -/
def Part.idle (M : Mach) (p : Part) : Bool :=
  (M.members.all fun m => m.ref.part != p.id || m.place == .image) && p.tasks.isEmpty && p.launched.isEmpty &&
    !(List.range 64).any (queueHolds M p)

/-- Dies and key of a partition that can be formed: its size, its alignment, no die of another partition (R7). -/
def partShape (M : Mach) (id dies : Nat) : Bool :=
  (dies == 1 || dies == 2 || dies == 4 || dies == 8) && id % dies == 0 && decide (id + dies ≤ 8) &&
    M.parts.all fun q => q.id == id || decide (q.id + q.dies ≤ id) || decide (id + dies ≤ q.id)

/-- HRCFG is zeroed with the directories of the partition's dies (R78); its old region shows no slot's bytes (R60). -/
def clearHot (M : Mach) (part : Nat) : Mach :=
  match M.part part with
  | none => M
  | some p =>
    let M := hrcfgTake M part 0
    { M with chiplets := M.chiplets.map fun (c : Chiplet) => if p.owns (c.num / 2) then c.cleared else c }

/-- PARTITION_CHANGE (R9): dies 0 dissolves the partition. One that changes neither dies nor key does nothing. The clearing is
one event; the change lasts a free number of cycles, in which remote requests are refused. -/
def changePart (M : Mach) (id dies : Nat) (key : BitVec 32) : Mach :=
  let old := M.part id
  let quiet :=
    match old with
    | some p => p.idle M
    | none => true
  if !quiet || !(dies == 0 && old.isSome || partShape M id dies) || old.any (fun p => p.dies == dies && p.key == key) then M
  else
    let was (d : Nat) : Bool :=
      match old with
      | some p => p.owns d
      | none => false
    let now (d : Nat) : Bool := decide (id ≤ d) && decide (d < id + dies)
    let newKey := key ≠ 0 && (old.map (·.key)) ≠ some key
    let toClear := (List.range 8).filter fun d => (was d != now d) || (now d && newKey)
    let M := dropConns M id
    let M := dropTlb M id .all
    let M := toClear.foldl clearDie M
    let M := if toClear.isEmpty then M else clearHot M id
    let M :=
      if newKey || dies = 0 then
        let xs := (old.map (·.ctxs)).getD []
        xs.foldl (fun M x => removeContext M id x.id) M
      else M
    if dies = 0 then { M with parts := M.parts.filter fun q => q.id != id }
    else
      let M :=
        match old with
        | some p =>
          if newKey || toClear.contains id then
            let M := formPart M id dies key
            M.updPart id fun q => { q with ctxs := if newKey then [] else p.ctxs }
          else
            M.updPart id fun q =>
              { q with
                dies := dies, key := key
                exports := if toClear.isEmpty then q.exports else []
                exportLoads := if toClear.isEmpty then q.exportLoads else [] }
        | none => formPart M id dies key
      { M with free := M.free + 1 }.updPart id fun q =>
        { q with
          changing := M.wclk + Config.freeNat M.free
          -- R78 zeroes HRCFG with the directories
          hrcfg := if toClear.isEmpty then q.hrcfg else 0 }

/-- A write of a register of a partition control block (R24). A non-zero write to a read-only field that is not reserved
(ELOG.HEAD) is dropped and logged as one to a reserved field is: R225 says so of CSRs only, and the choice is the model's
(assumption 17). -/
def pcbPut (M : Mach) (p : Part) (ag : RegAgent) (off : Nat) (v : Word) : Mach :=
  let fwOnly (M' : Mach) : Mach := if ag = .fw then M' else M.logIgnored p.id v
  match off with
  | 0x000 =>
    fwOnly
      (let M := if wf v 32 32 = 0 then M else M.logIgnored p.id v
       changePart M p.id p.dies (v.setWidth 32))
  | 0x008 => ptrootPut M p v
  | 0x010 => tlbinvPut M p v
  | 0x018 => expctlPut M p v
  | 0x020 => hrcfgPut M p ag v
  | 0x028 => rgnctlPut M p v
  | 0x038 => maskWrite M p.id v 0x03FF03FF03FF03FF fun w q => { q with qwin0 := w }
  | 0x040 => maskWrite M p.id v 0x03FF03FF03FF03FF fun w q => { q with qwin1 := w }
  | 0x048 => if wf v 0 5 < 16 then M.logIgnored p.id v else maskWrite M p.id v 0x1F fun w q => { q with wdcfg := w }
  | 0x050 => hqctlPut M p v
  | 0x060 => schcfgPut M p v
  | 0x068 => M.updPart p.id fun q => { q with budg0 := v }
  | 0x070 => M.updPart p.id fun q => { q with budg1 := v }
  | 0x080 => fwOnly (maskWrite M p.id v 0x00FFFFFFFF800000 fun w q => { q with saveb := w })
  | 0x088 =>
    fwOnly
      (basePut M p v 0x00000FFFFFFFF000 (wf v 12 32 * 4096) fun w q => { q with elog := w ||| (q.elog &&& 0x7F) })
  | 0x090 => fwOnly (basePut M p v 0x00000FFFFFF00000 (wf v 20 24 * 1048576) fun w q => { q with connb := w })
  | 0x098 => basePut M p v 0x00000FFFFFFFF000 (wf v 12 32 * 4096) fun w q => { q with uepeer := w }
  | _ => M.logIgnored p.id v

/-- A register write of an agent, when it takes effect at all (R434). -/
def pcbWrite (h : HostSide) (M : Mach) (ag : RegAgent) (part : Nat) (v : Word) (f : Part → Mach) : Mach :=
  match M.part part with
  | none => M.logDev part v.toNat
  | some p => if h.admits M.wclk ag then f p else M.logIgnored part v

/-! ### Events -/

/-- R25. -/
def execPtrootWrite (ag : RegAgent) (part : Nat) (v : Word) (s : State) : Host.Outcome State Fault Refusal :=
  s.liftH fun h M => pcbWrite h M ag part v fun p => ptrootPut M p v

/-- R26: kind ALL. -/
def execTlbinvAll (ag : RegAgent) (part : Nat) (v : Word) (s : State) : Host.Outcome State Fault Refusal :=
  s.liftH fun h M => pcbWrite h M ag part v fun p => tlbinvPut M p (w64 (putFld v.toNat 62 2 0))

/-- R26: kind PAGE. -/
def execTlbinvPage (ag : RegAgent) (part : Nat) (v : Word) (s : State) : Host.Outcome State Fault Refusal :=
  s.liftH fun h M => pcbWrite h M ag part v fun p => tlbinvPut M p (w64 (putFld v.toNat 62 2 1))

/-- R23. -/
def execTlbinvComplete (part : Nat) (s : State) : Host.Outcome State Fault Refusal := s.lift fun M => endInv M part

/-- R29. -/
def execExpctlLoad (ag : RegAgent) (part : Nat) (v : Word) (s : State) : Host.Outcome State Fault Refusal :=
  s.liftH fun h M => pcbWrite h M ag part v fun p => expctlPut M p v

/-- R60. -/
def execHrcfgWrite (ag : RegAgent) (part : Nat) (v : Word) (s : State) : Host.Outcome State Fault Refusal :=
  s.liftH fun h M => pcbWrite h M ag part v fun p => hrcfgPut M p ag v

/-- R91. -/
def execRgnctlLoad (ag : RegAgent) (part : Nat) (v : Word) (s : State) : Host.Outcome State Fault Refusal :=
  s.liftH fun h M => pcbWrite h M ag part v fun p => rgnctlPut M p v

/-- R9; before READY the firmware forms no partition (R435, R437). -/
def execPartitionChange (part dies : Nat) (key : BitVec 32) (s : State) : Host.Outcome State Fault Refusal :=
  s.liftH fun h M => if h.boot = .ready then changePart M part dies key else M

end Sys2Proof.Machine
end

