-- ==== Sys2Proof/Machine/Cp.lean ====
section
/-!
DEFINITION. Hardware queues and the command processors (R371 to R375, R456), the commands, the regulators (R392 to R394).
-/

namespace Sys2Proof

/-- The queue of a command. -/
def Event.queueOf : Event → Option QueueRef
  | .cmdNop q _ | .launch q _ | .launchi q _ | .cmdLoop q _ | .cmdIf q _ | .jump q _ | .wait q _ | .signal q _
  | .sigadd q _ | .write q _ | .cmdFence q _ | .delay q _ | .ctxnew q _ | .ctxend q _ | .intr q _ | .qstop q _ => some q
  | _ => none

/-- FLAGS of a slot (R374). -/
def Slot.flags (s : Slot) : Nat := Machine.wf s.w0 8 8

/-- ARGL. -/
def Slot.argl (s : Slot) : Nat := Machine.wf s.w0 16 32

/-- ARGH. -/
def Slot.argh (s : Slot) : Nat := Machine.wf s.w0 48 16

end Sys2Proof

namespace Sys2Proof.Machine

/-! ### Queues -/

/-- A queue of a partition. -/
def Mach.queue (M : Mach) (r : QueueRef) : Option (Part × HQueue) :=
  match M.part r.part with
  | none => none
  | some p => (p.queues.find? fun q => q.num == r.q).map fun q => (p, q)

/-- Change a queue. -/
def Mach.updQueue (M : Mach) (r : QueueRef) (f : HQueue → HQueue) : Mach :=
  M.updPart r.part fun p => { p with queues := updIf (fun q => q.num == r.q) f p.queues }

/-- Write HEAD. -/
def setHead (M : Mach) (p : Part) (q h : Nat) : Mach :=
  let a := queueDesc p q + 8
  M.setWord a (w64 (putFld (M.word a).toNat 0 32 h))

/-- Stop a queue with a status code (R375). -/
def stopQueue (M : Mach) (r : QueueRef) (stat : Nat) : Mach :=
  match M.part r.part with
  | none => M
  | some p =>
    let a := queueDesc p r.q + 8
    (M.setWord a (w64 (putFld (M.word a).toNat 32 8 stat))).updQueue r fun q =>
      { q with running := false, delay := none, held := false }

/-- Loops in progress. -/
def loopDepth (fs : List (QFrame × Nat)) : Nat :=
  (fs.filter fun f =>
    match f.1 with
    | .loop _ _ _ => true
    | .jump _ _ => false).length

/-- The JUMP buffer in progress: its place and length. -/
def jumpFrame : List (QFrame × Nat) → Option (Word × Nat)
  | [] => none
  | (.jump b n, _) :: _ => some (b, n)
  | (.loop _ _ _, _) :: r => jumpFrame r

/-- The slot's index in its container: the JUMP buffer in progress, or the ring. -/
def slotIndex (fs : List (QFrame × Nat)) (head : Nat) : Nat :=
  match fs with
  | [] => head
  | (.loop start _ _, pos) :: _ => start + pos
  | (.jump _ _, pos) :: _ => pos

/-- Go k slots on: the frames, and how far HEAD moves (R456). -/
def advanceBy : List (QFrame × Nat) → Nat → List (QFrame × Nat) × Nat
  | [], k => ([], k)
  | (.loop start len left, pos) :: r, k =>
    if pos + k < len then ((.loop start len left, pos + k) :: r, 0)
    else if 1 < left then ((.loop start len (left - 1), 0) :: r, 0)
    else advanceBy r (1 + len)
  | (.jump b len, pos) :: r, k => if pos + k < len then ((.jump b len, pos + k) :: r, 0) else advanceBy r 1

/-- The event of a command code (R374). -/
def commandOf (r : QueueRef) (s : Slot) : Option Event :=
  match fld s.w0.toNat 0 8 with
  | 0x00 => some (.cmdNop r s)
  | 0x01 => some (.launch r s)
  | 0x02 => some (.launchi r s)
  | 0x03 => some (.cmdLoop r s)
  | 0x04 => some (.cmdIf r s)
  | 0x05 => some (.jump r s)
  | 0x06 => some (.wait r s)
  | 0x07 => some (.signal r s)
  | 0x08 => some (.sigadd r s)
  | 0x09 => some (.write r s)
  | 0x0A => some (.cmdFence r s)
  | 0x0B => some (.delay r s)
  | 0x0C => some (.ctxnew r s)
  | 0x0D => some (.ctxend r s)
  | 0x0E => some (.intr r s)
  | 0x0F => some (.qstop r s)
  | _ => none

/-- A command of the queue is raised already. -/
def queueBusy (M : Mach) (r : QueueRef) : Bool := M.pending.any fun d => d.ev.queueOf == some r

/-- The budgets of a queue's commands are spent (R393, R394). -/
def budgetSpent (p : Part) (q : HQueue) : Bool :=
  (wf p.budg1 32 32 ≠ 0 && wf p.budg1 32 32 ≤ q.used) || (wf p.budg1 0 32 ≠ 0 && wf p.budg1 0 32 ≤ p.cpUsed)

/-- Where the queue's next command stands, when none of its commands is under way and TAIL or the JUMP buffer reaches it
(R371, R374, R456). -/
def nextSlot (M : Mach) (r : QueueRef) : Option Word :=
  match M.queue r with
  | none => none
  | some (p, q) =>
    if !q.running || q.delay.isSome || q.held || queueBusy M r then none
    else
      let head := queueHead M p r.q
      let i := slotIndex q.frames head
      match jumpFrame q.frames with
      | some (b, _) => some (b + w64 (32 * i))
      | none =>
        let d := M.word (queueDesc p r.q)
        if (i + 2 ^ 32 - head) % 2 ^ 32 < (q.tail + 2 ^ 32 - head) % 2 ^ 32 then
          some (w64 (wf d 0 56 + 32 * (i % 2 ^ wf d 56 5)))
        else none

/-- The queues a command processor serves. -/
def cpQueues (M : Mach) (cp : Nat) : List QueueRef :=
  M.parts.flatMap fun p => (p.queues.filter fun q => q.cp == cp).map fun q => ⟨p.id, q.num⟩

/-- A command of the processor is being performed; one that waits is not (R371). -/
def cpBusy (M : Mach) (cp : Nat) : Bool :=
  (cpQueues M cp).any fun r =>
    queueBusy M r &&
      match M.queue r with
      | some (_, q) => !q.held
      | none => false

/-- The queue has a command to start and budget for it. -/
def cpWants (M : Mach) (r : QueueRef) : Bool :=
  (nextSlot M r).isSome &&
    match M.queue r with
    | some (p, q) => !budgetSpent p q
    | none => false

/-- The queue has a command to start, within its budget or on capacity of its processor that SLACK lends it: no partition
with budget left asks for the processor (R394). -/
def cpReady (M : Mach) (r : QueueRef) : Bool :=
  cpWants M r ||
    ((nextSlot M r).isSome &&
      match M.queue r with
      | some (p, q) => p.schcfg.getLsbD 48 && !(cpQueues M q.cp).any fun x => x.part != r.part && cpWants M x
      | none => false)

/-- Place of a queue in the round of a processor that served queue `last`. -/
def turnOf (last : Nat) (r : QueueRef) : Nat := (64 * r.part + r.q + 511 - last % 512) % 512

/-- Charge a command to the budgets of its queue and partition, counted from the start of each period whether a budget is set
or not (R394); on lent capacity nothing is charged. The cycles a command
takes are open: a free number (assumption 41). -/
def chargeCommand (M : Mach) (r : QueueRef) : Mach :=
  match M.queue r with
  | none => M
  | some (p, q) =>
    if budgetSpent p q then M
    else
      let n := Config.freeNat M.free + 1
      let M := { M with free := M.free + 1 }.updQueue r fun q => { q with used := q.used + 1 }
      let M := M.updPart p.id fun p => { p with cpUsed := p.cpUsed + n }
      needPeriod M p.id

/-- Wall-clock cycles between two looks at a wait of a queue. -/
def holdStep : Nat := 16

/-- Start the queue's next command: read its slot and raise it (R372, R456); while a stack switches its mode the read waits
(R74). -/
def startCommand (M : Mach) (r : QueueRef) (pva : Word) : Mach :=
  let who := cpRef r.part r.q
  if enginesHeld M r.part then (M.updQueue r fun q => { q with held := true }).raise holdStep (.delayExpiry r)
  else
  match devReadAny M r.part who 1 (some (.delayExpiry r)) pva 32 with
  | .fault _ => stopQueue (dropFetched M who 1) r 3
  | .ecc _ => stopQueue (dropFetched M who 1) r 3
  | .asking M => M.updQueue r fun q => { q with held := true }
  | .bytes M bs =>
    let M := dropFetched M who 1
    let ws := wordsOf 4 bs
    match commandOf r ⟨ws.getD 0 0, ws.getD 1 0, ws.getD 2 0, ws.getD 3 0⟩ with
    | none => stopQueue M r 1
    | some e => (chargeCommand M r).raise 1 e

/-- A command processor with nothing under way serves the next of its queues, one command (R371). -/
def serveCp (cp : Nat) : Nat → Mach → Mach
  | 0, M => M
  | fuel + 1, M =>
    if cpBusy M cp then M
    else
      let last := (aGet M.cpTurn cp).getD 511
      match leastBy (turnOf last) ((cpQueues M cp).filter (cpReady M)) with
      | none => M
      | some r =>
        match nextSlot M r with
        | none => M
        | some pva => serveCp cp fuel (startCommand { M with cpTurn := aSet M.cpTurn cp (64 * r.part + r.q) } r pva)

/-- The queue's command processor looks for work; a queue whose budget is spent goes on in the next period. -/
def kickQueue (M : Mach) (r : QueueRef) : Mach :=
  match M.queue r with
  | none => M
  | some (p, q) =>
    let M := if (nextSlot M r).isSome && budgetSpent p q then needPeriod M p.id else M
    serveCp q.cp 512 M

/-- Every queue of a partition looks for its next command. -/
def kickAll (M : Mach) (part : Nat) : Mach :=
  match M.part part with
  | none => M
  | some p => p.queues.foldl (fun M q => kickQueue M ⟨part, q.num⟩) M

/-- How a command ends. -/
inductive CmdEnd where
  /-- Performed; the next `skip` slots are skipped. -/
  | next (M : Mach) (skip : Nat)
  /-- It holds the queue and is tried again. -/
  | hold (M : Mach)
  /-- Remote words are on their way. -/
  | asking (M : Mach)
  /-- The queue stops. -/
  | stop (M : Mach) (stat : Nat)
  /-- The queue enters a loop body or a JUMP buffer. -/
  | enter (M : Mach) (f : QFrame)
  /-- The queue waits for a time. -/
  | delay (M : Mach) (n : Nat)

/-- The queue goes on after k slots. -/
def goOn (M : Mach) (p : Part) (r : QueueRef) (k : Nat) : Mach :=
  match M.queue r with
  | none => M
  | some (_, q) =>
    let (fs, d) := advanceBy q.frames k
    let M := if d = 0 then M else setHead M p r.q (queueHead M p r.q + d)
    kickQueue (dropFetched (M.updQueue r fun q => { q with frames := fs, held := false }) (cpRef p.id r.q) 0) r

/-- The queue's command waits. -/
def holdQueue (M : Mach) (r : QueueRef) : Mach := M.updQueue r fun q => { q with held := true }

/-- Perform a command of a queue; while a stack switches its mode it waits (R74). -/
def cpDo (M : Mach) (r : QueueRef) (e : Event) (f : Mach → Part → HQueue → CmdEnd) : Mach :=
  match M.queue r with
  | none => M
  | some (p, q) =>
    if !q.running || q.delay.isSome then M
    else if enginesHeld M p.id then (holdQueue M r).raise holdStep e
    else
      match f M p q with
      | .next M k => goOn M p r (1 + k)
      | .hold M => kickQueue ((holdQueue (dropFetched M (cpRef p.id r.q) 0) r).raise holdStep e) r
      | .asking M => kickQueue (holdQueue M r) r
      | .stop M stat => kickQueue (stopQueue (dropFetched M (cpRef p.id r.q) 0) r stat) r
      | .enter M fr => kickQueue (M.updQueue r fun q => { q with frames := (fr, 0) :: q.frames, held := false }) r
      | .delay M n =>
        kickQueue ((M.updQueue r fun q => { q with delay := some (M.wclk + n) }).raise n (.delayExpiry r)) r

/-- Fields a code leaves unused are zero: flag bits above `nf`, ARGL, ARGH, words after the n-th. -/
def slotOk (s : Slot) (nf : Nat) (argl argh : Bool) (n : Nat) : Bool :=
  s.flags < 2 ^ nf && (argl || s.argl == 0) && (argh || s.argh == 0) && (1 ≤ n || s.w1 == 0) && (2 ≤ n || s.w2 == 0) &&
    (3 ≤ n || s.w3 == 0)

/-! ### The commands (R374) -/

/-- R374. -/
def execCmdNop (r : QueueRef) (k : Slot) (s : State) : Host.Outcome State Fault Refusal :=
  s.lift fun M => cpDo M r (.cmdNop r k) fun M _ _ => if slotOk k 0 false false 0 then .next M 0 else .stop M 2

/-- LAUNCH and LAUNCHI (R380, R384): the checks in their order; the loop-nest record is read for the last. -/
def launchTask (M : Mach) (p : Part) (q : HQueue) (tcb : Nat) (sizes : Option (List Nat)) : CmdEnd :=
  match tcbRead M p.id tcb with
  | none => .stop M 3
  | some w =>
    if tcbState (recW w 0) ≠ 0 || !tcbFields M p.id w then .stop M 5
    else
    match recRead M p.id 8 (recW w 1) with
    | none => .stop M 3
    | some nest =>
      let counts := sizes.getD (countsOf nest 1)
      if !nestOk nest counts then .stop M 5
      else
        let M :=
          M.updPart p.id fun p =>
            { p with
              launched := p.launched ++ [tcb]
              sizes := match sizes with
                | some c => aSet p.sizes tcb c
                | none => p.sizes
              queues := updIf (fun x => x.num == q.num) (fun x => { x with tasks := x.tasks ++ [tcb] }) p.queues }
        if fld (recW w 0) 0 16 = 0 then
          let w0 := putFld (recW w 0) 40 3 2
          .next (publishCard (tcbPut M p.id tcb w0) p.id tcb w0 none) 0
        else .next (tcbPut M p.id tcb (putFld (recW w 0) 40 3 1)) 0

/-- R380. -/
def execLaunch (r : QueueRef) (k : Slot) (s : State) : Host.Outcome State Fault Refusal :=
  s.lift fun M =>
    cpDo M r (.launch r k) fun M p q =>
      if !slotOk k 0 false false 1 || !aligned k.w1 128 then .stop M 2
      else launchTask M p q k.w1.toNat none

/-- R384: the size block is read with an acquire at .pkg. -/
def execLaunchi (r : QueueRef) (k : Slot) (s : State) : Host.Outcome State Fault Refusal :=
  s.lift fun M =>
    cpDo M r (.launchi r k) fun M p q =>
      if !slotOk k 0 false false 2 || !aligned k.w1 128 || !aligned k.w2 8 then .stop M 2
      else
        match devReadAny M p.id (cpRef p.id r.q) 0 (some (.launchi r k)) k.w2 24 with
        | .fault _ => .stop M 3
        | .ecc _ => .stop M 3
        | .asking M => .asking M
        | .bytes M bs => launchTask M p q k.w1.toNat (some (countsOf (wordsOf 3 bs) 0))

/-- TAIL covers the k slots after the command, or they stand in a JUMP buffer (R374). -/
def tailCovers (M : Mach) (p : Part) (q : HQueue) (k : Nat) : Bool :=
  (jumpFrame q.frames).isSome ||
    let head := queueHead M p q.num
    decide ((slotIndex q.frames head + 2 ^ 32 - head) % 2 ^ 32 + 1 + k ≤ (q.tail + 2 ^ 32 - head) % 2 ^ 32)

/-- R374, R375: at most four deep, inside a JUMP buffer's end, and not before TAIL covers the body. -/
def execCmdLoop (r : QueueRef) (k : Slot) (s : State) : Host.Outcome State Fault Refusal :=
  s.lift fun M =>
    cpDo M r (.cmdLoop r k) fun M p q =>
      let b := k.argh
      let i := slotIndex q.frames (queueHead M p r.q)
      if !slotOk k 0 true true 0 || b = 0 || 1024 < b then .stop M 2
      else if 4 ≤ loopDepth q.frames then .stop M 4
      else if (match jumpFrame q.frames with
          | some (_, n) => decide (n < i + 1 + b)
          | none => false) then .stop M 4
      else if !tailCovers M p q b then .hold M
      else if k.argl = 0 then .next M b
      else .enter M (.loop (i + 1) b k.argl)

/-- R374; a skip past TAIL waits until TAIL covers it, as a body does (assumption 41). -/
def execCmdIf (r : QueueRef) (k : Slot) (s : State) : Host.Outcome State Fault Refusal :=
  s.lift fun M =>
    cpDo M r (.cmdIf r k) fun M p q =>
      if !slotOk k 2 true false 3 || !aligned k.w1 8 then .stop M 2
      else
        match devReadAny M p.id (cpRef p.id r.q) 0 (some (.cmdIf r k)) k.w1 8 with
        | .fault _ => .stop M 3
        | .ecc _ => .stop M 3
        | .asking M => .asking M
        | .bytes M bs =>
          let v := wOfBytes bs &&& k.w3
          let holds : Bool :=
            match k.flags with
            | 0 => v == k.w2
            | 1 => v != k.w2
            | 2 => k.w2.toNat ≤ v.toNat
            | _ => v.toNat < k.w2.toNat
          if holds then .next M 0 else if tailCovers M p q k.argl then .next M k.argl else .hold M

/-- R374, R375. -/
def execJump (r : QueueRef) (k : Slot) (s : State) : Host.Outcome State Fault Refusal :=
  s.lift fun M =>
    cpDo M r (.jump r k) fun M _ q =>
      if !slotOk k 0 true false 1 || !aligned k.w1 32 || k.argl = 0 || 65536 < k.argl then .stop M 2
      else if (jumpFrame q.frames).isSome then .stop M 4
      else .enter M (.jump k.w1 k.argl)

/-- R374. -/
def execWait (r : QueueRef) (k : Slot) (s : State) : Host.Outcome State Fault Refusal :=
  s.lift fun M =>
    cpDo M r (.wait r k) fun M p _ =>
      if !slotOk k 3 false false 2 || 6 ≤ k.flags || !aligned k.w1 8 then .stop M 2
      else
        match devReadAny M p.id (cpRef p.id r.q) 0 (some (.wait r k)) k.w1 8 with
        | .fault _ => .stop M 3
        | .ecc _ => .stop M 3
        | .asking M => .asking M
        | .bytes M bs => if k.w2.toNat ≤ (wOfBytes bs).toNat then .next M 0 else .hold M

/-- Every task the queue launched has finished, and at .pod its posted writes are acknowledged (R382, R109). -/
def mayRelease (M : Mach) (p : Part) (q : HQueue) (sc : Nat) : Bool :=
  q.tasks.isEmpty && !(sc == 5 && outstanding M (cpRef p.id q.num) .c)

/-- R374, R99: an ordering word into a bound region is an operand out of range (assumption 41). -/
def execSignal (r : QueueRef) (k : Slot) (s : State) : Host.Outcome State Fault Refusal :=
  s.lift fun M =>
    cpDo M r (.signal r k) fun M p q =>
      if !slotOk k 3 false false 2 || 6 ≤ k.flags || !aligned k.w1 8 then .stop M 2
      else if !inDefault p k.w1.toNat 8 then .stop M 2
      else if !mayRelease M p q k.flags then .hold M
      else
        match devStore M p.id (cpRef p.id r.q) k.w1 (wBytes k.w2) with
        | .ok M => .next M 0
        | .error _ => .stop M 3

/-- AADD.rel at another partition: the queue goes on once the answer has come (R109, R418). -/
def addFar (M : Mach) (who : MRef) (dev : DevRef) (peer ra : Nat) (v : Word) (sc : Nat) (wake : Event) : CmdEnd :=
  match M.fetched.find? fun f => f.who == who && f.tag == 0 && f.dev == dev && f.peer == peer && f.addr == ra with
  | none =>
    let c : ConnRef := ⟨who.part, dev, peer⟩
    let M := { M with fetched := M.fetched ++ [(⟨who, 0, dev, peer, ra, 8, none, [], some wake⟩ : Fetch)] }
    .asking
      (sendOn M c (newPacket M c 2 ra (kspec (0x50 + 1 <<< 8 + 2 <<< 9 + sc <<< 11)) (beat [v, 0]))
        (.fetch who 0 who.part dev peer ra 8))
  | some f =>
    match f.code with
    | none => .asking M
    | some 0 => .next M 0
    | some _ => .stop M 3

/-- R374, R255. -/
def execSigadd (r : QueueRef) (k : Slot) (s : State) : Host.Outcome State Fault Refusal :=
  s.lift fun M =>
    cpDo M r (.sigadd r k) fun M p q =>
      if !slotOk k 3 false false 2 || 6 ≤ k.flags || !aligned k.w1 8 then .stop M 2
      else if !inDefault p k.w1.toNat 8 then .stop M 2
      else if !mayRelease M p q k.flags then .hold M
      else
        match devSpan M p.id .atomic k.w1 8 with
        | .ok (M, (.local pa, _) :: _) =>
          if M.poisoned pa 8 then .stop M 3 else .next (homeAtom M pa 0x50 true k.w2.toNat 0).1 0
        | .ok (M, (.remote dev peer ra, _) :: _) => addFar M (cpRef p.id r.q) dev peer ra k.w2 k.flags (.sigadd r k)
        | .ok (M, []) => .stop M 3
        | .error _ => .stop M 3

/-- R374: a plain store. -/
def execWrite (r : QueueRef) (k : Slot) (s : State) : Host.Outcome State Fault Refusal :=
  s.lift fun M =>
    cpDo M r (.write r k) fun M p _ =>
      if !slotOk k 0 false false 2 || !aligned k.w1 8 then .stop M 2
      else
        match devStore M p.id (cpRef p.id r.q) k.w1 (wBytes k.w2) with
        | .ok M => .next M 0
        | .error _ => .stop M 3

/-- R374, R101. -/
def execCmdFence (r : QueueRef) (k : Slot) (s : State) : Host.Outcome State Fault Refusal :=
  s.lift fun M =>
    cpDo M r (.cmdFence r k) fun M p q =>
      if !slotOk k 3 false false 0 || 6 ≤ k.flags then .stop M 2
      else if mayRelease M p q k.flags then .next M 0
      else .hold M

/-- R374. -/
def execDelay (r : QueueRef) (k : Slot) (s : State) : Host.Outcome State Fault Refusal :=
  s.lift fun M =>
    cpDo M r (.delay r k) fun M _ _ => if slotOk k 0 true false 0 then .delay M k.argl else .stop M 2

/-- R374: the delay is over, and the queue goes on. -/
def execDelayExpiry (r : QueueRef) (s : State) : Host.Outcome State Fault Refusal :=
  s.lift fun M =>
    match M.queue r with
    | none => M
    | some (p, q) =>
      match q.delay with
      | none => kickQueue (M.updQueue r fun q => { q with held := false }) r
      | some t => if M.wclk < t then M else goOn (M.updQueue r fun q => { q with delay := none }) p r 1

/-- R378. -/
def execCtxnew (r : QueueRef) (k : Slot) (s : State) : Host.Outcome State Fault Refusal :=
  s.lift fun M =>
    cpDo M r (.ctxnew r k) fun M p _ =>
      if !slotOk k 0 true false 1 || 4096 ≤ k.argl || !aligned k.w1 64 then .stop M 2
      else
        match devReadAny M p.id (cpRef p.id r.q) 0 (some (.ctxnew r k)) k.w1 64 with
        | .fault _ => .stop M 3
        | .ecc _ => .stop M 3
        | .asking M => .asking M
        | .bytes M bs =>
          let w := wordsOf 8 bs
          let gid := groupId p (recW w 7)
          if p.ctxs.any (fun c => c.id == k.argl) || launchBad M p w ||
              (gid ≠ 0 && groupBad M gid (fld (recW w 7) 16 16)) then .stop { M with free := M.free + 1 } 6
          else
            let n := if recW w 4 = 0 then 0 else fld (recW w 5) 0 16
            match devReadAny M p.id (cpRef p.id r.q) 0 (some (.ctxnew r k)) (w.getD 4 0) (n * 0x2000) with
            | .fault _ => .stop M 3
            | .ecc _ => .stop M 3
            | .asking M => .asking M
            | .bytes M img => .next (createContext { M with free := M.free + 1 } p k.argl w (chunks 0x2000 n img)) 0

/-- A task of the context has not finished. -/
def ctxBusy (M : Mach) (p : Part) (ctx : Nat) : Bool :=
  p.tasks.any (fun t => t.ctx == ctx) ||
    p.launched.any fun tcb =>
      match tcbRead M p.id tcb with
      | some w => fld (recW w 0) 28 12 == ctx
      | none => false

/-- R374. -/
def execCtxend (r : QueueRef) (k : Slot) (s : State) : Host.Outcome State Fault Refusal :=
  s.lift fun M =>
    cpDo M r (.ctxend r k) fun M p _ =>
      if !slotOk k 0 true false 0 || 4096 ≤ k.argl then .stop M 2
      else if !p.ctxs.any (fun c => c.id == k.argl) then .stop M 6
      else if ctxBusy M p k.argl then .hold M
      else .next (removeContext M p.id k.argl) 0

/-- R374, R431. -/
def execIntr (r : QueueRef) (k : Slot) (s : State) : Host.Outcome State Fault Refusal :=
  s.liftH fun h M =>
    cpDo M r (.intr r k) fun M _ _ =>
      if !slotOk k 0 true false 0 || 2048 ≤ k.argl then .stop M 2
      else .next { M with msix := M.msix ++ [(k.argl, h.ownerAt M.wclk)] } 0

/-- R374. -/
def execQstop (r : QueueRef) (k : Slot) (s : State) : Host.Outcome State Fault Refusal :=
  s.lift fun M => cpDo M r (.qstop r k) fun M _ _ => if slotOk k 0 false false 0 then .stop M 7 else .stop M 2

/-! ### Doorbells (R372, R373, R375) -/

/-- HQDB: the command processor reads the descriptor and TAIL. A queue that had none is given a processor: which one is
the firmware's choice, a free number. -/
def ringDoorbell (M : Mach) (p : Part) (v : Word) : Mach :=
  let q := wf v 0 6
  let a := queueDesc p q
  let M := if wf v 6 58 = 0 then M else M.logIgnored p.id v
  let d0 := M.word a
  let d1 := M.word (a + 8)
  let d2 := M.word (a + 16)
  if min 64 (wf p.hqctl 0 7) ≤ q || !ownsHbm p a 32 || !d0.getLsbD 63 then M.logIgnored p.id v
  else if wf d1 32 8 ≠ 0 then M
  else
    let r : QueueRef := ⟨p.id, q⟩
    let tail := wf d2 0 32
    let M :=
      if p.queues.any fun x => x.num == q then M.updQueue r fun x => { x with tail := tail, running := true }
      else
        { M with free := M.free + 1 }.updPart p.id fun p =>
          { p with queues := p.queues ++ [(⟨q, tail, true, [], [], none, 0, Config.freeNat M.free % 8, false⟩ : HQueue)] }
    let bad :=
      wf d0 61 2 ≠ 0 || wf d1 40 24 ≠ 0 || wf d2 32 32 ≠ 0 || M.word (a + 24) ≠ 0 || wf d0 56 5 < 4 || 20 < wf d0 56 5 ||
        wf d0 0 56 % (32 * 2 ^ wf d0 56 5) ≠ 0
    if bad then stopQueue M r 2
    else if 2 ^ wf d0 56 5 < (tail + 2 ^ 32 - wf d1 0 32) % 2 ^ 32 then stopQueue M r 8
    else kickQueue M r

/-- R372, R373: a device stream of the partition rings too, and what it has stored is at its homes first. -/
def execHqdb (ag : RegAgent) (part : Nat) (v : Word) (s : State) : Host.Outcome State Fault Refusal :=
  s.liftH fun h M =>
    match ag with
    | .stream m st =>
      if m.part = part then pcbWrite h (toHomes M m st) .fw part v fun p => ringDoorbell (toHomes M m st) p v
      else ignoreWrite M part v
    | _ => pcbWrite h M ag part v fun p => ringDoorbell M p v

/-! ### Regulators (R394) -/

/-- What a use carries into the next period: its overdraw. -/
def carry (budget used : Nat) : Nat := if budget = 0 then 0 else used - budget

/-- A regulator of the partition holds something carried into this period. -/
def Part.overdrawn (p : Part) : Bool :=
  p.cpUsed ≠ 0 || p.queues.any (fun q => q.used ≠ 0) || !p.lnkUsed.isEmpty || !p.ueUsed.isEmpty

/-- PERIOD_BOUNDARY: SCHCFG takes its new value, and every regulator starts again (R392, R394, R66). -/
def beginPeriod (M : Mach) (part : Nat) : Mach :=
  match M.part part with
  | none => M
  | some p =>
    let M :=
      M.updPart part fun p =>
        { p with
          schcfg := p.schnext.getD p.schcfg
          schnext := none
          cpUsed := carry (wf p.budg1 0 32) p.cpUsed
          queues := p.queues.map fun q => { q with used := carry (wf p.budg1 32 32) q.used }
          lnkUsed := (p.lnkUsed.map fun x => (x.1, carry (wf p.budg0 0 32) x.2)).filter fun x => x.2 ≠ 0
          ueUsed := (p.ueUsed.map fun x => (x.1, carry (wf p.budg0 32 32) x.2)).filter fun x => x.2 ≠ 0 }
    let M :=
      { M with chiplets := M.chiplets.map fun c => if p.owns (c.num / 2) then { c with promoted := 0 } else c }
    let M := flushReturned (kickAll M part) part
    -- an overdraw that is left needs the next boundary too
    if (M.part part).any Part.overdrawn then needPeriod M part else M

/-- R394. -/
def execPeriodBoundary (part : Nat) (s : State) : Host.Outcome State Fault Refusal :=
  s.lift fun M => beginPeriod M part

end Sys2Proof.Machine
end

