-- ==== Sys2Proof/Machine/Access.lean ====
section
/-!
DEFINITION. Queue loads and tile transfers of the A stream (R322 to R331): QLD, QLDX, QFLUSH, TGET, TSEND, TSTO, BLD.
-/

namespace Sys2Proof.Machine

/-! ### Operands -/

/-- An address computed with unbounded integers: a PVA, or ADDR_TOP (R10, R326). -/
def intAddr (v : Int) : Except XFault Word :=
  if 0 ≤ v && v < 2 ^ 56 then .ok (w64 v.toNat) else .error ⟨0x01, 7, 0, w64 (unsgn 64 v), false⟩

/-- A run of n sectors from a local sector (R324): its tile and first sector. -/
def Member.sectorRun (m : Member) (g n : Nat) : Option (Nat × Nat) :=
  if 128 * m.tilesN ≤ g || 128 < g % 128 + n then none else some (g / 128, g % 128)

/-- A run of n rows from a local row (R324): its tile and first row. -/
def Member.rowRun (m : Member) (g n : Nat) : Option (Nat × Nat) :=
  if 64 * m.tilesN ≤ g || 64 < g % 64 + n then none else some (g / 64, g % 64)

/-- A tile address is well-formed (R323). -/
def taddrOk (w : Word) : Bool :=
  wf w 61 2 = 0 && wf w 25 3 = 0 && wf w 7 9 = 0 && (w.getLsbD 63 || wf w 51 10 = 0)

/-- The device a tile address names. -/
def taddrDev (M : Mach) (w : Word) : DevRef := if w.getLsbD 63 then ⟨wf w 56 5, wf w 51 5⟩ else M.self

/-- The member a tile address names. -/
def taddrMember (w : Word) : MRef := ⟨wf w 48 3, wf w 36 12, wf w 28 8⟩

/-- A member's own tile address (R323). -/
def ownTaddr (m : MRef) (tile sect : Nat) : Word :=
  w64 (sect + tile <<< 16 + m.rank <<< 28 + m.ctx <<< 36 + m.part <<< 48)

/-! ### Arrivals of commands -/

/-- The region mark of a command (R166). -/
def Cmd.mark (c : Cmd) (m : Member) : Option (Nat × Nat) :=
  match c.epoch, m.region with
  | some e, some g => if g.epoch = e then some (m.ref.rank, e) else none
  | _, _ => none

/-- Send an arrival of a command: it is counted until it is in, and its receiver is noted for an open region. -/
def sendCmdArrival (M : Mach) (r : CmdRef) (dev : DevRef) (a : Arrival) : Mach :=
  let M := M.updCmd r fun c => { c with out := c.out + 1 }
  let M :=
    if a.region.isSome then
      M.updMember r.m fun m =>
        { m with
          region :=
            m.region.map fun g => if g.reached.contains a.dst then g else { g with reached := g.reached ++ [a.dst] } }
    else M
  sendArrival M dev a

/-- A plain or combining arrival of a command at a tile address. -/
def cmdArrival (m : Member) (c : Cmd) (taddr : Word) (tile sector : Nat) (dst : MRef) (kind : CType) (sc : Scope)
    (mask : BitVec 64) (data : List Byte) : Arrival where
  dst := dst
  tile := tile
  sector := sector
  kind := kind
  poison := false
  scope := sc
  mask := mask
  data := data
  region := c.mark m
  sender := ⟨m.ref, c.st, some c.ref, false, taddr, none, none, (m.str c.st).nissue⟩

/-! ### Queue loads (R325 to R327) -/

/-- Translate rows of 128 bytes, given by integer addresses; none reads nothing. -/
def Ctx.rowSpans (c : Ctx) : Mach → List (Option Int) → Except Res (Mach × List (Option (List (Target × Nat))))
  | M, [] => .ok (M, [])
  | M, none :: rest =>
    match c.rowSpans M rest with
    | .ok (M, ts) => .ok (M, none :: ts)
    | .error r => .error r
  | M, some v :: rest =>
    match intAddr v with
    | .error f => .error (c.xtrap f .read)
    | .ok pva =>
      match ({ c with M := M } : Ctx).reach .read pva 128 with
      | .error f => .error (c.xtrap f .read)
      | .ok (M, ts) =>
        if remotePieces ts ≠ 0 then .error (.trap (illOpnd c.raw))
        else
          match spanPoison M ts with
          | some pa => .error (.trap (eccTrap c.raw pa))
          | none =>
            match c.rowSpans M rest with
            | .ok (M, us) => .ok (M, some ts :: us)
            | .error r => .error r

/-- Push rows: each takes a place, and its data land later (R325, R38). -/
def pushRows (M : Mach) (m : Member) (s : Stream) (q : BitVec 3) : List (Option (List (Target × Nat))) → Mach
  | [] => M
  | ts :: rest =>
    let (M, data) : Mach × List Byte :=
      match ts with
      | none => (M, zeros 128)
      | some ps => localPart M m s (m.core.getD 0) false ps
    let id := ((M.member m.ref).map (·.nextId)).getD 0
    let M :=
      M.updMember m.ref fun m =>
        { m with
          nextId := m.nextId + 1
          queues := m.queues.set q.toNat (m.queue q ++ [(⟨id, data, false⟩ : QRow)]) q.isLt }
    pushRows (M.raise 1 (.dataLanding m.ref (32 + id))) m s q rest

/-- The rows of QLD and QLDX: the wait for room, then the translations, then the places. -/
def Ctx.queueLoad (c : Ctx) (M : Mach) (q : BitVec 3) (n : Nat) (rows : List (Option Int)) : Except Res Mach :=
  if 32 < (c.mem.queue q).length + n || c.mustQueue (.queueRoom q.toNat n) then .error (.wait .queue (.queueRoom q.toNat n))
  else
    match c.rowSpans M rows with
    | .error r => .error r
    | .ok (M, ts) => .ok (pushRows M c.mem c.s q ts)

/-- R325. -/
def execQld (q : BitVec 3) (b stride n : Reg) (s : State) : Host.Outcome State Fault Refusal :=
  word (.qld q b stride n)
    (fun c =>
      let base := c.reg b
      let k := (c.reg n).toNat
      if !aligned base 64 || !aligned (c.reg stride) 64 || k = 0 || 32 < k then .trap (illOpnd c.raw)
      else
        match c.queueLoad c.M q k ((List.range k).map fun (i : Nat) => some ((base.toNat : Int) + (i : Int) * (c.reg stride).toInt)) with
        | .error r => r
        | .ok M => .done M) s

/-- A load of a span by the stream: its own pieces through its store buffer and L1, remote ones by request. -/
def Ctx.readSpan (c : Ctx) (pva : Word) (n : Nat) : ReadEnd :=
  match c.span .read pva n with
  | .error f => .fault f
  | .ok (M, ts) =>
    if remotePieces ts ≠ 0 then readPieces M c.mem.ref c.tag none pva ts
    else
      match spanPoison M ts with
      | some pa => .ecc pa
      | none =>
        let (M, bs) := localPart M c.mem c.s (c.mem.core.getD 0) false ts
        .bytes M bs

/-- What QLDX does (R326): the list is an untimed load, then the word acts as QLD. -/
def Ctx.qldx (c : Ctx) (q : BitVec 3) (b stride list n : Reg) : Res :=
  let base := c.reg b
  let k := (c.reg n).toNat
  if !aligned base 64 || !aligned (c.reg stride) 64 || !aligned (c.reg list) 4 || k = 0 || 32 < k then .trap (illOpnd c.raw)
  else
    match c.readSpan (c.reg list) (4 * k) with
    | .fault f => c.xtrap f .read
    | .ecc pa => .trap (eccTrap c.raw pa)
    | .asking M => c.await M
    | .bytes M bs =>
      let rows :=
        (List.range k).map fun i =>
          let x := leNat ((bs.drop (4 * i)).take 4)
          if x = 0xFFFFFFFF then none else some (base.toNat + x * (c.reg stride).toInt)
      match c.queueLoad (dropFetched M c.mem.ref c.tag) q k rows with
      | .error r => r
      | .ok M => c.untimedNow M []

/-- R326. -/
def execQldx (q : BitVec 3) (b stride list n : Reg) (s : State) : Host.Outcome State Fault Refusal :=
  word (.qldx q b stride list n) (fun c => c.qldx q b stride list n) s

/-- R327: rows and reserved places are discarded; data of a discarded place find no place when they land. -/
def execQflush (q : BitVec 3) (s : State) : Host.Outcome State Fault Refusal :=
  wordOut (.qflush q) (fun c => .done (c.upd fun m => { m with queues := m.queues.set q.toNat [] q.isLt })) s

/-! ### TGET and BLD (R328, R331) -/

/-- A member's copy sequences may work: it is on a core and not halted by pre-emption (R341, R404). -/
def Member.engines (m : Member) : Bool := m.core.isSome && m.freeze ≠ .halted

/-- Sectors of a TGET from `k` on. -/
def tgetLoop (m : Member) (c : Cmd) (src : Word) (g : Nat) : Nat → Nat → Mach → Mach
  | 0, _, M => engineEnds M c.ref
  | left + 1, k, M =>
    let at_ (M : Mach) : Mach :=
      M.updCmd c.ref fun x => { x with run := .tget src g (k + left + 1) k, pos := k }
    match readAny M m c.ref.tag c.ref.wake .engineRead (src + w64 (64 * k)) 64 with
    | .asking M => at_ M
    | .fault f => engineFault (at_ M) c.ref (engineTrap c.ref.num f .engineRead k)
    | .ecc pa => engineFault (at_ M) c.ref (eccTrap 0 pa)
    | .bytes M bs =>
      let t := (g + k) / 128
      let a :=
        cmdArrival m c (ownTaddr m.ref t ((g + k) % 128)) t ((g + k) % 128) m.ref .plain .core (BitVec.allOnes 64) bs
      tgetLoop m c src g left (k + 1) (sendCmdArrival M c.ref M.self a)

/-- Write bytes of a member's B store: on its core, or in its save image (R37, R407). The core keeps no older copy of them
(R81). -/
def bstoreWrite (M : Mach) (m : Member) (off : Nat) (bs : List Byte) : Mach :=
  match m.place with
  | .core c => (dropCopies M m.ref [(.local (bstoreBase c + off), bs.length)]).put (bstoreBase c + off) bs
  | .image =>
    match savePa M m (0x600000 + off) with
    | some pa => M.put pa bs
    | none => M

/-- Columns of a BLD from `k` on. -/
def bldLoop (m : Member) (c : Cmd) (src : Word) (col0 n boff len : Nat) (stride : Int) : Nat → Nat → Mach → Mach
  | 0, _, M => engineEnds M c.ref
  | left + 1, k, M =>
    let at_ (M : Mach) : Mach := M.updCmd c.ref fun x => { x with run := .bld src col0 n boff len stride k, pos := k }
    let stop (f : XFault) : Mach := engineFault (at_ M) c.ref (engineTrap c.ref.num f .engineRead k)
    match intAddr (src.toNat + k * stride) with
    | .error f => stop f
    | .ok pva =>
      match readAny M m c.ref.tag c.ref.wake .engineRead pva len with
      | .asking M => at_ M
      | .fault f => stop f
      | .ecc pa => engineFault (at_ M) c.ref (eccTrap 0 pa)
      | .bytes M bs =>
        bldLoop m c src col0 n boff len stride left (k + 1) (bstoreWrite M m ((col0 + k) * 0x4000 + boff) bs)

/-- A TGET or BLD goes on from its committed position, also while its member is switched out (R353, R404). -/
def runBulk (M : Mach) (r : CmdRef) : Mach :=
  match M.member r.m, M.cmd r with
  | some m, some c =>
    if c.engineDone || c.sys.isSome then M
    else
      engineStep M r.m.part (.commandCompletion r) fun M =>
      match c.run with
      | .tget src g n k =>
        let (M, asks) := prefetch M m r.tag r.wake .engineRead [(src + w64 (64 * k), 64 * (n - k))]
        if asks then M else tgetLoop m c src g (n - k) k M
      | .bld src col0 n boff len stride k => bldLoop m c src col0 n boff len stride (n - k) k M
      | _ => M
  | _, _ => M

/-- R328. -/
def execTget (tc : BitVec 2) (d : Dst) (src g n : Reg) (s : State) : Host.Outcome State Fault Refusal :=
  word (.tget tc d src g n)
    (fun c =>
      let a := c.reg src
      let k := (c.reg n).toNat
      if !aligned a 64 || k = 0 || 128 < k || (c.mem.sectorRun (c.reg g).toNat k).isNone then .trap (illOpnd c.raw)
      else
        let M := toHomes c.M c.mem.ref c.st
        let (M, ref) := c.issueCmd M tc (.tget a (c.reg g).toNat k 0)
        .done (c.resultOn (M.raise 1 (.commandCompletion ref)) 1 d (w64 ref.num))) s

/-- R331. -/
def execBld (tc : BitVec 2) (d : Dst) (src geom cstride : Reg) (s : State) : Host.Outcome State Fault Refusal :=
  wordOut (.bld tc d src geom cstride)
    (fun c =>
      let a := c.reg src
      let w := c.reg geom
      let len := wf w 32 15
      let boff := wf w 16 14
      let n := wf w 8 8 + 1
      let col0 := wf w 0 8
      if !aligned a 64 || !aligned (c.reg cstride) 64 || wf w 47 17 ≠ 0 || wf w 30 2 ≠ 0 || 128 < col0 + n ||
          16384 < boff + len || len = 0 || len % 64 ≠ 0 || boff % 64 ≠ 0 then .trap (illOpnd c.raw)
      else
        let M := toHomes c.M c.mem.ref c.st
        let (M, ref) := c.issueCmd M tc (.bld a col0 n boff len (c.reg cstride).toInt 0)
        .done (c.resultOn (M.raise 1 (.commandCompletion ref)) 1 d (w64 ref.num))) s

/-! ### TSEND and TSTO (R329, R330) -/

/-- The tag wait of a source tile, when CK or CX asks for it; the acquire its observation makes (R106). -/
def Ctx.sourceTile (c : Ctx) (ck cx : Bool) (t : Nat) : Except Res Mach :=
  if ck || cx then
    match c.tileCheck [t] with
    | some r => .error r
    | none => .ok (acquire c.M c.mem.ref (c.mem.fillScope [t]))
  else .ok c.M

/-- R329. -/
def execTsend (sc : Scope) (kind : CType) (taddr g n : Reg) (ck cx : Bool) (s : State) :
    Host.Outcome State Fault Refusal :=
  wordOut (.tsend sc kind taddr g n ck cx)
    (fun c =>
      let w := c.reg taddr
      let k := (c.reg n).toNat
      match c.mem.sectorRun (c.reg g).toNat k with
      | none => .trap (illOpnd c.raw)
      | some (t, s0) =>
        if !taddrOk w || k = 0 || 128 < k || 128 < wf w 0 7 + k then .trap (illOpnd c.raw)
        else
          match c.sourceTile ck cx t with
          | .error r => r
          | .ok M =>
            match c.pendingRefusal sc with
            | some r => r
            | none =>
              let M := release M c.mem.ref c.st sc
              if sc = .pod && outstanding M c.mem.ref c.st then .waitOn M .untimed .acked
              else
                let bs := tileBytes M c.mem t (64 * s0) (64 * k)
                let M := if cx then consume M c.mem.ref t else M
                let M := M.updMember c.mem.ref fun m => { m with tsends := m.tsends + k }
                let dev := taddrDev M w
                .done
                  ((List.range k).foldl
                    (fun M i =>
                      sendArrival M dev
                        { dst := taddrMember w
                          tile := wf w 16 9
                          sector := wf w 0 7 + i
                          kind := kind
                          poison := false
                          scope := sc
                          mask := BitVec.allOnes 64
                          data := (bs.drop (64 * i)).take 64
                          region := none
                          sender := ⟨c.mem.ref, c.st, none, true, w + w64 i, none, none, c.s.nissue⟩ })
                    M)) s

/-- The stores of a word enter the buffer as far as it has room; the rest wait, and the core with them (R152). -/
def enterStores (M : Mach) (r : MRef) (st : Strm) : Mach :=
  M.updMember r fun m =>
    let m := m.updStr st fun s => { s with sb := s.sb.take 8, entering := s.sb.drop 8 }
    if (m.str st).entering.isEmpty then m else { m with freeze := .store st }

/-- Translate destination rows. -/
def Ctx.destSpans (c : Ctx) : Mach → List Int → Except Res (Mach × List (Word × List (Target × Nat)))
  | M, [] => .ok (M, [])
  | M, v :: rest =>
    match intAddr v with
    | .error f => .error (c.xtrap f .write)
    | .ok pva =>
      match ({ c with M := M } : Ctx).span .write pva 64 with
      | .error f => .error (c.xtrap f .write)
      | .ok (M, ts) =>
        match ({ c with M := M } : Ctx).span .write (pva + 64) 64 with
        | .error f => .error (c.xtrap f .write)
        | .ok (M, us) =>
          match c.destSpans M rest with
          | .error r => .error r
          | .ok (M, l) => .ok (M, (pva, ts) :: (pva + 64, us) :: l)

/-- R330. -/
def execTsto (d r n stride : Reg) (ck cx : Bool) (s : State) : Host.Outcome State Fault Refusal :=
  wordOut (.tsto d r n stride ck cx)
    (fun c =>
      let a := c.reg d
      let k := (c.reg n).toNat
      match c.mem.rowRun (c.reg r).toNat k with
      | none => .trap (illOpnd c.raw)
      | some (t, r0) =>
        if !aligned a 64 || !aligned (c.reg stride) 64 || k = 0 || 64 < k then .trap (illOpnd c.raw)
        else
          match c.sourceTile ck cx t with
          | .error x => x
          | .ok M =>
            match c.destSpans M ((List.range k).map fun (i : Nat) => (a.toNat : Int) + (i : Int) * (c.reg stride).toInt) with
            | .error x => x
            | .ok (M, spans) =>
              -- the rows with what the stream itself has stored there and its buffer still holds (R82)
              let bs := tileBytes (drainBuffer M c.mem.ref c.st) c.mem t (128 * r0) (128 * k)
              let M :=
                spans.zipIdx.foldl
                  (fun M x => storePieces M c.mem c.st x.1.1 none x.1.2 ((bs.drop (64 * x.2)).take 64)) M
              let M := if cx then consume M c.mem.ref t else M
              .done (enterStores M c.mem.ref c.st)) s

end Sys2Proof.Machine
end

