-- ==== Sys2Proof/Machine/Flags.lean ====
section
/-!
DEFINITION. Conditions. This hardware has no flags register: a branch compares two registers (R238), and a compare
writes 0 or 1 (R231, R236).
-/

namespace Sys2Proof.Machine

/-- A branch condition on two values (R238). -/
def condHolds (c : Cond) (x y : Word) : Bool :=
  match c with
  | .eq => x == y
  | .ne => x != y
  | .lt => x.slt y
  | .ge => y.sle x
  | .ltu => x.ult y
  | .geu => y.ule x

/-- An FP32 value: the low half of a register (R236). -/
def fp32Of (w : Word) : Nat := w.toNat % 2 ^ 32

/-- A comparison of two FP32 values: false when either is a NaN (R236). -/
def fpHolds (p : Ordering → Bool) (x y : Word) : Bool :=
  match fCmp fp32 (fp32Of x) (fp32Of y) with
  | some o => p o
  | none => false

end Sys2Proof.Machine
end

