-- ==== Sys2Proof/Machine/Control.lean ====
section
/-!
DEFINITION. The control words (R238 to R241).
-/

namespace Sys2Proof.Machine

/-- A control transfer: a taken branch when it leaves the sequence. -/
def Ctx.transfer (c : Ctx) (M : Mach) (target : Word) : Res :=
  if target = c.pc + 8 then .done M else .jump M target

/-- R238. -/
def execBc (k : Cond) (x y : Reg) (off : BitVec 24) (s : State) : Host.Outcome State Fault Refusal :=
  word (.bc k x y off)
    (fun c => if condHolds k (c.reg x) (c.reg y) then c.transfer c.M (branchTarget c.pc off) else .done c.M) s

/-- R239. -/
def execJ (off : BitVec 24) (s : State) : Host.Outcome State Fault Refusal :=
  word (.j off) (fun c => c.transfer c.M (branchTarget c.pc off)) s

/-- R239. -/
def execJr (x : Reg) (off : BitVec 24) (s : State) : Host.Outcome State Fault Refusal :=
  word (.jr x off) (fun c => c.transfer c.M (branchTarget (c.reg x) off &&& ~~~7#64)) s

/-- R239. -/
def execCall (d : Dst) (off : BitVec 24) (s : State) : Host.Outcome State Fault Refusal :=
  word (.call d off) (fun c => c.transfer (c.result 1 d (c.pc + 8)) (branchTarget c.pc off)) s

/-- R239. -/
def execRet (x : Reg) (s : State) : Host.Outcome State Fault Refusal :=
  word (.ret x) (fun c => c.transfer c.M (c.reg x &&& ~~~7#64)) s

/-- Set the registers of a loop level (R160). -/
def Stream.setLoop (s : Stream) (k : Bool) (first last n : Word) : Stream :=
  if k then { s with lps1 := first, lpe1 := last, lpc1 := n } else { s with lps0 := first, lpe0 := last, lpc0 := n }

/-- R240. -/
def execLoop (k : Bool) (x : Reg) (off : BitVec 24) (s : State) : Host.Outcome State Fault Refusal :=
  word (.loop k x off)
    (fun c =>
      let n := c.reg x
      let last := branchTarget c.pc off
      if n.toNat > 0xFFFFFFFF then .trap (illOpnd c.raw)
      else
        let M := c.upd fun m => m.updStr c.st fun s => s.setLoop k (pcField (c.pc + 8)) (pcField last) n
        if n = 0 then .jump M (pcField last + 8) else .done M) s

/-- R241. -/
def execLpbrk (k : Bool) (s : State) : Host.Outcome State Fault Refusal :=
  word (.lpbrk k)
    (fun c =>
      let n := if k then c.s.lpc1 else c.s.lpc0
      let last := if k then c.s.lpe1 else c.s.lpe0
      if n = 0 then .trap (illOpnd c.raw)
      else
        .jump (c.upd fun m => m.updStr c.st fun s => if k then { s with lpc1 := 0 } else { s with lpc0 := 0 })
          (last + 8)) s

end Sys2Proof.Machine
end

