-- ==== Sys2Proof/Machine/Copy.lean ====
section
/-!
DEFINITION. Copy sequences (R332 to R342): the copy shadow, the launch, one element at a time, and the status word.
-/

namespace Sys2Proof.Machine

/-! ### The shadow (R332 to R336) -/

/-- Change a level. -/
def CopyCfg.setLevel (k : CopyCfg) (lv : Nat) (f : CLevel → CLevel) : CopyCfg :=
  { k with lev := (List.range 6).map fun i => if i = lv then f (k.level i) else k.level i }

/-- Change the shadow of the issuing core. -/
def Ctx.copyShadow (c : Ctx) (f : CopyCfg → CopyCfg) : Res := .done (c.upd fun m => { m with copy := f m.copy })

/-- The value of a level count: a register, or a loop register read at issue (R148, R333). -/
def Ctx.count (c : Ctx) : Count → Nat
  | .reg r => (c.reg r).toNat
  | .hl n => (c.mem.hl[n.toNat]'n.isLt).toNat

/-- A count is in its range (R304, R333). -/
def countOk (n : Nat) : Bool := 1 ≤ n && n < 2 ^ 31

/-- R333. -/
def execCpseq (lv : BitVec 3) (n : Count) (s : State) : Host.Outcome State Fault Refusal :=
  word (.cpseq lv n)
    (fun c =>
      let v := c.count n
      if countOk v then c.copyShadow fun k => k.setLevel lv.toNat fun l => { l with count := v }
      else .trap (illOpnd c.raw)) s

/-- R333. -/
def execCpseqClr (s : State) : Host.Outcome State Fault Refusal :=
  word .cpseqClr (fun c => c.copyShadow fun _ => CopyCfg.fresh) s

/-- R334. -/
def execCpsrcBase (x : Reg) (s : State) : Host.Outcome State Fault Refusal :=
  word (.cpsrcBase x) (fun c => c.copyShadow fun k => { k with srcBase := c.reg x }) s

/-- R334: a stride is any signed 64-bit value. -/
def execCpsrcStride (lv : BitVec 3) (x : Reg) (s : State) : Host.Outcome State Fault Refusal :=
  word (.cpsrcStride lv x)
    (fun c =>
      c.copyShadow fun k => k.setLevel lv.toNat fun l => { l with src := { l.src with stride := (c.reg x).toInt } }) s

/-- Origin and extent of a window word, in range (R334). -/
def Ctx.window (c : Ctx) (x y : Reg) : Option (Int × Nat) :=
  let o := (c.reg x).toInt
  let e := (c.reg y).toNat
  if -(2 ^ 31 : Int) ≤ o && o < 2 ^ 31 && e < 2 ^ 32 then some (o, e) else none

/-- R334. -/
def execCpsrcWin (lv : BitVec 3) (x y : Reg) (s : State) : Host.Outcome State Fault Refusal :=
  word (.cpsrcWin lv x y)
    (fun c =>
      match c.window x y with
      | none => .trap (illOpnd c.raw)
      | some (o, e) =>
        c.copyShadow fun k => k.setLevel lv.toNat fun l => { l with src := { l.src with org := o, ext := e } }) s

/-- R334. -/
def execCpdstBase (x : Reg) (s : State) : Host.Outcome State Fault Refusal :=
  word (.cpdstBase x) (fun c => c.copyShadow fun k => { k with dstBase := c.reg x, tile := false }) s

/-- R334: with TILE the destination kind becomes a tile; the address is checked at CPGO (R337). -/
def execCpdstBaseTile (x : Reg) (s : State) : Host.Outcome State Fault Refusal :=
  word (.cpdstBaseTile x) (fun c => c.copyShadow fun k => { k with dstBase := c.reg x, tile := true }) s

/-- R334. -/
def execCpdstStride (lv : BitVec 3) (x : Reg) (s : State) : Host.Outcome State Fault Refusal :=
  word (.cpdstStride lv x)
    (fun c =>
      c.copyShadow fun k => k.setLevel lv.toNat fun l => { l with dst := { l.dst with stride := (c.reg x).toInt } }) s

/-- R334. -/
def execCpdstWin (lv : BitVec 3) (x y : Reg) (s : State) : Host.Outcome State Fault Refusal :=
  word (.cpdstWin lv x y)
    (fun c =>
      match c.window x y with
      | none => .trap (illOpnd c.raw)
      | some (o, e) =>
        c.copyShadow fun k => k.setLevel lv.toNat fun l => { l with dst := { l.dst with org := o, ext := e } }) s

/-- R335. -/
def execCpidx (lv : BitVec 3) (list nrow : Reg) (s : State) : Host.Outcome State Fault Refusal :=
  word (.cpidx lv list nrow)
    (fun c =>
      if !aligned (c.reg list) 32 || !countOk (c.reg nrow).toNat then .trap (illOpnd c.raw)
      else c.copyShadow fun k => { k with gather := some (lv.toNat, c.reg list, (c.reg nrow).toNat) }) s

/-- R335. -/
def execCpidxOff (s : State) : Host.Outcome State Fault Refusal :=
  word .cpidxOff (fun c => c.copyShadow fun k => { k with gather := none }) s

/-- Bytes of a swizzle chunk (R336). -/
def swzUnit (w : Word) : Nat := 16 <<< wf w 4 2

/-- The swizzle word is admitted (R336). -/
def swzOk (w : Word) : Bool :=
  wf w 6 58 = 0 && wf w 3 1 = 0 && wf w 4 2 ≠ 3 && wf w 0 3 < 128 / swzUnit w

/-- R336. -/
def execCpswz (x : Reg) (s : State) : Host.Outcome State Fault Refusal :=
  word (.cpswz x)
    (fun c => if swzOk (c.reg x) then c.copyShadow fun k => { k with swz := c.reg x } else .trap (illOpnd c.raw)) s

/-- The offset within a tile at which a byte is written (R336). -/
def swizzle (w : Word) (o : Nat) : Nat :=
  let u := swzUnit w
  let r := o / 128
  r * 128 + ((o % 128 / u) ^^^ (r &&& wf w 0 3)) * u + o % u

/-! ### One element (R338 to R341) -/

/-- The place in the index list of iteration p (R338). -/
def CopyCfg.listPlace (k : CopyCfg) (lv p : Nat) : Nat := p / k.below lv

/-- Change a copy sequence. -/
def updCopy (M : Mach) (r : CmdRef) (f : CopyRun → CopyRun) : Mach :=
  M.updCmd r fun c =>
    match c.run with
    | .copy k => { c with run := .copy (f k) }
    | _ => c

/-- Remote requests of a sequence name its element event as what goes on. -/
def copyWake (r : CmdRef) : Option Event := some (.copyElement r)

/-- Send the arrival of the gathered sector (R340). -/
def flushSector (M : Mach) (r : CmdRef) : Mach :=
  match M.member r.m, M.cmd r with
  | some m, some c =>
    match c.run with
    | .copy k =>
      match k.sector with
      | none => M
      | some (t, s, mask, bs) =>
        let w := k.cfg.dstBase
        let taddr := w64 (putFld (putFld w.toNat 16 9 t) 0 7 s)
        let M := updCopy M r fun k => { k with sector := none, tiles := if k.tiles.contains t then k.tiles else k.tiles ++ [t] }
        sendCmdArrival M r (taddrDev M w) (cmdArrival m c taddr t s (taddrMember w) .plain k.sc mask bs)
    | _ => M
  | _, _ => M

/-- One byte of an element for a sector: gathered, after the sector before it has left (R340). -/
def putTileByte (M : Mach) (r : CmdRef) (p off : Nat) (b : Byte) : Mach :=
  match M.cmd r with
  | none => M
  | some c =>
    match c.run with
    | .copy k =>
      let o := off / 8192 * 8192 + swizzle k.cfg.swz (off % 8192)
      let t := o / 8192
      let s := o % 8192 / 64
      let here (x : Nat × Nat × BitVec 64 × List Byte) : Bool := x.1 == t && x.2.1 == s
      let taddr := putFld (putFld k.cfg.dstBase.toNat 16 9 t) 0 7 s
      match k.sector with
      | some x =>
        if here x then
          updCopy M r fun k =>
            { k with sector := some (t, s, x.2.2.1 ||| (1#64 <<< (o % 64)), x.2.2.2.set (o % 64) b) }
        else
          updCopy (flushSector M r) r fun k =>
            { k with
              sector := some (t, s, 1#64 <<< (o % 64), (zeros 64).set (o % 64) b)
              sent := k.sent ++ [(taddr, p)] }
      | none =>
        updCopy M r fun k =>
          { k with
            sector := some (t, s, 1#64 <<< (o % 64), (zeros 64).set (o % 64) b)
            sent := k.sent ++ [(taddr, p)] }
    | _ => M

/-- A source byte that the sequence has overwritten, as it stood after its first n iterations (R338). -/
def undoByte (u : List (Nat × Nat × Byte)) (n pa : Nat) (now : Byte) : Byte :=
  match u.find? fun x => x.2.1 == pa && decide (n ≤ x.1) with
  | some x => x.2.2
  | none => now

/-- The bytes of an element whose source the sequence has overwritten: as they stood at CPGO or after an earlier write,
which is not defined (R338). -/
def overlapped (M : Mach) (k : CopyRun) (p : Nat) (ts : List (Target × Nat)) (bs : List Byte) : Mach × List Byte :=
  let pas : List (Option Nat) :=
    ts.flatMap fun t =>
      match t.1 with
      | .local pa => (List.range t.2).map fun i => some (pa + i)
      | .remote _ _ _ => List.replicate t.2 none
  let hit := pas.any fun a =>
    match a with
    | some pa => k.undo.any fun x => x.2.1 == pa
    | none => false
  if hit then
    let n := Config.freeNat M.free % (p + 1)
    ({ M with free := M.free + 1 },
      (pas.zip bs).map fun x =>
        match x.1 with
        | some pa => undoByte k.undo n pa x.2
        | none => x.2)
  else (M, bs)

/-- Old bytes of local pieces, for R338. -/
def undoOf (M : Mach) (p : Nat) (ts : List (Target × Nat)) : List (Nat × Nat × Byte) :=
  ts.flatMap fun t =>
    match t.1 with
    | .local pa => (List.range t.2).map fun i => (p, pa + i, memGet M.mem (pa + i))
    | .remote _ _ _ => []

/-- How an element ends. -/
inductive ElemEnd where
  /-- Performed, or dropped. -/
  | next (M : Mach)
  /-- ADDR_OVF at this iteration. -/
  | ovf (M : Mach)
  /-- A translation fault or ECC stops the sequence at this iteration. -/
  | stop (i : TrapInfo)
  /-- A byte outside any scratchpad: refused (R323, R340). -/
  | refused
  /-- Remote bytes are under way. -/
  | asking (M : Mach)

/-- The indices of a batch: eight entries, one read of 32 bytes (R339). -/
def batchRead (M : Mach) (m : Member) (r : CmdRef) (k : CopyRun) (list : Word) (b : Nat) : ReadEnd :=
  match k.batch with
  | some (x, bs) => if x = b then .bytes M bs else readAny M m r.tag (copyWake r) .engineRead (list + w64 (32 * b)) 32
  | none => readAny M m r.tag (copyWake r) .engineRead (list + w64 (32 * b)) 32

/-- Write an element at its destination. -/
def elemWrite (M : Mach) (m : Member) (c : Cmd) (k : CopyRun) (p : Nat) (cs : List Int) (bs : List Byte) : ElemEnd :=
  if k.cfg.outside true cs then .next M
  else
    match k.cfg.address true cs with
    | none => .ovf M
    | some a =>
      if k.cfg.tile then
        if a < 0 || 2 ^ 22 < a + bs.length then .refused
        else .next (bs.zipIdx.foldl (fun M x => putTileByte M c.ref p (a.toNat + x.2) x.1) M)
      else
        let stop (f : XFault) : ElemEnd := .stop (engineTrap c.ref.num f .engineWrite p)
        match intAddr a with
        | .error f => stop f
        | .ok pva =>
          match spanAll M m .engineWrite pva bs.length with
          | .error f => stop f
          | .ok (M, ts) =>
            let n := remotePackets ts
            let M :=
              updCopy (dropCopies M m.ref ts) c.ref fun k =>
                { k with undo := k.undo ++ undoOf M p ts, sent := k.sent ++ List.replicate n (pva.toNat, p) }
            .next (writePieces M m.ref c.st (some c.ref) pva ts bs)

/-- Iteration p once its gather index is known. -/
def elemMove (M : Mach) (m : Member) (c : Cmd) (k : CopyRun) (p : Nat) (g : Option (Nat × Nat)) (zero : Bool) :
    ElemEnd :=
  let e := 2 ^ k.esz
  match k.cfg.coords false p g, k.cfg.coords true p none with
  | some ss, some ds =>
    if zero || k.cfg.outside false ss then elemWrite M m c k p ds (zeros e)
    else
      match k.cfg.address false ss with
      | none => .ovf M
      | some a =>
        let stop (f : XFault) : ElemEnd := .stop (engineTrap c.ref.num f .engineRead p)
        match intAddr a with
        | .error f => stop f
        | .ok pva =>
          match spanAll M m .engineRead pva e with
          | .error f => stop f
          | .ok (M, ts) =>
            match readPieces (dropCopies M m.ref ts) m.ref c.ref.tag (copyWake c.ref) pva ts with
            | .asking M => .asking M
            | .fault f => stop f
            | .ecc pa => .stop (eccTrap 0 pa)
            | .bytes M bs =>
              let (M, bs) := overlapped M k p ts bs
              elemWrite M m c k p ds bs
  | _, _ => .ovf M

/-- Iteration p of a sequence (R338): the batched index first, in gather mode. -/
def copyElem (M : Mach) (m : Member) (c : Cmd) (k : CopyRun) (p : Nat) : ElemEnd :=
  match k.cfg.gather with
  | none => elemMove M m c k p none false
  | some (lev, list, nrow) =>
    if !((List.range (lev + 1)).all fun lv => (k.cfg.coord false p lv).isSome) then .ovf M
    else
      let t := k.cfg.listPlace lev p
      match batchRead M m c.ref k list (t / 8) with
      | .asking M => .asking M
      | .fault f => .stop (engineTrap c.ref.num f .engineRead p)
      | .ecc pa => .stop (eccTrap 0 pa)
      | .bytes M bs =>
        let x := leNat ((bs.drop (4 * (t % 8))).take 4)
        let M := updCopy M c.ref fun k => { k with batch := some (t / 8, bs) }
        let M := if nrow ≤ x then M.updCmd c.ref fun c => { c with oob := true } else M
        elemMove M m c { k with batch := some (t / 8, bs) } p (some (lev, x)) (nrow ≤ x)

/-- Engines of a die that run a sequence (R337). -/
def enginesBusy (M : Mach) (die : Nat) : List Nat :=
  (M.members.filter fun m => m.die == die).flatMap fun m =>
    m.cmds.filterMap fun c =>
      match c.run with
      | .copy k => if c.finished || c.engineDone then none else k.engine
      | _ => none

/-- The lowest free engine of a die. -/
def engineFree (M : Mach) (die : Nat) : Option Nat :=
  (List.range 12).find? fun e => !(enginesBusy M die).contains e

/-- The sequence's engine is free again and the sequence has nothing left to do. -/
def copyEnds (M : Mach) (r : CmdRef) : Mach :=
  engineEnds (updCopy (flushSector M r) r fun k => { k with engine := none }) r

/-- COPY_ELEMENT: a sequence on its engine performs one iteration, or ends. -/
def copyStep (M : Mach) (r : CmdRef) : Mach :=
  match M.member r.m, M.cmd r with
  | some m, some c =>
    if !m.engines || c.engineDone || c.finished || c.sys.isSome then M
    else
      engineStep M r.m.part (.copyElement r) fun M =>
      match c.run with
      | .copy k =>
        match k.engine with
        | none =>
          let M :=
            match engineFree M m.die with
            | some e => updCopy M r fun k => { k with engine := some e }
            | none => M
          M.raise 1 (.copyElement r)
        | some _ =>
          let p := c.pos
          if k.cfg.total ≤ p then copyEnds M r
          else
            match copyElem M m c k p with
            | .next M => (dropFetched (M.updCmd r fun c => { c with pos := p + 1 }) m.ref r.tag).raise 1 (.copyElement r)
            | .ovf M =>
              copyEnds (M.updCmd r fun c => { c with fault := true }.defer 0x1B p) r
            | .stop i => engineFault (flushSector M r) r i
            | .refused =>
              let i := { Imprecise.command 0x23 k.cfg.dstBase c.st r p 0 false with aux := k.cfg.dstBase }
              let M := refuse (flushSector M r) m.ref c.st i
              M.updCmd r fun c => c.stopAt p (impreciseTrap 0 i)
            | .asking M => M
      | _ => M
  | _, _ => M

/-- R338. -/
def execCopyElement (r : CmdRef) (s : State) : Host.Outcome State Fault Refusal := s.lift fun M => copyStep M r

/-! ### Launch and status (R337, R342) -/

/-- CPGO does not launch the shadow (R337). -/
def CopyCfg.malformed (k : CopyCfg) (esz : Nat) (sc : Scope) : Bool :=
  if k.tile then esz = 7 || !taddrOk k.dstBase
  else wf k.swz 0 3 ≠ 0 || sc.num ≠ 0

/-- R337. -/
def execCpgo (d : Dst) (tc : BitVec 2) (esz : BitVec 3) (sc : Scope) (s : State) :
    Host.Outcome State Fault Refusal :=
  word (.cpgo d tc esz sc)
    (fun c =>
      let k := c.mem.copy
      if c.inRegion && k.gather.isNone then .trap (illInstr c.raw)
      else if k.malformed esz.toNat sc then .trap (illOpnd c.raw)
      else
        match engineFree c.M c.mem.die with
        | none => .wait .cpgo .engineFree
        | some e =>
          let launch (M : Mach) : Res :=
            let M := toHomes M c.mem.ref c.st
            let run : CopyRun :=
              { cfg := k, esz := esz.toNat, sc := sc, engine := some e, sector := none, batch := none
                undo := [], sent := [], tiles := [], come := false }
            let (M, ref) := c.issueCmd M tc (.copy run)
            .done (c.resultOn (M.raise 1 (.copyElement ref)) 1 d (w64 ref.num))
          if k.tile then
            match c.pendingRefusal sc with
            | some r => r
            | none =>
              let M := release c.M c.mem.ref c.st sc
              if sc = .pod && outstanding M c.mem.ref c.st then .waitOn M .untimed .acked else launch M
          else launch c.M) s

/-- R342. -/
def execCpstat (d : Dst) (tc : BitVec 2) (x : Reg) (s : State) : Host.Outcome State Fault Refusal :=
  word (.cpstat d tc x) (fun c => .done (c.result 1 d (copyStatus c.mem tc (c.reg x).toNat))) s

end Sys2Proof.Machine
end

