-- ==== Sys2Proof/Machine/Grid.lean ====
section
/-!
DEFINITION. Grid objects (R128 to R143) and the grid words HLD, HPUB, HWAIT and GRIDCTL (R344 to R347).
-/

namespace Sys2Proof.Machine

/-! ### The descriptor (R128, R130, R132) -/

def gNdim (g : List Word) : Nat := recF g 24 2
def gFull (g : List Word) : Bool := recF g 26 1 = 1
def gDepth (g : List Word) : Nat := recF g 32 3
def gType (g : List Word) : Nat := recF g 35 3
def gCell (g : List Word) : Nat := recF g 38 10 * 64
def gConst (g : List Word) : Nat := recW g 1
def gExt (g : List Word) (d : Nat) : Nat := recF g (128 + 32 * d) 32
def gBlk (g : List Word) (d : Nat) : Nat := recF g (224 + 32 * d) 32
def gWidth (g : List Word) (d hi : Nat) : Nat := recF g (320 + 12 * d + 6 * hi) 6
def gBound (g : List Word) (d hi : Nat) : Nat := recF g (6 + 6 * d + 3 * hi) 3
def gTable (g : List Word) : Nat := recF g 384 56

/-- SCOPE of the grid: 4 or 5. -/
def gScope (g : List Word) : Scope := if recF g 27 3 = 5 then .pod else .pkg

/-- Cycles of the halo timeout. -/
def gTimeout (g : List Word) : Nat := if recF g 56 8 = 0 then 2 ^ 24 else recF g 56 8 * 65536

/-- Owners along a dimension. -/
def gCount (g : List Word) (d : Nat) : Nat := gExt g d / gBlk g d

/-- Owners of the grid. -/
def gOwners (g : List Word) : Nat := gCount g 0 * gCount g 1 * gCount g 2

/-- Block coordinates of an owner. -/
def gBlock (g : List Word) (o d : Nat) : Nat :=
  o / (List.range d).foldl (fun n i => n * gCount g i) 1 % gCount g d

/-- The owner at block coordinates. -/
def gOwner (g : List Word) (b : Nat → Nat) : Nat := b 0 + gCount g 0 * (b 1 + gCount g 1 * b 2)

/-- Sign of a region along a dimension, plus one. -/
def rSign (r d : Nat) : Nat := r / 3 ^ d % 3

/-- The region exists (R132). -/
def regionExists (g : List Word) (r : Nat) : Bool :=
  r < 27 && r != 13 &&
    (List.range 3).all (fun d => d < gNdim g || rSign r d = 1) &&
    (gFull g || ((List.range 3).filter fun d => rSign r d ≠ 1).length = 1)

/-- Cells of a region along a dimension. -/
def regionLen (g : List Word) (r d : Nat) : Nat :=
  match rSign r d with
  | 0 => gWidth g d 0
  | 1 => gBlk g d
  | _ => gWidth g d 1

/-- Bytes of a region; one that does not exist occupies nothing. -/
def regionBytes (g : List Word) (r : Nat) : Nat :=
  if regionExists g r then regionLen g r 0 * regionLen g r 1 * regionLen g r 2 * gCell g else 0

/-- Where a region begins in a slot or in a spill area (R133). -/
def regionOff (g : List Word) (r : Nat) : Nat := ((List.range r).map (regionBytes g)).sum

/-- Bytes of a slot. -/
def slotBytes (g : List Word) (vt : Bool) : Nat := roundUp (regionOff g 27) (if vt then 8192 else 64)

/-! ### Sources of verge cells (R135, R136) -/

/-- The region of an owner lies outside the grid along a dimension. -/
def regionOut (g : List Word) (o r d : Nat) : Bool :=
  (rSign r d = 0 && gBlock g o d = 0) || (rSign r d = 2 && gBlock g o d + 1 = gCount g d)

/-- The condition of the face a region crosses along a dimension. -/
def faceBound (g : List Word) (r d : Nat) : Nat := gBound g d (if rSign r d = 2 then 1 else 0)

/-- The first ZERO or CONST face a region meets: it decides every cell. -/
def regionFill (g : List Word) (o r : Nat) : Option Nat :=
  ((List.range 3).find? fun d => regionOut g o r d && faceBound g r d < 2).map (faceBound g r)

/-- Block coordinate of the owner of a region's mapped cells. -/
def sourceBlock (g : List Word) (o r d : Nat) : Nat :=
  let b := gBlock g o d
  if rSign r d = 1 then b
  else if regionOut g o r d then (if faceBound g r d = 4 then (if rSign r d = 0 then gCount g d - 1 else 0) else b)
  else if rSign r d = 0 then b - 1
  else b + 1

/-- The source owner of a region (R136). -/
def regionSource (g : List Word) (o r : Nat) : Nat :=
  if (regionFill g o r).isSome then o else gOwner g (sourceBlock g o r)

/-- A coordinate outside [0, EXT) as its face maps it. -/
def mapCoord (ext bc : Nat) (c : Int) : Int :=
  let low := c < 0
  let k := if low then -c else c - (ext - 1 : Int)
  match bc with
  | 2 => if low then 0 else ext - 1
  | 3 => if low then k else ext - 1 - k
  | _ => if low then ext - k else k - 1

/-- The cell of its owner's block that cell i of a region maps to, by its index in the block. -/
def mappedCell (g : List Word) (o r i : Nat) : Nat :=
  let at_ (d : Nat) : Nat :=
    let c := i / ((List.range d).foldl (fun n j => n * regionLen g r j) 1) % regionLen g r d
    let base : Int := gBlock g o d * gBlk g d
    let v : Int :=
      match rSign r d with
      | 0 => base - gWidth g d 0 + c
      | 1 => base + c
      | _ => base + gBlk g d + c
    let v := if v < 0 || (gExt g d : Int) ≤ v then mapCoord (gExt g d) (faceBound g r d) v else v
    (v % gBlk g d).toNat
  at_ 0 + gBlk g 0 * (at_ 1 + gBlk g 1 * at_ 2)

/-- Bytes of an element of a vector type code (R173). -/
def typeBytes (t : Nat) : Nat :=
  match t with
  | 0 => 1 | 1 => 2 | 2 => 4 | 3 => 2 | 4 => 4 | 5 => 1 | 6 => 1 | _ => 8

/-- A cell of a CONST face. -/
def constCell (g : List Word) : List Byte :=
  let e := typeBytes (gType g)
  (List.range (gCell g)).map fun i => (leBytes 8 (gConst g)).getD (i % e) 0

/-- The bytes of a region of owner o as they stand: its fill, or copies of the mapped cells of the source owner's block,
whose cell 0 stands at physical address `base`. -/
def regionData (M : Mach) (g : List Word) (o r base : Nat) : List Byte :=
  (List.range (regionLen g r 0 * regionLen g r 1 * regionLen g r 2)).flatMap fun i =>
    match regionFill g o r with
    | some 0 => zeros (gCell g)
    | some _ => constCell g
    | none => M.get (base + mappedCell g o r i * gCell g) (gCell g)

/-- Regions of q that hold cells and are sourced from o. -/
def recvRegions (g : List Word) (o q : Nat) : List Nat :=
  (List.range 27).filter fun r => regionBytes g r ≠ 0 && regionSource g q r = o

/-- The receivers of o, with the regions it sources. -/
def receivers (g : List Word) (o : Nat) : List (Nat × List Nat) :=
  (List.range (gOwners g)).filterMap fun q =>
    if q = o || (recvRegions g o q).isEmpty then none else some (q, recvRegions g o q)

/-! ### Owners (R131) -/

/-- Device of an owner table entry. -/
def entDev (e : List Word) : DevRef := ⟨wf (e.getD 0 0) 56 5, wf (e.getD 0 0) 51 5⟩

/-- Member of an owner table entry. -/
def entMember (e : List Word) : MRef := ⟨wf (e.getD 0 0) 48 3, wf (e.getD 0 0) 36 12, wf (e.getD 0 0) 28 8⟩

def entTiles (e : List Word) : Bool := (e.getD 0 0).getLsbD 63
def entVbase (e : List Word) : Nat := recF e 64 56
def entSbase (e : List Word) : Nat := recF e 128 56
def entSpill (e : List Word) : Nat := recF e 192 56

/-- How the owner table is read. -/
inductive EntEnd where
  | entry (M : Mach) (e : List Word)
  | fault (f : XFault)
  | ecc (pa : Nat)
  | asking (M : Mach)

/-- Read an owner's entry: from memory at each use (assumption 22). -/
def readEntry (M : Mach) (m : Member) (tag : Nat) (wake : Option Event) (g : List Word) (o : Nat) : EntEnd :=
  match readAny M m tag wake .read (w64 (gTable g + 32 * o)) 32 with
  | .bytes M bs => .entry M (wordsOf 4 bs)
  | .fault f => .fault f
  | .ecc pa => .ecc pa
  | .asking M => .asking M

/-- The owner of an entry is this device's and partition's. -/
def entHere (M : Mach) (m : Member) (e : List Word) : Bool := entDev e = M.self && (entMember e).part = m.ref.part

/-- The member has joined as this owner. -/
def Member.joinedAs (m : Member) (g : List Word) (o : Nat) : Bool := m.joined.any fun j => j.grid == g && j.own == o

/-- The owner an entry names has joined; its descriptor may lie at another address in another partition. When one of
another device has is a free choice at each cycle (assumption 22). -/
def entJoined (M : Mach) (e : List Word) (g : List Word) (o : Nat) : Bool :=
  if entDev e ≠ M.self then Config.joinedAway (e.getD 0 0) o M.wclk
  else
    match M.member (entMember e) with
    | some m => m.joined.any fun j => j.grid.take 6 == g.take 6 && j.own == o
    | none => false

/-- A frame that an owner's areas may not lie in: a core SRAM window (R131). -/
def windowFrame (pa : Nat) : Bool :=
  match paKind pa with
  | .sram _ _ => true
  | _ => false

/-- Where the state block of an owner of this device lies, as an access of a kind reaches it (R17, R134). -/
def statePa (M : Mach) (m : Member) (k : AKind) (e : List Word) : Except XFault Nat :=
  let pva := w64 (entSbase e)
  match xspan M m.core m.die (entMember e).part k pva 0x800 with
  | .error f => .error f
  | .ok ((.local pa, _) :: _, _) => if windowFrame pa then .error ⟨0x04, 7, 0, pva, false⟩ else .ok pa
  | .ok _ => .error ⟨0x05, 7, 0, pva, false⟩

/-- A milestone word plus one; NONE counts as 0 (R134). -/
def msRank (v : Nat) : Nat := (v + 1) % 2 ^ 32

/-! ### Grid positions (R344) -/

/-- A grid position whose handle is a sealed grid and whose reserved bits are zero. -/
structure GPos where
  h : Nat
  g : List Word
  own : Nat
  reg : Nat
  ms : Nat
  deriving DecidableEq, Repr

/-- Read a grid position. -/
def Ctx.gridPos (c : Ctx) (x : Reg) : Option GPos :=
  let w := c.reg x
  match c.mem.grid (wf w 60 4) with
  | none => none
  | some g => if wf w 32 11 ≠ 0 then none else some ⟨wf w 60 4, g, wf w 43 12, wf w 55 5, wf w 0 32⟩

/-- A position with the entry of its owner. The stream's earlier stores are at their homes before the entry and the state
block are read there (R82). -/
def Ctx.withOwner (c : Ctx) (x : Reg) (need : GPos → Bool) (f : Mach → GPos → List Word → Res) : Res :=
  match c.gridPos x with
  | none => .trap (illOpnd c.raw)
  | some p =>
    if gOwners p.g ≤ p.own || !need p then .trap (illOpnd c.raw)
    else
      match readEntry (toHomes c.M c.mem.ref c.st) c.mem c.tag none p.g p.own with
      | .fault f => c.xtrap f .read
      | .ecc pa => .trap (eccTrap c.raw pa)
      | .asking M => .waitOn M .untimed (.fetched c.tag)
      | .entry M e => f (dropFetched M c.mem.ref c.tag) p e

/-! ### GRIDCTL (R137, R347) -/

/-- A state block in which every milestone word is NONE (R137). -/
def freshState (g : List Word) : List Byte :=
  (List.range 512).flatMap fun i =>
    let b := 4 * i
    let none_ :=
      i = 0 || (0x40 ≤ b && b < 0x40 + 4 * 27) || (0x100 ≤ b && b < 0x100 + 4 * 27 * (gDepth g + 1)) ||
        (0x600 ≤ b && b < 0x600 + 4 * 27)
    leBytes 4 (if none_ then 0xFFFFFFFF else 0)

/-- R137. -/
def execGridctlJoin (x : Reg) (s : State) : Host.Outcome State Fault Refusal :=
  wordOut (.gridctlJoin x)
    (fun c =>
      c.withOwner x (fun p => p.ms = 0 && p.reg = 0 && !c.mem.joinedAs p.g p.own) fun M p e =>
        if !entHere M c.mem e || entMember e ≠ c.mem.ref then .trap (illOpnd c.raw)
        else
          match statePa M c.mem .engineWrite e with
          | .error f => c.xtrap f .engineWrite
          | .ok pa =>
            let M := (dropCopies M c.mem.ref [(.local pa, 0x800)]).put pa (freshState p.g)
            let pva := (((c.mem.handles.toList.getD p.h none).map (·.pva)).getD 0)
            let M := M.updMember c.mem.ref fun m => { m with joined := m.joined ++ [(⟨p.g, pva, p.own⟩ : Joined)] }
            c.untimedNow M []) s

/-- R137: it lands once the owner's verge writes and reports are performed, and unjoins the owner. -/
def execGridctlLeave (x : Reg) (s : State) : Host.Outcome State Fault Refusal :=
  wordOut (.gridctlLeave x)
    (fun c =>
      match c.gridPos x with
      | none => .trap (illOpnd c.raw)
      | some p =>
        if !c.mem.joinedAs p.g p.own then .trap (illOpnd c.raw)
        else .untimed c.M (c.unt (.vergeWrites p.g p.own))) s

/-- A word of an owner's state block on this device and partition (GRIDCTL.stat): the core keeps no older copy of it (R81). -/
def Ctx.gridStat (c : Ctx) (x : Reg) (d : Dst) (need : GPos → Bool) (off : GPos → Nat) : Res :=
  c.withOwner x need fun M p e =>
    if !entHere M c.mem e then .trap (illOpnd c.raw)
    else
      match statePa M c.mem .read e with
      | .error f => c.xtrap f .read
      | .ok pa =>
        if M.poisoned (pa + off p) 4 then .trap (eccTrap c.raw ((pa + off p) / 64 * 64))
        else c.untimedNow (dropCopies M c.mem.ref [(.local (pa + off p), 4)]) [(d, w64 (M.word32 (pa + off p)))]

/-- R137, R347. -/
def execGridctlStat (d : Dst) (x : Reg) (s : State) : Host.Outcome State Fault Refusal :=
  wordOut (.gridctlStat d x) (fun c => c.gridStat x d (fun _ => true) fun _ => 0) s

/-- R137, R347: MS[j][REG], j up to D. -/
def execGridctlStatMs (d : Dst) (x j : Reg) (s : State) : Host.Outcome State Fault Refusal :=
  wordOut (.gridctlStatMs d x j)
    (fun c =>
      let k := (c.reg j).toNat
      c.gridStat x d (fun p => k ≤ gDepth p.g && p.reg < 27) fun p => 0x100 + 4 * (27 * k + p.reg)) s

/-! ### Reading verges (R141) -/

/-- What a milestone word says of milestone e. -/
inductive MsState where
  | accept | stall | late
  deriving DecidableEq, Repr

/-- The table of R141. -/
def msState (v e : Nat) : MsState :=
  if v = e then .accept
  else if v = 0xFFFFFFFF then .stall
  else if e < v % 2 ^ 31 then .late
  else .stall

/-- The first late word, else the first stalled one. -/
def msVerdict (M : Mach) (ws : List (Nat × Nat)) (e : Nat) : MsState × Nat :=
  match ws.find? fun w => msState (M.word32 w.1) e = .late with
  | some w => (.late, w.2)
  | none =>
    match ws.find? fun w => msState (M.word32 w.1) e = .stall with
    | some w => (.stall, w.2)
    | none => (.accept, 0)

/-- The check of HLD and HWAIT over regions, then what follows (R141). -/
def Ctx.gridCheck (c : Ctx) (x : Reg) (need : GPos → Bool) (regs : GPos → List Nat)
    (f : Mach → GPos → List Word → Res) : Res :=
  c.withOwner x (fun p => c.mem.joinedAs p.g p.own && p.ms < 2 ^ 31 && need p) fun M p e =>
    match statePa M c.mem .read e with
    | .error f => c.xtrap f .read
    | .ok pa =>
      let j := p.ms % (gDepth p.g + 1)
      let ws := (regs p).map fun r => (pa + 0x100 + 4 * (27 * j + r), r)
      match msVerdict M ws p.ms with
      | (.late, r) => .trap (progTrap 0x17 c.raw (w64 r))
      | (.stall, _) => .waitOn M .grid (.milestone ws p.ms (gTimeout p.g))
      | (.accept, _) => f (acquire M c.mem.ref (gScope p.g)) p e

/-- R141, R346. -/
def execHwait (x : Reg) (s : State) : Host.Outcome State Fault Refusal :=
  wordOut (.hwait x)
    (fun c => c.gridCheck x (fun p => regionExists p.g p.reg) (fun p => [p.reg]) fun M _ _ => .done M) s

/-- R141, R346: every non-empty region. -/
def execHwaitAll (x : Reg) (s : State) : Host.Outcome State Fault Refusal :=
  wordOut (.hwaitAll x)
    (fun c =>
      c.gridCheck x (fun p => p.reg = 0) (fun p => (List.range 27).filter fun r => regionBytes p.g r ≠ 0)
        fun M _ _ => .done M) s

/-- Where bytes of a region's slot lie: a PVA, or pieces of the member's own tiles (R133, R345). -/
def vergeAt (m : Member) (p : GPos) (e : List Word) (b n : Nat) : Except (Option (List (Target × Nat))) Word :=
  let vt := entTiles e
  let off := p.ms % (gDepth p.g + 1) * slotBytes p.g vt + regionOff p.g p.reg + b
  if vt then
    let o := entVbase e % 512 * 8192 + off
    .error
      (if m.tilesN * 8192 < o + n then none else some [((.local (sramBase (m.core.getD 0) + o) : Target), n)])
  else .ok (w64 (entVbase e + off))

/-- R345: the run of a HLD lies in its region. -/
def runOk (p : GPos) (b al n : Nat) : Bool := regionExists p.g p.reg && b % al = 0 && b + n ≤ regionBytes p.g p.reg

/-- R141, R345, R153. -/
def execHld (d : Dst) (x b : Reg) (slot : BitVec 5) (sz : Size) (arr : BitVec 10) (s : State) :
    Host.Outcome State Fault Refusal :=
  wordOut (.hld d x b slot sz arr)
    (fun c =>
      let off := (c.reg b).toNat
      c.gridCheck x (fun p => runOk p off sz.bytes sz.bytes) (fun p => [p.reg]) fun M p e =>
        let c : Ctx := { c with M := M }
        match vergeAt c.mem p e off sz.bytes with
        | .ok pva => c.load d slot arr sz false false pva
        | .error (some ts) => c.loadFrom d slot arr sz false false 0 (.ok (M, ts))
        | .error none => .trap (illOpnd c.raw)) s

/-- R141, R345: rows pushed as QLD pushes them. -/
def execHldQ (q : BitVec 3) (x b n : Reg) (s : State) : Host.Outcome State Fault Refusal :=
  wordOut (.hldQ q x b n)
    (fun c =>
      let off := (c.reg b).toNat
      let k := (c.reg n).toNat
      c.gridCheck x (fun p => 1 ≤ k && k ≤ 32 && runOk p off 64 (128 * k)) (fun p => [p.reg]) fun M p e =>
        match vergeAt c.mem p e off (128 * k) with
        | .ok pva =>
          match c.queueLoad M q k ((List.range k).map fun i => some ((pva.toNat + 128 * i : Nat) : Int)) with
          | .error r => r
          | .ok M => .done M
        | .error (some ((.local pa, _) :: _)) =>
          if 32 < (c.mem.queue q).length + k || c.mustQueue (.queueRoom q.toNat k) then .wait .queue (.queueRoom q.toNat k)
          else
            .done
              (pushRows M c.mem c.s q
                ((List.range k).map fun i => some [((.local (pa + 128 * i) : Target), 128)]))
        | .error _ => .trap (illOpnd c.raw)) s

/-! ### Publishing (R138) -/

/-- The verge writes of milestone s: one for each receiver, and one for the owner's own regions, with the source cells as
they stand (R138). -/
def publishVerges (M : Mach) (m : Member) (p : GPos) (st : Strm) (num : Nat) : List Verge :=
  let base := Config.blockAt m.ref.part (gTable p.g) p.own
  let one (q : Nat) (rs : List Nat) : Verge :=
    { ref := ⟨m.ref, p.h, p.own, q, p.ms⟩
      grid := p.g
      cells := rs.map fun r => (r, regionData M p.g q r base)
      spilled := false
      notified := false
      started := false
      regions := rs.map fun r => (r, 0)
      st := st
      num := num }
  let self := recvRegions p.g p.own p.own
  (receivers p.g p.own).map (fun q => one q.1 q.2) ++ (if self.isEmpty then [] else [one p.own self])

/-- The reports of a publication: each region of the owner that another owner sources (R139). -/
def publishReports (m : Member) (p : GPos) (st : Strm) (num : Nat) : List Report :=
  ((List.range 27).filter fun r => regionBytes p.g r ≠ 0 && regionSource p.g p.own r ≠ p.own).map fun r =>
    ⟨⟨m.ref, p.h, p.own, regionSource p.g p.own r, p.ms⟩, r, p.g, st, num⟩

/-- A report's event. -/
def Report.event (r : Report) : Event := .progressReport r.ref r.region

/-- A refusal of a verge write of an owner, taken at that owner's next HPUB (R142). -/
def Ctx.vergeRefusal (c : Ctx) (g : List Word) (own : Nat) : Option Res :=
  (Strm.all.findSome? fun st =>
    ((c.mem.str st).imprecise.find? fun r => r.verge == some (g, own)).map fun r => (st, r)).map fun x =>
      .trapTaking c.M (.refusal x.1 x.2) (impreciseTrap c.raw x.2)

/-- R138, R346. -/
def execHpub (x : Reg) (s : State) : Host.Outcome State Fault Refusal :=
  wordOut (.hpub x)
    (fun c =>
      c.withOwner x (fun p => c.mem.joinedAs p.g p.own && p.reg = 0) fun M p e =>
        match statePa M c.mem .engineWrite e with
        | .error f => c.xtrap f .engineWrite
        | .ok pa =>
          if p.ms ≠ msRank (M.word32 pa) || 0x7FFFFFFF < p.ms then .trap (illOpnd c.raw)
          else
            match ({ c with M := M } : Ctx).vergeRefusal p.g p.own with
            | some r => r
            | none =>
              let n := p.ms - gDepth p.g
              let ws :=
                (receivers p.g p.own).flatMap fun q => q.2.map fun r => (pa + 0x600 + 4 * (26 - r), q.1)
              if ws.any fun w => msRank (M.word32 w.1) < n then .waitOn M .grid (.published ws n (gTimeout p.g))
              else
                match ({ c with M := M } : Ctx).pendingRefusal (gScope p.g) with
                | some r => r
                | none =>
                  let M := release M c.mem.ref c.st (gScope p.g)
                  if gScope p.g = .pod && outstanding M c.mem.ref c.st then .waitOn M .untimed .acked
                  else
                    let M := (dropCopies M c.mem.ref [(.local pa, 4)]).put pa (leBytes 4 p.ms)
                    let rs := publishReports c.mem p c.st c.s.nissue
                    let M :=
                      M.updMember c.mem.ref fun m =>
                        { m with verges := m.verges ++ publishVerges M m p c.st c.s.nissue, reports := m.reports ++ rs }
                    let M := rs.foldl (fun M x => M.raise 1 x.event) M
                    .untimed M (c.unt (.published p.g p.own p.ms (gTimeout p.g)))) s

/-! ### The verge engine (R139, R140) -/

/-- Write bytes of an owner's area through the partition's translation here: not into a core SRAM window (R131). The
member's core keeps no older copy of them (R81). -/
def areaWrite (M : Mach) (m : Member) (pva : Word) (bs : List Byte) : Except XFault Mach :=
  match dieSpan M m.die m.ref.part .engineWrite pva bs.length with
  | .error f => .error f
  | .ok (M, ts) =>
    match allLocal ts with
    | none => .error ⟨0x05, 7, 0, pva, false⟩
    | some ps => if ps.any fun p => windowFrame p.1 then .error ⟨0x04, 7, 0, pva, false⟩ else .ok (homeWrite (dropCopies M m.ref ts) ps bs)

/-- Write bytes at an owner: through the partition's translation here, as posted remote writes elsewhere; the number of
packets on their way, or the refusal. -/
def ownerWrite (M : Mach) (m : Member) (o : Origin) (e : List Word) (pva : Nat) (bs : List Byte)
    (ks : Nat := 0) : Except XFault (Mach × Nat) :=
  if entHere M m e then
    match areaWrite M m (w64 pva) bs with
    | .error f => .error f
    | .ok M => .ok (M, 0)
  else if !mayRequest M m.ref.part then .error (keyFault (w64 pva))
  else
    let r : ConnRef := ⟨m.ref.part, entDev e, (entMember e).part⟩
    let cuts := chunks 4096 (ceilDiv bs.length 4096) bs
    .ok
      (cuts.zipIdx.foldl
        (fun M x =>
          let addr := pva + 4096 * x.2
          sendOn M r (newPacket M r 1 addr (kspec (x.1.length + ks)) (wrPayload addr x.1)) o)
        M, cuts.length)

/-- A posted write of a region for a verge write. -/
def Verge.origin (v : Verge) (r : Nat) (pva : Word) : Origin := .verge v.ref r v.st pva v.grid v.num

/-- A region of a verge write is refused. -/
def Verge.refused (M : Mach) (v : Verge) (r : Nat) (f : XFault) : Mach := vergeRefused M v.ref r v.st v.grid v.num f

/-- Count packets of a verge write's region. -/
def countVerge (M : Mach) (v : VergeRef) (r n : Nat) : Mach :=
  M.updVerge v fun x =>
    { x with
      regions :=
        if x.regions.any (fun p => p.1 == r) then x.regions.map fun p => if p.1 = r then (r, p.2 + n) else p
        else if n = 0 then x.regions
        else x.regions ++ [(r, n)] }

/-- Write words of a state block for a verge write; `ks` carries the release scope of an MS update (R418). -/
def vergeWords (M : Mach) (m : Member) (v : Verge) (e : List Word) (offs : List Nat) (val : Nat)
    (ks : Nat := 0) : Mach :=
  offs.foldl
    (fun M off =>
      let pva := w64 (entSbase e + off)
      match ownerWrite M m (v.origin 27 pva) e pva.toNat (leBytes 4 val) ks with
      | .ok (M, n) => countVerge M v.ref 27 n
      | .error f => v.refused M 27 f)
    M

/-- Offset of MS[j][r]. -/
def msOff (g : List Word) (s r : Nat) : Nat := 0x100 + 4 * (27 * (s % (gDepth g + 1)) + r)

/-- Send the bytes of a region as sector arrivals to the receiver's verge tiles (R133). -/
def vergeArrivals (M : Mach) (m : Member) (v : Verge) (g e : List Word) (r : Nat) (bs : List Byte) : Mach :=
  let o := entVbase e % 512 * 8192 + v.ref.ms % (gDepth g + 1) * slotBytes g true + regionOff g r
  let dst := entMember e
  (chunks 64 (bs.length / 64) bs).zipIdx.foldl
    (fun M x =>
      let a := o + 64 * x.2
      let taddr := w64 ((ownTaddr dst (a / 8192) (a % 8192 / 64)).toNat + (wf (e.getD 0 0) 51 10) <<< 51 + 1 <<< 63)
      sendArrival M (entDev e)
        { dst := dst
          tile := a / 8192
          sector := a % 8192 / 64
          kind := .plain
          poison := false
          scope := gScope g
          mask := BitVec.allOnes 64
          data := x.1
          region := none
          sender := ⟨m.ref, v.st, none, false, taddr, some (v.ref, r, v.grid), none, v.num⟩ })
    (countVerge M v.ref r (bs.length / 64))

/-- Bytes of a region for its write: as the owner's block stood at HPUB, or from the spill area. -/
def vergeBytes (M : Mach) (m : Member) (v : Verge) (mine : List Word) (r : Nat) : Except XFault (Mach × List Byte) :=
  match aGet v.cells r with
  | some bs => .ok (M, bs)
  | none => devRead M m.die m.ref.part .engineRead (w64 (entSpill mine + regionOff v.grid r)) (regionBytes v.grid r)

/-- The tiles that hold cells of a region (R133). -/
def vergeTiles (v : Verge) (e : List Word) (r : Nat) : List Nat :=
  let o := entVbase e % 512 * 8192 + v.ref.ms % (gDepth v.grid + 1) * slotBytes v.grid true + regionOff v.grid r
  (List.range ((o % 8192 + regionBytes v.grid r + 8191) / 8192)).map (o / 8192 + ·)

/-- The engine cannot go on with a region: the tiles it shares with regions already sent are aborted, for the verge write was
filling them (R46). -/
def abortVerge (M : Mach) (v : Verge) (e : List Word) (sent : List Nat) (r : Nat) : Mach :=
  if !entTiles e || entDev e ≠ M.self then M
  else
    ((vergeTiles v e r).filter fun t => sent.any fun q => (vergeTiles v e q).contains t).foldl
      (fun M t => M.raise 1 (.abortEvent (entMember e) t)) M

/-- The receiver is notified of the publication, once: NPUB of its regions (R138). -/
def notifyVerge (M : Mach) (m : Member) (v : Verge) (e : List Word) : Mach :=
  if v.notified || v.ref.recv = v.ref.own then M
  else
    (vergeWords M m v e (v.regions.map fun p => 0x40 + 4 * p.1) v.ref.ms).updVerge v.ref fun x => { x with notified := true }

/-- A verge write starts: a receiver is notified, then the slot is in transfer, then the cells (R138, R140). -/
def startVerge (M : Mach) (m : Member) (v : Verge) (mine e : List Word) : Mach :=
  let g := v.grid
  let rs := v.regions.map (·.1)
  let M := notifyVerge M m v e
  let M := vergeWords M m v e (rs.map fun r => msOff g v.ref.ms r) (v.ref.ms + 2 ^ 31)
  let M :=
    (rs.foldl
      (fun (x : Mach × List Nat) r =>
        match vergeBytes x.1 m v mine r with
        | .error f => (abortVerge (v.refused x.1 r f) v e x.2 r, x.2)
        | .ok (M, bs) =>
          if entTiles e then (vergeArrivals M m v g e r bs, x.2 ++ [r])
          else
            let pva := w64 (entVbase e + v.ref.ms % (gDepth g + 1) * slotBytes g false + regionOff g r)
            match ownerWrite M m (v.origin r pva) e pva.toNat bs with
            | .ok (M, n) => (countVerge M v.ref r n, x.2)
            | .error f => (v.refused M r f, x.2))
      (M, [])).1
  (M.updVerge v.ref fun x => { x with started := true, cells := [] }).raise 1 (.vergeWriteComplete v.ref)

/-- A region's place in the spill area holds the same region of another receiver, as where faces clamp to one owner: its cells
then stay with the engine, since SPBASE has one place for each region (assumption 6). -/
def spillTaken (m : Member) (v : Verge) (r : Nat) : Bool :=
  m.verges.any fun x =>
    x.grid == v.grid && x.ref.own == v.ref.own && x.ref != v.ref && x.spilled && !x.started && (aGet x.cells r).isNone &&
      x.regions.any fun p => p.1 == r

/-- The cells a receiver needs are copied into the spill area, and a receiver that has joined is notified (R137, R138). -/
def spillVerge (M : Mach) (m : Member) (v : Verge) (mine e : List Word) (joined : Bool) : Mach :=
  let M := if joined then notifyVerge M m v e else M
  let M :=
    v.regions.foldl
      (fun M p =>
        if spillTaken m v p.1 then M
        else
          match areaWrite M m (w64 (entSpill mine + regionOff v.grid p.1)) ((aGet v.cells p.1).getD []) with
          | .ok M => M
          | .error f => v.refused M p.1 f)
      M
  M.updVerge v.ref fun x => { x with spilled := true, cells := x.cells.filter fun p => spillTaken m v p.1 }

/-- The condition under which a verge write starts (R140). -/
def mayStart (M : Mach) (v : Verge) (g : List Word) (pa : Nat) : Bool :=
  v.ref.recv = v.ref.own || v.ref.ms ≤ gDepth g ||
    v.regions.all fun p => v.ref.ms - gDepth g ≤ msRank (M.word32 (pa + 0x600 + 4 * (26 - p.1))) - 1 &&
      msRank (M.word32 (pa + 0x600 + 4 * (26 - p.1))) ≠ 0

/-- An earlier milestone's cells for the same receiver still stand in the spill area (R138). -/
def spillBusy (m : Member) (v : Verge) : Bool :=
  m.verges.any fun x =>
    x.grid == v.grid && x.ref.own == v.ref.own && x.ref.recv == v.ref.recv && decide (x.ref.ms < v.ref.ms) && !x.started

/-- A verge write whose owner table entry or state block cannot be reached is refused whole. -/
def dropVerge (M : Mach) (v : Verge) (f : XFault) : Mach :=
  (v.refused M 27 f).updVerge v.ref fun x => { x with started := true, regions := [] }

/-- The fault of a block that cannot be read. -/
def eccFault (pa : Nat) : XFault := ⟨0x21, 7, w64 pa, 0, false⟩

/-- VERGE_WRITE_START: a verge write not yet started starts, or moves to the spill area. -/
def advanceVerge (M : Mach) (v : VergeRef) : Mach :=
  match M.member v.m with
  | none => M
  | some m =>
    match m.verges.find? (fun x => x.ref == v && !x.started) with
    | none => M
    | some x =>
      let wake := some (Event.vergeWriteStart v)
      match readEntry M m vergeTag wake x.grid v.own with
      | .asking M => M
      | .fault f => dropVerge M x f
      | .ecc pa => dropVerge M x (eccFault pa)
      | .entry M mine =>
        match readEntry M m vergeTag wake x.grid v.recv with
        | .asking M => M
        | .fault f => dropVerge M x f
        | .ecc pa => dropVerge M x (eccFault pa)
        | .entry M e =>
          match statePa M m .engineRead mine with
          | .error f => dropVerge M x f
          | .ok pa =>
            let joined := entJoined M e x.grid v.recv
            if mayStart M x x.grid pa then (if joined then startVerge M m x mine e else M)
            else if !x.spilled && !spillBusy m x then spillVerge M m x mine e joined
            else M

/-- R140. -/
def execVergeWriteStart (v : VergeRef) (s : State) : Host.Outcome State Fault Refusal :=
  s.lift fun M => engineStep M v.m.part (.vergeWriteStart v) fun M => settleSignals (advanceVerge M v)

/-- VERGE_WRITE_COMPLETE: regions all of whose cells are performed take their milestone (R140). -/
def completeVerge (M : Mach) (v : VergeRef) : Mach :=
  match M.member v.m with
  | none => M
  | some m =>
    match m.verges.find? (fun x => x.ref == v && x.started) with
    | none => M
    | some x =>
      match readEntry M m vergeTag (some (.vergeWriteComplete v)) x.grid v.recv with
      | .entry M e =>
        let ready := (x.regions.filter fun p => p.2 = 0 && p.1 < 27).map (·.1)
        let M := vergeWords M m x e (ready.map fun r => msOff x.grid v.ms r) v.ms ((gScope x.grid).num <<< 13)
        M.updVerge v fun x =>
          { x with regions := x.regions.filter fun p => !(ready.contains p.1) && !(p.1 == 27 && p.2 == 0) }
      | .asking M => M
      | .fault f => dropVerge M x f
      | .ecc pa => dropVerge M x (eccFault pa)

/-- R140. -/
def execVergeWriteComplete (v : VergeRef) (s : State) : Host.Outcome State Fault Refusal :=
  s.lift fun M => engineStep M v.m.part (.vergeWriteComplete v) fun M => settleSignals (completeVerge M v)

/-- A report for the same RPUB word: only the oldest goes (R139). -/
def Report.alike (x y : Report) : Bool :=
  x.grid == y.grid && x.ref.own == y.ref.own && x.ref.recv == y.ref.recv && x.region == y.region

/-- A report is over, and the next for the same word follows. -/
def endReport (M : Mach) (x : Report) : Mach :=
  let M := M.updMember x.ref.m fun m => { m with reports := dropFirst (fun y => y == x) m.reports }
  match (M.member x.ref.m).bind fun m => m.reports.find? x.alike with
  | some y => M.raise 1 y.event
  | none => M

/-- PROGRESS_REPORT: owner `own` of v.m has published v.ms; RPUB of the source of its region learns it (R139).
A report to an owner that has not joined waits, and later ones behind it. -/
def reportVerge (M : Mach) (v : VergeRef) (r : Nat) : Mach :=
  match M.member v.m with
  | none => M
  | some m =>
    match m.reports.find? fun x => x.ref == v && x.region == r with
    | none => M
    | some x =>
      let refused (M : Mach) (f : XFault) : Mach := endReport (vergeRefused M v 28 x.st x.grid x.num f) x
      if m.reports.find? x.alike ≠ some x then M
      else
        match readEntry M m vergeTag (some x.event) x.grid v.recv with
        | .asking M => M
        | .fault f => refused M f
        | .ecc pa => refused M (eccFault pa)
        | .entry M e =>
          if !entJoined M e x.grid v.recv then M.raise 64 x.event
          else
            let pva := w64 (entSbase e + 0x600 + 4 * (26 - r))
            match ownerWrite M m (.verge v 28 x.st pva x.grid x.num) e pva.toNat (leBytes 4 v.ms) with
            | .ok (M, _) => endReport M x
            | .error f => refused M f

/-- R139. -/
def execProgressReport (v : VergeRef) (region : Nat) (s : State) : Host.Outcome State Fault Refusal :=
  s.lift fun M => engineStep M v.m.part (.progressReport v region) fun M => settleSignals (reportVerge M v region)

/-! ### Waits of the grid words -/

/-- The condition of a grid wait holds: the word is attempted again (R138, R141). -/
def gridHolds (M : Mach) : WaitCond → Bool
  | .milestone ws e _ => (msVerdict M ws e).1 ≠ .stall
  | .published ws n _ => ws.all fun w => n ≤ msRank (M.word32 w.1)
  | _ => false

/-- R138: the wait of a grid word ends the moment its condition holds. -/
def execHpubWaitEnd (m : MRef) (st : Strm) (s : State) : Host.Outcome State Fault Refusal :=
  s.lift fun M => wakeIf M m st fun _ cond => gridHolds M cond

/-- What a halo timeout names: the lagging receiver, or the stalled region (R395). -/
def haloAux (M : Mach) : WaitCond → Option Nat
  | .milestone ws e _ => if (msVerdict M ws e).1 = .stall then some (msVerdict M ws e).2 else none
  | .published ws n _ => (ws.find? fun w => msRank (M.word32 w.1) < n).map (·.2)
  | _ => none

/-- HPUB waits to its limit for cells to leave its block: it names the first receiver that lags (R137, R138). The halo
timeout of this second wait counts from the cycle HPUB issued in, after its first wait: the model's choice (assumption 6). -/
def publishTimeout (M : Mach) (m : Member) (st : Strm) : Mach :=
  match (m.str st).untimed with
  | some u =>
    match u.needs with
    | .published g own ms limit =>
      match m.unread g own ms with
      | v :: _ =>
        if u.iss + limit ≤ m.now M && m.mayLand st then unissue M m st u none (progTrap 0x16 u.raw (w64 v.ref.recv)) else M
      | [] => M
    | _ => M
  | none => M

/-- R141: HALO_STALE after the halo timeout. -/
def execHaloTimeout (m : MRef) (st : Strm) (s : State) : Host.Outcome State Fault Refusal :=
  s.lift fun M =>
    match M.member m with
    | none => M
    | some x =>
      match (x.str st).wait with
      | none => publishTimeout M x st
      | some w =>
        let now := x.now M
        match haloAux M w.cond with
        | none => M
        | some aux =>
          if w.granted.isNone && x.freeze = .none && w.since + w.limit ≤ now then
            let raw :=
              match fetch M x (x.str st).pc with
              | .ok r => r
              | .error _ => 0
            let x := x.settle now
            let x := x.updStr st fun s => s.unwait now
            endCycle (M.putMember { x with raised := x.raised ++ [(st, progTrap 0x16 raw (w64 aux))] }) m now
          else M

/-- A verge write waits to start or to leave for the spill area: VERGE_WRITE_START happens (R140). -/
def vergeReady (M : Mach) : Option VergeRef :=
  M.members.findSome? fun m =>
    (m.verges.find? fun x =>
      !x.started && !enginesHeld M m.ref.part &&
        match readEntry M m vergeTag none x.grid x.ref.own, readEntry M m vergeTag none x.grid x.ref.recv with
        | .entry _ mine, .entry _ e =>
          match statePa M m .engineRead mine with
          | .error _ => true
          | .ok pa => if mayStart M x x.grid pa then entJoined M e x.grid x.ref.recv else !x.spilled && !spillBusy m x
        | .fault _, _ => true
        | _, .fault _ => true
        | .ecc _, _ => true
        | _, .ecc _ => true
        | .asking _, _ => !M.fetched.any fun f => f.who == m.ref && f.tag == vergeTag
        | _, .asking _ => !M.fetched.any fun f => f.who == m.ref && f.tag == vergeTag).map (·.ref)

end Sys2Proof.Machine
end

