-- ==== Sys2Proof/Machine/Hotrow.lean ====
section
/-!
DEFINITION. The memory-side path: table records and stored rows (R348, R349, R203), the hot-row directory (R62 to R67),
frequency sketches (R68 to R70), HBM modes (R71 to R73), uncorrectable errors (R77).
-/

namespace Sys2Proof.Machine

/-! ### Table records (R348) -/

def tBase (t : List Word) : Nat := recF t 0 56
def tSpan (t : List Word) : Nat := recF t 64 56
def tBins (t : List Word) : Nat := recF t 128 56
def tRows (t : List Word) : Nat := recF t 192 40
def tRegLog (t : List Word) : Nat := recF t 272 5
def tExported (t : List Word) : Bool := recF t 280 1 = 1
def tAdagrad (t : List Word) : Bool := recF t 281 1 = 1
def tTrain (t : List Word) : Bool := recF t 282 1 = 1
def tSkip (t : List Word) : Bool := recF t 283 1 = 1
def tStored (t : List Word) : Nat := recF t 284 4
def tId (t : List Word) : Nat := recF t 288 12
def tGroup (t : List Word) : Nat := recF t 300 4
def tStride (t : List Word) : Nat := 16 * recF t 304 16
def tRate (t : List Word) : Nat := recF t 320 32
def tEps (t : List Word) : Nat := recF t 352 32
def tBinLog (t : List Word) : Nat := recF t 408 5
def tSources (t : List Word) : Nat := recF t 416 8 + 1

/-- Chiplets of a partition (R62). -/
def Part.chips (p : Part) : Nat := 2 * p.dies

/-- The chiplet that owns a row (R62). -/
def Part.chipOf (p : Part) (row : Nat) : Nat := 2 * p.id + row % p.chips

/-- PVA of a stored row in capacity memory (R349). -/
def rowPva (p : Part) (t : List Word) (row : Nat) : Nat :=
  tBase t + row % p.chips * tSpan t + row / p.chips * tStride t

/-- Bytes of `n` stored elements. -/
def storedBytes (ty n : Nat) : Nat :=
  match ty with
  | 0 => ceilDiv n 2
  | 1 | 5 | 6 => n
  | 2 | 3 => 2 * n
  | _ => 4 * n

/-- Bytes before the elements: accumulator, scale and bias, bitmap. -/
def rowHead (t : List Word) : Nat :=
  (if tAdagrad t then 4 else 0) + (if tStored t < 2 then 4 else 0) + if tSkip t then roundUp (ceilDiv (tDim t) 8) 4 else 0

/-- The dense size of a stored row (R350). -/
def rowDense (t : List Word) : Nat := rowHead t + storedBytes (tStored t) (tDim t)

/-! ### Dequantisation (R203) -/

/-- Stored element k of packed elements, as its code. -/
def storedCode (ty : Nat) (bs : List Byte) (k : Nat) : Nat :=
  match ty with
  | 0 => (leNat ((bs.drop (k / 2)).take 1)) / 16 ^ (k % 2) % 16
  | 1 | 5 | 6 => leNat ((bs.drop k).take 1)
  | 2 | 3 => leNat ((bs.drop (2 * k)).take 2)
  | _ => leNat ((bs.drop (4 * k)).take 4)

/-- One stored element as FP32, with the row's scale and bias. -/
def dequant (ty s b code : Nat) : Nat :=
  match ty with
  | 0 => fRnd fp32 false false (fAddV (fMulV (.fin false code 0 false) (fDec fp16 s)) (fDec fp16 b))
  | 1 =>
    let v := sgn 8 code
    fRnd fp32 false false (fAddV (fMulV (.fin (v < 0) v.natAbs 0 false) (fDec fp16 s)) (fDec fp16 b))
  | 2 => fCvt fp16 fp32 false false code
  | 3 => fCvt bf16 fp32 false false code
  | 4 => fCvt fp32 fp32 false false code
  | 5 => fCvt e4m3 fp32 false false code
  | _ => fCvt e5m2 fp32 false false code

/-- Elements of a row from element e on; `k` counts the stored ones met. -/
def rowElems (t : List Word) (s b : Nat) (bits : List Byte) (els : List Byte) : Nat → Nat → Nat → List Nat
  | 0, _, _ => []
  | n + 1, e, k =>
    let here := !tSkip t || bitOf (leNat ((bits.drop (e / 8)).take 1)) (e % 8)
    if here then dequant (tStored t) s b (storedCode (tStored t) els k) :: rowElems t s b bits els n (e + 1) (k + 1)
    else 0 :: rowElems t s b bits els n (e + 1) k

/-- A stored row as FP32 codes. -/
def rowValue (t : List Word) (bs : List Byte) : List Nat :=
  let a := if tAdagrad t then 4 else 0
  let s := leNat ((bs.drop a).take 2)
  let b := leNat ((bs.drop (a + 2)).take 2)
  let c := a + if tStored t < 2 then 4 else 0
  rowElems t s b (bs.drop c) (bs.drop (rowHead t)) (tDim t) 0 0

/-! ### Memory-side translation (R18, R75) -/

/-- Translate a byte of the memory-side path: SCARAB pages of attached ranges are reached. -/
def msXlate (M : Mach) (die : Nat) (p : Part) (k : AKind) (pva : Word) : Except XFault TlbEntry :=
  if wf pva 56 8 ≠ 0 then .error ⟨0x01, 7, 0, pva, false⟩
  else
    let found : Except XFault TlbEntry :=
      match tlbFind M none die p.id pva.toNat with
      | some e => .ok e
      | none => walk M die p pva
    match found with
    | .error f => .error f
    | .ok e => if !k.allowed e.r e.w e.x then .error ⟨0x05, e.level, e.word0, pva, false⟩ else .ok e

/-- Local pieces of a memory-side span, page by page; the translations stay in the die's TLB. A page that is not LOCAL
any more faults as one whose leaf does not grant the access (assumption 36). -/
def msSpan (M : Mach) (die : Nat) (p : Part) (k : AKind) : Nat → Nat → Nat → Except XFault (Mach × List (Nat × Nat))
  | 0, _, _ => .ok (M, [])
  | fuel + 1, a, n =>
    let len := min n (0x10000 - a % 0x10000)
    match msXlate M die p k (w64 a) with
    | .error f => .error f
    | .ok e =>
      match e.target a with
      | .remote _ _ _ => .error ⟨0x05, e.level, e.word0, w64 a, false⟩
      | .local pa =>
        let M := dieFill M die e
        if fenced M pa then .error ⟨0x21, 7, w64 (pa / 64 * 64), w64 a, false⟩
        else if len = n then .ok (M, [(pa, n)])
        else
          match msSpan M die p k fuel (a + len) (n - len) with
          | .error f => .error f
          | .ok (M, ps) => .ok (M, (pa, len) :: ps)

/-! ### The directory (R64, R65) -/

/-- C0 to C3 of R68. -/
def sketchMul (i : Nat) : Nat :=
  match i with
  | 0 => 0xA3C51E974B2D6F0B
  | 1 => 0xD71F08C3E95A2647
  | 2 => 0x5B94E2A70C3D81F5
  | _ => 0xC6E17F389A05D4B9

/-- A row's key (R64). -/
def rowKey (t : List Word) (row : Nat) : Nat := tId t * 2 ^ 40 + row

/-- A key's set. -/
def keySet (cfg : Word) (key : Nat) : Nat := key * sketchMul 0 % 2 ^ 64 / 2 ^ (64 - hrSets cfg)

/-- A buffer chiplet. -/
def Mach.chip (M : Mach) (n : Nat) : Chiplet := (M.chiplets.find? fun c => c.num == n).getD ⟨n, [], [], 0, []⟩

/-- Change a buffer chiplet. -/
def Mach.updChip (M : Mach) (n : Nat) (f : Chiplet → Chiplet) : Mach :=
  { M with chiplets := updIf (fun c => c.num == n) f M.chiplets }

/-- A row's directory entry. -/
def Chiplet.find (c : Chiplet) (key : Nat) : Option DirEntry := c.dir.find? fun e => e.key == key

/-- The entry of a way. -/
def Chiplet.way (c : Chiplet) (set way : Nat) : Option DirEntry := c.dir.find? fun e => e.set == set && e.way == way

/-- Replace the entry of a way; none makes it INVALID. -/
def Chiplet.setWay (c : Chiplet) (set way : Nat) (e : Option DirEntry) : Chiplet :=
  { c with dir := (c.dir.filter fun x => !(x.set == set && x.way == way)) ++ e.toList }

/-- The physical address of a way's slot (R58). -/
def slotPa (cfg : Word) (stack set way : Nat) : Nat := hrStart cfg stack + (set * 16 + way) * hrSlot cfg

/-- The newest copy lies in the slot. -/
def DirState.hot : DirState → Bool
  | .filling => false
  | _ => true

/-- Where the newest copy of a row lies (R65), or that its set is unusable (R77). -/
inductive RowPlace where
  | slot (pa : Nat) (e : DirEntry)
  | cap
  | unusable
  deriving DecidableEq, Repr

/-- The place a row is served from. -/
def rowPlace (M : Mach) (p : Part) (t : List Word) (row : Nat) : RowPlace :=
  if !p.hrEn then .cap
  else
    let n := p.chipOf row
    let c := M.chip n
    let key := rowKey t row
    if c.unusable.contains (keySet p.hrcfg key) then .unusable
    else
      match c.find key with
      | some e => if e.state.hot then .slot (slotPa p.hrcfg n e.set e.way) e else .cap
      | none => .cap

/-- Pieces of memory a row is read from or written to. -/
def rowPieces (M : Mach) (die : Nat) (p : Part) (t : List Word) (k : AKind) (row : Nat) :
    Except XFault (Mach × List (Nat × Nat)) :=
  match rowPlace M p t row with
  | .slot pa _ => .ok (M, [(pa, rowDense t)])
  | _ => msSpan M die p k (rowDense t / 0x10000 + 2) (rowPva p t row) (rowDense t)

/-- Read a row's newest copy. -/
def readRow (M : Mach) (die : Nat) (p : Part) (t : List Word) (row : Nat) : Except XFault (Mach × List Byte) :=
  match rowPieces M die p t .engineRead row with
  | .error f => .error f
  | .ok (M, ps) =>
    match homePoison M ps with
    | some pa => .error ⟨0x21, 7, w64 pa, w64 (rowPva p t row), false⟩
    | none => .ok (M, homeBytes M ps)

/-! ### Sketches (R68 to R70) -/

/-- Halve every counter of a group (R69). -/
def Sketch.halve (s : Sketch) : Sketch :=
  { s with cnt := (s.cnt.map fun c => (c.1, c.2 / 2)).filter fun c => c.2 ≠ 0 }

/-- A sketch with the decay its last observation reached (R69): nothing sees it without. -/
def Sketch.decayed (s : Sketch) : Sketch := if s.due then { s.halve with due := false } else s

/-- A group's sketch on a chiplet; a cleared one is zero (R78). -/
def Chiplet.sketch (c : Chiplet) (g : Nat) : Sketch :=
  ((c.sketches.find? fun s => s.group == g).getD ⟨g, 0, [], 0, false⟩).decayed

/-- Put a group's sketch back. -/
def Chiplet.setSketch (c : Chiplet) (s : Sketch) : Chiplet :=
  { c with sketches := (c.sketches.filter fun x => x.group != s.group) ++ [s] }

/-- Index of a key in a hash row. -/
def hashIdx (i key : Nat) : Nat := key * sketchMul i % 2 ^ 64 / 2 ^ 48

/-- A counter. -/
def Sketch.count (s : Sketch) (i idx : Nat) : Nat := ((s.cnt.find? fun c => c.1 == (i, idx)).map (·.2)).getD 0

/-- The estimate of a key: the least of its counters. -/
def Sketch.estimate (s : Sketch) (key : Nat) : Nat :=
  (List.range 4).foldl (fun m i => min m (s.count i (hashIdx i key))) 0xFFFF

/-- Set a counter; one at 0 is not listed. -/
def Sketch.setCount (s : Sketch) (i idx v : Nat) : Sketch :=
  { s with cnt := (s.cnt.filter fun c => c.1 != (i, idx)) ++ if v = 0 then [] else [((i, idx), v)] }

/-- The conservative update of an observation. -/
def Sketch.bump (s : Sketch) (key : Nat) : Sketch :=
  let est := s.estimate key
  (List.range 4).foldl
    (fun x i =>
      if s.count i (hashIdx i key) = est && est < 0xFFFF then x.setCount i (hashIdx i key) (est + 1) else x)
    s

/-- The group whose estimates decide between the ways of a set: that of the table a key belongs to. -/
def keyGroup (p : Part) (key : Nat) : Nat :=
  ((p.attached.find? fun a => tId a.table = key / 2 ^ 40).map fun a => tGroup a.table).getD 0

/-- Claim a way for a row: FILLING, and the copy begins. -/
def claimWay (M : Mach) (p : Part) (n set way key : Nat) : Mach :=
  (M.updChip n fun c => c.setWay set way (some ⟨set, way, key, .filling, none⟩)).raise 1 (.fillComplete p.id n set way)

/-- The way a promotion takes: none, an INVALID way, or a victim (R66). -/
def chooseWay (p : Part) (c : Chiplet) (set est : Nat) : Option (Nat × Option DirEntry) :=
  match (List.range 16).find? fun w => (c.way set w).isNone with
  | some w => some (w, none)
  | none =>
    let cands :=
      (List.range 16).filterMap fun w =>
        (c.way set w).bind fun e => if e.state = .clean || e.state = .dirty then some e else none
    let value (e : DirEntry) : Nat := (c.sketch (keyGroup p e.key)).estimate e.key
    match leastBy value cands with
    | some e => if value e < est then some (e.way, some e) else none
    | none => none

/-- A promotion of a row (R66). -/
def tryPromote (M : Mach) (p : Part) (t : List Word) (row est : Nat) : Mach :=
  let n := p.chipOf row
  let c := M.chip n
  let key := rowKey t row
  let set := keySet p.hrcfg key
  let waits := c.dir.any fun e => e.next == some key
  if !p.hrEn || c.unusable.contains set || hrSlot p.hrcfg < rowDense t || wf p.hrcfg 32 16 ≤ c.promoted ||
      (c.find key).isSome || waits then M
  else
    match chooseWay p c set est with
    | none => M
    | some (way, victim) =>
      let M := needPeriod (M.updChip n fun c => { c with promoted := c.promoted + 1 }) p.id
      match victim with
      | some e =>
        if e.state = .dirty then
          (M.updChip n fun c => c.setWay set way (some { e with state := .draining, next := some key })).raise 1
            (.writeBackComplete p.id n set way)
        else claimWay M p n set way key
      | none => claimWay M p n set way key

/-- Enter the decay that a group's last observation on a chiplet reached (R69). -/
def decayGroup (M : Mach) (chip group : Nat) : Mach := M.updChip chip fun c => c.setSketch (c.sketch group)

/-- One observation of a row's index (R69). -/
def observe (M : Mach) (p : Part) (t : List Word) (row : Nat) : Mach :=
  let n := p.chipOf row
  let g := tGroup t
  let s := (M.chip n).sketch g
  if !s.cfg.getLsbD 0 then M
  else
    let s := s.bump (rowKey t row)
    let M := M.updChip n fun c => c.setSketch s
    let est := s.estimate (rowKey t row)
    let thr := wf s.cfg 24 16
    let M := if thr ≠ 0 && thr ≤ est then tryPromote M p t row est else M
    let due := decide ((s.obs + 1) % 2 ^ wf s.cfg 16 5 = 0)
    let M := M.updChip n fun c => c.setSketch { c.sketch g with obs := s.obs + 1, due := due }
    if due then M.raise 0 (.decay p.id n g) else M

/-- R69: the halving of an observation that reached the period. Whoever looks at the sketch before this event sees it
halved already. -/
def execDecay (part chiplet group : Nat) (s : State) : Host.Outcome State Fault Refusal :=
  s.lift fun M =>
    match M.part part with
    | some p => if p.owns (chiplet / 2) then decayGroup M chiplet group else M
    | none => M

/-! ### Copies between slots and capacity memory (R65, R67) -/

/-- The attached table and row of a key. -/
def keyRow (p : Part) (key : Nat) : Option (List Word × Nat) :=
  (p.attached.find? fun a => tId a.table = key / 2 ^ 40).map fun a => (a.table, key % 2 ^ 40)

/-- The poisoned blocks of a copied span stay poisoned at their new place (R77): a block that takes any of their bytes. -/
def movePoison (M : Mach) (src dst : List (Nat × Nat)) : Mach :=
  match homePoison M src with
  | none => M
  | some _ =>
    { M with
      poison :=
        (dst.flatMap fun p => (List.range ((p.1 + p.2 - 1) / 64 - p.1 / 64 + 1)).map fun i => p.1 / 64 + i).foldl
          (fun l b => insertNat b l) M.poison }

/-- The memory-side path met a block it cannot read: an ECC fault of the partition (R77). -/
def pathPoison (M : Mach) (p : Part) (n : Nat) (ps : List (Nat × Nat)) : Mach :=
  match homePoison M ps with
  | some pa => partFault M p.id n pa
  | none => M

/-- FILL_COMPLETE: the row's bytes are in the slot, and the entry is CLEAN. A copy whose translation faults is logged
and given up (assumption 42). -/
def endFill (M : Mach) (part n set way : Nat) : Mach :=
  match M.part part with
  | none => M
  | some p =>
    match (M.chip n).way set way with
    | none => M
    | some e =>
      if e.state ≠ .filling then M
      else
        let M := M.updChip n fun c => c.setWay set way none
        match keyRow p e.key with
        | none => M
        | some (t, row) =>
          match rowPieces M p.id p t .engineRead row with
          | .error f => M.logPart p.id 0x20 n f.pva
          | .ok (M, ps) =>
            let slot := slotPa p.hrcfg n set way
            (movePoison ((pathPoison M p n ps).put slot (homeBytes M ps)) ps [(slot, rowDense t)]).updChip n fun c =>
              c.setWay set way (some { e with state := .clean })

/-- R65; a copy waits while a stack switches its mode (R74). -/
def execFillComplete (part chiplet set way : Nat) (s : State) : Host.Outcome State Fault Refusal :=
  s.lift fun M => engineStep M part (.fillComplete part chiplet set way) fun M => endFill M part chiplet set way

/-- A drained way is INVALID, or claimed by the promotion that waits for it. -/
def freeWay (M : Mach) (p : Part) (n : Nat) (e : DirEntry) : Mach :=
  let M := M.updChip n fun c => c.setWay e.set e.way none
  match e.next with
  | some key => claimWay M p n e.set e.way key
  | none => M

/-- WRITE_BACK_COMPLETE: the slot's bytes are in capacity memory. While the row's page faults, the write-back is logged
and tried again: the newest copy stays in the slot (assumption 42). -/
def endDrain (M : Mach) (part n set way : Nat) : Mach :=
  match M.part part with
  | none => M
  | some p =>
    match (M.chip n).way set way with
    | none => M
    | some e =>
      if e.state ≠ .draining then M
      else
        match keyRow p e.key with
        | none => freeWay M p n e
        | some (t, row) =>
          match msSpan M p.id p .engineWrite (rowDense t / 0x10000 + 2) (rowPva p t row) (rowDense t) with
          | .error f => (M.logPart p.id 0x20 n f.pva).raise 4096 (.writeBackComplete part n set way)
          | .ok (M, ps) =>
            let src := [(slotPa p.hrcfg n set way, rowDense t)]
            freeWay (movePoison (homeWrite (pathPoison M p n src) ps (homeBytes M src)) src ps) p n e

/-- R65; a copy waits while a stack switches its mode (R74). -/
def execWriteBackComplete (part chiplet set way : Nat) (s : State) : Host.Outcome State Fault Refusal :=
  s.lift fun M => engineStep M part (.writeBackComplete part chiplet set way) fun M => endDrain M part chiplet set way

/-- Rows of a table leave the cache: DIRTY ones drain, CLEAN ones become INVALID, and one being filled waits for its copy
(R65, R67). -/
def flushTable (M : Mach) (p : Part) (tid : Nat) : Mach :=
  (List.range p.chips).foldl
    (fun M k =>
      let n := 2 * p.id + k
      ((M.chip n).dir.filter fun e => e.key / 2 ^ 40 = tid).foldl
        (fun M e =>
          match e.state with
          | .dirty =>
            (M.updChip n fun c => c.setWay e.set e.way (some { e with state := .draining })).raise 1
              (.writeBackComplete p.id n e.set e.way)
          | .clean => M.updChip n fun c => c.setWay e.set e.way none
          | .draining => M
          | .filling => M)
        M)
    M

/-- No row of a table is cached. -/
def tableFlushed (M : Mach) (p : Part) (tid : Nat) : Bool :=
  (List.range p.chips).all fun k => (M.chip (2 * p.id + k)).dir.all fun e => e.key / 2 ^ 40 ≠ tid

/-! ### HBM modes (R71, R73) -/

/-- An HBM stack. -/
def Mach.stack (M : Mach) (k : Nat) : Stack := (M.hbm.find? fun s => s.num == k).getD ⟨k, false, none, [], []⟩

/-- Change a stack. -/
def Mach.updStack (M : Mach) (k : Nat) (f : Stack → Stack) : Mach :=
  { M with hbm := updIf (fun s => s.num == k) f M.hbm }

/-- A pseudo-channel's refresh as it stands at an interval (R73): each interval that has passed since is one refresh
postponed, and beyond the number the standard lets be postponed each one has been issued. -/
def Stack.refreshAt (s : Stack) (pc now : Nat) : Refresh :=
  let r := (s.refresh.find? fun x => x.pc == pc).getD ⟨pc, 0, 0, 0⟩
  let credit := r.credit + ((now - r.upto : Nat) : Int)
  let due := (credit - (Config.refreshBehind : Int)).toNat
  ⟨pc, (List.range due).foldl (fun b _ => Config.nextBank b) r.bank, credit - (due : Int), max r.upto now⟩

/-- MODE_SWITCH: the switch begins, and each pseudo-channel's pointer and credit are handed over as they stand (R73). -/
def startSwitch (M : Mach) (k : Nat) (compute : Bool) : Mach :=
  let s := M.stack k
  if s.switching.isSome || s.compute = compute then M
  else
    let now := M.wclk / (Config.refreshInterval + 1)
    (M.updStack k fun s =>
      { s with switching := some compute, refresh := s.refresh.map fun x => s.refreshAt x.pc now }).raise 1880
        (.modeSwitchComplete k)

/-- Replays that have not ended, and that no fault has stopped. -/
def liveReplays (M : Mach) : List Cmd :=
  M.members.flatMap fun m =>
    m.cmds.filter fun c =>
      match c.run with
      | .replay _ _ _ _ => !c.engineDone && !c.finished && c.sys.isNone
      | _ => false

/-- Some replay brings rows of a stack's slots into its base die: in the region it stands at or in a later one (R71). -/
def stackNeeded (M : Mach) (k : Nat) : Bool :=
  (liveReplays M).any fun c =>
    match c.run, M.part c.ref.m.part with
    | .replay _ t next last, some p =>
      p.owns (k / 2) &&
        (M.chip k).dir.any fun e =>
          let r := e.key % 2 ^ 40 / 2 ^ tRegLog t
          e.state.hot && e.key / 2 ^ 40 == tId t && next ≤ r && r < last
    | _, _ => false

/-- A stack in compute mode that no replay needs: its switch back (R71). -/
def stackIdle (M : Mach) : Option Event :=
  (M.hbm.find? fun s => s.compute && s.switching.isNone && !stackNeeded M s.num).map fun s => .modeSwitch s.num false

/-- R71, R73: a replay switches a stack it needs to compute mode, and one that none needs returns to normal mode; no
other agent switches modes. -/
def execModeSwitch (stack : Nat) (compute : Bool) (s : State) : Host.Outcome State Fault Refusal :=
  s.lift fun M => if stackNeeded M stack = compute then startSwitch M stack compute else M

/-- R71, R74: the stack is in its new mode, and the replays and the loads that wait for it go on. -/
def execModeSwitchComplete (stack : Nat) (s : State) : Host.Outcome State Fault Refusal :=
  s.lift fun M =>
    match (M.stack stack).switching with
    | none => M
    | some c =>
      let loads := (M.stack stack).waiting
      let M := M.updStack stack fun s => { s with compute := c, switching := none, waiting := [] }
      let M := loads.foldl (fun M x => stackReady M x.1 x.2) M
      (liveReplays M).foldl (fun M c => raiseOnce M 1 (.replayRegion c.ref c.pos)) M

/-- R73: a refresh is issued by the side that has the stack: the pointer moves to the next bank, and one postponed refresh
is made up or one is pulled in, so that each refresh stands for an interval of its own. A switching stack issues none. -/
def execRefresh (stack pc : Nat) (s : State) : Host.Outcome State Fault Refusal :=
  s.lift fun M =>
    M.updStack stack fun s =>
      let r := s.refreshAt pc (M.wclk / (Config.refreshInterval + 1))
      if s.switching.isSome || r.credit ≤ -(Config.refreshAhead : Int) then s
      else
        { s with
          refresh := { r with bank := Config.nextBank r.bank, credit := r.credit - 1 } :: s.refresh.filter fun x => x.pc != pc }

/-! ### Uncorrectable errors (R43, R77, R411) -/

/-- The partition that owns a die. -/
def partOfDie (M : Mach) (d : Nat) : Option Part := M.parts.find? fun p => p.owns d

/-- UNCORRECTABLE_ERROR. -/
def eccError (M : Mach) (e : EccSite) : Mach :=
  match e with
  | .block pa => { M with poison := insertNat (pa / 64) M.poison }
  | .dirSet n set met =>
    let M :=
      M.updChip n fun c =>
        { c with unusable := insertNat set c.unusable, dir := c.dir.filter fun x => x.set != set }
    let M :=
      match partOfDie M (n / 2) with
      | some p => M.logPart p.id 0x21 n (w64 set)
      | none => M.logDev n set
    match met.or ((partOfDie M (n / 2)).bind fun p => anyMember M p.id) with
    | some r =>
      -- the set's place in the hot-row region stands for the block (assumption 42)
      let pa := ((partOfDie M (n / 2)).map fun p => slotPa p.hrcfg n set 0).getD 0
      memberFault M r ⟨0x21, true, 0, w64 pa, [], false⟩
    | none => M
  | .sketch n g row idx =>
    let M := M.updChip n fun c => c.setSketch ((c.sketch g).setCount row idx 0)
    match partOfDie M (n / 2) with
    | some p => M.logPart p.id 0x21 n (w64 idx)
    | none => M.logDev n idx
  | .tile r t =>
    match M.member r with
    | none => M
    | some m =>
      let pa := (tilePa M m t 0).getD 0
      memberFault (syncTags (M.putMember (m.poison t 1)) r) r ⟨0x21, true, 0, w64 pa, [], false⟩
  | .entry part unit => M.logPart part 0x21 unit 0
  | .unit num held broken =>
    let M := { M.logDev num 0x21 with transit := M.transit.filter fun p => !held.contains p }
    let M := broken.foldl teardownHere M
    M.conns.foldl (fun M c => c.unacked.foldl (fun M u => M.raise 1 (.retransmitTimeout c.ref u.p.seq)) M) M
  | .replaySram part tid row =>
    -- the row's data are lost on their way home (R77)
    match M.part part with
    | none => M
    | some p =>
      match p.attached.find? fun a => tId a.table = tid with
      | none => M
      | some a =>
        match rowPieces M part p a.table .engineRead row with
        | .error _ => M
        | .ok (M, ps) =>
          { M with
            poison :=
              (ps.flatMap fun q => (List.range ((q.1 + q.2 - 1) / 64 - q.1 / 64 + 1)).map fun i => q.1 / 64 + i).foldl
                (fun l b => insertNat b l) M.poison }

/-- R77. -/
def execUncorrectableError (e : EccSite) (s : State) : Host.Outcome State Fault Refusal := s.lift fun M => eccError M e

end Sys2Proof.Machine
end

