-- ==== Sys2Proof/Machine/Embedding.lean ====
section
/-!
DEFINITION. The embedding words (R351 to R370): LOOKUP, LKSTAT, UPDATE, REPLAY, SKCTL, HRCTL, A2A, and the events of
their commands.
-/

namespace Sys2Proof.Machine

/-! ### Handles and operands (R352, R354) -/

/-- The table of a handle: sealed, attached and not detaching (R352). -/
def Ctx.table (c : Ctx) (h : BitVec 4) : Option (Part × List Word) :=
  match c.mem.handles[h.toNat]'h.isLt, c.M.part c.mem.ref.part with
  | some x, some p =>
    if x.kind = .table && p.attached.any fun a => a.table == x.copy && !a.detaching then some (p, x.copy) else none
  | _, _ => none

/-- An argument block keeps to R354's map. -/
def blockOk (mode : Pool) (ws : List Word) : Bool :=
  let off := recW ws 0
  let wgt := recW ws 1
  fld off 56 8 = 0 && fld wgt 56 8 = 0 && fld (recW ws 2) 56 8 = 0 && fld (recW ws 3) 24 40 = 0 && recW ws 3 ≠ 0 &&
    off % 4 = 0 && (if mode = .wsum then wgt ≠ 0 && wgt % 4 = 0 else wgt = 0)

/-- A tile address of a lookup: this device and partition (R354). -/
def Ctx.lookupTarget (c : Ctx) (w : Word) : Bool := taddrOk w && !w.getLsbD 63 && wf w 48 3 = c.mem.ref.part

/-- A lookup about to start. -/
def newLookup (mode : Pool) (nf : Bool) (list : Word) (ws table : List Word) (taddr : Word) : LookupRun where
  mode := mode
  nf := nf
  list := list
  nbag := recW ws 3
  stat := ws.getD 2 0
  wgt := ws.getD 1 0
  off := ws.getD 0 0
  part := wf taddr 48 3
  ctx := wf taddr 36 12
  member := wf taddr 28 8
  sect := wf taddr 16 9 * 128 + wf taddr 0 7
  table := table
  bags := []
  ended := []

/-! ### Pooling (R216, R217, R355, R356) -/

/-- The state of a pooling: sum so far, rows taken, status, fault. -/
structure PoolRun where
  M : Mach
  acc : Option (List Nat)
  n : Nat
  oob : Bool
  err : Bool
  fault : Option XFault

/-- Pool one more row. -/
def poolStep (mode : Pool) (acc : Option (List Nat)) (row : List Nat) (w : Nat) : List Nat :=
  match mode, acc with
  | .wsum, none => row.map fun x => fMul fp32 false x w
  | .wsum, some s => s.zipWith (fun a x => fFma fp32 x w a) row
  | .max, some s => s.zipWith (fMax fp32) row
  | _, none => row
  | _, some s => s.zipWith (fAdd fp32 false) row

/-- One position of a bag: bounds, observation, row. -/
def poolOne (die : Nat) (p : Part) (t : List Word) (mode : Pool) (r : PoolRun) (x : Nat × Nat) : PoolRun :=
  if r.fault.isSome then r
  else if tRows t ≤ x.1 then { r with oob := true }
  else
    match rowPlace r.M p t x.1 with
    | .unusable => { r with M := observe r.M p t x.1, err := true, n := r.n + 1 }
    | _ =>
      match readRow r.M die p t x.1 with
      | .error f => { r with fault := some f }
      | .ok (M, bs) =>
        { r with
          M := observe M p t x.1
          acc := some (poolStep mode r.acc (rowValue t bs) x.2)
          n := r.n + 1 }

/-- Pool positions in order: index and weight. -/
def poolAll (M : Mach) (die : Nat) (p : Part) (t : List Word) (mode : Pool) (xs : List (Nat × Nat)) : PoolRun :=
  xs.foldl (poolOne die p t mode) ⟨M, none, 0, false, false, none⟩

/-- RNE(s / n) for each element (R217). -/
def meanOf (n : Nat) (row : List Nat) : List Nat :=
  row.map fun s => fRnd fp32 false false (fDivV (fDec fp32 s) (.fin false n 0 false))

/-- The row of a bag: canonical NaNs for a faulting one, zeros for an empty one. -/
def bagRow (dim : Nat) (mode : Pool) (bad : Bool) (n : Nat) (acc : Option (List Nat)) : List Nat :=
  if bad then List.replicate dim fp32.nan
  else
    match acc with
    | none => List.replicate dim 0
    | some r => if mode = .mean then meanOf n r else r

/-- Status byte of a bag (R358). -/
def bagStatus (oob empty err badoff : Bool) : Nat :=
  (if oob then 1 else 0) + (if empty then 2 else 0) + (if err then 4 else 0) + if badoff then 8 else 0

/-! ### Landing a bag (R357, R358, R360) -/

/-- Count a faulting bag or a skipped pair (R360). -/
def Cmd.bad (c : Cmd) (pos : Nat) : Cmd :=
  { c with nbad := min (c.nbad + 1) (2 ^ 24 - 1), first := if c.nbad = 0 then pos else min c.first pos }

/-- What a bag's status leaves on its command (R359, R360). -/
def Cmd.noteBag (c : Cmd) (nf : Bool) (bag status : Nat) : Cmd :=
  let faulting := bitOf status 0 || bitOf status 3
  let c :=
    { c with
      oob := c.oob || faulting
      emptyBag := c.emptyBag || bitOf status 1
      err := c.err || bitOf status 2 }
  if faulting then (if nf then c.bad bag else (c.bad bag).defer 0x18 bag) else c

/-- The sectors of a row: first byte's sector, bytes and mask. -/
def rowPieces64 (row : List Nat) : List (List Byte × BitVec 64) :=
  let bs := row.flatMap fun x => leBytes 4 x
  (chunks 64 (ceilDiv bs.length 64) bs).map fun b => (b ++ zeros (64 - b.length), BitVec.ofNat 64 (2 ^ b.length - 1))

/-- A bag's sectors leave; those above every scratchpad are refused at once. No TILE names such a sector: the refusal's AUX
is the target member's last sector, and there is one refusal for all of a bag (assumption 25). -/
def landBag (M : Mach) (r : CmdRef) (bag : Nat) (row : List Nat) (status : Nat) : Mach :=
  match M.member r.m, M.cmd r with
  | some m, some c =>
    match c.lookup with
    | none => M
    | some k =>
      let ps := (rowPieces64 row).zipIdx.map fun x => (k.sect + bag * rowSectors (tDim k.table) + x.2, x.1)
      let here := ps.filter fun x => x.1 < 65536
      let dst : MRef := ⟨k.part, k.ctx, k.member⟩
      let M :=
        M.updCmd r fun c => (c.setLookup { k with bags := k.bags ++ [(bag, here.length, status)] }).noteBag k.nf bag status
      let M :=
        if here.length < ps.length then
          let w := ownTaddr dst 511 127
          refuse M m.ref c.st { Imprecise.command 0x23 w c.st r k.committed 0 false with aux := w }
        else M
      if here.isEmpty then endBag M r bag status
      else
        here.foldl
          (fun M x =>
            let t := x.1 / 128
            let s := x.1 % 128
            sendCmdArrival M r M.self (cmdArrival m c (ownTaddr dst t s) t s dst .plain .pkg x.2.2 x.2.1))
          M
  | _, _ => M

/-! ### LOOKUP (R354 to R359) -/

/-- The remote reads of a bag name this event as what goes on. -/
def bagWake (r : CmdRef) (bag : Nat) : Option Event := some (.lookupBag r bag)

/-- A read of the memory-side path stops a command at its committed position. -/
def stopRead (M : Mach) (r : CmdRef) (e : ReadEnd) : Mach :=
  let pos := ((M.cmd r).map (·.pos)).getD 0
  match e with
  | .fault f => engineFault M r (engineTrap r.num f .engineRead pos)
  | .ecc pa => engineFault M r (eccTrap 0 pa)
  | .asking M => M
  | .bytes M _ => M

/-- The positions of a bag from its lists: index and weight bits. -/
def positions (n : Nat) (list wgt : List Byte) : List (Nat × Nat) :=
  (List.range n).map fun i => (leNat ((list.drop (8 * i)).take 8), leNat ((wgt.drop (4 * i)).take 4))

/-- LOOKUP_BAG: a bag's rows are pooled, and its sectors leave. -/
def doBag (M : Mach) (r : CmdRef) (bag : Nat) : Mach :=
  match M.member r.m, M.cmd r with
  | some m, some c =>
    match c.run, M.part r.m.part with
    | .lookup k, some p =>
      if c.sys.isSome || c.finished || k.nbag ≤ bag || k.ended.contains bag || k.bags.any (fun b => b.1 == bag) then M
      else
        let next (M : Mach) : Mach :=
          let M := dropFetched M m.ref r.tag
          if bag + 1 < k.nbag then M.raise 1 (.lookupBag r (bag + 1)) else M
        match readAny M m r.tag (bagWake r bag) .engineRead (k.off + w64 (4 * bag)) 8 with
        | .bytes M os =>
          let a := leNat (os.take 4)
          let b := leNat (os.drop 4)
          if b < a then
            next (landBag M r bag (bagRow (tDim k.table) k.mode true 0 none) (bagStatus false false false true))
          else
            match readAny M m r.tag (bagWake r bag) .engineRead (k.list + w64 (8 * a)) (8 * (b - a)) with
            | .bytes M ls =>
              let w :=
                if k.mode = .wsum then
                  readAny M m r.tag (bagWake r bag) .engineRead (k.wgt + w64 (4 * a)) (4 * (b - a))
                else .bytes M []
              match w with
              | .bytes M ws =>
                let x := poolAll M m.die p k.table k.mode (positions (b - a) ls ws)
                match x.fault with
                | some f => stopRead M r (.fault f)
                | none =>
                  let status := bagStatus x.oob (a = b) x.err false
                  next (landBag x.M r bag (bagRow (tDim k.table) k.mode (x.oob || x.err) x.n x.acc) status)
              | e => stopRead M r e
            | e => stopRead M r e
        | e => stopRead M r e
    | _, _ => M
  | _, _ => M

/-- R355. -/
def execLookupBag (r : CmdRef) (bag : Nat) (s : State) : Host.Outcome State Fault Refusal :=
  s.lift fun M => engineStep M r.m.part (.lookupBag r bag) fun M => doBag M r bag

/-- What LOOKUP does (R352, R354). -/
def Ctx.lookup (c : Ctx) (mode : Pool) (nf : Bool) (d : Dst) (h : BitVec 4) (tc : BitVec 2) (list args taddr : Reg) : Res :=
  match c.table h with
  | none => .trap (illOpnd c.raw)
  | some (_, t) =>
    if !aligned (c.reg list) 8 || !aligned (c.reg args) 8 || !c.lookupTarget (c.reg taddr) then .trap (illOpnd c.raw)
    else
      match c.readSpan (c.reg args) 32 with
      | .fault f => c.xtrap f .read
      | .ecc pa => .trap (eccTrap c.raw pa)
      | .asking M => c.await M
      | .bytes M bs =>
        let ws := wordsOf 4 bs
        if !blockOk mode ws then .trap (illOpnd c.raw)
        else
          let M := release (dropFetched M c.mem.ref c.tag) c.mem.ref c.st .pkg
          let (M, ref) := c.issueCmd M tc (.lookup (newLookup mode nf (c.reg list) ws t (c.reg taddr)))
          c.untimedNow (M.raise 1 (.lookupBag ref 0)) [(d, w64 ref.num)]

/-- R352, R354. -/
def execLookup (mode : Pool) (nf : Bool) (d : Dst) (h : BitVec 4) (tc : BitVec 2) (list args taddr : Reg) (s : State) :
    Host.Outcome State Fault Refusal :=
  word (.lookup mode nf d h tc list args taddr) (fun c => c.lookup mode nf d h tc list args taddr) s

/-! ### LKSTAT (R360) -/

/-- R360. -/
def execLkstat (d : Dst) (tc : BitVec 2) (x : Reg) (s : State) : Host.Outcome State Fault Refusal :=
  word (.lkstat d tc x) (fun c => .done (c.result 1 d (lookupStatus c.mem tc (c.reg x).toNat))) s

/-! ### UPDATE (R361, R362) -/

/-- Bytes of a bin entry. -/
def entryBytes (t : List Word) : Nat := 64 + 64 * rowSectors (tDim t)

/-- PVA of a bin. -/
def binPva (t : List Word) (region source : Nat) : Nat :=
  tBins t + (region * tSources t + source) * (64 + 2 ^ tBinLog t * entryBytes t)

/-- Regions of a table. -/
def tRegions (t : List Word) : Nat := ceilDiv (tRows t) (2 ^ tRegLog t)

/-- The tail of a bin before the region's first append, for the marker (R163). -/
def noteTail (M : Mach) (r : MRef) (epoch : Option Nat) (bin tail : Nat) : Mach :=
  M.updMember r fun m =>
    { m with
      region :=
        m.region.map fun g =>
          if epoch = some g.epoch && !(g.bins.any fun b => b.1 == bin) then { g with bins := g.bins ++ [(bin, tail)] }
          else g }

/-- The member's core keeps no older copy of a span that its engine reads or writes (R81). -/
def dropSpan (M : Mach) (m : Member) (pva : Word) (n : Nat) : Mach :=
  match dieSpan M m.die m.ref.part .engineRead pva n with
  | .ok (_, ts) => dropCopies M m.ref ts
  | .error _ => M

/-- How a pair ends. -/
inductive PairEnd where
  | next (M : Mach)
  | fault (f : XFault) (k : AKind)

/-- An open region holds 65,536 bins, and this is another (R407): the pair is skipped as if its bin were full. -/
def binsSpent (m : Member) (c : Cmd) (bin : Nat) : Bool :=
  match m.region with
  | some g => c.epoch == some g.epoch && decide (65536 ≤ g.bins.length) && !g.bins.any fun b => b.1 == bin
  | none => false

/-- Append a pair to its bin, or skip it (R362). -/
def appendPair (M : Mach) (m : Member) (c : Cmd) (p : Part) (nf : Bool) (t : List Word) (k i : Nat) (g : List Byte) :
    PairEnd :=
  if tRows t ≤ i then
    .next (M.updCmd c.ref fun c =>
      let c := { c.bad k with oob := true }
      if nf then c else c.defer 0x18 k)
  else
    let bin := binPva t (i / 2 ^ tRegLog t) m.ref.rank
    match devRead (dropSpan M m (w64 bin) 16) m.die p.id .engineRead (w64 bin) 16 with
    | .error f => .fault f .engineRead
    | .ok (M, bs) =>
      let head := leNat (bs.take 8)
      let tail := leNat (bs.drop 8)
      if tail = head + 2 ^ tBinLog t || binsSpent m c bin then .next (M.updCmd c.ref fun c => { c.bad k with ovf := true }.defer 0x19 k)
      else
        let e := bin + 64 + tail % 2 ^ tBinLog t * entryBytes t
        match devWrite (dropSpan M m (w64 e) (entryBytes t)) m.die p.id .engineWrite (w64 e) (leBytes 8 i ++ zeros 56 ++ g) with
        | .error f => .fault f .engineWrite
        | .ok M =>
          let M := noteTail M m.ref c.epoch bin tail
          match devWrite M m.die p.id .engineWrite (w64 (bin + 8)) (leBytes 8 (tail + 1)) with
          | .error f => .fault f .engineWrite
          | .ok M =>
            let cfg := ((M.chip (p.chipOf i)).sketch (tGroup t)).cfg
            .next (if cfg.getLsbD 1 then observe M p t i else M)

/-- BIN_APPEND: pair k of an UPDATE. -/
def doPair (M : Mach) (r : CmdRef) (k : Nat) : Mach :=
  match M.member r.m, M.cmd r with
  | some m, some c =>
    match c.run, M.part r.m.part with
    | .update nf list grad n t next, some p =>
      if c.sys.isSome || c.finished || c.engineDone || k ≠ next then M
      else
        let wake := some (Event.binAppend r k)
        match readAny M m r.tag wake .engineRead (list + w64 (8 * k)) 8 with
        | .bytes M bs =>
          match readAny M m r.tag wake .engineRead (grad + w64 (64 * rowSectors (tDim t) * k)) (4 * tDim t) with
          | .bytes M g =>
            match appendPair M m c p nf t k (leNat bs) g with
            | .fault f a => engineFault M r (engineTrap r.num f a k)
            | .next M =>
              let M := dropFetched M m.ref r.tag
              let M := M.updCmd r fun c => { c with run := .update nf list grad n t (k + 1), pos := k + 1 }
              if k + 1 < n then M.raise 1 (.binAppend r (k + 1)) else engineEnds M r
          | e => stopRead M r e
        | e => stopRead M r e
    | _, _ => M
  | _, _ => M

/-- R362. -/
def execBinAppend (r : CmdRef) (pair : Nat) (s : State) : Host.Outcome State Fault Refusal :=
  s.lift fun M => engineStep M r.m.part (.binAppend r pair) fun M => doPair M r pair

/-- R362. -/
def execUpdate (nf : Bool) (d : Dst) (h : BitVec 4) (tc : BitVec 2) (list grad n : Reg) (s : State) :
    Host.Outcome State Fault Refusal :=
  word (.update nf d h tc list grad n)
    (fun c =>
      match c.table h with
      | none => .trap (illOpnd c.raw)
      | some (_, t) =>
        let k := (c.reg n).toNat
        if !tTrain t || k = 0 || 65536 < k || !aligned (c.reg list) 8 || !aligned (c.reg grad) 64 ||
            tSources t ≤ c.mem.ref.rank then .trap (illOpnd c.raw)
        else
          let (M, ref) := c.issueCmd c.M tc (.update nf (c.reg list) (c.reg grad) k t 0)
          .done (c.resultOn (M.raise 1 (.binAppend ref 0)) 1 d (w64 ref.num))) s

/-! ### REPLAY (R363, R364) -/

/-- `n` entries of a bin from entry e on: row index and gradient. -/
def binRun (die : Nat) (p : Part) (t : List Word) (bin : Nat) :
    Nat → Nat → Mach → Except XFault (Mach × List (Nat × List Nat))
  | 0, _, M => .ok (M, [])
  | n + 1, e, M =>
    let a := bin + 64 + e % 2 ^ tBinLog t * entryBytes t
    match devRead M die p.id .engineRead (w64 a) (64 + 4 * tDim t) with
    | .error f => .error f
    | .ok (M, bs) =>
      match binRun die p t bin n (e + 1) M with
      | .error f => .error f
      | .ok (M, es) =>
        let g := (List.range (tDim t)).map fun j => leNat ((bs.drop (64 + 4 * j)).take 4)
        .ok (M, (leNat (bs.take 8), g) :: es)

/-- Entries of a bin from HEAD to TAIL - 1, with TAIL. -/
def binEntries (M : Mach) (die : Nat) (p : Part) (t : List Word) (r s : Nat) :
    Except XFault (Mach × Nat × List (Nat × List Nat)) :=
  let bin := binPva t r s
  match devRead M die p.id .engineRead (w64 bin) 16 with
  | .error f => .error f
  | .ok (M, bs) =>
    let head := leNat (bs.take 8)
    let tail := leNat (bs.drop 8)
    match binRun die p t bin (tail - head) head M with
    | .error f => .error f
    | .ok (M, es) => .ok (M, tail, es)

/-- The bins of a region in ascending source order, from source s on: tails, and every entry. -/
def binsFrom (die : Nat) (p : Part) (t : List Word) (r : Nat) :
    Nat → Nat → Mach → Except XFault (Mach × List Nat × List (Nat × List Nat))
  | 0, _, M => .ok (M, [], [])
  | n + 1, s, M =>
    match binEntries M die p t r s with
    | .error f => .error f
    | .ok (M, tail, es) =>
      match binsFrom die p t r n (s + 1) M with
      | .error f => .error f
      | .ok (M, tails, rest) => .ok (M, tail :: tails, es ++ rest)

/-- Add a gradient to a row's sum: plain sums in order (R216, R217). -/
def addGrad (acc : List (Nat × List Nat)) (x : Nat × List Nat) : List (Nat × List Nat) :=
  match aGet acc x.1 with
  | none => acc ++ [x]
  | some g => aSet acc x.1 (g.zipWith (fAdd fp32 false) x.2)

/-- Elements of a trainable row as FP32 codes. -/
def trainElems (t : List Word) (bs : List Byte) : List Nat :=
  let els := bs.drop (rowHead t)
  (List.range (tDim t)).map fun j => dequant (tStored t) 0 0 (storedCode (tStored t) els j)

/-- Bytes of a trainable row: accumulator, elements rounded to the stored type. -/
def trainBytes (t : List Word) (g : Nat) (w : List Nat) : List Byte :=
  (if tAdagrad t then leBytes 4 g else []) ++
    w.flatMap fun x => if tStored t = 3 then leBytes 2 (fCvt fp32 bf16 false false x) else leBytes 4 x

/-- One optimiser step on a row (R364). -/
def optimise (o : Opt) (t : List Word) (bs : List Byte) (g : List Nat) : List Byte :=
  let w := trainElems t bs
  let G := if tAdagrad t then leNat (bs.take 4) else 0
  let step (x : Nat) : Nat := fMul fp32 false (tRate t) x
  match o with
  | .acc => trainBytes t G (w.zipWith (fAdd fp32 false) g)
  | .sgd => trainBytes t G (w.zipWith (fun a x => fSub fp32 false a (step x)) g)
  | .adag =>
    let q := sumProd (g.map fun x => (fDec fp32 x, fDec fp32 x))
    let q := fRnd fp32 false false (fDivV (fDec fp32 q) (.fin false (tDim t) 0 false))
    let G := fAdd fp32 false G q
    let d := fAdd fp32 false (fSqrt fp32 G) (tEps t)
    trainBytes t G (w.zipWith (fun a x => fSub fp32 false a (fDiv fp32 (step x) d)) g)

/-- Write an updated row at its newest copy: a CLEAN row's slot becomes DIRTY (R67). -/
def writeRow (M : Mach) (p : Part) (t : List Word) (row : Nat) (ps : List (Nat × Nat)) (bs : List Byte) : Mach :=
  let M := homeWrite M ps bs
  match rowPlace M p t row with
  | .slot _ e =>
    if e.state = .clean then
      M.updChip (p.chipOf row) fun c => c.setWay e.set e.way (some { e with state := .dirty })
    else M
  | _ => M

/-- The rows of a region rewritten: pieces and bytes of each, or the first fault. A row whose directory set is unusable has
no newest copy to update: it is passed over, and its gradients are gone with HEAD (assumption 26). -/
def regionRows (die : Nat) (p : Part) (t : List Word) (o : Opt) :
    List (Nat × List Nat) → Mach → Except XFault (Mach × List (Nat × List (Nat × Nat) × List Byte))
  | [], M => .ok (M, [])
  | x :: xs, M =>
    match rowPlace M p t x.1 with
    | .unusable => regionRows die p t o xs M
    | _ =>
      match readRow M die p t x.1 with
      | .error f => .error f
      | .ok (M, bs) =>
        match rowPieces M die p t .engineWrite x.1 with
        | .error f => .error f
        | .ok (M, ps) =>
          match regionRows die p t o xs M with
          | .error f => .error f
          | .ok (M, rest) => .ok (M, (x.1, ps, optimise o t bs x.2) :: rest)

/-- Stacks whose slots a region's rows stand in (R71). -/
def regionStacks (M : Mach) (p : Part) (t : List Word) (region : Nat) : List Nat :=
  (List.range p.chips).filterMap fun k =>
    let n := 2 * p.id + k
    if (M.chip n).dir.any fun e =>
        e.state.hot && e.key / 2 ^ 40 == tId t && e.key % 2 ^ 40 / 2 ^ tRegLog t == region
    then some n else none

/-- The bins of a region, coalesced: new heads, sums, and how many entries are logged. -/
def coalesce (M : Mach) (die : Nat) (p : Part) (t : List Word) (region : Nat) :
    Except XFault (Mach × List Nat × List (Nat × List Nat) × Nat) :=
  match binsFrom die p t region (tSources t) 0 M with
  | .error f => .error f
  | .ok (M, tails, es) =>
    let good (x : Nat × List Nat) : Bool := x.1 / 2 ^ tRegLog t == region && decide (x.1 < tRows t)
    .ok (M, tails, (es.filter good).foldl addGrad [], (es.filter fun x => !good x).length)

/-- Heads move to the tails read at the region's start. -/
def putHeads (M : Mach) (die : Nat) (p : Part) (t : List Word) (region : Nat) (tails : List Nat) : Except XFault Mach :=
  tails.zipIdx.foldl
    (fun acc x =>
      match acc with
      | .error f => .error f
      | .ok M => devWrite M die p.id .engineWrite (w64 (binPva t region x.2)) (leBytes 8 x.1))
    (.ok M)

/-- REPLAY_REGION: one region is coalesced and applied; its stacks are in compute mode first. -/
def doRegion (M : Mach) (r : CmdRef) (region : Nat) : Mach :=
  match M.member r.m, M.cmd r with
  | some m, some c =>
    match c.run, M.part r.m.part with
    | .replay o t next last, some p =>
      if c.sys.isSome || c.finished || c.engineDone || region ≠ next then M
      else
        let waiting := (regionStacks M p t region).filter fun k => !(M.stack k).compute || (M.stack k).switching.isSome
        if !waiting.isEmpty then
          waiting.foldl
            (fun M k => if (M.stack k).switching.isNone then raiseOnce M 1 (.modeSwitch k true) else M) M
        else
          let stop (f : XFault) (a : AKind) : Mach := engineFault M r (engineTrap r.num f a region)
          match coalesce M m.die p t region with
          | .error f => stop f .engineRead
          | .ok (M, tails, sums, odd) =>
            match regionRows m.die p t o sums M with
            | .error f => stop f .engineWrite
            | .ok (M, rows) =>
              match putHeads M m.die p t region tails with
              | .error f => stop f .engineWrite
              | .ok M =>
                let M := rows.foldl (fun M x => writeRow M p t x.1 x.2.1 x.2.2) M
                let M := (List.range odd).foldl (fun M _ => M.logPart p.id 0xFF m.unit (w64 region)) M
                let M := M.updCmd r fun c => { c with run := .replay o t (region + 1) last, pos := region + 1 }
                if region + 1 < last then M.raise 1 (.replayRegion r (region + 1)) else engineEnds M r
    | _, _ => M
  | _, _ => M

/-- R363. -/
def execReplayRegion (r : CmdRef) (region : Nat) (s : State) : Host.Outcome State Fault Refusal :=
  s.lift fun M => engineStep M r.m.part (.replayRegion r region) fun M => doRegion M r region

/-- REPLAY with an optimiser (R363). -/
def Ctx.replay (c : Ctx) (o : Opt) (d : Dst) (h : BitVec 4) (tc : BitVec 2) (r0 nr : Reg) : Res :=
  match c.table h with
  | none => .trap (illOpnd c.raw)
  | some (_, t) =>
    let a := (c.reg r0).toNat
    let n := (c.reg nr).toNat
    let adag := o = .adag && (!tAdagrad t || !fIsFin fp32 (tEps t) || fld (tEps t) 31 1 = 1 || fld (tEps t) 0 31 = 0)
    if !tTrain t || n = 0 || tRegions t < a + n || adag then .trap (illOpnd c.raw)
    else
      let (M, ref) := c.issueCmd c.M tc (.replay o t a (a + n))
      let M := M.updCmd ref fun k => { k with pos := a }
      .done (c.resultOn (M.raise 1 (.replayRegion ref a)) 1 d (w64 ref.num))

/-- R363. -/
def execReplayAcc (d : Dst) (h : BitVec 4) (tc : BitVec 2) (r0 nr : Reg) (s : State) :
    Host.Outcome State Fault Refusal :=
  wordOut (.replayAcc d h tc r0 nr) (fun c => c.replay .acc d h tc r0 nr) s

/-- R363. -/
def execReplaySgd (d : Dst) (h : BitVec 4) (tc : BitVec 2) (r0 nr : Reg) (s : State) :
    Host.Outcome State Fault Refusal :=
  wordOut (.replaySgd d h tc r0 nr) (fun c => c.replay .sgd d h tc r0 nr) s

/-- R363. -/
def execReplayAdag (d : Dst) (h : BitVec 4) (tc : BitVec 2) (r0 nr : Reg) (s : State) :
    Host.Outcome State Fault Refusal :=
  wordOut (.replayAdag d h tc r0 nr) (fun c => c.replay .adag d h tc r0 nr) s

/-! ### SKCTL (R365) -/

/-- An SKCFG word that is admitted (R70). -/
def skcfgOk (w : Word) : Bool := wf w 40 24 = 0 && wf w 21 3 = 0 && wf w 2 14 = 0 && 10 ≤ wf w 16 5

/-- Write a group's SKCFG on one chiplet. -/
def Chiplet.setSkcfg (c : Chiplet) (g : Nat) (v : Word) : Chiplet :=
  let s := c.sketch g
  c.setSketch (if v.getLsbD 0 && !s.cfg.getLsbD 0 then { s with cfg := v, cnt := [], obs := 0, due := false } else { s with cfg := v })

/-- R365. -/
def execSkctlWr (g : BitVec 4) (x : Reg) (s : State) : Host.Outcome State Fault Refusal :=
  wordOut (.skctlWr g x)
    (fun c =>
      let v := c.reg x
      match c.M.part c.mem.ref.part with
      | none => .trap (illInstr c.raw)
      | some p =>
        c.untimedNow
          ((List.range p.chips).foldl
            (fun M k =>
              if skcfgOk v then M.updChip (2 * p.id + k) fun ch => ch.setSkcfg g.toNat v
              else M.logPart p.id 0xFF (2 * p.id + k) v)
            c.M)
          []) s

/-- R365. -/
def execSkctlRd (d : Dst) (g : BitVec 4) (s : State) : Host.Outcome State Fault Refusal :=
  wordOut (.skctlRd d g)
    (fun c => c.untimedNow c.M [(d, ((c.M.chip (2 * c.mem.ref.part)).sketch g.toNat).cfg)]) s

/-- R365. -/
def execSkctlEst (d : Dst) (h : BitVec 4) (x : Reg) (s : State) : Host.Outcome State Fault Refusal :=
  wordOut (.skctlEst d h x)
    (fun c =>
      match c.table h with
      | none => .trap (illOpnd c.raw)
      | some (p, t) =>
        let row := (c.reg x).toNat
        if tRows t ≤ row then .trap (illOpnd c.raw)
        else
          let k := (c.M.chip (p.chipOf row)).sketch (tGroup t)
          c.untimedNow c.M [(d, if k.cfg.getLsbD 0 then w64 (k.estimate (rowKey t row)) else 0)]) s

/-! ### HRCTL (R366, R367) -/

/-- The table a command works on. -/
def Cmd.tableOf (c : Cmd) : Option (List Word) :=
  match c.run with
  | .lookup k => some k.table
  | .update _ _ _ _ t _ => some t
  | .replay _ t _ _ => some t
  | .flush t _ => some t
  | _ => none

/-- Commands already issued on a range that have not completed. -/
def rangeBusy (M : Mach) (r : CmdRef) (t : List Word) : Bool :=
  M.members.any fun m =>
    m.ref.part == r.m.part && m.cmds.any fun c => c.ref != r && !c.finished && c.tableOf == some t

/-- A flush goes on: rows drain; it completes when none is cached. -/
def advanceFlush (M : Mach) (r : CmdRef) : Mach :=
  match M.cmd r, M.part r.m.part with
  | some c, some p =>
    match c.run with
    | .flush t detach =>
      if c.engineDone || c.finished then M
      else if detach && rangeBusy M r t then M.raise 16 (.commandCompletion r)
      else
        let M := flushTable M p (tId t)
        if tableFlushed M p (tId t) then
          engineEnds
            (if detach then
              M.updPart p.id fun p => { p with attached := p.attached.filter fun a => a.table != t }
             else M) r
        else M.raise 16 (.commandCompletion r)
    | _ => M
  | _, _ => M

/-- R366. -/
def execHrctlFlush (d : Dst) (h : BitVec 4) (tc : BitVec 2) (s : State) : Host.Outcome State Fault Refusal :=
  wordOut (.hrctlFlush d h tc)
    (fun c =>
      match c.table h with
      | none => .trap (illOpnd c.raw)
      | some (_, t) =>
        let (M, ref) := c.issueCmd c.M tc (.flush t false)
        .done (c.resultOn (M.raise 1 (.commandCompletion ref)) 1 d (w64 ref.num))) s

/-- R367, R368. -/
def execHrctlDetach (d : Dst) (h : BitVec 4) (tc : BitVec 2) (s : State) : Host.Outcome State Fault Refusal :=
  wordOut (.hrctlDetach d h tc)
    (fun c =>
      match c.table h with
      | none => .trap (illOpnd c.raw)
      | some (p, t) =>
        let M :=
          c.M.updPart p.id fun p =>
            { p with attached := p.attached.map fun a => if a.table = t then { a with detaching := true } else a }
        let (M, ref) := c.issueCmd M tc (.flush t true)
        .done (c.resultOn (M.raise 1 (.commandCompletion ref)) 1 d (w64 ref.num))) s

/-! ### A2A (R369, R370) -/

def xNsh (x : List Word) : Nat := recF x 400 10 + 1
def xHash (x : List Word) : Bool := recF x 410 1 = 1
def xDim (x : List Word) : Nat := recF x 416 11 + 1

/-- An exchange record keeps to R369's map. -/
def exchangeOk (x : List Word) : Bool :=
  fld (recW x 0) 56 8 = 0 && fld (recW x 1) 56 8 = 0 && fld (recW x 2) 56 8 = 0 && fld (recW x 3) 56 8 = 0 &&
    fld (recW x 4) 56 8 = 0 && fld (recW x 6) 0 16 = 0 && fld (recW x 6) 27 5 = 0 && fld (recW x 6) 43 21 = 0 &&
    recW x 7 = 0 && recW x 0 % 8 = 0 && recW x 1 % 8 = 0 && recW x 2 % 16 = 0 && recW x 3 % 16 = 0 &&
    recW x 4 % 4 = 0 && xDim x ≤ 2048 &&
    if xHash x then recW x 5 % 2 = 1 && 2 ^ log2 (xNsh x) = xNsh x else recW x 5 = 0

/-- A shard map entry: its two words. -/
def shardEntry (bs : List Byte) (s : Nat) : List Word := wordsOf 2 (bs.drop (16 * s))

/-- A shard map keeps to R369's map. -/
def shardMapOk (x : List Word) (bs : List Byte) : Bool :=
  (List.range (xNsh x)).all fun s =>
    let e := shardEntry bs s
    let w := e.getD 0 0
    let bnd := recW e 1
    let prev := if s = 0 then 0 else recW (shardEntry bs (s - 1)) 1
    wf w 61 2 = 0 && wf w 0 16 = 0 && (if w.getLsbD 63 then wf w 51 10 = 0 else wf w 16 20 = 0) &&
      if xHash x then bnd = 0 else (if s = 0 then bnd = 0 else prev ≤ bnd)

/-- The shard of an index, and its local index (R370 step 1). -/
def shardOf (x : List Word) (bs : List Byte) (i : Nat) : Nat × Nat :=
  let n := xNsh x
  if xHash x then (if n = 1 then 0 else i * recW x 5 % 2 ^ 64 / 2 ^ (64 - log2 n), i)
  else
    let s := ((List.range n).filter fun s => recW (shardEntry bs s) 1 ≤ i).getLast?.getD 0
    (s, i - recW (shardEntry bs s) 1)

/-- The peer entry of Ultra Ethernet: its lowest port; none when it is invalid (R429). -/
def peerPort (M : Mach) (p : Part) (peer : Nat) : Option Nat :=
  let ws := wordsOf 4 (M.get (wf p.uepeer 12 32 * 4096 + 32 * peer) 32)
  let ports := fld (recW ws 1) 0 8
  if fld (recW ws 0) 63 1 = 0 || fld (recW ws 0) 56 7 ≠ 0 || fld (recW ws 0) 0 32 ≠ 0 || fld (recW ws 1) 8 56 ≠ 0 then
    none
  else (List.range 8).find? fun i => bitOf ports i

/-- Units of a bucket on an Ultra Ethernet port (R428). -/
def bucketUnits (b : Bucket) : Nat := ceilDiv (32 + 16 * b.entries.length) 64

/-- The packet that carries a bucket of a PATH = 0 shard on its reliable connection (R430; assumption 48). -/
def bucketPacket (M : Mach) (b : Bucket) (dev : DevRef) : Packet :=
  let pl := bucketPayload b
  { newPacket M ⟨b.spart, dev, b.dpart⟩ 8 0 0 pl with len := pl.length / 64 % 128 }

/-- Send the buckets that may leave: within the own partition, on a reliable connection (R430), or under the budget of an
Ultra Ethernet port (R428). A partition with SLACK goes on when its budget is spent: those with budget left never wait for a port, so none of them asks for it
(R394). -/
def sendBuckets (M : Mach) (r : CmdRef) : List (Bucket × Option DevRef × Nat × Nat) → Mach
  | [] => M
  | (b, dev, port, peer) :: rest =>
    let hold (M : Mach) : Mach :=
      M.updCmd r fun c =>
        match c.run with
        | .exchange x => { c with run := .exchange { x with unsent := x.unsent ++ [(b, dev, port, peer)] } }
        | _ => c
    let M :=
      match dev with
      | some d =>
        if d = M.self && b.dpart = b.spart then M.raise 1 (.bucketReceive b)
        else if !mayRequest M r.m.part then refuseExchange M r 0x07 false
        else sendOn M ⟨b.spart, d, b.dpart⟩ (bucketPacket M b d) (.bucket b)
      | none =>
        match M.part r.m.part with
        | none => M
        | some p =>
          if !mayRequest M r.m.part then refuseExchange M r 0x07 false
          else if p.ueSpent port then
            (if p.schcfg.getLsbD 48 then { M with ueSent := M.ueSent ++ [(b, dev, port, peer)] } else hold (needPeriod M p.id))
          else
            chargeUe { M with ueSent := M.ueSent ++ [(b, dev, port, peer)] } p.id port (bucketUnits b)
    sendBuckets M r rest

/-- Buckets still to send are tried; what a budget holds is tried again in later periods. -/
def flushBuckets (M : Mach) (r : CmdRef) (x : ExchangeRun) : Mach :=
  if x.unsent.isEmpty then M
  else
    let M := M.updCmd r fun c => { c with run := .exchange { x with unsent := [] } }
    let M := sendBuckets M r x.unsent
    match (M.cmd r).map fun (c : Cmd) => c.run with
    | some (CmdRun.exchange y) => if y.unsent.isEmpty then M else M.raise 1024 (.commandCompletion r)
    | _ => M

/-- Everything the bucketing reads: shard map, offsets, and the positions of each bag. -/
structure BucketIn where
  map : List Byte
  offs : List Nat
  bags : List (Nat × List (Nat × Nat))

/-- The bags of an exchange with their positions: 0 with positions, 1 empty, 2 decreasing offsets. -/
def readBags (M : Mach) (m : Member) (r : CmdRef) (k : LookupRun) (offs : List Nat) :
    Nat → Nat → Except ReadEnd (List (Nat × List (Nat × Nat)))
  | 0, _ => .ok []
  | n + 1, b =>
    let a := offs.getD b 0
    let z := offs.getD (b + 1) 0
    let rest (x : Nat × List (Nat × Nat)) : Except ReadEnd (List (Nat × List (Nat × Nat))) :=
      match readBags M m r k offs n (b + 1) with
      | .ok l => .ok (x :: l)
      | .error e => .error e
    if z < a then rest (2, [])
    else if z = a then rest (1, [])
    else
      match readAny M m r.tag r.wake .engineRead (k.list + w64 (8 * a)) (8 * (z - a)) with
      | .bytes M ls =>
        if k.mode = .wsum then
          match readAny M m r.tag r.wake .engineRead (k.wgt + w64 (4 * a)) (4 * (z - a)) with
          | .bytes _ ws => rest (0, positions (z - a) ls ws)
          | e => .error e
        else rest (0, positions (z - a) ls [])
      | e => .error e

/-- Bucket entries of a shard: local index, bag, weight. -/
def shardEntries (x : List Word) (map : List Byte) (bags : List (Nat × List (Nat × Nat))) (s : Nat) :
    List (Nat × Nat × BitVec 32) :=
  bags.zipIdx.flatMap fun b =>
    b.1.2.filterMap fun q =>
      let (t, l) := shardOf x map q.1
      if t = s then some (l, b.2, BitVec.ofNat 32 q.2) else none

/-- Form the buckets (R370 step 1), write them and their offsets, and send them. -/
def formBuckets (M : Mach) (m : Member) (c : Cmd) (x : ExchangeRun) (p : Part) (map : List Byte)
    (bags : List (Nat × List (Nat × Nat))) : Mach :=
  let r := c.ref
  let rec_ := x.record
  let es := (List.range (xNsh rec_)).map fun s => shardEntries rec_ map bags s
  let flat := es.flatMap fun l => l.flatMap fun e => leBytes 8 e.1 ++ leBytes 4 e.2.1 ++ leBytes 4 e.2.2.toNat
  let offs := (List.range (xNsh rec_ + 1)).map fun s => ((es.take s).map List.length).sum
  let live := es.zipIdx.filter fun y => !y.1.isEmpty
  -- every shard's entry is tested, whether or not its bucket holds anything (R429)
  let barred := (List.range (xNsh rec_)).any fun s =>
    let w := (shardEntry map s).getD 0 0
    w.getLsbD 63 && (peerPort M p (wf w 16 20)).isNone
  let routes : Option (List (Bucket × Option DevRef × Nat × Nat)) :=
    if barred then none
    else
    live.mapM fun y =>
      let w := (shardEntry map y.2).getD 0 0
      let b : Bucket :=
        { cmd := r, shard := y.2, src := M.self, spart := p.id, key := p.key.toNat, dpart := wf w 48 3
          tid := wf w 36 12, dim := xDim rec_, mode := x.run.mode, entries := y.1, via := none }
      if w.getLsbD 63 then (peerPort M p (wf w 16 20)).map fun port => (b, none, port, wf w 16 20)
      else some (b, some ⟨wf w 56 5, wf w 51 5⟩, 0, 0)
  match writeAny M m c.st (some r) .engineWrite (rec_.getD 3 0) flat with
  | .error f => engineFault M r (engineTrap r.num f .engineWrite 0)
  | .ok M =>
    match writeAny M m c.st (some r) .engineWrite (rec_.getD 4 0) (offs.flatMap fun o => leBytes 4 o) with
    | .error f => engineFault M r (engineTrap r.num f .engineWrite 0)
    | .ok M =>
      match routes with
      | none => stopExchange M r
      | some rs =>
        let x := { x with formed := true, unsent := rs, kinds := bags.map (·.1), shards := live.map fun y => (y.2, none) }
        let M := M.updCmd r fun c => { c with run := .exchange x }
        let M := if live.isEmpty then M.raise 1 (.a2aCombination r) else M
        flushBuckets M r x

/-- An exchange goes on: bucketing once its inputs are there, then the buckets still to send. -/
def advanceExchange (M : Mach) (r : CmdRef) : Mach :=
  match M.member r.m, M.cmd r with
  | some m, some c =>
    match c.run, M.part r.m.part with
    | .exchange x, some p =>
      if c.sys.isSome || c.engineDone || c.finished then M
      else if x.formed then flushBuckets M r x
      else
        engineStep M r.m.part (.commandCompletion r) fun M =>
        match readAny M m r.tag r.wake .engineRead (x.record.getD 2 0) (16 * xNsh x.record) with
        | .bytes M map =>
          if !shardMapOk x.record map then stopExchange M r
          else
            match readAny M m r.tag r.wake .engineRead x.run.off (4 * (x.run.nbag + 1)) with
            | .bytes M os =>
              let offs := (List.range (x.run.nbag + 1)).map fun i => leNat ((os.drop (4 * i)).take 4)
              match readBags M m r x.run offs x.run.nbag 0 with
              | .ok bags => formBuckets (dropFetched M m.ref r.tag) m c x p map bags
              | .error e => stopRead M r e
            | e => stopRead M r e
        | e => stopRead M r e
    | _, _ => M
  | _, _ => M

/-- What A2A does (R352, R369). -/
def Ctx.a2a (c : Ctx) (mode : Pool) (nf : Bool) (d : Dst) (tc : BitVec 2) (rec_ taddr : Reg) : Res :=
  if !aligned (c.reg rec_) 64 || !c.lookupTarget (c.reg taddr) then .trap (illOpnd c.raw)
  else
    match c.readSpan (c.reg rec_) 64 with
    | .fault f => c.xtrap f .read
    | .ecc pa => .trap (eccTrap c.raw pa)
    | .asking M => c.await M
    | .bytes M bs =>
      let x := wordsOf 8 bs
      if !exchangeOk x then .trap (illOpnd c.raw)
      else
        match ({ c with M := M } : Ctx).readSpan (x.getD 1 0) 32 with
        | .fault f => c.xtrap f .read
        | .ecc pa => .trap (eccTrap c.raw pa)
        | .asking M => c.await M
        | .bytes M bs =>
          let ws := wordsOf 4 bs
          if !blockOk mode ws then .trap (illOpnd c.raw)
          else
            let M := toHomes (dropFetched M c.mem.ref c.tag) c.mem.ref c.st
            -- only DIM of a table matters to the landing of rows
            let t := [0, 0, 0, 0, w64 (fld (recW x 6) 32 11), 0, 0, 0]
            let run : ExchangeRun :=
              { run := newLookup mode nf (x.getD 0 0) ws t (c.reg taddr)
                dim := xDim x, record := x, formed := false, unsent := [], kinds := [], shards := [] }
            let (M, ref) := c.issueCmd M tc (.exchange run)
            c.untimedNow (M.raise 1 (.commandCompletion ref)) [(d, w64 ref.num)]

/-- R369. -/
def execA2a (mode : Pool) (nf : Bool) (d : Dst) (tc : BitVec 2) (rec_ taddr : Reg) (s : State) :
    Host.Outcome State Fault Refusal :=
  wordOut (.a2a mode nf d tc rec_ taddr) (fun c => c.a2a mode nf d tc rec_ taddr) s

/-- Bags of a bucket, each once, in bucket order. -/
def bucketBags (b : Bucket) : List Nat :=
  b.entries.foldl (fun l e => if l.contains e.2.1 then l else l ++ [e.2.1]) []

/-- One partial of a bucket (R370 step 3): SUM for MEAN. -/
def bucketPartial (M : Mach) (p : Part) (t : List Word) (b : Bucket) (bag : Nat) : Mach × Except XFault Partial :=
  let mode := if b.mode = .mean then .sum else b.mode
  let xs := (b.entries.filter fun e => e.2.1 = bag).map fun e => (e.1, e.2.2.toNat)
  let x := poolAll M p.id p t mode xs
  match x.fault with
  | some f => (M, .error f)
  | none =>
    let row := bagRow b.dim mode (x.oob || x.err) x.n x.acc
    (x.M, .ok ⟨bag, xs.length, BitVec.ofNat 8 (bagStatus x.oob false x.err false), row.map (BitVec.ofNat 32)⟩)

/-- The partials of a bucket's bags. -/
def bucketPartials (M : Mach) (p : Part) (t : List Word) (b : Bucket) : List Nat → Mach × Except XFault (List Partial)
  | [] => (M, .ok [])
  | bag :: rest =>
    match bucketPartial M p t b bag with
    | (M, .error f) => (M, .error f)
    | (M, .ok x) =>
      match bucketPartials M p t b rest with
      | (M, .error f) => (M, .error f)
      | (M, .ok xs) => (M, .ok (x :: xs))

/-- The answer to a bucket (R430): partials to its slot here, or out of the device, by an Ultra Ethernet port where the bucket
came by one. A refusal of a bucket that came on a reliable connection is the response to its packet. -/
def answerBucket (M : Mach) (b : Bucket) (a : ShardAnswer) : Mach :=
  let out : Returned := ⟨b.dpart, b.src, b.cmd, b.shard, a⟩
  match b.via, a with
  | some p, .refused code => respond M (packetConn p) p.seq code []
  | some _, .partials _ =>
    if b.src = M.self then M.raise 1 (.rudiPartial b.cmd b.shard a) else { M with ueBack := M.ueBack ++ [out] }
  | none, _ => if b.src = M.self then M.raise 1 (.rudiPartial b.cmd b.shard a) else returnPartials M out

/-- An owner admits a bucket and pools its partials (R370 steps 2 and 3). -/
def poolBucket (M : Mach) (b : Bucket) : Mach :=
  match M.part b.dpart with
  | none => answerBucket M b (.refused 0x07)
  | some p =>
    if !(b.src = M.self && b.spart = b.dpart) && !keyOk M b.dpart b.key then answerBucket M b (.refused 0x07)
    else
      match p.attached.find? fun a => tId a.table = b.tid && tExported a.table && tDim a.table = b.dim with
      | none => answerBucket M b (.refused 0x08)
      | some a =>
        match bucketPartials M p a.table b (bucketBags b) with
        | (M, .error _) => answerBucket M b (.refused 0x0A)
        | (M, .ok ps) => answerBucket M b (.partials ps)

/-- BUCKET_RECEIVE and RUD_BUCKET: a bucket is at its owner, by a packet of a reliable connection in its turn (R422, R430). A
packet's form is that its payload is the one of its bucket. -/
def receiveBucket (M : Mach) (b : Bucket) : Mach :=
  match b.via with
  | none => poolBucket M b
  | some p => receiveAs M (p.resvd == 0 && bucketPayload (packetBucket p) == p.payload) p fun M _ => poolBucket M (packetBucket p)

/-- R370; it waits while a stack of the owner's partition switches its mode (R74). -/
def execBucketReceive (b : Bucket) (s : State) : Host.Outcome State Fault Refusal :=
  s.lift fun M => engineStep M b.dpart (.bucketReceive b) fun M => receiveBucket M b

/-- R430. -/
def execRudBucket (b : Bucket) (s : State) : Host.Outcome State Fault Refusal :=
  s.lift fun M => engineStep M b.dpart (.rudBucket b) fun M => receiveBucket M b

/-- RUDI_PARTIAL: partials reach their fixed slot; one delivered again overwrites it (R430). A refusal by the owner stops the
command (R370 step 2). -/
def takePartial (M : Mach) (r : CmdRef) (shard : Nat) (a : ShardAnswer) : Mach :=
  match M.cmd r with
  | none => M
  | some c =>
    match c.run with
    | .exchange x =>
      if c.engineDone || c.finished || !(x.shards.any fun s => s.1 == shard) || !x.run.bags.isEmpty then M
      else
        match a with
        | .refused code => refuseExchange M r code true
        | .partials ps =>
          let shards := x.shards.map fun s => if s.1 = shard then (shard, some ps) else s
          let M := M.updCmd r fun c => { c with run := .exchange { x with shards := shards } }
          if shards.all fun s => s.2.isSome then M.raise 1 (.a2aCombination r) else M
    | _ => M

/-- R430. -/
def execRudiPartial (c : CmdRef) (shard : Nat) (ps : ShardAnswer) (s : State) : Host.Outcome State Fault Refusal :=
  s.lift fun M => takePartial M c shard ps

/-- A bag's row and status from its partials, in ascending shard order (R370 step 4). -/
def combineBag (x : ExchangeRun) (bag : Nat) : List Nat × Nat :=
  let kind := x.kinds.getD bag 1
  let ps := x.shards.flatMap fun s => (s.2.getD []).filter fun q => q.bag = bag
  let stat := ps.foldl (fun a q => a ||| q.stat.toNat) 0
  let step : Pool := if x.run.mode = .max then .max else .sum
  let acc :=
    ps.foldl (fun (a : Option (List Nat)) q => some (poolStep step a (q.row.map BitVec.toNat) 0)) none
  let n := (ps.map (·.rows)).sum
  let bad := kind = 2 || stat % 2 = 1 || bitOf stat 2
  (bagRow x.dim x.run.mode bad n acc, bagStatus (stat % 2 = 1) (kind = 1) (bitOf stat 2) (kind = 2))

/-- A2A_COMBINATION: every bag's row lands. -/
def combineExchange (M : Mach) (r : CmdRef) : Mach :=
  match M.cmd r with
  | none => M
  | some c =>
    match c.run with
    | .exchange x =>
      if c.engineDone || c.finished || !x.formed || !(x.shards.all fun s => s.2.isSome) || !x.run.bags.isEmpty ||
          !x.run.ended.isEmpty then M
      else
        (List.range x.run.nbag).foldl
          (fun M bag =>
            let (row, st) := combineBag x bag
            landBag M r bag row st) M
    | _ => M

/-- R370. -/
def execA2aCombination (c : CmdRef) (s : State) : Host.Outcome State Fault Refusal :=
  s.lift fun M => combineExchange M c

/-- R430: the command stops with FAULT, and ABORT is taken at its covering TLWAIT. -/
def execUecDeliveryFailure (c : CmdRef) (s : State) : Host.Outcome State Fault Refusal :=
  s.lift fun M =>
    match M.cmd c with
    | some k => if k.engineDone || k.finished then M else refuseExchange M c 0x22 true
    | none => M

/-! ### Completion -/

/-- What a command still does before it may complete, when its event finds it unfinished. -/
def driveCmd (M : Mach) (r : CmdRef) : Mach := settleSignals (advanceExchange (advanceFlush (runBulk M r) r) r)

/-- R102: a command completes; one whose remote bytes or turn have come goes on first. -/
def execCommandCompletion (r : CmdRef) (s : State) : Host.Outcome State Fault Refusal :=
  s.lift fun M => completeCmd (driveCmd M r) r

end Sys2Proof.Machine
end

