-- ==== Sys2Proof/Machine/Vector.lean ====
section
/-!
DEFINITION. The vector words (R267 to R289): runs of rows, checked and consume reads, the vector unit, element
functions, reductions, moves and pruning.
-/

namespace Sys2Proof.Machine

/-! ### Runs of rows (R36, R172, R267, R268) -/

/-- The tile and row a row address names, for a run of n rows; none past row 63 or the tile count. -/
def Ctx.vrows (c : Ctx) (a : BitVec 12) (n : Nat) : Option (Nat × Nat) :=
  let row := a.toNat % 64
  let tile := wf c.s.vwin 0 3 * 64 + a.toNat / 64
  if 64 < row + n || c.mem.tilesN ≤ tile then none else some (tile, row)

/-- Rows of a run. -/
def vRun (run : BitVec 3) : Nat := run.toNat + 1

/-- Elements of bytes, `w` bytes each. -/
def elemsOf (w : Nat) (bs : List Byte) : List Nat := (chunks w (bs.length / w) bs).map leNat

/-- Bytes of elements. -/
def bytesOf (w : Nat) (es : List Nat) : List Byte := es.flatMap fun e => leBytes w e

/-- The elements of a run in run order. -/
def readRun (M : Mach) (m : Member) (t : VType) (p : Nat × Nat) (n : Nat) : List Nat :=
  elemsOf t.bytes (tileBytes M m p.1 (128 * p.2) (128 * n))

/-- Write the elements of a run. -/
def writeRun (M : Mach) (m : Member) (t : VType) (p : Nat × Nat) (es : List Nat) : Mach :=
  tileWrite M m p.1 (128 * p.2) (bytesOf t.bytes es)

/-! ### Issue (R269, R270, R272) -/

/-- What a vector word uses: tiles read, the tiles of X and Y, its modifiers, and the rows of its largest operand. -/
structure VUse where
  reads : List Nat
  x : Option Nat
  y : Option Nat
  m : VMod
  rows : Nat
  deriving DecidableEq, Repr

/-- A number once. -/
def onceNat (l : List Nat) : List Nat := l.foldl (fun acc n => if acc.contains n then acc else acc ++ [n]) []

/-- Tiles consumed, once each (R269). -/
def VUse.consumed (u : VUse) : List Nat :=
  onceNat ((if u.m.cx then u.x.toList else []) ++ if u.m.cy then u.y.toList else [])

/-- Tiles checked (R269). -/
def VUse.checked (u : VUse) : List Nat := onceNat ((if u.m.ck then u.reads else []) ++ u.consumed)

/-- The vector unit is occupied: the core freezes until it is free (R270). -/
def Ctx.vHeld (c : Ctx) : Bool := c.t + c.mem.skew < c.mem.vbusy

/-- A vector word whose operands are in range (R269): the hold, the check, then its effect after the stream's own earlier
stores (R82), and what it consumes. -/
def Ctx.vec (c : Ctx) (u : VUse) (eff : Mach → Mach) : Res :=
  if c.vHeld then .freeze .vector
  else
    match c.tileCheck u.checked with
    | some r => r
    | none =>
      let M := eff (acquire c.M c.mem.ref (c.mem.fillScope u.checked))
      let M := u.consumed.foldl (fun M t => consume M c.mem.ref t) M
      .done (M.updMember c.mem.ref fun m => { m with vbusy := c.t + c.mem.skew + ceilDiv u.rows 4 })

/-- No modifier. -/
def vPlain : VMod := ⟨false, false, false, false⟩

/-- A word of form B or B3: `f` maps X, Y and old D elements to a D element; `old` when it reads D. -/
def Ctx.vB (c : Ctx) (v : VArgs3) (old : Bool) (f : Nat → Nat → Nat → Nat) : Res :=
  let n := vRun v.run
  match c.vrows v.d n, c.vrows v.x n, c.vrows v.y n with
  | some d, some x, some y =>
    c.vec ⟨[x.1, y.1] ++ (if old then [d.1] else []), some x.1, some y.1, v.m, n⟩ fun M =>
      let xs := readRun M c.mem v.ty x n
      let ys := readRun M c.mem v.ty y n
      let ds := if old then readRun M c.mem v.ty d n else []
      writeRun M c.mem v.ty d ((xs.zip ys).zipIdx.map fun p => f p.1.1 p.1.2 (ds.getD p.2 0))
  | _, _, _ => .trap (illOpnd c.raw)

/-- A word of form U: `f` maps the elements of X, in run order, to those of D. -/
def Ctx.vU (c : Ctx) (v : VArgs2) (f : List Nat → List Nat) : Res :=
  let n := vRun v.run
  match c.vrows v.d n, c.vrows v.x n with
  | some d, some x =>
    c.vec ⟨[x.1], some x.1, none, v.m, n⟩ fun M =>
      writeRun M c.mem v.ty d (f (readRun M c.mem v.ty x n))
  | _, _ => .trap (illOpnd c.raw)

/-- A word of form Z: `f` gives the D element at each run index. -/
def Ctx.vZ (c : Ctx) (d : BitVec 12) (run : BitVec 3) (ty : VType) (f : Nat → Nat) : Res :=
  let n := vRun run
  match c.vrows d n with
  | some p =>
    c.vec ⟨[], none, none, vPlain, n⟩ fun M => writeRun M c.mem ty p ((List.range (n * ty.count)).map f)
  | none => .trap (illOpnd c.raw)

/-! ### Element functions (R274 to R279) -/

/-- Arithmetic by class (R274): integers wrapped or saturated, floats by `ff`, RN3 modulo M and canonical. -/
def vArith (t : VType) (sat : Bool) (fi : Int → Int → Int → Int) (ff : FFmt → Nat → Nat → Nat → Nat)
    (x y d : Nat) : Nat :=
  if t.isI then vIntOut t sat (fi (vInt t x) (vInt t y) (vInt t d))
  else if t.isN then rnEnc (fi (rnVal x) (rnVal y) (rnVal d))
  else ff (vFmt t) x y d

/-- The sign bit cleared; a NaN gives the canonical NaN. -/
def fAbsC (f : FFmt) (x : Nat) : Nat := if fIsNan f x then f.nan else x % f.sign

/-- The sign bit changed; a NaN gives the canonical NaN. -/
def fNegC (f : FFmt) (x : Nat) : Nat :=
  if fIsNan f x then f.nan else if x < f.sign then x + f.sign else x - f.sign

/-- VSHL (R275). -/
def vShl (t : VType) (sat : Bool) (x y : Nat) : Nat :=
  let w := vBits t
  if sat then unsgn w (satS w (vInt t x * (2 ^ min y w : Nat)))
  else if w ≤ y then 0 else (x <<< y) % 2 ^ w

/-- VSHR (R275). -/
def vShr (t : VType) (x y : Nat) : Nat := if vBits t ≤ y then 0 else x >>> y

/-- VSAR (R275). -/
def vSar (t : VType) (x y : Nat) : Nat := unsgn (vBits t) (vInt t x >>> min y (vBits t))

/-- VCMP (R276). -/
def vCmp (t : VType) (x y : Nat) : Nat :=
  let o : Option Ordering :=
    if t.isI then some (compare (vInt t x) (vInt t y))
    else if t.isN then some (compare (rnVal x) (rnVal y))
    else fCmp (vFmt t) x y
  unsgn (vBits t)
    (match o with
      | some .lt => -1
      | some .eq => 0
      | some .gt => 1
      | none => 2)

/-- VSCALE (R277). Beyond 2^2000 either way every finite result is that of 2^2000. -/
def vScale (t : VType) (x y : Nat) : Nat :=
  match fDec (vFmt t) x with
  | .fin n m e k => fRnd (vFmt t) false false (.fin n m (e + clampI (-2000) 2000 (sgn (vBits t) y)) k)
  | v => fRnd (vFmt t) false false v

/-- VACT (R279). -/
def vAct (t : VType) (tab : List Byte) (x : Nat) : Nat :=
  if t = .fp32 then actOf tab x else fCvt fp32 (vFmt t) false false (actOf tab (fCvt (vFmt t) fp32 false false x))

def execVadd (v : VArgs3) (s : State) : Host.Outcome State Fault Refusal :=
  word (.vadd v) (fun c => c.vB v false (vArith v.ty v.m.sat (fun x y _ => x + y) fun f x y _ => fAdd f false x y)) s

def execVsub (v : VArgs3) (s : State) : Host.Outcome State Fault Refusal :=
  word (.vsub v) (fun c => c.vB v false (vArith v.ty v.m.sat (fun x y _ => x - y) fun f x y _ => fSub f false x y)) s

def execVmul (v : VArgs3) (s : State) : Host.Outcome State Fault Refusal :=
  word (.vmul v) (fun c => c.vB v false (vArith v.ty v.m.sat (fun x y _ => x * y) fun f x y _ => fMul f false x y)) s

def execVfma (v : VArgs3) (s : State) : Host.Outcome State Fault Refusal :=
  word (.vfma v) (fun c => c.vB v true (vArith v.ty v.m.sat (fun x y d => x * y + d) fFma)) s

def execVmin (v : VArgs3) (s : State) : Host.Outcome State Fault Refusal :=
  word (.vmin v) (fun c => c.vB v false (vArith v.ty false (fun x y _ => min x y) fun f x y _ => fMin f x y)) s

def execVmax (v : VArgs3) (s : State) : Host.Outcome State Fault Refusal :=
  word (.vmax v) (fun c => c.vB v false (vArith v.ty false (fun x y _ => max x y) fun f x y _ => fMax f x y)) s

def execVclmp (v : VArgs3) (s : State) : Host.Outcome State Fault Refusal :=
  word (.vclmp v)
    (fun c =>
      c.vB v false
        (vArith v.ty false (fun x y _ => min (max x (-y)) y) fun f x y _ => fMin f (fMax f x (fNegC f y)) y)) s

def execVabs (v : VArgs2) (s : State) : Host.Outcome State Fault Refusal :=
  word (.vabs v)
    (fun c =>
      c.vU v fun xs =>
        xs.map fun x => vArith v.ty v.m.sat (fun x _ _ => (x.natAbs : Int)) (fun f x _ _ => fAbsC f x) x 0 0) s

def execVneg (v : VArgs2) (s : State) : Host.Outcome State Fault Refusal :=
  word (.vneg v)
    (fun c => c.vU v fun xs => xs.map fun x => vArith v.ty v.m.sat (fun x _ _ => -x) (fun f x _ _ => fNegC f x) x 0 0) s

def execVand (v : VArgs3) (s : State) : Host.Outcome State Fault Refusal :=
  word (.vand v) (fun c => c.vB v false fun x y _ => x &&& y) s

def execVor (v : VArgs3) (s : State) : Host.Outcome State Fault Refusal :=
  word (.vor v) (fun c => c.vB v false fun x y _ => x ||| y) s

def execVxor (v : VArgs3) (s : State) : Host.Outcome State Fault Refusal :=
  word (.vxor v) (fun c => c.vB v false fun x y _ => x ^^^ y) s

def execVnot (v : VArgs2) (s : State) : Host.Outcome State Fault Refusal :=
  word (.vnot v) (fun c => c.vU v fun xs => xs.map fun x => 2 ^ vBits v.ty - 1 - x) s

def execVshl (v : VArgs3) (s : State) : Host.Outcome State Fault Refusal :=
  word (.vshl v) (fun c => c.vB v false fun x y _ => vShl v.ty v.m.sat x y) s

def execVshr (v : VArgs3) (s : State) : Host.Outcome State Fault Refusal :=
  word (.vshr v) (fun c => c.vB v false fun x y _ => vShr v.ty x y) s

def execVsar (v : VArgs3) (s : State) : Host.Outcome State Fault Refusal :=
  word (.vsar v) (fun c => c.vB v false fun x y _ => vSar v.ty x y) s

def execVcmp (v : VArgs3) (s : State) : Host.Outcome State Fault Refusal :=
  word (.vcmp v) (fun c => c.vB v false fun x y _ => vCmp v.ty x y) s

/-- R276. -/
def execVsel (v : VArgs3) (s : State) : Host.Outcome State Fault Refusal :=
  word (.vsel v) (fun c => c.vB v true fun x y d => if bitOf d (vBits v.ty - 1) then x else y) s

def execVscale (v : VArgs3) (s : State) : Host.Outcome State Fault Refusal :=
  word (.vscale v) (fun c => c.vB v false fun x y _ => vScale v.ty x y) s

def execVexp2 (v : VArgs2) (s : State) : Host.Outcome State Fault Refusal :=
  word (.vexp2 v) (fun c => c.vU v fun xs => xs.map (fnExp2 (vFmt v.ty))) s

def execVlog2 (v : VArgs2) (s : State) : Host.Outcome State Fault Refusal :=
  word (.vlog2 v) (fun c => c.vU v fun xs => xs.map (fnLog2 (vFmt v.ty))) s

def execVrcp (v : VArgs2) (s : State) : Host.Outcome State Fault Refusal :=
  word (.vrcp v) (fun c => c.vU v fun xs => xs.map (fnRcp (vFmt v.ty))) s

def execVrsq (v : VArgs2) (s : State) : Host.Outcome State Fault Refusal :=
  word (.vrsq v) (fun c => c.vU v fun xs => xs.map (fnRsq (vFmt v.ty))) s

/-- R279: the table tile is read too. -/
def execVact (v : VArgs2) (table : BitVec 6) (s : State) : Host.Outcome State Fault Refusal :=
  word (.vact v table)
    (fun c =>
      let n := vRun v.run
      match c.vrows v.d n, c.vrows v.x n, c.vrows (table ++ 0#6) 1 with
      | some d, some x, some t =>
        c.vec ⟨[x.1, t.1], some x.1, none, v.m, n⟩ fun M =>
          let tab := tileBytes M c.mem t.1 0 8192
          writeRun M c.mem v.ty d ((readRun M c.mem v.ty x n).map (vAct v.ty tab))
      | _, _, _ => .trap (illOpnd c.raw)) s

/-! ### Conversions (R280 to R282) -/

/-- A conversion: RUN counts the rows of the side with the smaller element. -/
def Ctx.vConv (c : Ctx) (v : VArgs2) (src : VType) (f : Nat → Nat) : Res :=
  let lo := min src.bytes v.ty.bytes
  let nx := vRun v.run * src.bytes / lo
  let nd := vRun v.run * v.ty.bytes / lo
  match c.vrows v.d nd, c.vrows v.x nx with
  | some d, some x =>
    c.vec ⟨[x.1], some x.1, none, v.m, max nx nd⟩ fun M =>
      writeRun M c.mem v.ty d ((readRun M c.mem src x nx).map f)
  | _, _ => .trap (illOpnd c.raw)

/-- R281. -/
def execVcvt (v : VArgs2) (src : VType) (rtz : Bool) (s : State) : Host.Outcome State Fault Refusal :=
  word (.vcvt v src rtz) (fun c => c.vConv v src (vConvert src v.ty rtz v.m.sat)) s

/-- R282. -/
def execVqnt (v : VArgs2) (src : VType) (rtz : Bool) (scale : Reg) (s : State) : Host.Outcome State Fault Refusal :=
  word (.vqnt v src rtz scale)
    (fun c => c.vConv v src (vScaleTo src v.ty rtz v.m.sat (fp32Of (c.reg scale)))) s

/-- R282. -/
def execVdqn (v : VArgs2) (src : VType) (rtz : Bool) (scale : Reg) (s : State) : Host.Outcome State Fault Refusal :=
  word (.vdqn v src rtz scale)
    (fun c => c.vConv v src (vScaleTo src v.ty rtz v.m.sat (fp32Of (c.reg scale)))) s

/-! ### Reductions and scans (R271, R283, R284) -/

/-- An element widened exactly to FP32. -/
def vWiden (t : VType) (x : Nat) : Nat := fCvt (vFmt t) fp32 false false x

/-- VRSUM of a list of elements. -/
def vSum (t : VType) (sat : Bool) (xs : List Nat) : Word :=
  if t.isI then w64 (unsgn 64 (sumInt sat (xs.map (vInt t))))
  else if t.isN then w64 (rnEnc ((xs.map rnVal).foldl (· + ·) 0))
  else w64 (sumPlain (xs.map (vWiden t)))

/-- VDOT of two lists of elements. -/
def vDot (t : VType) (sat : Bool) (xs ys : List Nat) : Word :=
  let ps := xs.zip ys
  if t.isI then w64 (unsgn 64 (sumInt sat (ps.map fun p => vInt t p.1 * vInt t p.2)))
  else if t.isN then w64 (rnEnc ((ps.map fun p => rnVal p.1 * rnVal p.2).foldl (· + ·) 0))
  else w64 (sumProd (ps.map fun p => (fDec (vFmt t) p.1, fDec (vFmt t) p.2)))

/-- The greater of two elements (R204). -/
def vMax2 (t : VType) (x y : Nat) : Nat := vArith t false (fun x y _ => max x y) (fun f x y _ => fMax f x y) x y 0

/-- The lesser of two elements (R204). -/
def vMin2 (t : VType) (x y : Nat) : Nat := vArith t false (fun x y _ => min x y) (fun f x y _ => fMin f x y) x y 0

/-- A maximum or minimum in run order; no element gives 0. -/
def vExtreme (t : VType) (g : Nat → Nat → Nat) : List Nat → Word
  | [] => 0
  | x :: xs =>
    let r := xs.foldl g x
    if t.isI then w64 (unsgn 64 (vInt t r)) else if t.isN then w64 (rnCanon r) else w64 (vWiden t r)

/-- A reduction (R283): the length, the check, and the result L cycles later. -/
def Ctx.vReduce (c : Ctx) (v : VRed) (y : Option (BitVec 12)) (f : List Nat → List Nat → Word) : Res :=
  let n := vRun v.run
  let m := if v.len = 0 then n * v.ty.count else (c.s.main (v.len.setWidth 5)).toNat
  let yr : Option (Option (Nat × Nat)) :=
    match y with
    | none => some none
    | some a => (c.vrows a n).map some
  match c.vrows v.x n, yr with
  | some x, some yo =>
    if n * v.ty.count < m then .trap (illOpnd c.raw)
    else
      c.vec ⟨x.1 :: (yo.map (·.1)).toList, some x.1, yo.map (·.1), v.m, n⟩ fun M =>
        let xs := (readRun M c.mem v.ty x n).take m
        let ys :=
          match yo with
          | some p => (readRun M c.mem v.ty p n).take m
          | none => []
        c.resultOn M (8 + 2 * n) v.d (f xs ys)
  | _, _ => .trap (illOpnd c.raw)

def execVrsum (v : VRed) (s : State) : Host.Outcome State Fault Refusal :=
  word (.vrsum v) (fun c => c.vReduce v none fun xs _ => vSum v.ty v.m.sat xs) s

def execVrmax (v : VRed) (s : State) : Host.Outcome State Fault Refusal :=
  word (.vrmax v) (fun c => c.vReduce v none fun xs _ => vExtreme v.ty (vMax2 v.ty) xs) s

def execVrmin (v : VRed) (s : State) : Host.Outcome State Fault Refusal :=
  word (.vrmin v) (fun c => c.vReduce v none fun xs _ => vExtreme v.ty (vMin2 v.ty) xs) s

def execVdot (v : VRed) (y : BitVec 12) (s : State) : Host.Outcome State Fault Refusal :=
  word (.vdot v y) (fun c => c.vReduce v (some y) (vDot v.ty v.m.sat)) s

/-- Running sums (R284): `a` is the sum before, none before the first term. -/
def vScanFrom (t : VType) (sat : Bool) : Option Int → List Nat → List Nat
  | _, [] => []
  | a, x :: xs =>
    if t.isI then
      let u := (a.getD 0) + vInt t x
      let z : Int := if sat then satS 32 u else sgn 32 (unsgn 32 u)
      vIntOut t sat z :: vScanFrom t sat (some z) xs
    else if t.isN then
      let z : Int := a.getD 0 + rnVal x
      rnEnc z :: vScanFrom t sat (some z) xs
    else
      let z : Nat :=
        match a with
        | none => vWiden t x
        | some p => fAdd fp32 false p.toNat (vWiden t x)
      fCvt fp32 (vFmt t) false false z :: vScanFrom t sat (some (z : Int)) xs

def execVscan (v : VArgs2) (s : State) : Host.Outcome State Fault Refusal :=
  word (.vscan v) (fun c => c.vU v fun xs => vScanFrom v.ty v.m.sat none xs) s

/-! ### Moving values (R285 to R288) -/

def execVbcst (v : VArgs1) (r : Reg) (s : State) : Host.Outcome State Fault Refusal :=
  word (.vbcst v r) (fun c => c.vZ v.d v.run v.ty fun _ => (c.reg r).toNat % 2 ^ vBits v.ty) s

/-- R276. -/
def execVmask (v : VArgs1) (r : Reg) (s : State) : Host.Outcome State Fault Refusal :=
  word (.vmask v r)
    (fun c => c.vZ v.d v.run v.ty fun k => if k < (c.reg r).toNat then 2 ^ vBits v.ty - 1 else 0) s

/-- VIDX's element (R285). -/
def vIdx (t : VType) (sat : Bool) (v : Int) : Nat :=
  if t.isI then vIntOut t sat v else if t.isN then rnEnc v else fOfInt (vFmt t) false false v

def execVidx (v : VArgs1) (r : Reg) (s : State) : Host.Outcome State Fault Refusal :=
  word (.vidx v r) (fun c => c.vZ v.d v.run v.ty fun k => vIdx v.ty v.m.sat ((c.reg r).toInt + k)) s

def execVzero (d : BitVec 12) (run : BitVec 3) (s : State) : Host.Outcome State Fault Refusal :=
  word (.vzero d run) (fun c => c.vZ d run .i8 fun _ => 0) s

/-- R286. -/
def execVmovsIns (d : BitVec 12) (e : BitVec 7) (r : Reg) (ty : VType) (s : State) :
    Host.Outcome State Fault Refusal :=
  word (.vmovsIns d e r ty)
    (fun c =>
      match c.vrows d 1 with
      | some p =>
        c.vec ⟨[], none, none, vPlain, 1⟩ fun M =>
          tileWrite M c.mem p.1 (128 * p.2 + ty.bytes * e.toNat) (leBytes ty.bytes (c.reg r).toNat)
      | none => .trap (illOpnd c.raw)) s

/-- R286. -/
def execVmovsExt (d : Dst) (x : BitVec 12) (e : BitVec 7) (ty : VType) (ck cx : Bool) (s : State) :
    Host.Outcome State Fault Refusal :=
  word (.vmovsExt d x e ty ck cx)
    (fun c =>
      match c.vrows x 1 with
      | some p =>
        c.vec ⟨[p.1], some p.1, none, ⟨ck, cx, false, false⟩, 1⟩ fun M =>
          let v := (readRun M c.mem ty p 1).getD e.toNat 0
          c.resultOn M 2 d (if ty.isI then w64 (unsgn 64 (vInt ty v)) else w64 v)
      | none => .trap (illOpnd c.raw)) s

/-- A row rearranged: element e takes element `g e`, zero where that is past the row. -/
def permRow (n : Nat) (g : Nat → Nat) (xs : List Nat) : List Nat :=
  (List.range n).map fun e => if g e < n then xs.getD (g e) 0 else 0

/-- Every row of a run rearranged in one way (VSHUF, R287). -/
def shufRows (t : VType) (g : Nat → Nat) (xs : List Nat) : List Nat :=
  (chunks t.count (xs.length / t.count) xs).flatMap (permRow t.count g)

/-- R287. -/
def execVperm (v : VArgs3) (s : State) : Host.Outcome State Fault Refusal :=
  word (.vperm v)
    (fun c =>
      let n := vRun v.run
      match c.vrows v.d n, c.vrows v.x n, c.vrows v.y n with
      | some d, some x, some y =>
        c.vec ⟨[x.1, y.1], some x.1, some y.1, v.m, n⟩ fun M =>
          let xs := chunks v.ty.count n (readRun M c.mem v.ty x n)
          let is := chunks 128 n (readRun M c.mem .i8 y n)
          writeRun M c.mem v.ty d ((xs.zip is).flatMap fun p => permRow v.ty.count (fun e => p.2.getD e 0) p.1)
      | _, _, _ => .trap (illOpnd c.raw)) s

def execVshufRot (v : VArgs2) (amount : BitVec 7) (s : State) : Host.Outcome State Fault Refusal :=
  word (.vshufRot v amount)
    (fun c => c.vU v fun xs => shufRows v.ty (fun e => (e + amount.toNat) % v.ty.count) xs) s

def execVshufRev (v : VArgs2) (s : State) : Host.Outcome State Fault Refusal :=
  word (.vshufRev v) (fun c => c.vU v fun xs => shufRows v.ty (fun e => v.ty.count - 1 - e) xs) s

def execVshufUnzip (v : VArgs2) (s : State) : Host.Outcome State Fault Refusal :=
  word (.vshufUnzip v)
    (fun c =>
      c.vU v fun xs =>
        let h := v.ty.count / 2
        shufRows v.ty (fun e => if e < h then 2 * e else 2 * (e - h) + 1) xs) s

def execVshufZip (v : VArgs2) (s : State) : Host.Outcome State Fault Refusal :=
  word (.vshufZip v)
    (fun c =>
      c.vU v fun xs => shufRows v.ty (fun e => if e % 2 = 0 then e / 2 else v.ty.count / 2 + (e - 1) / 2) xs) s

/-- R288. -/
def execVpop (d : BitVec 12) (run q : BitVec 3) (s : State) : Host.Outcome State Fault Refusal :=
  word (.vpop d run q)
    (fun c =>
      let n := vRun run
      match c.vrows d n with
      | some p =>
        if c.vHeld then .freeze .vector
        else if readyRows (c.mem.queue q) < n || c.mustQueue (.queueRows q.toNat n) then .wait .queue (.queueRows q.toNat n)
        else
          c.vec ⟨[], none, none, vPlain, n⟩ fun M =>
            let M := tileWrite M c.mem p.1 (128 * p.2) (((c.mem.queue q).take n).flatMap fun r => r.data)
            M.updMember c.mem.ref fun m => { m with queues := m.queues.set q.toNat ((m.queue q).drop n) q.isLt }
      | none => .trap (illOpnd c.raw)) s

/-! ### Pruning (R289) -/

/-- Rank of an element: magnitude, every zero least, a NaN highest. -/
def pruneRank (t : VType) (x : Nat) : Nat :=
  if t.isI then (vInt t x).natAbs
  else if fIsNan (vFmt t) x then (vFmt t).sign
  else x % (vFmt t).sign

/-- The position of highest rank among those allowed, the lowest of equals. -/
def bestPos (ranks : List Nat) (ok : Nat → Bool) : Nat :=
  ((List.range ranks.length).filter ok).foldl
    (fun (b : Option Nat) i =>
      match b with
      | none => some i
      | some j => if ranks.getD j 0 < ranks.getD i 0 then some i else some j)
    none |>.getD 0

/-- The two positions of a group that are kept, rising. -/
def keptPair (t : VType) (g : List Nat) : Nat × Nat :=
  let ranks := g.map (pruneRank t)
  let a := bestPos ranks fun _ => true
  let b := bestPos ranks fun i => i != a
  (min a b, max a b)

def execVsprs (v : VArgs3) (s : State) : Host.Outcome State Fault Refusal :=
  word (.vsprs v)
    (fun c =>
      let n := vRun v.run
      match c.vrows v.d (n / 2), c.vrows v.x n, c.vrows v.y 1 with
      | some d, some x, some y =>
        c.vec ⟨[x.1, y.1], some x.1, some y.1, v.m, n⟩ fun M =>
          let gs := chunks 4 (n * v.ty.count / 4) (readRun M c.mem v.ty x n)
          let ks := gs.map (keptPair v.ty)
          let M := writeRun M c.mem v.ty d ((gs.zip ks).flatMap fun p => [p.1.getD p.2.1 0, p.1.getD p.2.2 0])
          let nib := ks.map fun k => k.2 * 4 + k.1
          let meta_ := (chunks 2 (nib.length / 2) nib).map fun p => p.getD 0 0 + 16 * p.getD 1 0
          tileWrite M c.mem y.1 (128 * y.2) (bytesOf 1 meta_ ++ zeros (128 - meta_.length))
      | _, _, _ => .trap (illOpnd c.raw)) s

/-- R270: the vector unit is free, and the core goes on. -/
def execVectorUnitFree (m : MRef) (s : State) : Host.Outcome State Fault Refusal :=
  s.lift fun M =>
    match M.member m with
    | none => M
    | some x => if x.freeze = .vector && x.vbusy ≤ M.wclk then M.putMember (x.thaw M) else M

end Sys2Proof.Machine
end

