-- ==== Sys2Proof/Machine/Seal.lean ====
section
/-!
DEFINITION. Sealing records into handle registers (R293 to R299): SEAL with the checks of tensors (R296, R297), tables
(R348, R350) and grids (R129, R131), UNSEAL and HMOV.
-/

namespace Sys2Proof.Machine

/-! ### Checks of a record (R295) -/

/-- Fields of a record, by position and length, are zero. -/
def recZero (r : List Word) (fs : List (Nat × Nat)) : Bool := fs.all fun f => recF r f.1 f.2 == 0

/-- The lowest-numbered failing check; the list pairs codes with failures, rising. -/
def firstCode (l : List (Nat × Bool)) : Nat := ((l.find? fun c => c.2).map (·.1)).getD 0

/-! ### Tensors (R296, R297) -/

/-- Bytes of an element of a tensor's type; INT4 and UINT4 count as one. -/
def tensorBytes (ty : Nat) : Nat := if ty < 8 then typeBytes ty else 1

/-- Extent of a dimension. -/
def tensorExt (r : List Word) (d : Nat) : Nat := recF r (128 + 32 * d) 32

/-- Signed byte stride of a dimension from 1 on. -/
def tensorStride (r : List Word) (d : Nat) : Int := (r.getD (3 + d) 0).toInt

/-- GEOM of R297. -/
def tensorGeom (r : List Word) : Bool :=
  let ty := recF r 68 4
  let rank := recF r 66 2 + 1
  let half := ty = 8 || ty = 9
  let size := tensorBytes ty
  let base : Int := recF r 0 56
  let used := (List.range 4).filter fun d => d < rank
  let high := (List.range 4).filter fun d => rank ≤ d
  let steps := (used.filter fun d => d ≠ 0).map fun d => (tensorExt r d - 1 : Int) * tensorStride r d
  let row : Int := if half then tensorExt r 0 / 2 else tensorExt r 0 * size
  let lo := steps.foldl (fun a v => a + min 0 v) base
  let hi := steps.foldl (fun a v => a + max 0 v) (base + row - 1)
  used.any (fun d => tensorExt r d = 0) ||
    high.any (fun d => tensorExt r d ≠ 1 || tensorStride r d ≠ 0) ||
    base % size ≠ 0 || used.any (fun d => d ≠ 0 && tensorStride r d % size ≠ 0) ||
    (half && tensorExt r 0 % 2 = 1) || lo < 0 || (2 : Int) ^ 56 ≤ hi

/-- The code of a tensor record. -/
def sealTensorCode (r : List Word) : Nat :=
  firstCode
    [(0x01, !recZero r [(56, 8), (72, 56), (448, 64)]),
     (0x02, 9 < recF r 68 4 || recF r 64 2 = 0),
     (0x03, tensorGeom r)]

/-! ### Tables (R18, R348, R350) -/

/-- The leaf that maps an address, whatever it permits. -/
def leafAt (M : Mach) (p : Part) (core : Option Nat) (die : Nat) (pva : Nat) : Option TlbEntry :=
  if 2 ^ 56 ≤ pva then none
  else
    match tlbFind M core die p.id pva with
    | some e => some e
    | none =>
      match walk M die p (w64 pva) with
      | .ok e => some e
      | .error _ => none

/-- Every page of [a, z) has a leaf that passes the test over its part of the range. -/
def pagesAll (M : Mach) (p : Part) (core : Option Nat) (die : Nat) (test : TlbEntry → Nat → Nat → Bool) :
    Nat → Nat → Nat → Bool
  | 0, a, z => decide (z ≤ a)
  | n + 1, a, z =>
    if z ≤ a then true
    else
      match leafAt M p core die a with
      | none => false
      | some e =>
        let next := min z (e.base + 2 ^ e.log)
        test e a next && pagesAll M p core die test n next z

/-- A LOCAL page with SCARAB = 1. -/
def scarabLeaf (e : TlbEntry) : Bool :=
  match e.leaf with
  | .local _ s => s
  | .remote _ _ _ => false

/-- A LOCAL page whose bytes of [a, z) lie in a chiplet's capacity memory. -/
def leafInChip (n : Nat) (e : TlbEntry) (a z : Nat) : Bool :=
  match e.leaf with
  | .local pa _ => paKind (pa + (a - e.base)) == .cap n && paKind (pa + (z - 1 - e.base)) == .cap n
  | .remote _ _ _ => false

/-- Bytes of a table's attached range. -/
def tableSpan (p : Part) (t : List Word) : Nat := p.chips * tSpan t

/-- The ranges of two tables overlap. -/
def tablesMeet (p : Part) (t u : List Word) : Bool :=
  decide (tBase t < tBase u + tableSpan p u) && decide (tBase u < tBase t + tableSpan p t)

/-- A field outside the range R348 gives it. -/
def tableField (t : List Word) : Bool :=
  6 < tStored t || tRegLog t < 6 || 24 < tRegLog t || 24 < tBinLog t || tStride t = 0 || tRows t = 0 ||
    tBase t % 0x10000 ≠ 0 || tSpan t % 0x10000 ≠ 0 || (!tTrain t && tBins t ≠ 0)

/-- TABLE of R350. -/
def tableBad (M : Mach) (p : Part) (core : Option Nat) (die : Nat) (t : List Word) : Bool :=
  tableField t || tStride t < rowDense t || tSpan t < ceilDiv (tRows t) p.chips * tStride t ||
    (tTrain t && (!(tStored t = 4 || tStored t = 3) || tSkip t || tBins t = 0 || tBins t % 64 ≠ 0)) ||
    (tAdagrad t && !tTrain t) || 0x2000000 < 2 ^ tRegLog t * tStride t ||
    p.attached.any (fun a => tId a.table = tId t) ||
    (List.range p.chips).any fun j =>
      let a := tBase t + j * tSpan t
      !pagesAll M p core die (fun e x z => leafInChip (2 * p.id + j) e x z) (tSpan t / 0x10000 + 1) a (a + tSpan t)

/-- The code of a table record. -/
def sealTableCode (M : Mach) (p : Part) (core : Option Nat) (die : Nat) (t : List Word) : Nat :=
  let z := tBase t + tableSpan p t
  firstCode
    [(0x01, !recZero t [(56, 8), (120, 8), (184, 8), (232, 24), (267, 5), (277, 3), (384, 24), (413, 3), (424, 64),
        (488, 24)]),
     (0x08, !pagesAll M p core die (fun e _ _ => scarabLeaf e) (tableSpan p t / 0x10000 + 2) (tBase t) z),
     (0x09, 256 ≤ p.attached.length || p.attached.any fun a => tablesMeet p t a.table),
     (0x0A, tableBad M p core die t)]

/-- Earlier ordinary accesses of the partition are performed before an attachment (R19). -/
def settleAccesses (M : Mach) (part : Nat) : Mach :=
  (M.members.filter fun m => m.ref.part == part).foldl
    (fun M m => Strm.all.foldl (fun M st => toHomes M m.ref st) M) M

/-! ### Grids (R129, R131) -/

/-- GEOM of R129. -/
def gridGeom (g : List Word) : Bool :=
  (List.range 3).any fun d =>
    if gNdim g ≤ d then
      gExt g d ≠ 1 || gBlk g d ≠ 1 || gWidth g d 0 ≠ 0 || gWidth g d 1 ≠ 0 || gBound g d 0 ≠ 0 || gBound g d 1 ≠ 0
    else
      gBlk g d = 0 || gExt g d = 0 || gExt g d % gBlk g d ≠ 0 ||
        ([0, 1].any fun f =>
          32 < gWidth g d f || gBlk g d < gWidth g d f || (gBound g d f = 3 && gWidth g d f = gBlk g d)) ||
        ((gBound g d 0 = 4) != (gBound g d 1 = 4))

/-- The code of a grid descriptor without its owners and SCOPE. -/
def sealGridCode (g : List Word) : Nat :=
  firstCode
    [(0x01, !recZero g [(0, 6), (30, 2), (48, 8), (356, 28), (440, 72)]),
     (0x02, gNdim g = 0 || recF g 38 10 = 0 ||
        (List.range 3).any fun d => 4 < gBound g d 0 || 4 < gBound g d 1),
     (0x03, gridGeom g),
     (0x04, 4096 < gOwners g || gTable g % 64 ≠ 0)]

/-- An owner table entry keeps to R131. -/
def entOk (e : List Word) : Bool :=
  recZero e [(0, 28), (61, 2), (120, 8), (184, 8), (248, 8)] && entSpill e % 64 = 0 && entSbase e % 2048 = 0 &&
    (if entTiles e then entVbase e < 512 else entVbase e % 64 = 0)

/-- Some page of [a, z) lies in a core SRAM window. -/
def touchesWindow (M : Mach) (p : Part) : Nat → Nat → Nat → Bool
  | 0, _, _ => false
  | n + 1, a, z =>
    if z ≤ a then false
    else
      (match leafAt M p none p.id a with
        | some e =>
          match e.target a with
          | .local pa => windowFrame pa
          | .remote _ _ _ => false
        | none => false) || touchesWindow M p n ((a / 0x10000 + 1) * 0x10000) z

/-- The areas of an owner this device holds lie outside core SRAM windows (R131): verges in memory, state block, spill
area. Those of other devices are not looked at (assumption 22). -/
def entAreasOk (M : Mach) (g e : List Word) : Bool :=
  if entDev e ≠ M.self then true
  else
    match M.part (entMember e).part with
    | none => true
    | some p =>
      let sb := slotBytes g (entTiles e)
      let areas :=
        (if entTiles e then [] else [(entVbase e, (gDepth g + 1) * sb)]) ++ [(entSbase e, 0x800), (entSpill e, sb)]
      !areas.any fun x => touchesWindow M p (x.2 / 0x10000 + 2) x.1 (x.1 + x.2)

/-- How the owner table is read whole. -/
inductive OwnersEnd where
  | entries (M : Mach) (es : List (List Word))
  | unreadable
  | stop (r : Res)

/-- Read the owner table, from owner o on. -/
def Ctx.readOwners (c : Ctx) (g : List Word) : Nat → Nat → Mach → OwnersEnd
  | 0, _, M => .entries M []
  | n + 1, o, M =>
    match readEntry M c.mem c.tag none g o with
    | .fault f => if f.code = 0x22 then .stop (c.xtrap f .read) else .unreadable
    | .ecc pa => .stop (.trap (eccTrap c.raw pa))
    | .asking M => .stop (c.await M)
    | .entry M e =>
      match c.readOwners g n (o + 1) M with
      | .entries M es => .entries M (e :: es)
      | r => r

/-! ### SEAL (R294) -/

/-- A sealed record in a handle register, and the result. -/
def Ctx.sealed (c : Ctx) (M : Mach) (d : Dst) (h : BitVec 4) (k : HKind) (r : List Word) (p : Word) : Res :=
  c.untimedNow
    ((dropFetched M c.mem.ref c.tag).updMember c.mem.ref fun m =>
      { m with handles := m.handles.set h.toNat (some ⟨k, r, p⟩) h.isLt })
    [(d, 0)]

/-- A refusal: the code alone. -/
def Ctx.sealCode (c : Ctx) (M : Mach) (d : Dst) (code : Nat) : Res :=
  c.untimedNow (dropFetched M c.mem.ref c.tag) [(d, w64 code)]

/-- SEAL up to the record: alignment, the handle, the read. -/
def Ctx.seal (c : Ctx) (d : Dst) (h : BitVec 4) (x : Reg) (check : Mach → List Word → Res) : Res :=
  let p := c.reg x
  if !aligned p 64 then .trap (illOpnd c.raw)
  else if (c.mem.handles[h.toNat]'h.isLt).isSome then c.sealCode c.M d 0x07
  else
    match c.readSpan p 64 with
    | .fault f => if f.code = 0x22 || f.code = 0x01 then c.xtrap f .read else c.sealCode c.M d 0x06
    | .ecc pa => .trap (eccTrap c.raw pa)
    | .asking M => c.await M
    | .bytes M bs => check M (wordsOf 8 bs)

/-- What SEAL.tensor does (R294, R296). -/
def Ctx.sealTensor (c : Ctx) (d : Dst) (h : BitVec 4) (x : Reg) : Res :=
  c.seal d h x fun M r =>
    let code := sealTensorCode r
    if code = 0 then c.sealed M d h .tensor r (c.reg x) else c.sealCode M d code

/-- What SEAL.table does (R294, R18, R19): the range joins the attachment list. -/
def Ctx.sealTable (c : Ctx) (d : Dst) (h : BitVec 4) (x : Reg) : Res :=
  c.seal d h x fun M r =>
    match M.part c.mem.ref.part with
    | none => c.sealCode M d 0x0A
    | some p =>
      let code := sealTableCode M p c.mem.core c.mem.die r
      if code = 0 then
        c.sealed
          ((settleAccesses M p.id).updPart p.id fun p => { p with attached := p.attached ++ [⟨r, false⟩] })
          d h .table r (c.reg x)
      else c.sealCode M d code

/-- What SEAL.grid does (R294, R129, R131): the owner table is read after the stream's earlier stores (R82). -/
def Ctx.sealGrid (c : Ctx) (d : Dst) (h : BitVec 4) (x : Reg) : Res :=
  c.seal d h x fun M r =>
    let code := sealGridCode r
    if code ≠ 0 then c.sealCode M d code
    else
      match c.readOwners r (gOwners r) 0 (toHomes M c.mem.ref c.st) with
      | .stop z => z
      | .unreadable => c.sealCode M d 0x04
      | .entries M es =>
        let sc := recF r 27 3
        let code :=
          firstCode
            [(0x04, !es.all fun e => entOk e && entAreasOk M r e),
             (0x05, !(sc = 4 || sc = 5) || (sc = 4 && !es.all (entHere M c.mem)))]
        if code = 0 then c.sealed M d h .grid r (c.reg x) else c.sealCode M d code

/-- SEAL.tensor (R294). -/
def execSealTensor (d : Dst) (h : BitVec 4) (x : Reg) (s : State) : Host.Outcome State Fault Refusal :=
  word (.sealTensor d h x) (fun c => c.sealTensor d h x) s

/-- SEAL.table (R294). -/
def execSealTable (d : Dst) (h : BitVec 4) (x : Reg) (s : State) : Host.Outcome State Fault Refusal :=
  word (.sealTable d h x) (fun c => c.sealTable d h x) s

/-- SEAL.grid (R294). -/
def execSealGrid (d : Dst) (h : BitVec 4) (x : Reg) (s : State) : Host.Outcome State Fault Refusal :=
  word (.sealGrid d h x) (fun c => c.sealGrid d h x) s

/-! ### UNSEAL and HMOV (R298, R299) -/

/-- R298. -/
def execUnseal (h : BitVec 4) (s : State) : Host.Outcome State Fault Refusal :=
  word (.unsealHandle h)
    (fun c =>
      match c.mem.handles[h.toNat]'h.isLt with
      | none => .trap (illOpnd c.raw)
      | some x =>
        if x.kind = .grid && c.mem.joined.any fun j => j.grid == x.copy then .trap (illOpnd c.raw)
        else .done (c.upd fun m => { m with handles := m.handles.set h.toNat none h.isLt })) s

/-- Copy a handle's record into a member's handle register, if that is empty; of a switched-out member also in its save
image (R299, R407). -/
def Ctx.moveHandle (c : Ctx) (d : Dst) (hd hs : BitVec 4) (target : MRef) : Res :=
  match c.mem.handles[hs.toNat]'hs.isLt, c.M.member target with
  | some x, some t =>
    if (t.handles[hd.toNat]'hd.isLt).isSome then c.untimedNow c.M [(d, 7)]
    else
      let M := c.M.updMember target fun m => { m with handles := m.handles.set hd.toNat (some x) hd.isLt }
      c.untimedNow (if t.core.isSome then M else saveWords M t (0x2480 + 128 * hd.toNat) (handleWords (some x))) [(d, 0)]
  | _, _ => .trap (illOpnd c.raw)

/-- R299. -/
def execHmov (d : Dst) (hd hs : BitVec 4) (s : State) : Host.Outcome State Fault Refusal :=
  word (.hmov d hd hs) (fun c => c.moveHandle d hd hs c.mem.ref) s

/-- R299: the target is a member of the issuing context. -/
def execHmovMem (d : Dst) (hd hs : BitVec 4) (x : Reg) (s : State) : Host.Outcome State Fault Refusal :=
  word (.hmovMem d hd hs x)
    (fun c =>
      let rank := (c.reg x).toNat
      if c.mem.nmem ≤ rank then .trap (illOpnd c.raw)
      else c.moveHandle d hd hs ⟨c.mem.ref.part, c.mem.ref.ctx, rank⟩) s

end Sys2Proof.Machine
end

