-- ==== Sys2Proof/Machine/Matrix.lean ====
section
/-!
DEFINITION. The matrix engine (R290 to R292, R300 to R321): configuration, the nest and its K-steps, both arithmetic
modes (R206 to R211), the 2:4 selector, kept-block generation, the post-chain (R212 to R215), XGO, XWAIT and XACC.
-/

namespace Sys2Proof.Machine

/-! ### Configuration (R290, R300, R301, R304, R310, R315) -/

/-- A level at context creation. -/
def XLevel.fresh : XLevel := ⟨1, false, 0, 0, 0, 0⟩

/-- A level of a configuration. -/
def XCfg.level (c : XCfg) (l : Nat) : XLevel := c.lev.getD l XLevel.fresh

/-- The six levels. -/
def XCfg.levels (c : XCfg) : List XLevel := (List.range 6).map c.level

def XCfg.aType (c : XCfg) : Nat := wf c.os0 45 3
def XCfg.aCk (c : XCfg) : Bool := c.os0.getLsbD 44
def XCfg.aQueue (c : XCfg) : Bool := c.os0.getLsbD 43
def XCfg.aQ (c : XCfg) : BitVec 3 := c.os0.extractLsb' 40 3
def XCfg.mr (c : XCfg) : Nat := wf c.os0 32 8 + 1
def XCfg.row0 (c : XCfg) : Nat := wf c.os0 0 15
def XCfg.bType (c : XCfg) : Nat := wf c.os1 45 3
def XCfg.sparse (c : XCfg) : Bool := c.os1.getLsbD 44
def XCfg.nc (c : XCfg) : Nat := wf c.os1 32 8 + 1
def XCfg.boff (c : XCfg) : Nat := wf c.os1 0 14

/-- Bits of an operand element. -/
def xBits (ty : Nat) : Nat :=
  match ty with
  | 1 => 4
  | 4 => 16
  | _ => 8

/-- INT8 or INT4. -/
def xInt (ty : Nat) : Bool := ty ≤ 1

/-- Mode of a pair of types (R302); none for one integer and one float. -/
def XCfg.mode (c : XCfg) : Option AccMode :=
  if xInt c.aType then (if xInt c.bType then some .exact else none)
  else if xInt c.bType then none
  else some .scaled

/-- Logical k indices of a K-step (R302). -/
def XCfg.kappa (c : XCfg) : Nat :=
  if c.aType = 1 && c.bType = 1 then 256
  else if c.aType = 4 || c.bType = 4 then (if c.sparse then 128 else 64)
  else if c.sparse then 256
  else 128

/-- Bytes of a column for one K-step. -/
def XCfg.bBytes (c : XCfg) : Nat := c.kappa * xBits c.bType / (if c.sparse then 16 else 8)

/-- Bytes of a column's metadata for one K-step, and from one column to the next (R315). -/
def XCfg.metaBytes (c : XCfg) : Nat := c.kappa / 8
def XCfg.metaStride (c : XCfg) : Nat := if c.spm.getLsbD 16 then 128 else c.metaBytes

/-- A sum over the levels (R306). -/
def XCfg.sum (c : XCfg) (f : XLevel → Int) (idx : List Nat) : Int :=
  (List.range 6).foldl (fun a l => a + (idx.getD l 0 : Nat) * f (c.level l)) 0

/-- K-levels: the lowest ones (R312). -/
def XCfg.nk (c : XCfg) : Nat := (c.levels.filter fun l => l.k).length

/-- Product of the counts of levels. -/
def xProd (ls : List XLevel) : Nat := ls.foldl (fun n l => n * l.count) 1

/-- Change the issuing member's shadow. -/
def Ctx.setShadow (c : Ctx) (f : XCfg → XCfg) : Res := .done (c.upd fun m => { m with shadow := f m.shadow })

/-- An engine loop register. -/
def Member.loopReg (m : Member) (n : BitVec 4) : Word := m.hl[n.toNat]'n.isLt

/-- R304. -/
def execXnest (lv : BitVec 3) (k : Bool) (n : Count) (sa sb sov : Reg) (s : State) :
    Host.Outcome State Fault Refusal :=
  word (.xnest lv k n sa sb sov)
    (fun c =>
      let count :=
        match n with
        | .reg r => (c.reg r).toNat
        | .hl i => (c.mem.loopReg i).toNat
      let o := c.reg sov
      let level : XLevel :=
        ⟨count, k, (c.reg sa).toInt, (c.reg sb).toInt, sgn 32 (wf o 0 32), sgn 32 (wf o 32 32)⟩
      let levels := c.mem.shadow.levels.set lv.toNat level
      if count = 0 || 2 ^ 24 ≤ count || 65535 < xProd (levels.filter fun l => l.k) then .trap (illOpnd c.raw)
      else c.setShadow fun x => { x with lev := levels }) s

/-- R304. -/
def execXnestClr (s : State) : Host.Outcome State Fault Refusal :=
  word .xnestClr (fun c => c.setShadow fun x => { x with lev := [] }) s

/-- R305. -/
def execXlrRd (d : Dst) (n : BitVec 4) (s : State) : Host.Outcome State Fault Refusal :=
  word (.xlrRd d n) (fun c => .done (c.result 1 d (c.mem.loopReg n))) s

/-- R305. The new value shows at once to every stream of the core: of the two values R148 allows an unsynchronised read of a
shared register, the model gives the newer (DESIGN CHOICE, assumption 46). -/
def execXlrWr (n : BitVec 4) (x : Reg) (s : State) : Host.Outcome State Fault Refusal :=
  word (.xlrWr n x) (fun c => .done (c.upd fun m => { m with hl := m.hl.set n.toNat (c.reg x) n.isLt })) s

/-- R305, R319. -/
def execXlrPos (d : Dst) (s : State) : Host.Outcome State Fault Refusal :=
  word (.xlrPos d)
    (fun c =>
      .done
        (c.result 1 d
          (w64
            (match c.mem.nest with
              | some n => n.committed
              | none => c.mem.lastPos)))) s

/-- os0 keeps to R300. -/
def os0Ok (v : Word) : Bool :=
  wf v 48 16 = 0 && wf v 15 17 = 0 && wf v 45 3 ≤ 4 && wf v 32 8 < 128 &&
    (if v.getLsbD 43 then !v.getLsbD 44 && wf v 0 15 = 0 else wf v 40 3 = 0)

/-- os1 keeps to R301. -/
def os1Ok (v : Word) : Bool :=
  wf v 48 16 = 0 && wf v 40 4 = 0 && wf v 14 18 = 0 && wf v 45 3 ≤ 4 && wf v 32 8 < 128 &&
    !(v.getLsbD 44 && wf v 45 3 = 1)

/-- R300. -/
def execXopsA (x : Reg) (s : State) : Host.Outcome State Fault Refusal :=
  word (.xopsA x)
    (fun c => if os0Ok (c.reg x) then c.setShadow fun y => { y with os0 := c.reg x } else .trap (illOpnd c.raw)) s

/-- R301. -/
def execXopsB (x : Reg) (s : State) : Host.Outcome State Fault Refusal :=
  word (.xopsB x)
    (fun c => if os1Ok (c.reg x) then c.setShadow fun y => { y with os1 := c.reg x } else .trap (illOpnd c.raw)) s

/-- R310. -/
def execXpost (x : Reg) (s : State) : Host.Outcome State Fault Refusal :=
  word (.xpost x)
    (fun c =>
      let v := c.reg x
      if wf v 45 19 = 0 && !v.getLsbD 30 && wf v 40 3 ≤ 5 then c.setShadow fun y => { y with xp := v }
      else .trap (illOpnd c.raw)) s

/-- R315. -/
def execXspm (x : Reg) (s : State) : Host.Outcome State Fault Refusal :=
  word (.xspm x)
    (fun c =>
      let v := c.reg x
      if wf v 17 47 = 0 && !v.getLsbD 15 then c.setShadow fun y => { y with spm := v } else .trap (illOpnd c.raw)) s

/-! ### Kept blocks (R317, R318) -/

def mskLevel (b : List Word) : Nat := recF b 0 3
def mskQLevel (b : List Word) : Nat := recF b 3 3
def mskCausal (b : List Word) : Bool := recF b 7 1 = 1

/-- A block passes the checks of R317. -/
def maskOk (b : List Word) : Bool :=
  recZero b [(6, 1), (13, 3), (48, 16), (384, 64), (448, 64)] && recF b 8 5 ≤ 16 && mskQLevel b < 6 &&
    mskLevel b < 6 && mskLevel b ≠ mskQLevel b && (!mskCausal b || recF b 32 16 = 0)

/-- An iteration of level MLEV at index kb is kept under query index qb (R318). -/
def maskKept (b : List Word) (kb qb : Nat) : Bool :=
  let k : Int := sgn 32 (recF b 96 32) + kb
  let q : Int := sgn 32 (recF b 64 32) + qb
  decide (0 ≤ k) && (!mskCausal b || decide (k ≤ q)) &&
    ((decide (q - recF b 16 16 ≤ k) && decide (k ≤ q + recF b 32 16)) ||
      (List.range (recF b 8 5)).any fun a => k == (recF b (128 + 16 * a) 16 : Int))

/-- R317. -/
def Ctx.xmask (c : Ctx) (x : Reg) : Res :=
  let p := c.reg x
  if !aligned p 64 then .trap (illOpnd c.raw)
  else
    match c.readSpan p 64 with
    | .fault f => c.xtrap f .read
    | .ecc pa => .trap (eccTrap c.raw pa)
    | .asking M => c.await M
    | .bytes M bs =>
      let b := wordsOf 8 bs
      if maskOk b then
        c.untimedNow
          ((dropFetched M c.mem.ref c.tag).updMember c.mem.ref fun m =>
            { m with shadow := { m.shadow with mask := some b } }) []
      else .trap (illOpnd c.raw)

/-- XMASK (R317). -/
def execXmask (x : Reg) (s : State) : Host.Outcome State Fault Refusal :=
  word (.xmask x) (fun c => c.xmask x) s

/-! ### The walk (R306, R318) -/

/-- The next index vector of levels [l, l + n), odometer order; none at the end. -/
def odo (c : XCfg) : Nat → Nat → List Nat → Option (List Nat)
  | _, 0, _ => none
  | l, n + 1, idx =>
    if idx.getD l 0 + 1 < (c.level l).count then some (idx.set l (idx.getD l 0 + 1))
    else odo c (l + 1) n (idx.set l 0)

/-- Set the levels below l to index 0. -/
def lowZero (l : Nat) (idx : List Nat) : List Nat := idx.zipIdx.map fun p => if p.2 < l then 0 else p.1

/-- The mask a nest uses. -/
def Nest.mask (n : Nest) : Option (List Word) := if n.msk then n.cfg.mask else none

/-- The mask filters a level of [lo, hi), and it rejects the current iteration of that level; a query level inside
the filtered one stands at its first index. -/
def Nest.rejects (n : Nest) (lo hi : Nat) (idx : List Nat) : Option Nat :=
  match n.mask with
  | none => none
  | some b =>
    let l := mskLevel b
    let q := if l < mskQLevel b then idx.getD (mskQLevel b) 0 else 0
    if lo ≤ l && l < hi && !maskKept b (idx.getD l 0) q then some l else none

/-- The first kept index vector of levels [lo, hi) from `idx` on. -/
def Nest.seek (n : Nest) (lo hi : Nat) : Nat → List Nat → Option (List Nat)
  | 0, _ => none
  | f + 1, idx =>
    match n.rejects lo hi idx with
    | none => some idx
    | some l =>
      match odo n.cfg l (hi - l) (lowZero l idx) with
      | none => none
      | some i => n.seek lo hi f i

/-- The first kept K-step of the chain from `idx` on. -/
def Nest.seekStep (n : Nest) (idx : List Nat) : Option (List Nat) :=
  n.seek 0 n.cfg.nk (xProd (n.cfg.levels.take n.cfg.nk)) idx

/-- The first chain that runs from `idx` on, at its first index. -/
def Nest.seekChain (n : Nest) (idx : List Nat) : Option (List Nat) :=
  n.seek n.cfg.nk 6 (xProd (n.cfg.levels.drop n.cfg.nk)) (lowZero n.cfg.nk idx)

/-- The next kept K-step of the chain after `idx`. -/
def Nest.nextStep (n : Nest) (idx : List Nat) : Option (List Nat) :=
  (odo n.cfg 0 n.cfg.nk idx).bind n.seekStep

/-- The next chain after the one at `idx`. -/
def Nest.nextChain (n : Nest) (idx : List Nat) : Option (List Nat) :=
  (odo n.cfg n.cfg.nk (6 - n.cfg.nk) (lowZero n.cfg.nk idx)).bind n.seekChain

/-! ### Operand data (R302, R303, R315, R316) -/

/-- Element codes of packed bytes. -/
def xElems (ty n : Nat) (bs : List Byte) : List Nat :=
  match ty with
  | 1 => (bs.flatMap fun b => [b.toNat % 16, b.toNat / 16]).take n
  | 4 => (elemsOf 2 bs).take n
  | _ => (bs.map (·.toNat)).take n

/-- Rows of the scratchpad by global row. -/
def globalRows (M : Mach) (m : Member) (g n : Nat) : List Byte :=
  (List.range n).flatMap fun k => tileBytes M m ((g + k) / 64) ((g + k) % 64 * 128) 128

/-- Bytes of a column slice of the B store (R37): on the operand die, or in the save image. -/
def sliceBytes (M : Mach) (m : Member) (j off n : Nat) : List Byte :=
  match m.place with
  | .core c => M.get (bstoreBase c + j * 0x4000 + off) n
  | .image =>
    match savePa M m (0x600000 + j * 0x4000 + off) with
    | some pa => M.get pa n
    | none => zeros n

/-- A poisoned block of the B store of a member's core. -/
def slicePoison (M : Mach) (m : Member) (j off n : Nat) : Option Nat :=
  match m.place with
  | .core c => homePoison M [(bstoreBase c + j * 0x4000 + off, n)]
  | .image => none

/-- The metadata of a column (R315). -/
def metaAt (M : Mach) (m : Member) (c : XCfg) (bo j : Nat) : List Byte :=
  let a := wf c.spm 0 15 * 128 + (bo / c.bBytes * 128 + j) * c.metaStride
  let first := a / 128
  ((globalRows M m first ((a + c.metaBytes - 1) / 128 - first + 1)).drop (a % 128)).take c.metaBytes

/-- The nibble of a group. -/
def metaNibble (bs : List Byte) (g : Nat) : Nat := (bs.getD (g / 2) 0).toNat / 16 ^ (g % 2) % 16

/-- The six nibbles R316 admits. -/
def nibbleOk (n : Nat) : Bool := n % 4 < n / 4

/-- The first bad nibble: column and group. -/
def badNibble (M : Mach) (m : Member) (c : XCfg) (bo : Nat) : Option (Nat × Nat) :=
  (List.range c.nc).findSome? fun j =>
    let bs := metaAt M m c bo j
    ((List.range (c.kappa / 4)).find? fun g => !nibbleOk (metaNibble bs g)).map fun g => (j, g)

/-- Dense elements of a sparse column (R316, R211). -/
def unpackColumn (kappa : Nat) (bs : List Byte) (packed : List Nat) : List Nat :=
  (List.range (kappa / 4)).flatMap fun g =>
    let n := metaNibble bs g
    (List.range 4).map fun k =>
      if k = n % 4 then packed.getD (2 * g) 0 else if k = n / 4 then packed.getD (2 * g + 1) 0 else 0

/-- The B elements of a K-step as they are stored, column by column. -/
def stepColumns (M : Mach) (m : Member) (c : XCfg) (bo : Nat) : List (List Nat) :=
  (List.range c.nc).map fun j =>
    xElems c.bType (if c.sparse then c.kappa / 2 else c.kappa) (sliceBytes M m j bo c.bBytes)

/-- The data of a K-step as it enters the array: sparse columns are spread out by their metadata (R316). -/
def spreadData (M : Mach) (m : Member) (c : XCfg) (bo : Nat) (d : KData) : KData :=
  if c.sparse then { d with b := d.b.zipIdx.map fun p => unpackColumn c.kappa (metaAt M m c bo p.2) p.1 } else d

/-- The B offset of a K-step. -/
def XCfg.bo (c : XCfg) (idx : List Nat) : Int := c.boff + c.sum (·.sb) idx

/-- The first A row of a K-step's fetch group. -/
def XCfg.aRow (c : XCfg) (idx : List Nat) : Int := c.row0 + c.sum (·.sa) idx

/-- Stream rows of one A row of a fetch group of n K-steps. -/
def XCfg.aRows (c : XCfg) (n : Nat) : Nat := ceilDiv (n * c.kappa * xBits c.aType / 8) 128

/-- Rows an output of a format occupies, and the bytes of an element (R311). -/
def fmtBytes (fmt : Nat) : Nat :=
  match fmt with
  | 0 | 1 => 4
  | 5 => 2
  | _ => 1

/-- Output and vector rows lie in the scratchpad (R308). -/
def postRowsOk (m : Member) (xp : Word) (stg : Stages) (mr nc : Nat) (ob vb : Int) : Bool :=
  let lim : Int := 64 * m.tilesN
  let inside (g : Int) : Bool := decide (0 ≤ g) && decide (g < lim)
  inside ob && inside (ob + mr * fmtBytes (wf xp 40 3) - 1) &&
    (!stg.scale || (inside vb && inside (vb + (mr - 1) / 32) && inside (vb + 4 + (nc - 1) / 32))) &&
    (!stg.bias || (inside (vb + 8) && inside (vb + 8 + (nc - 1) / 32)))

/-- The post-chain rows of a chain. -/
def XCfg.ob (c : XCfg) (idx : List Nat) : Int := wf c.xp 0 15 + c.sum (·.so) idx
def XCfg.vb (c : XCfg) (idx : List Nat) : Int := wf c.xp 15 15 + c.sum (·.sv) idx

/-- A chain's rows are in range. -/
def Nest.rowsOk (n : Nest) (m : Member) (idx : List Nat) : Bool :=
  !n.out || postRowsOk m n.cfg.xp n.stg n.cfg.mr n.cfg.nc (n.cfg.ob idx) (n.cfg.vb idx)

/-- The checks of R308 on one K-step of a group of g. -/
def Nest.stepOk (n : Nest) (m : Member) (g : Nat) (first idx : List Nat) : Bool :=
  let c := n.cfg
  let lim : Int := 64 * m.tilesN
  let a := c.aRow first
  let bo := c.bo idx
  (c.aQueue || (decide (0 ≤ a) && decide (a + c.mr * c.aRows g ≤ lim))) &&
    decide (0 ≤ bo) && decide (bo + c.bBytes ≤ 16384) &&
    (!c.sparse ||
      (bo.toNat % c.bBytes = 0 &&
        wf c.spm 0 15 * 128 + (bo.toNat / c.bBytes * 128 + (c.nc - 1)) * c.metaStride + c.metaBytes ≤
          64 * m.tilesN * 128)) &&
    n.rowsOk m idx

/-- A trap of the nest; the word that takes it is filled in then (R320). -/
def nestTrap (cause aux : Nat) : TrapInfo := progTrap cause 0 (w64 aux)

/-- How the taking of a fetch group ends. -/
inductive Take where
  | fault (i : TrapInfo)
  /-- Tiles or rows are still to come. -/
  | later (M : Mach)
  | data (M : Mach) (ds : List KData)

/-- What stops a fetch group before any of its data are taken: R308, a poisoned B block. -/
def Nest.groupFault (n : Nest) (M : Mach) (m : Member) (steps : List (List Nat)) : Option TrapInfo :=
  let c := n.cfg
  let first := steps.headD []
  if !steps.all (n.stepOk m steps.length first) then some (nestTrap 0x13 0)
  else
    let bos := steps.map fun i => (c.bo i).toNat
    if M.poison.isEmpty then none
    else
      (bos.findSome? fun bo => (List.range c.nc).findSome? fun j => slicePoison M m j bo c.bBytes).map
        fun pa => ⟨0x21, true, 0, w64 pa, [], false⟩

/-- The data of a group from its A rows. -/
def Nest.groupData (n : Nest) (M : Mach) (m : Member) (steps : List (List Nat)) (rows : List Byte) : List KData :=
  let c := n.cfg
  let nr := c.aRows steps.length
  let as := (chunks (nr * 128) c.mr rows).map (xElems c.aType (steps.length * c.kappa))
  steps.zipIdx.map fun p =>
    ⟨as.map fun r => (r.drop (p.2 * c.kappa)).take c.kappa, stepColumns M m c (c.bo p.1).toNat⟩

/-- Take a fetch group (R303, R308). -/
def Nest.take (n : Nest) (M : Mach) (m : Member) (steps : List (List Nat)) : Take :=
  match n.groupFault M m steps with
  | some i => .fault i
  | none =>
    let c := n.cfg
    let rows := c.mr * c.aRows steps.length
    if c.aQueue then
      let q := m.queue c.aQ
      let k := min (rows - n.rows.length) (readyRows q)
      let have_ := n.rows ++ (q.take k).map fun r => r.data
      let M :=
        M.updMember m.ref fun m =>
          { m with
            queues := m.queues.set c.aQ.toNat (q.drop k) c.aQ.isLt
            nest := m.nest.map fun x => { x with rows := if have_.length < rows then have_ else [] } }
      if have_.length < rows then .later M else .data M (n.groupData M m steps have_.flatten)
    else
      let g := (c.aRow (steps.headD [])).toNat
      let ts := (List.range ((g + rows - 1) / 64 - g / 64 + 1)).map (g / 64 + ·)
      if c.aCk then
        match ts.find? fun t => (m.tile t).tag == .poisoned with
        | some t => .fault (nestTrap 0x14 (t + (m.tile t).pcause <<< 16))
        | none =>
          if ts.all m.readable then
            .data (acquire M m.ref (m.fillScope ts)) (n.groupData M m steps (globalRows M m g rows))
          else .later M
      else .data M (n.groupData M m steps (globalRows M m g rows))

/-! ### Arithmetic of a K-step (R206 to R211, R307) -/

/-- Combine two lists element by element, the shorter one filled up. -/
def zipLong {α : Type} (z : α) (f : α → α → α) : List α → List α → List α
  | [], bs => bs.map (f z)
  | as, [] => as.map fun a => f a z
  | a :: as, b :: bs => f a b :: zipLong z f as bs

/-- The same on rows. -/
def zipRows {α : Type} (z : α) (f : α → α → α) : List (List α) → List (List α) → List (List α) := zipLong [] (zipLong z f)

/-- A scalar product. -/
def dotInt : List Int → List Int → Int
  | a :: as, b :: bs => a * b + dotInt as bs
  | _, _ => 0

/-- An exact K-step: every product into the RN3 accumulators. -/
def addExact (c : XCfg) (s : AccSet) (d : KData) : AccSet :=
  let bs := d.b.map fun col => col.map fun x => sgn (xBits c.bType) x
  let terms :=
    d.a.map fun row =>
      let r := row.map fun x => sgn (xBits c.aType) x
      bs.map fun col => w64 (rnEnc (dotInt r col))
  { s with rn := zipRows 0 (fun x y => w64 (rnAdd x.toNat y.toNat)) s.rn terms }

/-- The float format of an operand type. -/
def xFmt (ty : Nat) : FFmt :=
  match ty with
  | 2 => e4m3
  | 3 => e5m2
  | _ => Sys2Proof.Machine.bf16

/-- A quantised row or column of a K-tile (R208): shared exponent, values, and whether an element is not finite. -/
structure Quant where
  se : Int
  q : List Int
  bad : Bool
  deriving DecidableEq, Repr

/-- R208. -/
def quantise (f : FFmt) (xs : List Nat) : Quant :=
  let vs := xs.map (fDec f)
  let es : List Int :=
    vs.filterMap fun v =>
      match v with
      | .fin _ m e _ => if m = 0 then none else some ((log2 m : Int) + e)
      | _ => none
  let top : Int :=
    match es with
    | [] => 0
    | e :: rest => rest.foldl max e
  let se := top - 10
  { se := se
    q := vs.map fun v =>
      match v with
      | .fin n m e k => (vToInt false (.fin n m (e - se) k)).getD 0
      | _ => 0
    bad := vs.any fun v =>
      match v with
      | .fin _ _ _ _ => false
      | _ => true }

/-- The term of an output (R209, R210). -/
def scaledTerm (a b : Quant) : BitVec 32 :=
  if a.bad || b.bad then BitVec.ofNat 32 fp32.nan
  else
    let s := dotInt a.q b.q
    BitVec.ofNat 32 (fRnd fp32 false false (.fin (s < 0) s.natAbs (a.se + b.se) false))

/-- Close a K-tile (R209). -/
def closeTile (c : XCfg) (s : AccSet) (d : KData) : AccSet :=
  let bs := d.b.map (quantise (xFmt c.bType))
  let terms := d.a.map fun row => let r := quantise (xFmt c.aType) row; bs.map (scaledTerm r)
  { s with
    set := true
    half := none
    p :=
      zipRows 0
        (fun p t => if s.set then BitVec.ofNat 32 (fAdd fp32 false p.toNat t.toNat) else t) s.p terms }

/-- The K-tile at index t of a K-step of 256. -/
def KData.part (d : KData) (t : Nat) : KData :=
  ⟨d.a.map fun r => (r.drop (128 * t)).take 128, d.b.map fun r => (r.drop (128 * t)).take 128⟩

/-- Two halves of a K-tile. -/
def KData.join (x y : KData) : KData :=
  ⟨(x.a.zip y.a).map fun p => p.1 ++ p.2, (x.b.zip y.b).map fun p => p.1 ++ p.2⟩

/-- Add a K-step to a set (R307). -/
def addStep (c : XCfg) (s : AccSet) (d : KData) : AccSet :=
  match s.mode with
  | .exact => addExact c s d
  | _ =>
    match c.kappa with
    | 64 =>
      match s.half with
      | some h => closeTile c s (h.join d)
      | none => { s with half := some d }
    | 256 => closeTile c (closeTile c s (d.part 0)) (d.part 1)
    | _ => closeTile c s d

/-- A chain ends: an open K-tile is closed as if padded with zeros. -/
def closeChain (c : XCfg) (s : AccSet) : AccSet :=
  match s.half with
  | some h => closeTile c s h
  | none => s

/-! ### The post-chain (R212 to R215, R311) -/

/-- FP32 elements of rows. -/
def vecElems (M : Mach) (m : Member) (on : Bool) (g : Int) (n : Nat) : List Nat :=
  if on then (elemsOf 4 (globalRows M m g.toNat (ceilDiv n 32))).take n else []

/-- Output stages on an FP32 value. -/
def postStages (xp : Word) (stg : Stages) (tab : List Byte) (rs cs b y : Nat) : Nat :=
  let y := if stg.scale then fMul fp32 false (fMul fp32 false y rs) cs else y
  let y := if stg.bias then fAdd fp32 false y b else y
  let y := if stg.act then actOf tab y else y
  let rtz := xp.getLsbD 43
  let sat := xp.getLsbD 44
  if stg.rq then
    match wf xp 40 3 with
    | 2 => unsgn 8 (vToRange rtz (-128) 127 (fDec fp32 y))
    | 3 => fCvt fp32 e4m3 rtz sat y
    | 4 => fCvt fp32 e5m2 rtz sat y
    | _ => fCvt fp32 Sys2Proof.Machine.bf16 rtz sat y
  else y

/-- One output element (R212). -/
def postElement (s : AccSet) (xp : Word) (stg : Stages) (tab : List Byte) (rn : Nat) (p rs cs b : Nat) : Nat :=
  match s.mode with
  | .exact =>
    let v := rnVal rn
    if wf xp 40 3 = 0 then unsgn 32 (satS 32 v) else postStages xp stg tab rs cs b (fOfInt fp32 false false v)
  | _ => postStages xp stg tab rs cs b p

/-- Byte mask of the outputs in a sector: n bytes of a span, from byte 64 * k on. -/
def sectorMask (n k : Nat) : BitVec 64 :=
  let covered := min 64 (n - 64 * k)
  BitVec.ofNat 64 (2 ^ covered - 1)

/-- The arrivals of one output row at global row g. -/
def rowArrivals (m : Member) (g : Nat) (bs : List Byte) : List Arrival :=
  (List.range (ceilDiv bs.length 64)).map fun k =>
    let sec := 2 * g + k
    { dst := m.ref
      tile := sec / 128
      sector := sec % 128
      kind := .plain
      poison := false
      scope := .core
      mask := sectorMask bs.length k
      data := let d := (bs.drop (64 * k)).take 64; d ++ zeros (64 - d.length)
      region := none
      sender := ⟨m.ref, .x, none, false, ownTaddr m.ref (sec / 128) (sec % 128), none, none, 0⟩ }

/-- The post-chain on a set (R311). The sectors of a row arrive together: a row write is one tile operation (R51, R309). -/
def postChain (M : Mach) (m : Member) (s : AccSet) (xp : Word) (stg : Stages) (mr nc : Nat) (ob vb : Int) : Mach :=
  let tab := if stg.act then tileBytes M m (wf xp 31 9) 0 8192 else []
  let rs := vecElems M m stg.scale vb mr
  let cs := vecElems M m stg.scale (vb + 4) nc
  let bias := vecElems M m stg.bias (vb + 8) nc
  let w := fmtBytes (wf xp 40 3)
  (List.range mr).foldl
    (fun M i =>
      let rn := s.rn.getD i []
      let p := s.p.getD i []
      let es :=
        (List.range nc).map fun j =>
          postElement s xp stg tab (rn.getD j 0).toNat (p.getD j 0).toNat (rs.getD i 0) (cs.getD j 0) (bias.getD j 0)
      (rowArrivals m (ob.toNat + i * w) (bytesOf w es)).foldl arriveHere M)
    M

/-- A post-chain write of the member is still on its way: it waits for room in the arrival queue (R45, R313). -/
def postPending (M : Mach) (m : Member) : Bool :=
  let mine (a : Arrival) : Bool := a.sender.m == m.ref && a.sender.st == .x && a.sender.cmd.isNone && a.sender.verge.isNone && !a.sender.tsend
  M.pending.any fun p =>
    match p.ev with
    | .arrival a => mine a
    | .arrivalRetry a => mine a
    | _ => false

/-- No nest is live, and with `drained` no post-chain write is on its way. -/
def nestIdle (M : Mach) (m : Member) (drained : Bool) : Bool := m.nest.isNone && !(drained && postPending M m)

/-! ### K_STEP (R307, R308, R319 to R321) -/

/-- Set an accumulator set. -/
def Member.setAcc (m : Member) (n : Nat) (s : AccSet) : Member :=
  if h : n < 4 then { m with acc := m.acc.set n s h } else m

/-- A cleared set in a mode (R307). -/
def AccSet.zero (mode : AccMode) : AccSet := ⟨mode, [], [], false, none⟩

/-- Begin a chain (R307): the set is cleared, but for the first chain of a continued launch. -/
def beginChain (n : Nest) (m : Member) : Member :=
  let mode := n.cfg.mode.getD .exact
  if n.started then m
  else
    let m := m.setAcc n.acc (if n.cont then { m.accSet n.acc with mode := mode } else AccSet.zero mode)
    { m with nest := some { n with started := true, cont := false } }

/-- End a chain: close its K-tile, run the post-chain, go to the next chain or end the nest. -/
def finishChain (M : Mach) (m : Member) (n : Nest) (idx : List Nat) : Mach :=
  let m := m.setAcc n.acc (closeChain n.cfg (m.accSet n.acc))
  let m :=
    match n.nextChain idx with
    | some i => { m with nest := some { n with idx := i, started := false } }
    | none => { m with nest := none, lastPos := n.committed }
  let M := M.putMember m
  if n.out then postChain M m (m.accSet n.acc) n.cfg.xp n.stg n.cfg.mr n.cfg.nc (n.cfg.ob idx) (n.cfg.vb idx) else M

/-- The nest stops at its committed position (R320). -/
def stopNest (M : Mach) (r : MRef) (i : TrapInfo) : Mach :=
  M.updMember r fun m => { m with nest := m.nest.map fun n => { n with fault := some i } }

/-- The fetch group at a K-step: one K-step, or two of a chain with κ = 64. -/
def Nest.group (n : Nest) (idx : List Nat) : List (List Nat) :=
  if n.cfg.kappa = 64 then
    match n.nextStep idx with
    | some j => [idx, j]
    | none => [idx]
  else [idx]

/-- Perform the K-step at `idx` with its data held; a bad nibble stops the nest there (R316, R451). -/
def performStep (M : Mach) (r : MRef) (idx : List Nat) : Mach :=
  match M.member r with
  | none => M
  | some m =>
    match m.nest with
    | none => M
    | some n =>
      match n.held with
      | [] => M
      | d :: rest =>
        let bo := (n.cfg.bo idx).toNat
        match (if n.cfg.sparse then badNibble M m n.cfg bo else none) with
        | some (j, g) => stopNest M r (nestTrap 0x1A (j + g <<< 8))
        | none =>
          let d := spreadData M m n.cfg bo d
          let m := beginChain n m
          let n := m.nest.getD n
          let m := m.setAcc n.acc (addStep n.cfg (m.accSet n.acc) d)
          let n := { n with held := rest, committed := n.committed + 1, due := m.now M + 128 }
          match n.nextStep idx with
          | some i => M.putMember { m with nest := some { n with idx := i } }
          | none => finishChain M { m with nest := some n } n idx

/-- The engine takes no data: a handler runs, the core is frozen, by late data too (R152, R153), or tile writes of an
earlier nest are still on their way to the nest's first reads (R309). -/
def nestHeld (M : Mach) (m : Member) (n : Nest) : Bool :=
  m.handler.isSome || m.freeze ≠ .none ||
    (match m.limit with
      | some l => decide (l < M.wclk - m.skew)
      | none => false) ||
    (n.committed = 0 && n.spec = 0 && postPending M m)

/-- When the engine looks again: in the next cycle while late data, a full buffer or the vector unit hold the core. -/
def Member.nestPoll (m : Member) : Nat :=
  match m.freeze with
  | .none => if m.limit.isSome then 1 else 16
  | .store _ | .vector => 1
  | .escalated | .halted => 16

/-- K_STEP: one K-step, or one chain without a kept K-step, once the array is free in the core's own cycles (R152). -/
def runNest (M : Mach) (r : MRef) : Mach :=
  match M.member r with
  | none => M
  | some m =>
    match m.nest with
    | none => M
    | some n =>
      if m.core.isNone || n.fault.isSome then M
      else if nestHeld M m n then raiseOnce M m.nestPoll (.kStep r)
      else if m.now M < n.due then raiseOnce M (n.due - m.now M) (.kStep r)
      else
        match (if n.started then some n.idx else n.seekChain n.idx) with
        | none => M.putMember { m with nest := none, lastPos := n.committed }
        | some ci =>
          match n.seekStep ci with
          | none =>
            if n.rowsOk m ci then
              -- no kept K-step: zero accumulators, continued or not (R307)
              let m := (beginChain n m).setAcc n.acc (AccSet.zero (n.cfg.mode.getD .exact))
              raiseOnce (finishChain M m (m.nest.getD n) ci) 1 (.kStep r)
            else stopNest M r (nestTrap 0x13 0)
          | some idx =>
            if n.held.isEmpty then
              match n.take M m (n.group idx) with
              | .fault i => stopNest M r i
              | .later M => raiseOnce M 16 (.kStep r)
              | .data M ds =>
                let M :=
                  M.updMember r fun m =>
                    { m with
                      nest := m.nest.map fun x => { x with held := ds, spec := x.committed + ds.length, rows := [] } }
                raiseOnce (performStep M r idx) 128 (.kStep r)
            else raiseOnce (performStep M r idx) 128 (.kStep r)

/-- R307. -/
def execKStep (m : MRef) (s : State) : Host.Outcome State Fault Refusal := s.lift fun M => runNest M m

/-! ### XGO, XWAIT and XACC (R312 to R314) -/

/-- The format and stage checks of R312. -/
def postOk (m : Member) (xp : Word) (stg : Stages) (mode : AccMode) : Bool :=
  (match wf xp 40 3 with
    | 0 => mode ≠ .scaled && !stg.scale && !stg.bias && !stg.act && !stg.rq
    | 1 => !stg.rq
    | _ => stg.rq) &&
    (!stg.act || decide (wf xp 31 9 < m.tilesN))

/-- XGO's checks. -/
def xgoOk (m : Member) (acc : Nat) (cont out : Bool) (stg : Stages) (msk : Bool) : Bool :=
  let c := m.shadow
  let ls := c.levels
  match c.mode with
  | none => false
  | some mode =>
    (ls.take c.nk).all (fun l => l.k && l.so = 0 && l.sv = 0) &&
      !(c.aQueue && ls.any fun l => l.sa ≠ 0) &&
      (!cont || (m.accSet acc).mode = .empty || (m.accSet acc).mode = mode) &&
      (!out || postOk m c.xp stg mode) &&
      !(msk && c.mask.isNone)

/-- R312. -/
def execXgo (acc : BitVec 2) (cont out : Bool) (stg : Stages) (msk : Bool) (s : State) :
    Host.Outcome State Fault Refusal :=
  word (.xgo acc cont out stg msk)
    (fun c =>
      if c.mem.nest.isSome then .wait .matrix (.nestIdle false)
      else if !xgoOk c.mem acc.toNat cont out stg msk then .trap (illOpnd c.raw)
      else
        let n : Nest :=
          { cfg := c.mem.shadow, acc := acc.toNat, cont := cont, out := out, stg := stg, msk := msk,
            idx := List.replicate 6 0, committed := 0, spec := 0, held := [], rows := [], started := false,
            due := 0, fault := none }
        .done (raiseOnce (c.upd fun m => { m with nest := some n }) 1 (.kStep c.mem.ref))) s

/-- R313. -/
def execXwait (s : State) : Host.Outcome State Fault Refusal :=
  word .xwait (fun c => if nestIdle c.M c.mem true then .done c.M else .wait .matrix (.nestIdle true)) s

/-- A live nest uses one of the sets. -/
def Ctx.accBusy (c : Ctx) (ns : List Nat) : Bool :=
  match c.mem.nest with
  | some n => ns.contains n.acc
  | none => false

/-- An XACC word: the wait for the sets, then its effect. -/
def Ctx.xacc (c : Ctx) (ns : List Nat) (f : Res) : Res := if c.accBusy ns then .wait .matrix (.nestIdle false) else f

/-- XACC completes with a set changed. -/
def Ctx.accDone (c : Ctx) (M : Mach) (n : Nat) (x : AccSet) : Res :=
  c.untimedNow (M.updMember c.mem.ref fun m => m.setAcc n x) []

/-- R314. -/
def execXaccClr (acc : BitVec 2) (s : State) : Host.Outcome State Fault Refusal :=
  word (.xaccClr acc) (fun c => c.xacc [acc.toNat] (c.accDone c.M acc.toNat ⟨.empty, [], [], false, none⟩)) s

/-- A row of 128 outputs as bytes, `w` bytes each. -/
def accRow (w : Nat) (es : List Nat) : List Byte := bytesOf w (es ++ List.replicate (128 - es.length) 0)

/-- Write bytes over tiles from tile t on, 8 KiB a tile. -/
def writeTiles (M : Mach) (m : Member) (t : Nat) : Nat → List Byte → Mach
  | 0, _ => M
  | n + 1, bs => writeTiles (tileWrite M m t 0 (bs.take 8192)) m (t + 1) n (bs.drop 8192)

/-- Tiles t to t + n - 1 lie below the tile count. -/
def Member.tilesIn (m : Member) (t : Word) (n : Nat) : Bool := t.toNat + n ≤ m.tilesN

/-- R314: the layout of an EXACT or a SCALED set in tiles. -/
def execXaccSt (acc : BitVec 2) (t : Reg) (s : State) : Host.Outcome State Fault Refusal :=
  word (.xaccSt acc t)
    (fun c =>
      c.xacc [acc.toNat]
        (let x := c.mem.accSet acc.toNat
        let tile := c.reg t
        match x.mode with
        | .empty => .trap (illOpnd c.raw)
        | .exact =>
          if c.mem.tilesIn tile 16 then
            let bs := (List.range 128).flatMap fun i => accRow 8 ((x.rn.getD i []).map fun v => rnCanon v.toNat)
            c.untimedNow (writeTiles c.M c.mem tile.toNat 16 bs) []
          else .trap (illOpnd c.raw)
        | .scaled =>
          if c.mem.tilesIn tile 8 then
            let bs := (List.range 128).flatMap fun i => accRow 4 ((x.p.getD i []).map (·.toNat))
            c.untimedNow (writeTiles c.M c.mem tile.toNat 8 bs) []
          else .trap (illOpnd c.raw))) s

/-- XACC.ld and .ldp: the tiles in range, the check, the acquire, the set, and what is consumed. -/
def Ctx.accLoad (c : Ctx) (acc : Nat) (t : Reg) (n : Nat) (ck cx : Bool) (f : List Byte → AccSet) : Res :=
  c.xacc [acc]
    (let tile := c.reg t
    if !c.mem.tilesIn tile n then .trap (illOpnd c.raw)
    else
      let ts := (List.range n).map (tile.toNat + ·)
      match (if ck || cx then c.tileCheck ts else none) with
      | some r => r
      | none =>
        let M := if ck || cx then acquire c.M c.mem.ref (c.mem.fillScope ts) else c.M
        let x := f (ts.flatMap fun k => tileBytes M c.mem k 0 8192)
        let M := if cx then ts.foldl (fun M k => consume M c.mem.ref k) M else M
        c.accDone M acc x)

/-- R314, R198. -/
def execXaccLd (acc : BitVec 2) (t : Reg) (ck cx : Bool) (s : State) : Host.Outcome State Fault Refusal :=
  word (.xaccLd acc t ck cx)
    (fun c =>
      c.accLoad acc.toNat t 16 ck cx fun bs =>
        ⟨.exact, (chunks 1024 128 bs).map fun r => (elemsOf 8 r).map fun v => w64 (rnCanon v), [], false, none⟩) s

/-- R314. -/
def execXaccLdp (acc : BitVec 2) (t : Reg) (ck cx : Bool) (s : State) : Host.Outcome State Fault Refusal :=
  word (.xaccLdp acc t ck cx)
    (fun c =>
      c.accLoad acc.toNat t 8 ck cx fun bs =>
        ⟨.scaled, [], (chunks 512 128 bs).map fun r => (elemsOf 4 r).map (BitVec.ofNat 32), true, none⟩) s

/-- R314. -/
def execXaccAdd (acc src : BitVec 2) (s : State) : Host.Outcome State Fault Refusal :=
  word (.xaccAdd acc src)
    (fun c =>
      c.xacc [acc.toNat, src.toNat]
        (let x := c.mem.accSet acc.toNat
        let y := c.mem.accSet src.toNat
        match x.mode, y.mode with
        | _, .empty => c.untimedNow c.M []
        | .empty, _ => c.accDone c.M acc.toNat y
        | .exact, .exact =>
          c.accDone c.M acc.toNat
            { x with rn := zipRows 0 (fun a b => w64 (rnAdd a.toNat b.toNat)) x.rn y.rn }
        | .scaled, .scaled =>
          c.accDone c.M acc.toNat
            { x with
              set := true
              p := zipRows 0 (fun a b => BitVec.ofNat 32 (fAdd fp32 false a.toNat b.toNat)) x.p y.p }
        | _, _ => .trap (illOpnd c.raw))) s

/-- R314: the post-chain with the shadow's registers. -/
def execXaccPost (acc : BitVec 2) (stg : Stages) (s : State) : Host.Outcome State Fault Refusal :=
  word (.xaccPost acc stg)
    (fun c =>
      c.xacc [acc.toNat]
        (let x := c.mem.accSet acc.toNat
        let y := c.mem.shadow
        let ob : Int := wf y.xp 0 15
        let vb : Int := wf y.xp 15 15
        if x.mode = .empty || !postOk c.mem y.xp stg x.mode || !postRowsOk c.mem y.xp stg y.mr y.nc ob vb then
          .trap (illOpnd c.raw)
        else c.untimedNow (postChain c.M c.mem x y.xp stg y.mr y.nc ob vb) [])) s

end Sys2Proof.Machine
end

