-- ==== Sys2Proof/Machine/Late.lean ====
section
/-!
DEFINITION. The landing of a word whose block is an untimed load from another device (R153, R352): its effect happens when
the bytes are there, on its sources as it read them at issue.
-/

namespace Sys2Proof.Machine

/-- What a word that loads a block does with its bytes (R294, R317, R326, R352); no other word has a block to wait for. -/
def lateRes (c : Ctx) : Instr → Res
  | .qldx q b stride list n => c.qldx q b stride list n
  | .sealTensor d h x => c.sealTensor d h x
  | .sealTable d h x => c.sealTable d h x
  | .sealGrid d h x => c.sealGrid d h x
  | .xmask x => c.xmask x
  | .lookup mode nf d h tc list args taddr => c.lookup mode nf d h tc list args taddr
  | .a2a mode nf d tc rec_ taddr => c.a2a mode nf d tc rec_ taddr
  | _ => .done c.M

/-- The context in which an untimed word acts: the machine now, the word's registers and latch as it read them. -/
def lateCtx (M : Mach) (m : Member) (st : Strm) (u : Untimed) (s : Vector Word 32) (o : Vector Word 8) (lat : Word) : Ctx :=
  let t := m.now M
  let m := m.settle t
  ⟨M.putMember m, m.updStr st fun x => { x with s := s, o := o, lat := lat, untimed := none, wait := none }, st, t, u.pc, u.raw⟩

/-- The word goes on as one that issued when it did. -/
def Untimed.goesOn (u v : Untimed) : Untimed :=
  { v with iss := u.iss, born := u.born, last := u.last, lpc0 := u.lpc0, lpc1 := u.lpc1 }

/-- The word traps where it stands, and counts as not issued (R31). -/
def trapLate (M : Mach) (r : MRef) (st : Strm) (u : Untimed) (taking : Option Taken) (i : TrapInfo) : Mach :=
  match M.member r with
  | none => M
  | some m => unissue M m st u taking i

/-- The word waits: it counts as not issued (R154). -/
def waitLate (M : Mach) (c : Ctx) (u : Untimed) (k : WaitKind) (cond : WaitCond) : Mach :=
  endCycle ((M.updMember c.mem.ref fun m => m.unissued c.st u c.t).beginWait c.mem.ref c.st k cond c.t) c.mem.ref c.t

/-- How the landing of a loaded block ends: its word has its result, or asks for another block; or it traps or waits. -/
def finishLate (c : Ctx) (u : Untimed) : Res → Mach
  | .untimed M v => M.updMember c.mem.ref fun m => m.updStr c.st fun s => { s with untimed := some (u.goesOn v) }
  | .trap i => trapLate (c.reread c.M) c.mem.ref c.st u none i
  | .trapTaking M k i => trapLate (c.reread M) c.mem.ref c.st u (some k) i
  | .trapAfter M i => trapLate (c.reread M) c.mem.ref c.st u none i
  | .wait k cond => waitLate (c.reread c.M) c u k cond
  | .waitOn M k cond => waitLate M c u k cond
  | .done M => M
  | .jump M _ => M
  | .placed M => M
  | .freeze _ => c.M

/-- The block is there: the word acts (R153). -/
def landLate (M : Mach) (r : MRef) (st : Strm) : Mach :=
  match M.member r with
  | none => M
  | some m =>
    match (m.str st).untimed with
    | none => M
    | some u =>
      match u.needs, u.job, decode u.raw with
      | .fetched _, .again s o lat, .ok i =>
        if m.mayLand st && untimedReady M m st u then
          let c := lateCtx M m st u s o lat
          finishLate c u (lateRes c i)
        else M
      | _, _, _ => M

/-- UNTIMED_RESULT_LANDING (R153). -/
def execUntimedResultLanding (m : MRef) (st : Strm) (s : State) : Host.Outcome State Fault Refusal :=
  s.lift fun M => landLate (landUntimed M m st) m st

end Sys2Proof.Machine
end

