-- ==== Sys2Proof/Machine/Preempt.lean ====
section
/-!
DEFINITION. Pre-emption, save and restore (R403 to R410), the firmware's answers to an escalated trap (R401), and the
fencing of a die (R389, R412).
-/

namespace Sys2Proof.Machine

/-! ### Moving bytes between a core and a save area (R407) -/

/-- Move n bytes within memory; what stood at the destination is gone. -/
def moveSpan (mem : List Host.Cell) (src dst n : Nat) : List Host.Cell :=
  (mem.filter fun c => src ≤ c.1 && c.1 < src + n).foldl (fun l c => memSet l (c.1 - src + dst) c.2) (memClear mem dst n)

/-- Copy n pieces of 64 KiB between a core's window and a save area; what is not mapped is lost. -/
def movePieces (M : Mach) (m : Member) (out : Bool) (base off : Nat) : Nat → Mach
  | 0 => M
  | n + 1 =>
    let M := movePieces M m out base off n
    match savePa M m (off + n * 0x10000) with
    | none => M
    | some pa =>
      let w := base + n * 0x10000
      { M with mem := if out then moveSpan M.mem w pa 0x10000 else moveSpan M.mem pa w 0x10000 }

/-! ### The halt (R403 to R405, R165) -/

/-- Set PRE in the record that stands in the save area (R397). -/
def markPre (M : Mach) (m : Member) : Mach :=
  match savePa M m 0x1000 with
  | some pa => M.setWord pa (M.word pa ||| 0x400000)
  | none => M

/-- The requests and posted writes of discarded commands answer to nobody: their numbers are given again (R165). -/
def forgetCmds (M : Mach) (r : MRef) (cs : List Cmd) : Mach :=
  let M :=
    forgetOrigins M fun o =>
      match o with
      | .cmdWrite c _ _ _ => cs.any fun k => k.ref == c
      | .fetch who tag _ _ _ _ _ => who == r && cs.any fun k => k.ref.tag == tag
      | _ => false
  { M with fetched := M.fetched.filter fun f => !(f.who == r && cs.any fun k => k.ref.tag == f.tag) }

/-- The discarded region goes on from its marker: A resumes there, also where A is the stream whose trap is being handled or
stands escalated, and nothing of the region has issued (R165). A word of it that had issued and only asked for its block is
gone: it is done again. -/
def Member.rewind (m : Member) (g : Region) : Member :=
  let trapped := m.escalated.any (fun x => x.1 == .a) || m.handler.any fun h => h.strm == .a
  let again (u : Untimed) : Bool :=
    match u.job with
    | .again _ _ _ => true
    | _ => false
  { m with
    tc := m.tc.mapIdx fun i p => (g.issue.getD i p.1, min p.2 (g.issue.getD i p.1))
    tepc := if trapped then g.marker else m.tepc
    a := { m.a with pc := g.marker, untimed := m.a.untimed.filter fun u => !again u } }

/-- The region is open again at its marker, under the epoch the discard advanced to (R163, R166). -/
def reopenRegion (M : Mach) (r : MRef) (g : Region) : Mach :=
  M.updMember r fun m =>
    { m with
      region :=
        some
          { marker := g.marker, issue := m.tc.toList.map (·.1), compl := m.tc.toList.map (·.2), bins := [], epoch := m.epoch
            reached := [], cmds := [], lastPc := g.marker } }

/-- Discard an open region (R165): its commands, its numbers, its bin tails, its arrivals; A resumes at the marker. -/
def discardRegion (M : Mach) (r : MRef) : Mach :=
  match M.member r with
  | none => M
  | some m =>
    match m.region with
    | none => M
    | some g =>
      let gone (c : Cmd) : Bool := c.st == .a && c.epoch == some g.epoch
      let M := forgetCmds (restoreBins M m g) r (m.cmds.filter gone)
      let M := M.updMember r fun m => { m with cmds := m.cmds.filter fun c => !gone c }.rewind g
      reopenRegion (cancelRegion M r) r g

/-- Copy sequences stop at their committed positions and give up their engines (R341, R404). -/
def stopCopies (M : Mach) (m : Member) : Mach :=
  m.cmds.foldl
    (fun M c =>
      match c.run with
      | .copy _ => if c.finished then M else updCopy (flushSector M c.ref) c.ref fun k => { k with engine := none }
      | _ => M)
    M

/-- A stream halted by pre-emption: its RUN and WAIT are kept for its block (R408), a waiting word counts as not issued, and an
HPUB that waits in its second wait waits from zero again (R143, R404). -/
def Stream.halted (s : Stream) (trapping : Bool) (t : Nat) : Stream :=
  let kept := { s with status := sstat s trapping 0 }.unwait t
  match s.untimed with
  | some u =>
    match u.needs with
    | .published _ _ _ _ => { kept with untimed := some { u with iss := t }, nstall := kept.nstall + (t - u.iss) }
    | _ => kept
  | none => kept

/-- PREEMPT_HALT: the streams halt in their cycle τ; a trap of that cycle is taken first (R405). -/
def haltMember (M : Mach) (r : MRef) : Mach :=
  match M.member r with
  | none => M
  | some m =>
    if !m.preempt || m.core.isNone then M
    else
      let m := m.settle (m.now M)
      let M := M.putMember m
      let M :=
        match chooseTrap m.raised with
        | some (st, i) => if m.freeze = Freeze.escalated then M else takeTrap M (m.takeFor st) st i m.cycle
        | none => M
      match M.member r with
      | none => M
      | some m =>
        let M :=
          if m.handler.isSome || m.freeze = Freeze.escalated then markPre M m
          else
            writeRecord M m
              (trapRecord M m none false true fun s =>
                match s, m.region with
                | .a, some g => g.marker
                | _, _ => (m.str s).pc)
        let M := settleAcqs (dropAsked (writeMarker M m) m) m
        let M := stopCopies (discardRegion M r) m
        let M :=
          M.updMember r fun m =>
            let stop (st : Strm) (s : Stream) : Stream := s.halted (m.escalated.any fun x => x.1 == st) m.cycle
            { m with
              preempt := false
              freeze := .halted
              raised := []
              taking := []
              c := stop .c m.c, a := stop .a m.a, v := stop .v m.v, x := stop .x m.x }
        M.raise 1 (.save r)

/-! ### Save and restore (R409, R410) -/

/-- SAVE: the halted member's state goes into its save area, and its core is empty. -/
def saveMember (M : Mach) (r : MRef) : Mach :=
  match M.member r with
  | none => M
  | some m =>
    match m.place with
    | .image => M
    | .core core =>
      if m.freeze ≠ .halted then M
      else
        let M := Strm.all.foldl (fun M st => drainBuffer M r st) M
        match M.member r with
        | none => M
        | some m =>
          let M := writeImage M m
          let M := movePieces M m true (sramBase core) 0x200000 (tileCount m.size / 8)
          let M := movePieces M m true (bstoreBase core) 0x600000 32
          let M := writeBack M core fun _ => true
          let M := M.setCore { M.core core with l1 := [] }
          (writeHeader M m).putMember { m with place := .image, vbusy := 0 }

/-- A command that a system fault has stopped and that nothing has reported yet: its member was switched out, or its core
could take no trap; one that a covering wait takes is not. -/
def stoppedCmd (m : Member) : Option Cmd :=
  m.cmds.find? fun c => c.sys.isSome && !(Strm.all.any fun st => (m.str st).imprecise.any fun x => x.cmd == some c.ref)

/-- What a member's engines do goes on. -/
def restartEngines (M : Mach) (r : MRef) : Mach :=
  match M.member r with
  | none => M
  | some m =>
    let M := if m.nest.isSome then raiseOnce M 1 (.kStep r) else M
    m.cmds.foldl
      (fun M c =>
        if c.finished || c.sys.isSome then M
        else
          match c.run with
          | .copy _ => raiseOnce M 1 (.copyElement c.ref)
          | .lookup k =>
            -- bags whose status byte could not be written are written now (R358)
            let M := (k.bags.filter fun x => x.2.1 = 0).foldl (fun M x => endBag M c.ref x.1 x.2.2) M
            raiseOnce M 1 (.lookupBag c.ref (((List.range k.nbag).find? fun b =>
              !k.ended.contains b && !(k.bags.any fun x => x.1 == b)).getD k.nbag))
          | .exchange x =>
            let M := (x.run.bags.filter fun x => x.2.1 = 0).foldl (fun M x => endBag M c.ref x.1 x.2.2) M
            raiseOnce M 1 (.commandCompletion c.ref)
          | .update _ _ _ _ _ next => raiseOnce M 1 (.binAppend c.ref next)
          | .replay _ _ next _ => raiseOnce M 1 (.replayRegion c.ref next)
          | _ => raiseOnce M 1 (.commandCompletion c.ref))
      M

/-- A fault that came while the core could take none is taken as it runs again: of a command, then one no word caused. -/
def takeStopped (M : Mach) (r : MRef) : Mach :=
  match M.member r with
  | none => M
  | some m =>
    match (stoppedCmd m).bind fun c => c.sys.map fun i => (c.st, i) with
    | some (st, i) => if m.mayTrap then takeTrap M m st i m.cycle else M
    | none => payOwed M r

/-- The home of an ACQ of the member has not yet answered its withdrawal (R259). -/
def Member.unsettled (m : Member) (M : Mach) : Bool :=
  Strm.all.any fun st =>
    M.pending.any (fun d => d.ev == .acqWithdrawal m.ref st) ||
      (m.untimeds st).any fun u =>
        match u.needs with
        | .acq _ _ (some _) => true
        | _ => false

/-- RESTORE: onto a core of the partition that holds no member, once every withdrawn ACQ is settled (R259). The image is read
where the context map has it, and tsave names the save area SAVEB gives now (R230, R406). -/
def restoreMember (M : Mach) (r : MRef) (core : Nat) : Mach :=
  match M.member r, M.part r.part with
  | some m, some p =>
    if m.unsettled M then M.raise 16 (.restore r core)
    else if m.core.isSome || !p.owns (core / 32) || !M.liveDies.contains (core / 32) || (M.occupant core).isSome then M
    else
      let M := clearCore M core
      let M := movePieces M m false (sramBase core) 0x200000 (tileCount m.size / 8)
      let M := movePieces M m false (bstoreBase core) 0x600000 32
      let m := readImage M m
      let m :=
        { m with
          place := .core core
          freeze := if m.escalated.isSome then .escalated else .none
          skew := M.wclk - m.cycle
          tsave := w64 (saveArea p r)
          vbusy := 0 }
      let M := saveWords (M.putMember m) m 0 [3]
      raiseOnce (restartEngines (takeStopped M r) r) 1 (.chunkDispatch r.part (core / 32))
  | _, _ => M

/-! ### The firmware's answers (R401) -/

/-- The trap taken is the one recorded: the word it was taken at apart. -/
def TrapInfo.same (i j : TrapInfo) : Bool := { j with tval := i.tval, next := i.next } == i

/-- RESUME: the core goes on as at ERET, and what a fault stopped is done again. -/
def resumeMember (M : Mach) (r : MRef) (e : ResumeEdit) : Mach :=
  match M.member r with
  | none => M
  | some m =>
    match m.escalated with
    | none => M
    | some (st, i) =>
      if m.freeze ≠ .escalated then M
      else
        let tepc := pcField (e.tepc.getD m.tepc)
        let pc := pcField ((e.tepc.or e.pc).getD m.tepc)
        let m := { m with tepc := tepc, escalated := none }
        let m := m.updStr st fun s => { s with pc := pc, floor := max s.floor m.cycle }
        -- the command whose fault was taken goes on; a fault that came meanwhile is taken at once
        let m := { m.thaw M with cmds := m.cmds.map fun c => if c.sys.any (TrapInfo.same i) then { c with sys := none } else c }
        takeStopped (restartEngines (M.putMember m) r) r

/-- ESCALATION: the command processor of the context's queue is told (R401); the firmware's log holds the notice. -/
def noticeEscalation (M : Mach) (r : MRef) : Mach :=
  match M.member r with
  | none => M
  | some m =>
    match m.escalated with
    | some (_, i) => M.logDev m.unit (i.cause + r.rank <<< 8 + r.ctx <<< 16 + r.part <<< 28)
    | none => M

/-! ### Fencing a die (R389, R412) -/

/-- What a lost die had of a task and had not retired: iterations running on its members, and its claims. -/
def lostOf (t : Task) (die : Nat) (gone : List MRef) : List Nat :=
  let run := (t.running.filter fun x => gone.contains x.2).map (·.1)
  let claims := (t.claimed.filter fun x => x.1 == die).flatMap fun x => (List.range x.2.2).map (x.2.1 + ·)
  (run ++ claims).foldl (fun l n => insertNat n l) []

/-- A task after the loss: restartable work is issued again ahead of the rest, another task fails. -/
def loseDie (M : Mach) (part die : Nat) (gone : List MRef) (t : Task) : Mach :=
  let lost := lostOf t die gone
  let M :=
    updTask M part t.tcb fun t =>
      { t with
        running := t.running.filter fun x => !gone.contains x.2
        claimed := t.claimed.filter fun x => x.1 != die
        cursor := t.mirror }
  if lost.isEmpty then M
  else if t.failed.isSome then
    (match activeTask M part t.tcb with
      | some x => if x.running.isEmpty then finishTask M part t.tcb else M
      | none => M)
  else if bitOf (recW t.block 0) 23 then
    updTask M part t.tcb fun t => { t with reissue := lost.map (fun n => (n, 1)) ++ t.reissue }
  else failTask M part t.tcb 3

/-- DIE_FENCE: the die's cores stop and its members are gone unsaved; the partition goes on with its live dies (R389), and a
context that had a member on the die is ended (R412, R401). -/
def fenceDie (M : Mach) (die : Nat) : Mach :=
  if !M.liveDies.contains die then M
  else
    let gone := (M.members.filter fun m => m.core.map (· / 32) == some die).map (·.ref)
    let M := gone.foldl (fun M r => dropRequests (cancelRegion M r) r) M
    let M :=
      { M with
        liveDies := M.liveDies.filter (· != die)
        members := M.members.filter fun m => !gone.contains m.ref }
    M.parts.foldl
      (fun M p =>
        if !p.owns die then M
        else
          let M := p.tasks.foldl (fun M t => loseDie M p.id die gone t) M
          let M :=
            p.ctxs.foldl
              (fun M c => if gone.any fun r => r.part == p.id && r.ctx == c.id then endContext M p.id c.id else M) M
          dispatchAll M p.id)
      M

/-! ### Events -/

/-- R403: the request reaches every core of the context. -/
def execPreemptionRequest (part ctx : Nat) (s : State) : Host.Outcome State Fault Refusal :=
  s.lift fun M =>
    (membersOf M part ctx).foldl
      (fun M m =>
        if m.core.isSome && m.freeze ≠ .halted then
          (M.updMember m.ref fun m => { m with preempt := true }).raise 1 (.preemptHalt m.ref)
        else M)
      M

/-- R404. -/
def execPreemptHalt (m : MRef) (s : State) : Host.Outcome State Fault Refusal := s.lift fun M => haltMember M m

/-- R409. -/
def execSave (m : MRef) (s : State) : Host.Outcome State Fault Refusal := s.lift fun M => engineStep M m.part (.save m) fun M => saveMember M m

/-- R410. -/
def execRestore (m : MRef) (core : Nat) (s : State) : Host.Outcome State Fault Refusal :=
  s.lift fun M => engineStep M m.part (.restore m core) fun M => restoreMember M m core

/-- R401. -/
def execEscalation (m : MRef) (s : State) : Host.Outcome State Fault Refusal := s.lift fun M => noticeEscalation M m

/-- R401. -/
def execResume (m : MRef) (e : ResumeEdit) (s : State) : Host.Outcome State Fault Refusal :=
  s.lift fun M => resumeMember M m e

/-- R412. -/
def execDieFence (die : Nat) (s : State) : Host.Outcome State Fault Refusal := s.lift fun M => fenceDie M die

end Sys2Proof.Machine
end

