-- ==== Sys2Proof/Machine/Host.lean ====
section
/-!
DEFINITION. The host side: ownership (R433, R434), boot (R435 to R437), attestation (R438), power (R439), the PCIe ports
(R431), device registers, and register writes as a whole (R4).
-/

namespace Sys2Proof

/-- Code of an agent in OWNCTL (R433); the firmware and the streams are none of them. -/
def RegAgent.code : RegAgent → Nat
  | .port0 => 1 | .port1 => 2 | .mc => 3 | .fw => 0 | .stream _ _ => 0

/-- The agent of a code. -/
def RegAgent.ofCode : Nat → Option RegAgent
  | 1 => some .port0 | 2 => some .port1 | 3 => some .mc | _ => none

end Sys2Proof

namespace Sys2Proof.Machine

/-- Units of the device log for the host side (assumption 8). -/
def hostUnit (off : Nat) : Nat := 0x20000 + off

/-- Log an ignored host access. -/
def State.logHost (s : State) (off : Nat) (v : Word) : State := { s with m := s.m.logDev (hostUnit off) v.toNat }

/-- An event of a device that has power. -/
def State.on (s : State) (f : State → State) : Host.Outcome State Fault Refusal :=
  .next (if s.host.powered then f s else s)

/-! ### Ownership (R433, R434) -/

/-- Cycles of a lease of 100 ms (R2, R434). -/
def leaseCycles : Nat := 94000000

/-- The agent owns the device from now on, for 100 ms. -/
def State.own (s : State) (ag : RegAgent) : State :=
  { host := { s.host with owner := some ag, lease := s.m.wclk + leaseCycles }
    m := s.m.raise leaseCycles .leaseExpiry }

/-- CLAIM. -/
def claimOwner (s : State) (ag : RegAgent) : State :=
  if (s.host.ownerAt s.m.wclk).isNone && ag.code ≠ 0 then s.own ag else s.logHost 0 1

/-- RENEW: late in the cycle of expiry. -/
def renewLease (s : State) (ag : RegAgent) : State :=
  if s.host.ownerAt s.m.wclk = some ag then s.own ag else s.logHost 0 2

/-- HANDOVER. -/
def handOver (s : State) (ag : RegAgent) (succ : BitVec 2) : State :=
  match RegAgent.ofCode succ.toNat with
  | some heir => if s.host.ownerAt s.m.wclk = some ag && heir ≠ ag then s.own heir else s.logHost 0 3
  | none => s.logHost 0 3

/-- A lease has ended: OWNER becomes 00. -/
def expireLease (s : State) : State :=
  if s.host.owner.isSome && s.host.lease ≤ s.m.wclk then { s with host := { s.host with owner := none, lease := 0 } } else s

/-- A write of OWNCTL (R434); reserved bits are dropped and logged. -/
def ownctlPut (s : State) (ag : RegAgent) (v : Word) : State :=
  let s := if v &&& 0x330 = v then s else s.logHost 0 v
  match wf v 8 2 with
  | 1 => claimOwner s ag
  | 2 => renewLease s ag
  | 3 => handOver s ag (BitVec.ofNat 2 (wf v 4 2))
  | _ => s.logHost 0 v

/-! ### Boot (R435 to R437) -/

/-- Code of BOOTSTAT.STATE. -/
def Boot.code : Boot → Nat
  | .idle => 0 | .clearing => 1 | .verifying => 2 | .starting => 3 | .ready => 4 | .badMagic => 8 | .badLen => 9
  | .badKey => 10 | .badSig => 11 | .badHash => 12 | .rollback => 13

/-- The device is in IDLE: a failure code stands in STATE while it is (R435). -/
def Boot.isIdle : Boot → Bool
  | .clearing | .verifying | .starting | .ready => false
  | .idle | .badMagic | .badLen | .badKey | .badSig | .badHash | .rollback => true

/-- The machine after a reset: the script and the count of free values, which are the model's own, go on. -/
def Mach.restart (M : Mach) : Mach := { Mach.reset with agenda := M.agenda, free := M.free }

/-- The device after power-up or a device reset: fuses stay. -/
def State.restart (s : State) : State :=
  { host := { HostSide.reset with arb := s.host.arb }, m := s.m.restart }

/-- CLEARING ends: every byte is zero (R435). -/
def endClearing (s : State) : State :=
  if s.host.boot = .clearing then
    { host := { s.host with boot := .idle }, m := { s.m with mem := [], poison := [] } }
  else s

/-- The agent owns the device: it alone writes the device registers and the windows (R434). -/
def State.owns (s : State) (ag : RegAgent) : Bool := s.host.ownerAt s.m.wclk == some ag

/-- BOOTCTL.GO. -/
def startVerifying (s : State) (ag : RegAgent) : State :=
  if !s.owns ag || !s.host.boot.isIdle then s.logHost 0x10 1
  else { host := { s.host with boot := .verifying, go := true }, m := s.m.raise 1 .verificationComplete }

/-- Bytes of the boot window. -/
def bootWindow : Nat := 0x10000000

/-- Little-endian field of the image header (R436). -/
def hdr (M : Mach) (off n : Nat) : Nat := leNat (M.get off n)

/-- The checks of R437 in their order: the state that verification leaves. -/
def verifyImage (M : Mach) (arb : Nat) : Boot :=
  let zero (off n : Nat) : Bool := (M.get off n).all (· == 0)
  let svn := hdr M 8 4
  let minSvn := hdr M 0xC 4
  let len := hdr M 0x10 8
  if hdr M 0 8 ≠ 0x4F474E41474E594C || !zero 0xE5 27 || !zero 0x184 636 then .badMagic
  else if len < 64 || bootWindow - 1024 < len || len % 64 ≠ 0 || len ≤ hdr M 0x18 8 || svn < minSvn || 255 < svn then .badLen
  else if Config.sha512 (M.get 0x60 133) ≠ Config.fusedKeyHash then .badKey
  else if !Config.ecdsaVerify (M.get 0x60 133) (M.get 0x100 132) (Config.sha512 (M.get 0 0x100)) then .badSig
  else if Config.sha512 (M.get 1024 len) ≠ M.get 0x20 64 then .badHash
  else if svn < arb then .rollback
  else .ready

/-- The outcome of verification: on success the fuse is raised, the payload goes into command-processor memory, and cp0 to
cp7 are started at ENTRY (R437). -/
def takeImage (s : State) : State :=
  let b := verifyImage s.m s.host.arb
  if b = .ready then
    { host :=
        { s.host with
          boot := .starting, go := false, arb := max s.host.arb (hdr s.m 0xC 4), svn := hdr s.m 8 4
          imageHash := some (Config.sha512 (s.m.get 0 1024))
          cpmem := s.m.get 1024 (hdr s.m 0x10 8), cpEntry := some (hdr s.m 0x18 8) }
      m := s.m.raise 1 .verificationComplete }
  else { s with host := { s.host with boot := b, go := false } }

/-- VERIFICATION_COMPLETE: verification ends; it happens once more when the firmware, started, has formed one partition of
eight dies with key 0 and sets READY (assumption 44). -/
def endVerifying (s : State) : State :=
  match s.host.boot with
  | .verifying => takeImage s
  | .starting => { host := { s.host with boot := .ready }, m := formPart s.m 0 8 0 }
  | _ => s

/-- DEVRST (R437): the owner's write of one value. -/
def devReset (s : State) (ag : RegAgent) (v : Word) : State :=
  if s.owns ag && v = 0x52535444 then
    { s.restart with host := { s.restart.host with links := s.host.links } }
  else s.logHost 0x20 v

/-! ### Attestation (R438) -/

/-- The agent's place among the copies of ATTN; the firmware has none. -/
def agentIdx : RegAgent → Option Nat
  | .port0 => some 0 | .port1 => some 1 | .mc => some 2 | .fw => none | .stream _ _ => none

/-- ATTGO: the nonce is taken from the writer's copy. -/
def askReport (s : State) (ag : RegAgent) : State :=
  match agentIdx ag, s.host.attgo with
  | some k, none =>
    { host := { s.host with attgo := some (s.host.attn.getD k []) }, m := s.m.raise 1 .attestationReport }
  | _, _ => s.logHost 0x240 1

/-- A field of fixed length. -/
def fit (n : Nat) (bs : List Byte) : List Byte := (bs ++ zeros n).take n

/-- The partition table of a report: die mask and key of every id; before READY no id names a partition (R438). -/
def partTable (ready : Bool) (M : Mach) : List Byte :=
  (List.range 8).flatMap fun id =>
    match if ready then M.part id else none with
    | some p => leBytes 8 ((2 ^ p.dies - 1) * 2 ^ id) ++ leBytes 4 p.key.toNat ++ zeros 4
    | none => zeros 16

/-- The report on a nonce. -/
def makeReport (h : HostSide) (M : Mach) (nonce : List Byte) : List Byte :=
  let ready := h.boot = .ready
  let body :=
    fit 64 nonce ++ fit 16 Config.serial ++ leBytes 8 (h.arb + if ready then h.svn * 256 else 0) ++
      fit 64 (if ready then h.imageHash.getD [] else []) ++ fit 64 (Config.sha512 (partTable ready M)) ++
      fit 133 Config.identityKey ++ zeros 3
  body ++ fit 132 (Config.identitySign (Config.sha512 body))

/-- ATTESTATION_REPORT: the report stands, and ATTGO reads 0. -/
def putReport (s : State) : State :=
  match s.host.attgo with
  | some nonce => { s with host := { s.host with attgo := none, report := makeReport s.host s.m nonce } }
  | none => s

/-- A write of eight bytes of the writer's copy of ATTN. -/
def attnPut (s : State) (ag : RegAgent) (off : Nat) (v : Word) : State :=
  match agentIdx ag with
  | some k =>
    let old := s.host.attn.getD k []
    let new := old.take off ++ wBytes v ++ old.drop (off + 8)
    { s with host := { s.host with attn := s.host.attn.set k new } }
  | none => s.logHost 0x200 v

/-! ### Power (R439) -/

/-- A write of PWRCFG. -/
def pwrcfgPut (s : State) (v : Word) : State :=
  if wf v 0 16 < 3000 || 7000 < wf v 0 16 then s.logHost 0x40 v
  else
    let s := if wf v 16 48 = 0 then s else s.logHost 0x40 v
    { s with host := { s.host with limw := wf v 0 16 } }

/-- Throttling: the core clock domain is frozen for a free number of wall-clock cycles (R439, R152; assumption 4); the
architectural timing of every core on the device is unchanged. -/
def throttle (s : State) : State :=
  let n := Config.freeNat s.m.free + 1
  let slow (m : Member) : Member :=
    if m.core.isSome then { m with skew := m.skew + n } else m
  { host := { s.host with throttled := true }, m := { s.m with free := s.m.free + 1, members := s.m.members.map slow } }

/-! ### PCIe (R431, R432) -/

/-- Bytes of the aperture. -/
def aperture : Nat := 0x400000000

/-- The physical address exists. -/
def paExists (pa : Nat) : Bool :=
  match paKind pa with
  | .reserved => false
  | _ => true

/-- Bytes of the boot window or of the aperture that a port can reach: they lie inside the window, they exist (R12, R454), and
their die is not fenced (R412). -/
def windowReach (s : State) (boot : Bool) (off n : Nat) : Option Nat :=
  let pa := if boot then off else s.host.apbase * aperture + off
  if off + n ≤ (if boot then bootWindow else aperture) &&
      (List.range n).all (fun i => paExists (pa + i) && windowOk s.m (pa + i) && !fenced s.m (pa + i)) then
    some pa
  else none

/-- A read through BAR2 or BAR4, of the owner or of any other agent (R431, R434); none where no byte can be read. -/
def windowRead (s : State) (boot : Bool) (off n : Nat) : Option (List Byte) :=
  (windowReach s boot off n).bind fun pa => if s.m.poisoned pa n then none else some (s.m.get pa n)

/-- A write through BAR2 or BAR4 (R431, R435): only the owner's, and the boot window only in IDLE; neither while the
device is clearing. -/
def windowWrite (s : State) (ag : RegAgent) (boot : Bool) (off : Nat) (bs : List Byte) : State :=
  let refused := s.logHost (if boot then 0x40000 else 0x50000) (w64 off)
  if bs = [] then s
  else
    match windowReach s boot off bs.length with
    | none => refused
    | some pa =>
      let port := ag == .port0 || ag == .port1
      let idleOnly := boot || (pa < bootWindow && s.host.boot ≠ .ready)
      if !port || !s.owns ag || s.host.boot = .clearing || (idleOnly && !s.host.boot.isIdle) then refused
      else { s with m := s.m.put pa bs }

/-- A port trains at a generation both ends support, x16 or x8 (R431). -/
def trainLink (s : State) (port gen : Nat) (x16 : Bool) : State :=
  if 2 ≤ port || gen < 5 || 7 < gen then s
  else { s with host := { s.host with links := s.host.links.set port (some ⟨gen, x16⟩) } }

/-! ### Register writes (R4, R24, R431) -/

/-- A write of a device register. -/
def devPut (s : State) (ag : RegAgent) (off : Nat) (v : Word) : State :=
  if off = 0 then ownctlPut s ag v
  else if 0x200 ≤ off && off < 0x240 && off % 8 = 0 then attnPut s ag (off - 0x200) v
  else if off = 0x240 then
    let s := if wf v 1 63 = 0 then s else s.logHost off v
    if v.getLsbD 0 then askReport s ag else s
  else if off = 0x100 then { s with m := fabcfgPut s.m ag v }
  else if !s.owns ag then s.logHost off v
  else
    match off with
    | 0x010 =>
      let s := if wf v 1 63 = 0 then s else s.logHost off v
      if v.getLsbD 0 then startVerifying s ag else s
    | 0x020 => devReset s ag v
    | 0x030 =>
      let s := if wf v 10 54 = 0 then s else s.logHost off v
      { s with host := { s.host with apbase := wf v 0 10 } }
    | 0x040 => pwrcfgPut s v
    | _ => s.logHost off v

/-- A write of a register of a partition control block, by its offset. -/
def pcbRegister (s : State) (ag : RegAgent) (part off : Nat) (v : Word) : State :=
  { s with
    m := pcbWrite s.host s.m ag part v fun p => if off = 0x058 then ringDoorbell s.m p v else pcbPut s.m p ag off v }

/-- What a device register reads, for the agent that reads it (R415, R433, R435, R438, R439). -/
def devRegister (s : State) (ag : RegAgent) (off : Nat) : Word :=
  let h := s.host
  let attn := h.attn.getD ((agentIdx ag).getD 3) []
  match off with
  | 0x000 =>
    match h.ownerAt s.m.wclk with
    | some a => w64 (a.code + min 100 ((h.lease - s.m.wclk) / 940000) <<< 16)
    | none => 0
  | 0x010 => w01 h.go
  | 0x018 => w64 (h.boot.code + h.arb <<< 8)
  | 0x030 => w64 h.apbase
  | 0x040 => w64 h.limw
  | 0x100 => s.m.fabcfg
  | 0x108 => w64 ((s.m.portup.filter (· < 62)).foldl (fun n p => n ||| 2 ^ p) 0)
  | 0x240 => w01 h.attgo.isSome
  | _ =>
    if 0x200 ≤ off && off < 0x240 then wOfBytes ((attn.drop (off - 0x200)).take 8)
    else if 0x400 ≤ off && off < 0x600 then wOfBytes ((h.report.drop (off - 0x400)).take 8)
    else 0

/-- What a register of a partition control block reads. R24 lets the firmware alone write KEY and does not say who may read it:
any reader gets it (assumption 17). -/
def Part.register (p : Part) (t : Nat) : Nat → Word
  | 0x000 => p.key.setWidth 64
  | 0x008 => p.ptroot
  | 0x010 => p.tlbinv
  | 0x018 => p.expctlAt t
  | 0x020 => p.hrcfg
  | 0x028 => p.rgnctl
  | 0x030 => p.defver
  | 0x038 => p.qwin0
  | 0x040 => p.qwin1
  | 0x048 => p.wdcfg
  | 0x050 => p.hqctl
  | 0x060 => p.schcfg
  | 0x068 => p.budg0
  | 0x070 => p.budg1
  | 0x078 => p.cardb
  | 0x080 => p.saveb
  | 0x088 => p.elog
  | 0x090 => p.connb
  | 0x098 => p.uepeer
  | _ => 0

/-! ### What runs while the device is clearing (R435) -/

/-- An event of the security controller, the host ports, the management link or the power supply: these go on while the device
is clearing. -/
def hostEvent : Event → Bool
  | .registerWrite _ _ _ | .claim _ | .renew _ | .handover _ _ | .leaseExpiry | .powerUp | .clearingComplete | .bootctlGo _
  | .verificationComplete | .devrst _ _ | .attgo _ | .attestationReport | .powerWindow _ | .limitReached _ _ _
  | .thermalTrip _ | .powerDown | .pcieLinkTraining _ _ _ | .apertureWrite _ _ _ _ => true
  | _ => false

/-- The device performs the event: it has power, and is not clearing (R435, R439), or the event goes on then too. -/
def State.performs (s : State) (e : Event) : Bool :=
  if !s.host.powered then e == .powerUp else s.host.boot ≠ .clearing || hostEvent e

/-! ### Events -/

/-- R4, R24, R431: a register write by block and offset. -/
def execRegisterWrite (ag : RegAgent) (r : RegAddr) (v : Word) (s : State) : Host.Outcome State Fault Refusal :=
  s.on fun s =>
    match r with
    | .dev off => devPut s ag off v
    | .pcb part off => pcbRegister s ag part off v

/-- R434. -/
def execClaim (ag : RegAgent) (s : State) : Host.Outcome State Fault Refusal := s.on fun s => claimOwner s ag

/-- R434. -/
def execRenew (ag : RegAgent) (s : State) : Host.Outcome State Fault Refusal := s.on fun s => renewLease s ag

/-- R434. -/
def execHandover (ag : RegAgent) (succ : BitVec 2) (s : State) : Host.Outcome State Fault Refusal :=
  s.on fun s => handOver s ag succ

/-- R434. -/
def execLeaseExpiry (s : State) : Host.Outcome State Fault Refusal := s.on expireLease

/-- R435. -/
def execPowerUp (s : State) : Host.Outcome State Fault Refusal := .next (if s.host.powered then s else s.restart)

/-- R435. -/
def execClearingComplete (s : State) : Host.Outcome State Fault Refusal := s.on endClearing

/-- R435. -/
def execBootctlGo (ag : RegAgent) (s : State) : Host.Outcome State Fault Refusal := s.on fun s => startVerifying s ag

/-- R437. -/
def execVerificationComplete (s : State) : Host.Outcome State Fault Refusal := s.on endVerifying

/-- R437. -/
def execDevrst (ag : RegAgent) (v : Word) (s : State) : Host.Outcome State Fault Refusal := s.on fun s => devReset s ag v

/-- R438. -/
def execAttgo (ag : RegAgent) (s : State) : Host.Outcome State Fault Refusal := s.on fun s => askReport s ag

/-- R438. -/
def execAttestationReport (s : State) : Host.Outcome State Fault Refusal := s.on putReport

/-- R439: the average of a 10 ms window. -/
def execPowerWindow (watts : Nat) (s : State) : Host.Outcome State Fault Refusal :=
  s.on fun s => if s.host.limw < watts then throttle s else { s with host := { s.host with throttled := false } }

/-- R439: an instantaneous reading. -/
def execLimitReached (watts amps temp : Nat) (s : State) : Host.Outcome State Fault Refusal :=
  s.on fun s => if 8000 ≤ watts || 16000 ≤ amps || 100 ≤ temp then throttle s else s

/-- R439: the thermal-trip output. -/
def execThermalTrip (temp : Nat) (s : State) : Host.Outcome State Fault Refusal :=
  s.on fun s => if 115 ≤ temp then { s with host := { s.host with trip := true } } else s

/-- R437, R439: only the fuses keep their contents. -/
def execPowerDown (s : State) : Host.Outcome State Fault Refusal :=
  .next { host := { HostSide.reset with arb := s.host.arb, powered := false }, m := { s.m.restart with pending := [] } }

/-- R431. -/
def execPcieLinkTraining (port gen : Nat) (x16 : Bool) (s : State) : Host.Outcome State Fault Refusal :=
  s.on fun s => trainLink s port gen x16

/-- R431, R432, R435. -/
def execApertureWrite (ag : RegAgent) (boot : Bool) (offset : Nat) (bytes : List Byte) (s : State) :
    Host.Outcome State Fault Refusal :=
  s.on fun s => windowWrite s ag boot offset bytes

end Sys2Proof.Machine
end

