-- ==== Sys2Proof/Machine/Scalar.lean ====
section
/-!
DEFINITION. The scalar integer and FP32 words (R231 to R237).
-/

namespace Sys2Proof.Machine

/-- A scalar result after latency `lat` (R149, R219). -/
def Ctx.alu (c : Ctx) (lat : Nat) (d : Dst) (v : Word) : Res := .done (c.result lat d v)

/-- Signed division of R232. -/
def sdiv64 (x y : Word) : Word := if y = 0 then -1 else x.sdiv y

/-- Signed remainder of R232. -/
def srem64 (x y : Word) : Word := if y = 0 then x else x.srem y

/-- The high half of a signed product (R231). -/
def mulhs (x y : Word) : Word := w64 (unsgn 128 (x.toInt * y.toInt) >>> 64)

/-- The high half of an unsigned product (R231). -/
def mulhuW (x y : Word) : Word := w64 ((x.toNat * y.toNat) >>> 64)

/-- Leading zero bits (R231). -/
def clz64 (x : Word) : Nat := if x = 0 then 64 else 63 - log2 x.toNat

/-- Set bits (R231). -/
def popc64 (x : Word) : Nat := ((List.range 64).filter fun i => x.getLsbD i).length

def execAdd (d : Dst) (x y : Src) (s : State) : Host.Outcome State Fault Refusal :=
  word (.add d x y) (fun c => c.alu 1 d (c.src x + c.src y)) s

def execSub (d : Dst) (x y : Src) (s : State) : Host.Outcome State Fault Refusal :=
  word (.sub d x y) (fun c => c.alu 1 d (c.src x - c.src y)) s

def execMul (d : Dst) (x y : Src) (s : State) : Host.Outcome State Fault Refusal :=
  word (.mul d x y) (fun c => c.alu 3 d (c.src x * c.src y)) s

def execMulh (d : Dst) (x y : Src) (s : State) : Host.Outcome State Fault Refusal :=
  word (.mulh d x y) (fun c => c.alu 3 d (mulhs (c.src x) (c.src y))) s

def execMulhu (d : Dst) (x y : Src) (s : State) : Host.Outcome State Fault Refusal :=
  word (.mulhu d x y) (fun c => c.alu 3 d (mulhuW (c.src x) (c.src y))) s

/-- R232. -/
def execDiv (d : Dst) (x y : Src) (s : State) : Host.Outcome State Fault Refusal :=
  word (.div d x y) (fun c => c.alu 20 d (sdiv64 (c.src x) (c.src y))) s

def execDivu (d : Dst) (x y : Src) (s : State) : Host.Outcome State Fault Refusal :=
  word (.divu d x y) (fun c => c.alu 20 d (if c.src y = 0 then -1 else c.src x / c.src y)) s

def execRem (d : Dst) (x y : Src) (s : State) : Host.Outcome State Fault Refusal :=
  word (.rem d x y) (fun c => c.alu 20 d (srem64 (c.src x) (c.src y))) s

def execRemu (d : Dst) (x y : Src) (s : State) : Host.Outcome State Fault Refusal :=
  word (.remu d x y) (fun c => c.alu 20 d (if c.src y = 0 then c.src x else c.src x % c.src y)) s

def execAnd (d : Dst) (x y : Src) (s : State) : Host.Outcome State Fault Refusal :=
  word (.and d x y) (fun c => c.alu 1 d (c.src x &&& c.src y)) s

def execOr (d : Dst) (x y : Src) (s : State) : Host.Outcome State Fault Refusal :=
  word (.or d x y) (fun c => c.alu 1 d (c.src x ||| c.src y)) s

def execXor (d : Dst) (x y : Src) (s : State) : Host.Outcome State Fault Refusal :=
  word (.xor d x y) (fun c => c.alu 1 d (c.src x ^^^ c.src y)) s

def execShl (d : Dst) (x y : Src) (s : State) : Host.Outcome State Fault Refusal :=
  word (.shl d x y) (fun c => c.alu 1 d (c.src x <<< wf (c.src y) 0 6)) s

def execShr (d : Dst) (x y : Src) (s : State) : Host.Outcome State Fault Refusal :=
  word (.shr d x y) (fun c => c.alu 1 d (c.src x >>> wf (c.src y) 0 6)) s

def execSar (d : Dst) (x y : Src) (s : State) : Host.Outcome State Fault Refusal :=
  word (.sar d x y) (fun c => c.alu 1 d ((c.src x).sshiftRight (wf (c.src y) 0 6))) s

def execMin (d : Dst) (x y : Src) (s : State) : Host.Outcome State Fault Refusal :=
  word (.min d x y) (fun c => c.alu 1 d (if (c.src x).slt (c.src y) then c.src x else c.src y)) s

def execMax (d : Dst) (x y : Src) (s : State) : Host.Outcome State Fault Refusal :=
  word (.max d x y) (fun c => c.alu 1 d (if (c.src x).slt (c.src y) then c.src y else c.src x)) s

def execMinu (d : Dst) (x y : Src) (s : State) : Host.Outcome State Fault Refusal :=
  word (.minu d x y) (fun c => c.alu 1 d (if (c.src x).ult (c.src y) then c.src x else c.src y)) s

def execMaxu (d : Dst) (x y : Src) (s : State) : Host.Outcome State Fault Refusal :=
  word (.maxu d x y) (fun c => c.alu 1 d (if (c.src x).ult (c.src y) then c.src y else c.src x)) s

def execSlt (d : Dst) (x y : Src) (s : State) : Host.Outcome State Fault Refusal :=
  word (.slt d x y) (fun c => c.alu 1 d (w01 ((c.src x).slt (c.src y)))) s

def execSltu (d : Dst) (x y : Src) (s : State) : Host.Outcome State Fault Refusal :=
  word (.sltu d x y) (fun c => c.alu 1 d (w01 ((c.src x).ult (c.src y)))) s

def execSeq (d : Dst) (x y : Src) (s : State) : Host.Outcome State Fault Refusal :=
  word (.seq d x y) (fun c => c.alu 1 d (w01 (c.src x == c.src y))) s

/-- R233. -/
def execSel (d : Dst) (k : BitVec 5) (x y : Src) (s : State) : Host.Outcome State Fault Refusal :=
  word (.sel d k x y) (fun c => c.alu 1 d (if c.s.main k ≠ 0 then c.src x else c.src y)) s

/-- R235. -/
def execLi (d : Dst) (v : BitVec 32) (s : State) : Host.Outcome State Fault Refusal :=
  word (.li d v) (fun c => c.alu 1 d (v.signExtend 64)) s

/-- R235. -/
def execLih (d : Dst) (v : BitVec 32) (s : State) : Host.Outcome State Fault Refusal :=
  word (.lih d v) (fun c => c.alu 1 d (v.setWidth 64 <<< 32 ||| c.dst d &&& 0xFFFFFFFF)) s

def execClz (d : Dst) (x : Src) (s : State) : Host.Outcome State Fault Refusal :=
  word (.clz d x) (fun c => c.alu 1 d (w64 (clz64 (c.src x)))) s

def execPopc (d : Dst) (x : Src) (s : State) : Host.Outcome State Fault Refusal :=
  word (.popc d x) (fun c => c.alu 1 d (w64 (popc64 (c.src x)))) s

/-- R234. -/
def execBext (d : Dst) (x : Reg) (p : BitVec 6) (n : BitVec 7) (s : State) : Host.Outcome State Fault Refusal :=
  word (.bext d x p n) (fun c => c.alu 1 d (w64 (wf (c.reg x) p.toNat n.toNat))) s

/-- R234. -/
def execBextS (d : Dst) (x : Reg) (p : BitVec 6) (n : BitVec 7) (s : State) : Host.Outcome State Fault Refusal :=
  word (.bextS d x p n) (fun c => c.alu 1 d (w64 (unsgn 64 (sgn n.toNat (wf (c.reg x) p.toNat n.toNat))))) s

/-- R234. -/
def execBins (d : Dst) (x : Reg) (p : BitVec 6) (n : BitVec 7) (s : State) : Host.Outcome State Fault Refusal :=
  word (.bins d x p n)
    (fun c => c.alu 1 d (w64 (putFld (c.dst d).toNat p.toNat n.toNat (wf (c.reg x) 0 n.toNat)))) s

/-- R233. -/
def execMadd (d : Dst) (x y : Src) (k : BitVec 5) (s : State) : Host.Outcome State Fault Refusal :=
  word (.madd d x y k) (fun c => c.alu 3 d (c.src x * c.src y + c.s.main k)) s

/-! ### FP32 (R236, R237) -/

def execFopAdd (d : Dst) (x y : Src) (rtz : Bool) (s : State) : Host.Outcome State Fault Refusal :=
  word (.fopAdd d x y rtz) (fun c => c.alu 4 d (w64 (fAdd fp32 rtz (fp32Of (c.src x)) (fp32Of (c.src y))))) s

def execFopSub (d : Dst) (x y : Src) (rtz : Bool) (s : State) : Host.Outcome State Fault Refusal :=
  word (.fopSub d x y rtz) (fun c => c.alu 4 d (w64 (fSub fp32 rtz (fp32Of (c.src x)) (fp32Of (c.src y))))) s

def execFopMul (d : Dst) (x y : Src) (rtz : Bool) (s : State) : Host.Outcome State Fault Refusal :=
  word (.fopMul d x y rtz) (fun c => c.alu 4 d (w64 (fMul fp32 rtz (fp32Of (c.src x)) (fp32Of (c.src y))))) s

def execFopMin (d : Dst) (x y : Src) (s : State) : Host.Outcome State Fault Refusal :=
  word (.fopMin d x y) (fun c => c.alu 4 d (w64 (fMin fp32 (fp32Of (c.src x)) (fp32Of (c.src y))))) s

def execFopMax (d : Dst) (x y : Src) (s : State) : Host.Outcome State Fault Refusal :=
  word (.fopMax d x y) (fun c => c.alu 4 d (w64 (fMax fp32 (fp32Of (c.src x)) (fp32Of (c.src y))))) s

def execFopEq (d : Dst) (x y : Src) (s : State) : Host.Outcome State Fault Refusal :=
  word (.fopEq d x y) (fun c => c.alu 4 d (w01 (fpHolds (· == .eq) (c.src x) (c.src y)))) s

def execFopLt (d : Dst) (x y : Src) (s : State) : Host.Outcome State Fault Refusal :=
  word (.fopLt d x y) (fun c => c.alu 4 d (w01 (fpHolds (· == .lt) (c.src x) (c.src y)))) s

def execFopLe (d : Dst) (x y : Src) (s : State) : Host.Outcome State Fault Refusal :=
  word (.fopLe d x y) (fun c => c.alu 4 d (w01 (fpHolds (· != .gt) (c.src x) (c.src y)))) s

def execCvtsfIf (d : Dst) (x : Src) (rtz : Bool) (s : State) : Host.Outcome State Fault Refusal :=
  word (.cvtsfIf d x rtz) (fun c => c.alu 3 d (w64 (fOfInt fp32 rtz false (c.src x).toInt))) s

def execCvtsfFi (d : Dst) (x : Src) (rtz : Bool) (s : State) : Host.Outcome State Fault Refusal :=
  word (.cvtsfFi d x rtz)
    (fun c => c.alu 3 d (w64 (unsgn 64 (vToRange rtz (-(2 ^ 63)) (2 ^ 63 - 1) (fDec fp32 (fp32Of (c.src x))))))) s

end Sys2Proof.Machine
end

