-- ==== Sys2Proof/Machine/Dispatch.lean ====
section
/-!
DEFINITION. One arm per constructor of Instr: the direct call of its meaning.
-/

namespace Sys2Proof.Machine

/-- What an instruction word or device event does to the state. -/
def exec (i : Instr) (s : State) : Host.Outcome State Fault Refusal :=
  match i with
  | .nop => Sys2Proof.Machine.execNop s
  | .go => Sys2Proof.Machine.execGo s
  | .halt => Sys2Proof.Machine.execHalt s
  | .trap x => Sys2Proof.Machine.execTrap x s
  | .eret => Sys2Proof.Machine.execEret s
  | .csrr d n => Sys2Proof.Machine.execCsrr d n s
  | .csrw n x => Sys2Proof.Machine.execCsrw n x s
  | .idem => Sys2Proof.Machine.execIdem s
  | .idemEnd => Sys2Proof.Machine.execIdemEnd s
  | .brk n => Sys2Proof.Machine.execBrk n s
  | .done => Sys2Proof.Machine.execDone s
  | .add d x y => Sys2Proof.Machine.execAdd d x y s
  | .sub d x y => Sys2Proof.Machine.execSub d x y s
  | .mul d x y => Sys2Proof.Machine.execMul d x y s
  | .mulh d x y => Sys2Proof.Machine.execMulh d x y s
  | .mulhu d x y => Sys2Proof.Machine.execMulhu d x y s
  | .div d x y => Sys2Proof.Machine.execDiv d x y s
  | .divu d x y => Sys2Proof.Machine.execDivu d x y s
  | .rem d x y => Sys2Proof.Machine.execRem d x y s
  | .remu d x y => Sys2Proof.Machine.execRemu d x y s
  | .and d x y => Sys2Proof.Machine.execAnd d x y s
  | .or d x y => Sys2Proof.Machine.execOr d x y s
  | .xor d x y => Sys2Proof.Machine.execXor d x y s
  | .shl d x y => Sys2Proof.Machine.execShl d x y s
  | .shr d x y => Sys2Proof.Machine.execShr d x y s
  | .sar d x y => Sys2Proof.Machine.execSar d x y s
  | .min d x y => Sys2Proof.Machine.execMin d x y s
  | .max d x y => Sys2Proof.Machine.execMax d x y s
  | .minu d x y => Sys2Proof.Machine.execMinu d x y s
  | .maxu d x y => Sys2Proof.Machine.execMaxu d x y s
  | .slt d x y => Sys2Proof.Machine.execSlt d x y s
  | .sltu d x y => Sys2Proof.Machine.execSltu d x y s
  | .seq d x y => Sys2Proof.Machine.execSeq d x y s
  | .sel d c x y => Sys2Proof.Machine.execSel d c x y s
  | .li d v => Sys2Proof.Machine.execLi d v s
  | .lih d v => Sys2Proof.Machine.execLih d v s
  | .clz d x => Sys2Proof.Machine.execClz d x s
  | .popc d x => Sys2Proof.Machine.execPopc d x s
  | .bext d x p n => Sys2Proof.Machine.execBext d x p n s
  | .bextS d x p n => Sys2Proof.Machine.execBextS d x p n s
  | .bins d x p n => Sys2Proof.Machine.execBins d x p n s
  | .madd d x y c => Sys2Proof.Machine.execMadd d x y c s
  | .fopAdd d x y rtz => Sys2Proof.Machine.execFopAdd d x y rtz s
  | .fopSub d x y rtz => Sys2Proof.Machine.execFopSub d x y rtz s
  | .fopMul d x y rtz => Sys2Proof.Machine.execFopMul d x y rtz s
  | .fopMin d x y => Sys2Proof.Machine.execFopMin d x y s
  | .fopMax d x y => Sys2Proof.Machine.execFopMax d x y s
  | .fopEq d x y => Sys2Proof.Machine.execFopEq d x y s
  | .fopLt d x y => Sys2Proof.Machine.execFopLt d x y s
  | .fopLe d x y => Sys2Proof.Machine.execFopLe d x y s
  | .cvtsfIf d x rtz => Sys2Proof.Machine.execCvtsfIf d x rtz s
  | .cvtsfFi d x rtz => Sys2Proof.Machine.execCvtsfFi d x rtz s
  | .bc c x y off => Sys2Proof.Machine.execBc c x y off s
  | .j off => Sys2Proof.Machine.execJ off s
  | .jr x off => Sys2Proof.Machine.execJr x off s
  | .call d off => Sys2Proof.Machine.execCall d off s
  | .ret x => Sys2Proof.Machine.execRet x s
  | .loop k x off => Sys2Proof.Machine.execLoop k x off s
  | .lpbrk k => Sys2Proof.Machine.execLpbrk k s
  | .ld d b slot arr sz sx na off => Sys2Proof.Machine.execLd d b slot arr sz sx na off s
  | .st v b sz off => Sys2Proof.Machine.execSt v b sz off s
  | .pref b sz off => Sys2Proof.Machine.execPref b sz off s
  | .cflush sc b sz off => Sys2Proof.Machine.execCflush sc b sz off s
  | .cinv sc b sz off => Sys2Proof.Machine.execCinv sc b sz off s
  | .strel sc v b sz off => Sys2Proof.Machine.execStrel sc v b sz off s
  | .ldacq sc d b slot sz off => Sys2Proof.Machine.execLdacq sc d b slot sz off s
  | .aadd a => Sys2Proof.Machine.execAadd a s
  | .aand a => Sys2Proof.Machine.execAand a s
  | .aor a => Sys2Proof.Machine.execAor a s
  | .axor a => Sys2Proof.Machine.execAxor a s
  | .amin a => Sys2Proof.Machine.execAmin a s
  | .amax a => Sys2Proof.Machine.execAmax a s
  | .aminu a => Sys2Proof.Machine.execAminu a s
  | .amaxu a => Sys2Proof.Machine.execAmaxu a s
  | .axchg a => Sys2Proof.Machine.execAxchg a s
  | .acas a c => Sys2Proof.Machine.execAcas a c s
  | .afadd a => Sys2Proof.Machine.execAfadd a s
  | .scadd d b idx src et rlen => Sys2Proof.Machine.execScadd d b idx src et rlen s
  | .acqGe d o sc n => Sys2Proof.Machine.execAcqGe d o sc n s
  | .acqNw d o sc => Sys2Proof.Machine.execAcqNw d o sc s
  | .acqX d o sc => Sys2Proof.Machine.execAcqX d o sc s
  | .rel d o sc => Sys2Proof.Machine.execRel d o sc s
  | .fence sc => Sys2Proof.Machine.execFence sc s
  | .waitcGe q x => Sys2Proof.Machine.execWaitcGe q x s
  | .waitcLe q x => Sys2Proof.Machine.execWaitcLe q x s
  | .tlwait tc x => Sys2Proof.Machine.execTlwait tc x s
  | .tlsig d tc sc => Sys2Proof.Machine.execTlsig d tc sc s
  | .bar sc mask => Sys2Proof.Machine.execBar sc mask s
  | .mbw mb x => Sys2Proof.Machine.execMbw mb x s
  | .mbr d mb => Sys2Proof.Machine.execMbr d mb s
  | .tagarm x y ct mulm1 => Sys2Proof.Machine.execTagarm x y ct mulm1 s
  | .tagsetFull x => Sys2Proof.Machine.execTagsetFull x s
  | .tagsetPoison x => Sys2Proof.Machine.execTagsetPoison x s
  | .tagclr x => Sys2Proof.Machine.execTagclr x s
  | .tagwtNw d y => Sys2Proof.Machine.execTagwtNw d y s
  | .tagwtFull d y => Sys2Proof.Machine.execTagwtFull d y s
  | .tagwtEmpty d y => Sys2Proof.Machine.execTagwtEmpty d y s
  | .xfence sc => Sys2Proof.Machine.execXfence sc s
  | .push d o lo hi q => Sys2Proof.Machine.execPush d o lo hi q s
  | .popN d o lo hi q => Sys2Proof.Machine.execPopN d o lo hi q s
  | .popW d o lo hi q => Sys2Proof.Machine.execPopW d o lo hi q s
  | .qoctlEn d o => Sys2Proof.Machine.execQoctlEn d o s
  | .qoctlDis d o => Sys2Proof.Machine.execQoctlDis d o s
  | .qoctlCnt d o => Sys2Proof.Machine.execQoctlCnt d o s
  | .hld d x b slot sz arr => Sys2Proof.Machine.execHld d x b slot sz arr s
  | .hldQ q x b n => Sys2Proof.Machine.execHldQ q x b n s
  | .hpub x => Sys2Proof.Machine.execHpub x s
  | .hwait x => Sys2Proof.Machine.execHwait x s
  | .hwaitAll x => Sys2Proof.Machine.execHwaitAll x s
  | .gridctlJoin x => Sys2Proof.Machine.execGridctlJoin x s
  | .gridctlLeave x => Sys2Proof.Machine.execGridctlLeave x s
  | .gridctlStat d x => Sys2Proof.Machine.execGridctlStat d x s
  | .gridctlStatMs d x j => Sys2Proof.Machine.execGridctlStatMs d x j s
  | .qld q b stride n => Sys2Proof.Machine.execQld q b stride n s
  | .qldx q b stride list n => Sys2Proof.Machine.execQldx q b stride list n s
  | .tget tc d src g n => Sys2Proof.Machine.execTget tc d src g n s
  | .tsend sc kind taddr g n ck cx => Sys2Proof.Machine.execTsend sc kind taddr g n ck cx s
  | .tsto d r n stride ck cx => Sys2Proof.Machine.execTsto d r n stride ck cx s
  | .bld tc d src geom cstride => Sys2Proof.Machine.execBld tc d src geom cstride s
  | .qflush q => Sys2Proof.Machine.execQflush q s
  | .cpseq lv n => Sys2Proof.Machine.execCpseq lv n s
  | .cpseqClr => Sys2Proof.Machine.execCpseqClr s
  | .cpsrcBase x => Sys2Proof.Machine.execCpsrcBase x s
  | .cpsrcStride lv x => Sys2Proof.Machine.execCpsrcStride lv x s
  | .cpsrcWin lv x y => Sys2Proof.Machine.execCpsrcWin lv x y s
  | .cpdstBase x => Sys2Proof.Machine.execCpdstBase x s
  | .cpdstBaseTile x => Sys2Proof.Machine.execCpdstBaseTile x s
  | .cpdstStride lv x => Sys2Proof.Machine.execCpdstStride lv x s
  | .cpdstWin lv x y => Sys2Proof.Machine.execCpdstWin lv x y s
  | .cpidx lv list nrow => Sys2Proof.Machine.execCpidx lv list nrow s
  | .cpidxOff => Sys2Proof.Machine.execCpidxOff s
  | .cpswz x => Sys2Proof.Machine.execCpswz x s
  | .cpgo d tc esz sc => Sys2Proof.Machine.execCpgo d tc esz sc s
  | .cpstat d tc x => Sys2Proof.Machine.execCpstat d tc x s
  | .lookup mode nf d h tc list args taddr => Sys2Proof.Machine.execLookup mode nf d h tc list args taddr s
  | .lkstat d tc x => Sys2Proof.Machine.execLkstat d tc x s
  | .update nf d h tc list grad n => Sys2Proof.Machine.execUpdate nf d h tc list grad n s
  | .replayAcc d h tc r0 nr => Sys2Proof.Machine.execReplayAcc d h tc r0 nr s
  | .replaySgd d h tc r0 nr => Sys2Proof.Machine.execReplaySgd d h tc r0 nr s
  | .replayAdag d h tc r0 nr => Sys2Proof.Machine.execReplayAdag d h tc r0 nr s
  | .skctlWr g x => Sys2Proof.Machine.execSkctlWr g x s
  | .skctlRd d g => Sys2Proof.Machine.execSkctlRd d g s
  | .skctlEst d h x => Sys2Proof.Machine.execSkctlEst d h x s
  | .hrctlFlush d h tc => Sys2Proof.Machine.execHrctlFlush d h tc s
  | .hrctlDetach d h tc => Sys2Proof.Machine.execHrctlDetach d h tc s
  | .a2a mode nf d tc rec taddr => Sys2Proof.Machine.execA2a mode nf d tc rec taddr s
  | .vadd v => Sys2Proof.Machine.execVadd v s
  | .vsub v => Sys2Proof.Machine.execVsub v s
  | .vmul v => Sys2Proof.Machine.execVmul v s
  | .vfma v => Sys2Proof.Machine.execVfma v s
  | .vmin v => Sys2Proof.Machine.execVmin v s
  | .vmax v => Sys2Proof.Machine.execVmax v s
  | .vabs v => Sys2Proof.Machine.execVabs v s
  | .vneg v => Sys2Proof.Machine.execVneg v s
  | .vand v => Sys2Proof.Machine.execVand v s
  | .vor v => Sys2Proof.Machine.execVor v s
  | .vxor v => Sys2Proof.Machine.execVxor v s
  | .vnot v => Sys2Proof.Machine.execVnot v s
  | .vshl v => Sys2Proof.Machine.execVshl v s
  | .vshr v => Sys2Proof.Machine.execVshr v s
  | .vsar v => Sys2Proof.Machine.execVsar v s
  | .vcmp v => Sys2Proof.Machine.execVcmp v s
  | .vsel v => Sys2Proof.Machine.execVsel v s
  | .vcvt v src rtz => Sys2Proof.Machine.execVcvt v src rtz s
  | .vqnt v src rtz scale => Sys2Proof.Machine.execVqnt v src rtz scale s
  | .vdqn v src rtz scale => Sys2Proof.Machine.execVdqn v src rtz scale s
  | .vrsum v => Sys2Proof.Machine.execVrsum v s
  | .vrmax v => Sys2Proof.Machine.execVrmax v s
  | .vrmin v => Sys2Proof.Machine.execVrmin v s
  | .vdot v y => Sys2Proof.Machine.execVdot v y s
  | .vexp2 v => Sys2Proof.Machine.execVexp2 v s
  | .vlog2 v => Sys2Proof.Machine.execVlog2 v s
  | .vrcp v => Sys2Proof.Machine.execVrcp v s
  | .vrsq v => Sys2Proof.Machine.execVrsq v s
  | .vact v table => Sys2Proof.Machine.execVact v table s
  | .vbcst v k => Sys2Proof.Machine.execVbcst v k s
  | .vperm v => Sys2Proof.Machine.execVperm v s
  | .vshufRot v amount => Sys2Proof.Machine.execVshufRot v amount s
  | .vshufRev v => Sys2Proof.Machine.execVshufRev v s
  | .vshufUnzip v => Sys2Proof.Machine.execVshufUnzip v s
  | .vshufZip v => Sys2Proof.Machine.execVshufZip v s
  | .vmovsIns d e k ty => Sys2Proof.Machine.execVmovsIns d e k ty s
  | .vmovsExt d x e ty ck cx => Sys2Proof.Machine.execVmovsExt d x e ty ck cx s
  | .vclmp v => Sys2Proof.Machine.execVclmp v s
  | .vscan v => Sys2Proof.Machine.execVscan v s
  | .vpop d run q => Sys2Proof.Machine.execVpop d run q s
  | .vmask v k => Sys2Proof.Machine.execVmask v k s
  | .vzero d run => Sys2Proof.Machine.execVzero d run s
  | .vidx v k => Sys2Proof.Machine.execVidx v k s
  | .vsprs v => Sys2Proof.Machine.execVsprs v s
  | .vscale v => Sys2Proof.Machine.execVscale v s
  | .xnest lv k n sa sb sov => Sys2Proof.Machine.execXnest lv k n sa sb sov s
  | .xnestClr => Sys2Proof.Machine.execXnestClr s
  | .xlrRd d hl => Sys2Proof.Machine.execXlrRd d hl s
  | .xlrWr hl x => Sys2Proof.Machine.execXlrWr hl x s
  | .xlrPos d => Sys2Proof.Machine.execXlrPos d s
  | .xopsA x => Sys2Proof.Machine.execXopsA x s
  | .xopsB x => Sys2Proof.Machine.execXopsB x s
  | .xpost x => Sys2Proof.Machine.execXpost x s
  | .xspm x => Sys2Proof.Machine.execXspm x s
  | .xmask x => Sys2Proof.Machine.execXmask x s
  | .xgo acc cont out stg msk => Sys2Proof.Machine.execXgo acc cont out stg msk s
  | .xwait => Sys2Proof.Machine.execXwait s
  | .xaccClr acc => Sys2Proof.Machine.execXaccClr acc s
  | .xaccSt acc t => Sys2Proof.Machine.execXaccSt acc t s
  | .xaccLd acc t ck cx => Sys2Proof.Machine.execXaccLd acc t ck cx s
  | .xaccLdp acc t ck cx => Sys2Proof.Machine.execXaccLdp acc t ck cx s
  | .xaccAdd acc src => Sys2Proof.Machine.execXaccAdd acc src s
  | .xaccPost acc stg => Sys2Proof.Machine.execXaccPost acc stg s
  | .sealTensor d h x => Sys2Proof.Machine.execSealTensor d h x s
  | .sealTable d h x => Sys2Proof.Machine.execSealTable d h x s
  | .sealGrid d h x => Sys2Proof.Machine.execSealGrid d h x s
  | .unsealHandle h => Sys2Proof.Machine.execUnseal h s
  | .hmov d hd hs => Sys2Proof.Machine.execHmov d hd hs s
  | .hmovMem d hd hs x => Sys2Proof.Machine.execHmovMem d hd hs x s
  | .dataLanding m slot => Sys2Proof.Machine.execDataLanding m slot s
  | .untimedResultLanding m st => Sys2Proof.Machine.execUntimedResultLanding m st s
  | .storeBufferDrain m st => Sys2Proof.Machine.execStoreBufferDrain m st s
  | .fetchMissFill m st => Sys2Proof.Machine.execFetchMissFill m st s
  | .vectorUnitFree m => Sys2Proof.Machine.execVectorUnitFree m s
  | .walkComplete part die block => Sys2Proof.Machine.execWalkComplete part die block s
  | .tagCheckSatisfied m st => Sys2Proof.Machine.execTagCheckSatisfied m st s
  | .arrival a => Sys2Proof.Machine.execArrival a s
  | .arrivalRetry a => Sys2Proof.Machine.execArrivalRetry a s
  | .abortEvent m tile => Sys2Proof.Machine.execAbortEvent m tile s
  | .closingNotice m rank epoch => Sys2Proof.Machine.execClosingNotice m rank epoch s
  | .rollback m rank epoch => Sys2Proof.Machine.execRollback m rank epoch s
  | .mailboxWake m st => Sys2Proof.Machine.execMailboxWake m st s
  | .barrierEpisodeComplete m sc => Sys2Proof.Machine.execBarrierEpisodeComplete m sc s
  | .acqHomeRetest m st => Sys2Proof.Machine.execAcqHomeRetest m st s
  | .acqWithdrawal m st => Sys2Proof.Machine.execAcqWithdrawal m st s
  | .queueHomeService op => Sys2Proof.Machine.execQueueHomeService op s
  | .junctionPair held arriving => Sys2Proof.Machine.execJunctionPair held arriving s
  | .holdExpiry id => Sys2Proof.Machine.execHoldExpiry id s
  | .parkedPopTimeout id => Sys2Proof.Machine.execParkedPopTimeout id s
  | .vergeWriteStart v => Sys2Proof.Machine.execVergeWriteStart v s
  | .vergeWriteComplete v => Sys2Proof.Machine.execVergeWriteComplete v s
  | .progressReport v region => Sys2Proof.Machine.execProgressReport v region s
  | .hpubWaitEnd m st => Sys2Proof.Machine.execHpubWaitEnd m st s
  | .haloTimeout m st => Sys2Proof.Machine.execHaloTimeout m st s
  | .waitTimeout m st => Sys2Proof.Machine.execWaitTimeout m st s
  | .decay part chiplet group => Sys2Proof.Machine.execDecay part chiplet group s
  | .fillComplete part chiplet set way => Sys2Proof.Machine.execFillComplete part chiplet set way s
  | .writeBackComplete part chiplet set way => Sys2Proof.Machine.execWriteBackComplete part chiplet set way s
  | .modeSwitch stack compute => Sys2Proof.Machine.execModeSwitch stack compute s
  | .modeSwitchComplete stack => Sys2Proof.Machine.execModeSwitchComplete stack s
  | .lookupBag c bag => Sys2Proof.Machine.execLookupBag c bag s
  | .binAppend c pair => Sys2Proof.Machine.execBinAppend c pair s
  | .replayRegion c region => Sys2Proof.Machine.execReplayRegion c region s
  | .bucketReceive b => Sys2Proof.Machine.execBucketReceive b s
  | .a2aCombination c => Sys2Proof.Machine.execA2aCombination c s
  | .copyElement c => Sys2Proof.Machine.execCopyElement c s
  | .commandCompletion c => Sys2Proof.Machine.execCommandCompletion c s
  | .kStep m => Sys2Proof.Machine.execKStep m s
  | .ptrootWrite ag part v => Sys2Proof.Machine.execPtrootWrite ag part v s
  | .tlbinvAll ag part v => Sys2Proof.Machine.execTlbinvAll ag part v s
  | .tlbinvPage ag part v => Sys2Proof.Machine.execTlbinvPage ag part v s
  | .tlbinvComplete part => Sys2Proof.Machine.execTlbinvComplete part s
  | .expctlLoad ag part v => Sys2Proof.Machine.execExpctlLoad ag part v s
  | .hrcfgWrite ag part v => Sys2Proof.Machine.execHrcfgWrite ag part v s
  | .rgnctlLoad ag part v => Sys2Proof.Machine.execRgnctlLoad ag part v s
  | .registerWrite ag r v => Sys2Proof.Machine.execRegisterWrite ag r v s
  | .hqdb ag part v => Sys2Proof.Machine.execHqdb ag part v s
  | .cmdNop q k => Sys2Proof.Machine.execCmdNop q k s
  | .launch q k => Sys2Proof.Machine.execLaunch q k s
  | .launchi q k => Sys2Proof.Machine.execLaunchi q k s
  | .cmdLoop q k => Sys2Proof.Machine.execCmdLoop q k s
  | .cmdIf q k => Sys2Proof.Machine.execCmdIf q k s
  | .jump q k => Sys2Proof.Machine.execJump q k s
  | .wait q k => Sys2Proof.Machine.execWait q k s
  | .signal q k => Sys2Proof.Machine.execSignal q k s
  | .sigadd q k => Sys2Proof.Machine.execSigadd q k s
  | .write q k => Sys2Proof.Machine.execWrite q k s
  | .cmdFence q k => Sys2Proof.Machine.execCmdFence q k s
  | .delay q k => Sys2Proof.Machine.execDelay q k s
  | .delayExpiry q => Sys2Proof.Machine.execDelayExpiry q s
  | .ctxnew q k => Sys2Proof.Machine.execCtxnew q k s
  | .ctxend q k => Sys2Proof.Machine.execCtxend q k s
  | .intr q k => Sys2Proof.Machine.execIntr q k s
  | .qstop q k => Sys2Proof.Machine.execQstop q k s
  | .predDecrement part tcb failed => Sys2Proof.Machine.execPredDecrement part tcb failed s
  | .cardAdmission part die card => Sys2Proof.Machine.execCardAdmission part die card s
  | .cardRepush part prio card => Sys2Proof.Machine.execCardRepush part prio card s
  | .chunkDispatch part die => Sys2Proof.Machine.execChunkDispatch part die s
  | .taskRetire part tcb => Sys2Proof.Machine.execTaskRetire part tcb s
  | .periodBoundary part => Sys2Proof.Machine.execPeriodBoundary part s
  | .preemptionRequest part ctx => Sys2Proof.Machine.execPreemptionRequest part ctx s
  | .preemptHalt m => Sys2Proof.Machine.execPreemptHalt m s
  | .save m => Sys2Proof.Machine.execSave m s
  | .restore m core => Sys2Proof.Machine.execRestore m core s
  | .escalation m => Sys2Proof.Machine.execEscalation m s
  | .resume m e => Sys2Proof.Machine.execResume m e s
  | .endTheIteration m => Sys2Proof.Machine.execEndTheIteration m s
  | .endTheContext part ctx => Sys2Proof.Machine.execEndTheContext part ctx s
  | .dieFence die => Sys2Proof.Machine.execDieFence die s
  | .partitionChange part dies key => Sys2Proof.Machine.execPartitionChange part dies key s
  | .uncorrectableError e => Sys2Proof.Machine.execUncorrectableError e s
  | .fabcfgWrite ag v => Sys2Proof.Machine.execFabcfgWrite ag v s
  | .portTraining port lanes rowsM1 colsM1 peer => Sys2Proof.Machine.execPortTraining port lanes rowsM1 colsM1 peer s
  | .linkReplayFailure port => Sys2Proof.Machine.execLinkReplayFailure port s
  | .rd p => Sys2Proof.Machine.execRd p s
  | .wr p => Sys2Proof.Machine.execWr p s
  | .atom p => Sys2Proof.Machine.execAtom p s
  | .arrive p => Sys2Proof.Machine.execArrive p s
  | .qop p => Sys2Proof.Machine.execQop p s
  | .obj p => Sys2Proof.Machine.execObj p s
  | .rsp p => Sys2Proof.Machine.execRsp p s
  | .openConn p => Sys2Proof.Machine.execOpenConn p s
  | .openack p => Sys2Proof.Machine.execOpenack p s
  | .close p => Sys2Proof.Machine.execClose p s
  | .ackOnly p => Sys2Proof.Machine.execAckOnly p s
  | .ackIdleTimeout c => Sys2Proof.Machine.execAckIdleTimeout c s
  | .retransmitTimeout c seq => Sys2Proof.Machine.execRetransmitTimeout c seq s
  | .teardown c => Sys2Proof.Machine.execTeardown c s
  | .fillingIdleTimeout c => Sys2Proof.Machine.execFillingIdleTimeout c s
  | .arrivalResend c seq => Sys2Proof.Machine.execArrivalResend c seq s
  | .routerWaitExpiry p => Sys2Proof.Machine.execRouterWaitExpiry p s
  | .rudBucket b => Sys2Proof.Machine.execRudBucket b s
  | .rudiPartial c shard ps => Sys2Proof.Machine.execRudiPartial c shard ps s
  | .uecDeliveryFailure c => Sys2Proof.Machine.execUecDeliveryFailure c s
  | .claim ag => Sys2Proof.Machine.execClaim ag s
  | .renew ag => Sys2Proof.Machine.execRenew ag s
  | .handover ag succ => Sys2Proof.Machine.execHandover ag succ s
  | .leaseExpiry => Sys2Proof.Machine.execLeaseExpiry s
  | .powerUp => Sys2Proof.Machine.execPowerUp s
  | .clearingComplete => Sys2Proof.Machine.execClearingComplete s
  | .bootctlGo ag => Sys2Proof.Machine.execBootctlGo ag s
  | .verificationComplete => Sys2Proof.Machine.execVerificationComplete s
  | .devrst ag v => Sys2Proof.Machine.execDevrst ag v s
  | .attgo ag => Sys2Proof.Machine.execAttgo ag s
  | .attestationReport => Sys2Proof.Machine.execAttestationReport s
  | .powerWindow watts => Sys2Proof.Machine.execPowerWindow watts s
  | .limitReached watts amps temp => Sys2Proof.Machine.execLimitReached watts amps temp s
  | .thermalTrip temp => Sys2Proof.Machine.execThermalTrip temp s
  | .powerDown => Sys2Proof.Machine.execPowerDown s
  | .refresh stack pc => Sys2Proof.Machine.execRefresh stack pc s
  | .ageRefresh part => Sys2Proof.Machine.execAgeRefresh part s
  | .pcieLinkTraining port gen x16 => Sys2Proof.Machine.execPcieLinkTraining port gen x16 s
  | .apertureWrite ag boot offset bytes => Sys2Proof.Machine.execApertureWrite ag boot offset bytes s
  | .packetForward p port => Sys2Proof.Machine.execPacketForward p port s
  | .junctionHold op => Sys2Proof.Machine.execJunctionHold op s

end Sys2Proof.Machine
end

