-- ==== Sys2Proof/Machine/Events.lean ====
section
/-!
DEFINITION. An event that is held as data, performed by the meaning of its row.
-/

namespace Sys2Proof.Machine

/-- Perform an event. -/
def runEvent (e : Event) (s : State) : Host.Outcome State Fault Refusal :=
  match e with
  | .dataLanding m slot => execDataLanding m slot s
  | .untimedResultLanding m st => execUntimedResultLanding m st s
  | .storeBufferDrain m st => execStoreBufferDrain m st s
  | .fetchMissFill m st => execFetchMissFill m st s
  | .vectorUnitFree m => execVectorUnitFree m s
  | .walkComplete part die block => execWalkComplete part die block s
  | .tagCheckSatisfied m st => execTagCheckSatisfied m st s
  | .arrival a => execArrival a s
  | .arrivalRetry a => execArrivalRetry a s
  | .abortEvent m tile => execAbortEvent m tile s
  | .closingNotice m rank epoch => execClosingNotice m rank epoch s
  | .rollback m rank epoch => execRollback m rank epoch s
  | .mailboxWake m st => execMailboxWake m st s
  | .barrierEpisodeComplete m sc => execBarrierEpisodeComplete m sc s
  | .acqHomeRetest m st => execAcqHomeRetest m st s
  | .acqWithdrawal m st => execAcqWithdrawal m st s
  | .queueHomeService op => execQueueHomeService op s
  | .junctionPair held arriving => execJunctionPair held arriving s
  | .holdExpiry id => execHoldExpiry id s
  | .parkedPopTimeout id => execParkedPopTimeout id s
  | .vergeWriteStart v => execVergeWriteStart v s
  | .vergeWriteComplete v => execVergeWriteComplete v s
  | .progressReport v region => execProgressReport v region s
  | .hpubWaitEnd m st => execHpubWaitEnd m st s
  | .haloTimeout m st => execHaloTimeout m st s
  | .waitTimeout m st => execWaitTimeout m st s
  | .decay part chiplet group => execDecay part chiplet group s
  | .fillComplete part chiplet set way => execFillComplete part chiplet set way s
  | .writeBackComplete part chiplet set way => execWriteBackComplete part chiplet set way s
  | .modeSwitch stack compute => execModeSwitch stack compute s
  | .modeSwitchComplete stack => execModeSwitchComplete stack s
  | .lookupBag c bag => execLookupBag c bag s
  | .binAppend c pair => execBinAppend c pair s
  | .replayRegion c region => execReplayRegion c region s
  | .bucketReceive b => execBucketReceive b s
  | .a2aCombination c => execA2aCombination c s
  | .copyElement c => execCopyElement c s
  | .commandCompletion c => execCommandCompletion c s
  | .kStep m => execKStep m s
  | .ptrootWrite ag part v => execPtrootWrite ag part v s
  | .tlbinvAll ag part v => execTlbinvAll ag part v s
  | .tlbinvPage ag part v => execTlbinvPage ag part v s
  | .tlbinvComplete part => execTlbinvComplete part s
  | .expctlLoad ag part v => execExpctlLoad ag part v s
  | .hrcfgWrite ag part v => execHrcfgWrite ag part v s
  | .rgnctlLoad ag part v => execRgnctlLoad ag part v s
  | .registerWrite ag r v => execRegisterWrite ag r v s
  | .hqdb ag part v => execHqdb ag part v s
  | .cmdNop q k => execCmdNop q k s
  | .launch q k => execLaunch q k s
  | .launchi q k => execLaunchi q k s
  | .cmdLoop q k => execCmdLoop q k s
  | .cmdIf q k => execCmdIf q k s
  | .jump q k => execJump q k s
  | .wait q k => execWait q k s
  | .signal q k => execSignal q k s
  | .sigadd q k => execSigadd q k s
  | .write q k => execWrite q k s
  | .cmdFence q k => execCmdFence q k s
  | .delay q k => execDelay q k s
  | .delayExpiry q => execDelayExpiry q s
  | .ctxnew q k => execCtxnew q k s
  | .ctxend q k => execCtxend q k s
  | .intr q k => execIntr q k s
  | .qstop q k => execQstop q k s
  | .predDecrement part tcb failed => execPredDecrement part tcb failed s
  | .cardAdmission part die card => execCardAdmission part die card s
  | .cardRepush part prio card => execCardRepush part prio card s
  | .chunkDispatch part die => execChunkDispatch part die s
  | .taskRetire part tcb => execTaskRetire part tcb s
  | .periodBoundary part => execPeriodBoundary part s
  | .preemptionRequest part ctx => execPreemptionRequest part ctx s
  | .preemptHalt m => execPreemptHalt m s
  | .save m => execSave m s
  | .restore m core => execRestore m core s
  | .escalation m => execEscalation m s
  | .resume m e => execResume m e s
  | .endTheIteration m => execEndTheIteration m s
  | .endTheContext part ctx => execEndTheContext part ctx s
  | .dieFence die => execDieFence die s
  | .partitionChange part dies key => execPartitionChange part dies key s
  | .uncorrectableError e => execUncorrectableError e s
  | .fabcfgWrite ag v => execFabcfgWrite ag v s
  | .portTraining port lanes rowsM1 colsM1 peer => execPortTraining port lanes rowsM1 colsM1 peer s
  | .linkReplayFailure port => execLinkReplayFailure port s
  | .rd p => execRd p s
  | .wr p => execWr p s
  | .atom p => execAtom p s
  | .arrive p => execArrive p s
  | .qop p => execQop p s
  | .obj p => execObj p s
  | .rsp p => execRsp p s
  | .openConn p => execOpenConn p s
  | .openack p => execOpenack p s
  | .close p => execClose p s
  | .ackOnly p => execAckOnly p s
  | .ackIdleTimeout c => execAckIdleTimeout c s
  | .retransmitTimeout c seq => execRetransmitTimeout c seq s
  | .teardown c => execTeardown c s
  | .fillingIdleTimeout c => execFillingIdleTimeout c s
  | .arrivalResend c seq => execArrivalResend c seq s
  | .routerWaitExpiry p => execRouterWaitExpiry p s
  | .rudBucket b => execRudBucket b s
  | .rudiPartial c shard ps => execRudiPartial c shard ps s
  | .uecDeliveryFailure c => execUecDeliveryFailure c s
  | .claim ag => execClaim ag s
  | .renew ag => execRenew ag s
  | .handover ag succ => execHandover ag succ s
  | .leaseExpiry => execLeaseExpiry s
  | .powerUp => execPowerUp s
  | .clearingComplete => execClearingComplete s
  | .bootctlGo ag => execBootctlGo ag s
  | .verificationComplete => execVerificationComplete s
  | .devrst ag v => execDevrst ag v s
  | .attgo ag => execAttgo ag s
  | .attestationReport => execAttestationReport s
  | .powerWindow watts => execPowerWindow watts s
  | .limitReached watts amps temp => execLimitReached watts amps temp s
  | .thermalTrip temp => execThermalTrip temp s
  | .powerDown => execPowerDown s
  | .refresh stack pc => execRefresh stack pc s
  | .ageRefresh part => execAgeRefresh part s
  | .pcieLinkTraining port gen x16 => execPcieLinkTraining port gen x16 s
  | .apertureWrite ag boot offset bytes => execApertureWrite ag boot offset bytes s
  | .packetForward p port => execPacketForward p port s
  | .junctionHold op => execJunctionHold op s

end Sys2Proof.Machine
end

