-- ==== Sys2Proof/Machine/Schedule.lean ====
section
/-!
DEFINITION. Which move comes next (assumption 1): the head of the agenda; else what can happen now without further time;
else the earliest of the next issues, the raised events and the timeouts; else the wall clock goes on by one.
-/

namespace Sys2Proof.Machine

/-! ### When a stream may issue -/

/-- No late load holds the core before cycle t (R153). -/
def Member.reaches (m : Member) (t : Nat) : Bool :=
  match m.limit with
  | some l => t ≤ l
  | none => true

/-- The wait conditions that no event of the table ends: the word is attempted again once they hold (R154). -/
def waitHolds (M : Mach) (m : Member) (st : Strm) (w : Wait) : Bool :=
  match w.cond with
  | .slotFree k => ((m.slots.toList.getD k LSlot.empty).state == .free)
  | .completed tc n => timelineOk m st tc n
  | .memberQuiet => m.quiet
  | .engineFree => (engineFree M m.die).isSome
  | .nestIdle d => nestIdle M m d
  | .fetched tag => M.fetched.all fun f => !(f.who == m.ref && f.tag == tag) || f.code.isSome
  | .acked => if w.kind = .done then !anyOutstanding M m.ref else !outstanding M m.ref st
  | _ => false

/-- A stopped nest reports its fault at X's next issue (R314, R321). -/
def Member.reporting (m : Member) (st : Strm) : Option TrapInfo :=
  match st with
  | .x => m.nest.bind fun n => n.fault
  | _ => none

/-- From which cycle a waiting word may issue whose condition no event of the table ends: the cycle after it first holds.
A landed slot is free from the second cycle after its delivery on (R153, R154). -/
def grantAt (M : Mach) (m : Member) (st : Strm) (w : Wait) : Option Nat :=
  let landed : Option Nat :=
    match w.cond with
    | .slotFree k => (m.slots.toList.getD k LSlot.empty).due.filter fun _ => (m.slots.toList.getD k LSlot.empty).state == .landed
    | _ => none
  match landed with
  | some d => some (d + 2)
  | none =>
    if waitHolds M m st w || (w.kind == .matrix && (m.reporting st).isSome) then some (m.now M + 1) else none

/-- Waits whose condition holds now are granted (R154). -/
def grantAll (M : Mach) : Mach :=
  let grant (m : Member) (x : Member) (st : Strm) : Member :=
    match (m.str st).wait with
    | some w =>
      if w.granted.isSome then x
      else
        match grantAt M m st w with
        | some g => x.updStr st fun s => { s with wait := some { w with granted := some g } }
        | none => x
    | none => x
  { M with members := M.members.map fun m => if m.core.isNone then m else Strm.all.foldl (grant m) m }

/-- It is the stream's turn: no late data hold its core, and no other stream of the member has a word due before it
(R150, R153). -/
def Member.turn (m : Member) (M : Mach) (st : Strm) (t : Nat) : Bool :=
  m.reaches t &&
    Strm.all.all fun o =>
      match attemptAt M m o with
      | some u => o == st || decide (t < u) || (t == u && decide (st.num < o.num))
      | none => true

/-! ### What can happen now -/

/-- The event that ends a wait whose condition holds (R44, R95, R138, R155, R159). -/
def wakeEvent (M : Mach) (m : Member) (st : Strm) (w : Wait) : Option Event :=
  if w.granted.isSome then none
  else
    match w.cond with
    | .tagsFull ts => if m.tagsSettled ts then some (.tagCheckSatisfied m.ref st) else none
    | .tagEmpty t =>
      if (m.tile t).tag = .empty || (m.tile t).tag = .poisoned then some (.tagCheckSatisfied m.ref st) else none
    | .queueRoom q n =>
      if (m.queues.toList.getD q []).length + n ≤ 32 then some (.mailboxWake m.ref st) else none
    | .queueRows q n => if n ≤ readyRows (m.queues.toList.getD q []) then some (.mailboxWake m.ref st) else none
    | .queueAtMost q n => if readyRows (m.queues.toList.getD q []) ≤ n then some (.mailboxWake m.ref st) else none
    | .mailboxEmpty k => if (m.mbs.toList.map (·.2)).getD k false then none else some (.mailboxWake m.ref st)
    | .mailboxFull k => if (m.mbs.toList.map (·.2)).getD k false then some (.mailboxWake m.ref st) else none
    | .versionGe _ _ _ => if acqHolds M m.ref.part w.cond then some (.acqHomeRetest m.ref st) else none
    | .notHeld _ => if acqHolds M m.ref.part w.cond then some (.acqHomeRetest m.ref st) else none
    | .defverGe _ => if acqHolds M m.ref.part w.cond then some (.acqHomeRetest m.ref st) else none
    | .milestone _ _ _ => if gridHolds M w.cond then some (.hpubWaitEnd m.ref st) else none
    | .published _ _ _ => if gridHolds M w.cond then some (.hpubWaitEnd m.ref st) else none
    | _ => none

/-- Waits of the running members that can end, those that began first coming first (R155). -/
def wakeNow (M : Mach) : Option Event :=
  let all : List (Nat × Event) :=
    M.members.flatMap fun m =>
      if m.core.isNone then []
      else
        Strm.all.filterMap fun st =>
          match (m.str st).wait with
          | some w => (wakeEvent M m st w).map fun e => (w.turn, e)
          | none => none
  (leastBy (fun x => x.1) all).map (·.2)

/-- A barrier episode whose participants have all arrived (R159). -/
def barNow (M : Mach) : Option Event :=
  M.bars.findSome? fun b =>
    match b.arrived with
    | x :: _ =>
      match M.member x.1 with
      | some m =>
        if barFind M b.scope (barKey M m b.scope) = some b && barComplete M b then
          some (.barrierEpisodeComplete x.1 b.scope)
        else none
      | none => none
    | [] => none

/-- An ACQ of another partition that waits here can be answered (R95). -/
def objReady (M : Mach) (p : Packet) : Bool :=
  match admission M p.dprt (packetPort p) p.key .a .atomic p.addr 16 with
  | .error _ => true
  | .ok ((pa, _) :: _) => (M.switchingAt pa).isNone && acqAnswered M pa (leNat ((p.payload.drop 8).take 8)) (packetAcq p)
  | .ok [] => false

/-- Such an ACQ. -/
def objNow (M : Mach) : Option Event :=
  M.conns.findSome? fun c => (c.serving.find? fun x => objReady M x.2).map fun x => .obj x.2

/-- A SCADD that can go on (R257). -/
def rowsNow (M : Mach) : Option Event :=
  M.members.findSome? fun m => (Strm.all.find? (rowsReady M m)).map fun st => .untimedResultLanding m.ref st

/-- What can happen at once: waits that end, episodes, waiting ACQs, rows, verge writes, stacks no replay needs. -/
def nowEvent (M : Mach) : Option Event :=
  (wakeNow M).or <| (barNow M).or <| (objNow M).or <| (rowsNow M).or <|
    ((vergeReady M).map .vergeWriteStart).or <| stackIdle M

/-! ### What happens next in time -/

/-- A possible next move. -/
inductive Next where
  | issue (r : MRef) (st : Strm)
  | event (e : Event)
  deriving DecidableEq, Repr

/-- The timeout of a wait (R141, R156). -/
def timeoutEvent (m : Member) (st : Strm) (w : Wait) : Option Event :=
  match w.cond with
  | .milestone _ _ _ => some (.haloTimeout m.ref st)
  | .published _ _ _ => some (.haloTimeout m.ref st)
  | _ => if w.watched then some (.waitTimeout m.ref st) else none

/-- The timeout of a stream and its cycle: of its named wait, of its ACQ at another device, or of its HPUB's source cells
(R95, R138, R141, R156). -/
def timeoutOf (m : Member) (st : Strm) : Option (Nat × Event) :=
  match (m.str st).wait, (m.str st).untimed with
  | some w, _ => if w.granted.isSome then none else (timeoutEvent m st w).map fun e => (w.since + w.limit, e)
  | none, some u =>
    if !m.mayLand st then none
    else
      match u.needs with
      | .acq _ limit none => some (u.iss + limit, .waitTimeout m.ref st)
      | .published _ _ _ limit => some (u.iss + limit, .haloTimeout m.ref st)
      | _ => none
  | none, none => none

/-- A member's next moves, each with its wall-clock cycle and its rank among moves of one cycle. -/
def Member.moves (m : Member) (M : Mach) : List (Nat × Nat × Next) :=
  if m.core.isNone then []
  else if m.freeze = .vector then [(m.vbusy, 1, .event (.vectorUnitFree m.ref))]
  else if m.freeze ≠ .none then []
  else
    Strm.all.flatMap fun st =>
      let s := m.str st
      let issue : List (Nat × Nat × Next) :=
        match attemptAt M m st with
        | some t => if m.reaches t then [(t + m.skew, 2 + m.core.getD 0 * 4 + st.num, .issue m.ref st)] else []
        | none => []
      let land : List (Nat × Nat × Next) :=
        match s.untimed with
        | some u =>
          if m.mayLand st && untimedReady M m st u && m.reaches (u.iss + 1) then
            [(u.iss + 1 + m.skew, 1, .event (.untimedResultLanding m.ref st))]
          else []
        | none => []
      let late : List (Nat × Nat × Next) :=
        match timeoutOf m st with
        | some (t, e) => if m.reaches t then [(t + m.skew, 2 + 4096, .event e)] else []
        | none => []
      issue ++ land ++ late

/-- The earliest move, and its wall-clock cycle. -/
def nextInTime (M : Mach) : Option (Nat × Nat × Next) :=
  leastBy (fun x => x.1 * 8192 + x.2.1)
    ((M.pending.map fun d => (d.due, 0, Next.event d.ev)) ++ M.members.flatMap fun m => m.moves M)

/-! ### The move -/

/-- What a step performs, with the state it acts on. -/
inductive Act where
  /-- An instruction word, decoded. -/
  | run (i : Instr) (s : State)
  /-- An event. -/
  | event (e : Event) (s : State)
  /-- Nothing but what has been done already. -/
  | rest (s : State)

/-- Change everything but the host side, as data. -/
def State.upd (s : State) (f : Mach → Mach) : State := { s with m := f s.m }

/-- An event leaves the raised ones, and no word is being issued. -/
def takeEvent (e : Event) (wall : Nat) (s : State) : Act :=
  .event e
    (s.upd fun M =>
      { M with wclk := max M.wclk wall, cur := none, pending := dropFirst (fun d => d.ev == e && d.due ≤ max M.wclk wall) M.pending })

/-- Trap at the stream's word: one that cannot be fetched or decoded, or a fault of the nest. -/
def trapAt (s : State) (k : Cur) (i : TrapInfo) : Act :=
  .rest
    (s.upd fun M =>
      match M.member k.m with
      | some m => finish (k.ctx M m) (.trap i)
      | none => M)

/-- X's next word raises the fault of the stopped nest (R314); the fault goes with the trap that is taken, and the nest runs
again once its handler is left (R396). -/
def nestTrapAt (s : State) (k : Cur) (i : TrapInfo) : Act :=
  .rest
    (s.upd fun M =>
      match M.member k.m with
      | some m =>
        let c := k.ctx M m
        finish c (.trapTaking (raiseOnce c.M 16 (.kStep k.m)) .nest { i with tval := k.raw })
      | none => M)

/-- A stream's next word is fetched, decoded and issued (R152, R167, R179). -/
def takeIssue (r : MRef) (st : Strm) (wall : Nat) (s : State) : Act :=
  let s := s.upd fun M => { M with wclk := max M.wclk wall }
  match s.m.member r with
  | none => .rest s
  | some m =>
    let pc := (m.str st).pc
    let cur (raw : Word) : Cur := ⟨r, st, pc, raw⟩
    if !m.mayIssue st then .rest s
    else
      match fetch s.m m pc with
      | .error f => trapAt s (cur 0) (xlateTrap 0 f .fetch)
      | .ok raw =>
        if !fetchHit s.m m pc then .event (.fetchMissFill r st) (s.upd fun M => { M with cur := none })
        else
          match m.reporting st with
          | some i => nestTrapAt s (cur raw) i
          | none =>
            match decodeBytes (wordBytes raw) with
            | .ok (i, _) => .run i (s.upd fun M => { M with cur := some (cur raw) })
            | .error _ => trapAt s (cur raw) (illInstr raw)

/-- A move of the agenda: a stream's next word, when it is its turn, or an event. A device without power does nothing but
power up (R439), and while it is clearing only its host side runs (R435). -/
def takeMove (m : Move) (s : State) : Act :=
  match m with
  | .issue r st =>
    if !s.host.powered || s.host.boot = .clearing then .rest s
    else
      match (s.m.member r).bind fun m => ((attemptAt s.m m st).filter (m.turn s.m st)).map fun t => t + m.skew with
      | some wall => takeIssue r st wall s
      | none => .rest s
  | .event e => if s.performs e then takeEvent e 0 s else .rest s

/-- The agent of a CLAIM, made by its event or by a write of OWNCTL. -/
def Move.claim : Move → Option RegAgent
  | .event (.claim ag) => some ag
  | .event (.registerWrite ag (.dev 0) v) => if wf v 8 2 = 1 then some ag else none
  | _ => none

/-- Claims that arrive together are ordered port 0, port 1, management controller (R434). -/
def orderClaims (l : List Move) : List Move :=
  match leastBy (fun mv : Move => (mv.claim.map RegAgent.code).getD 0) (l.takeWhile fun mv => mv.claim.isSome) with
  | some mv => mv :: dropFirst (fun x => x == mv) l
  | none => l

/-- The next move, and the state it acts on. -/
def nextAct (s : State) : Act :=
  let s := s.upd grantAll
  match orderClaims s.m.agenda with
  | mv :: rest => takeMove mv (s.upd fun M => { M with agenda := rest })
  | [] =>
    match nowEvent s.m with
    | some e => takeEvent e 0 s
    | none =>
      match nextInTime s.m with
      | some (wall, _, .issue r st) => takeIssue r st wall s
      | some (wall, _, .event e) => takeEvent e wall s
      | none => .rest (s.upd fun M => { M with wclk := M.wclk + 1 })

end Sys2Proof.Machine
end

