-- ==== Sys2Proof/Machine/Loader.lean ====
section
/-!
DEFINITION. Placing a word so that the next step issues it: what the boot, the firmware and a launch do before a
program's first word (assumption 9).
-/

namespace Sys2Proof.Machine

/-- PVA of the placed word, beyond the save areas that the reset value of SAVEB names (R406). -/
def loadPva : Nat := 0x1000000

/-- The member that issues it: rank 0 of context 0 of partition 0, on core 0. -/
def loadRef : MRef := ⟨0, 0, 0⟩

/-- The translation of its page: one HBM page of die 0, readable, writable and executable. -/
def loadEntry : TlbEntry := ⟨0, loadPva, 16, .local loadPva false, true, true, true, 4, 0⟩

/-- The stream that issues a word: the first its instruction is valid on, C for bits that are no instruction. -/
def loadStream (i : Option Instr) : Strm :=
  match i with
  | some i => i.streams.headD .c
  | none => .c

/-- A member ready to issue the word at `loadPva` on a stream. -/
def loadMember (st : Strm) (wclk : Nat) : Member :=
  (Member.fresh loadRef 0 1 0 [] (.core 0) wclk).updStr st fun s => { s with pc := w64 loadPva, running := true }

/-- The context it belongs to; its save area takes the last frames of a partition of eight dies (R406, assumption 45). -/
def loadContext : Context := ⟨0, 1, 0, [], 0, false, 0xC000000000 - saveSpan⟩

/-- The word stands at `loadPva`, translated, in a member of partition 0 whose stream issues it next. -/
def loadWord (s : State) (nbits w : Nat) : State :=
  let st := loadStream (decodeTableWord nbits w)
  let M := s.m
  let M := M.put loadPva (leBytes 8 (w % 2 ^ nbits))
  let parts := if M.parts.any (fun p => p.id == 0) then M.parts else M.parts ++ [Part.fresh 0 8 0]
  let r := M.core 0
  let M := M.setCore { r with tlb := loadEntry :: r.tlb }
  { host := { s.host with powered := true, boot := .ready, go := false }
    m :=
      { M with
        poison := M.poison.filter (· != loadPva / 64)
        parts := updIf (fun p => p.id == 0)
          (fun p => { p with ctxs := p.ctxs.filter (fun x => x.id != 0) ++ [loadContext] }) parts
        members := loadMember st M.wclk :: M.members.filter fun m => m.ref != loadRef && m.place != .core 0
        liveDies := insertNat 0 M.liveDies
        agenda := [.issue loadRef st] } }

end Sys2Proof.Machine
end

