-- ==== Sys2Proof/Machine/Step.lean ====
section
/-!
DEFINITION. One step: the next move of `nextAct`, performed.
-/

namespace Sys2Proof.Machine

/-- One step of the device. -/
def step (s : State) : Host.Outcome State Fault Refusal :=
  match nextAct s with
  | .run i s' => exec i s'
  | .event e s' => runEvent e s'
  | .rest s' => .next s'

/-- The word stored where the next step fetches, and selected. -/
def State.withFetchWord (s : State) (nbits w : Nat) : State := loadWord s nbits w

end Sys2Proof.Machine
end

