-- ==== Sys2Proof/Safety.lean ====
section
/-!
DEFINITION. What counts as a safe run, in the terms the statements use.
-/

namespace Sys2Proof.Machine

/-- A step that goes on: no fault and no refusal. -/
def GoesOn (s : State) : Prop := ∃ t, step s = .next t

/-- The memory of a state is in its canonical form: one list for each content. -/
def State.Canonical (s : State) : Prop := Memory.wf s.m.mem = true

/-- What holds of the host side in every state a run reaches (R431, R435, R438, R439): register fields within their
widths and limits, a fuse counter and a version of eight bits, three nonces of 64 bytes, GO only while verifying. -/
structure HostSide.Sound (h : HostSide) : Prop where
  limit : 3000 ≤ h.limw ∧ h.limw ≤ 7000
  aperture : h.apbase < 1024
  fuses : h.arb ≤ 255
  version : h.svn ≤ 255
  nonces : h.attn.length = 3 ∧ ∀ x ∈ h.attn, x.length = 64
  going : h.go = true → h.boot = .verifying
  booted : h.boot = .ready ∨ h.boot = .starting → h.imageHash.isSome = true ∧ h.svn ≤ 255

end Sys2Proof.Machine
end

