-- ==== Sys2Proof/Certificates/Slice0/Obligations.lean ====
section
/-!
DEFINITION. The statements about the model, each citing the rules of spec/ it rests on. The first part names the terms
they share. A value or a behaviour that the model chose is named with its entry of the assumption log.
-/

namespace Sys2Proof.Machine

/-- `k` is the word being issued, `m` its member, `i` the instruction it decodes to, on a stream that may issue it (R144). -/
structure Issues (i : Instr) (s : State) (k : Cur) (m : Member) : Prop where
  here : s.m.issuer = some (k, m)
  stream : i.validOn k.st = true
  formed : i.wf = true

/-- The word stands outside an open idempotent region of A, or on another stream (R163). -/
def NoRegion (k : Cur) (m : Member) : Prop := k.st = .a → m.region = none

/-- Executing the word answers a next state: nothing changes but what its end `r` says, in the context of its issue. -/
def Ends (i : Instr) (s : State) (k : Cur) (m : Member) (r : Res) : Prop :=
  exec i s = .next { s with m := finish (k.ctx s.m m) r }

/-- Executing an event answers the state with the machine `M` and the host side as it was. -/
def Becomes (e : Instr) (s : State) (M : Mach) : Prop := exec e s = .next { s with m := M }

/-- The word raises this trap at its own position, with nothing performed (R158, R395). -/
def Traps (i : Instr) (s : State) (k : Cur) (m : Member) (t : TrapInfo) : Prop := Ends i s k m (.trap t)

/-- No trap of the cycle waits to be taken. -/
def Quiet (M : Mach) (r : MRef) : Prop := ∀ m, M.member r = some m → m.raised = []

/-- An integer as a 64-bit register holds it (R219: arithmetic is modulo 2^64). -/
def word64 (v : Int) : Word := BitVec.ofInt 64 v

/-- The rows of the opcode table that are words of a stream; the others are operations and events of the device. -/
def IsWord (i : Instr) : Prop := i.streams ≠ []

/-- The words R163 lists as valid on A while a region is open: scalar, control and CSR words, LD, PREF, ST, QLD, QLDX,
TGET, the copy words (CPGO in row-gather mode alone), LOOKUP, UPDATE, LKSTAT, CPSTAT, TLWAIT, IDEM, HALT and NOP. -/
def regionWord : Instr → Bool
  | .nop | .halt | .idem | .idemEnd | .csrr _ _ | .csrw _ _ | .add _ _ _ | .sub _ _ _ | .mul _ _ _ | .mulh _ _ _
  | .mulhu _ _ _ | .div _ _ _ | .divu _ _ _ | .rem _ _ _ | .remu _ _ _ | .and _ _ _ | .or _ _ _ | .xor _ _ _
  | .shl _ _ _ | .shr _ _ _ | .sar _ _ _ | .min _ _ _ | .max _ _ _ | .minu _ _ _ | .maxu _ _ _ | .slt _ _ _
  | .sltu _ _ _ | .seq _ _ _ | .sel _ _ _ _ | .li _ _ | .lih _ _ | .clz _ _ | .popc _ _ | .bext _ _ _ _
  | .bextS _ _ _ _ | .bins _ _ _ _ | .madd _ _ _ _ | .fopAdd _ _ _ _ | .fopSub _ _ _ _ | .fopMul _ _ _ _
  | .fopMin _ _ _ | .fopMax _ _ _ | .fopEq _ _ _ | .fopLt _ _ _ | .fopLe _ _ _ | .cvtsfIf _ _ _ | .cvtsfFi _ _ _
  | .bc _ _ _ _ | .j _ | .jr _ _ | .call _ _ | .ret _ | .loop _ _ _ | .lpbrk _
  | .ld _ _ _ _ _ _ _ _ | .pref _ _ _ | .st _ _ _ _ | .qld _ _ _ _ | .qldx _ _ _ _ _ | .tget _ _ _ _ _
  | .cpseq _ _ | .cpseqClr | .cpsrcBase _ | .cpsrcStride _ _ | .cpsrcWin _ _ _ | .cpdstBase _ | .cpdstBaseTile _
  | .cpdstStride _ _ | .cpdstWin _ _ _ | .cpidx _ _ _ | .cpidxOff | .cpswz _ | .cpgo _ _ _ _ | .cpstat _ _ _
  | .lookup _ _ _ _ _ _ _ _ | .update _ _ _ _ _ _ _ | .lkstat _ _ _ | .tlwait _ _ => true
  | _ => false

/-- The word after one at `pc` that is no taken branch, with the counts R160 leaves: the next address, lpc0, lpc1. -/
def loopRule (s : Stream) (pc : Word) : Word × Word × Word :=
  let level0 (lpc1 : Word) : Word × Word × Word :=
    if s.lpc0 ≠ 0 ∧ pc = s.lpe0 then
      if 1 < s.lpc0.toNat then (s.lps0, s.lpc0 - 1, lpc1) else (pc + 8, 0, lpc1)
    else (pc + 8, s.lpc0, lpc1)
  if s.lpc1 ≠ 0 ∧ pc = s.lpe1 then
    if 1 < s.lpc1.toNat then (s.lps1, s.lpc0, s.lpc1 - 1) else level0 0
  else level0 s.lpc1

/-- What R231 and R233 to R235 give an integer word: its latency (R149), its destination and its result, in integer
arithmetic. -/
def integerResult (i : Instr) (c : Ctx) : Option (Nat × Dst × Word) :=
  match i with
  | .add d x y => some (1, d, word64 ((c.src x).toInt + (c.src y).toInt))
  | .sub d x y => some (1, d, word64 ((c.src x).toInt - (c.src y).toInt))
  | .mul d x y => some (3, d, word64 ((c.src x).toInt * (c.src y).toInt))
  | .mulh d x y => some (3, d, word64 ((c.src x).toInt * (c.src y).toInt / 2 ^ 64))
  | .mulhu d x y => some (3, d, word64 ((c.src x).toNat * (c.src y).toNat / 2 ^ 64))
  | .and d x y => some (1, d, c.src x &&& c.src y)
  | .or d x y => some (1, d, c.src x ||| c.src y)
  | .xor d x y => some (1, d, c.src x ^^^ c.src y)
  | .shl d x y => some (1, d, word64 ((c.src x).toNat * 2 ^ ((c.src y).toNat % 64)))
  | .shr d x y => some (1, d, word64 ((c.src x).toNat / 2 ^ ((c.src y).toNat % 64)))
  | .sar d x y => some (1, d, word64 ((c.src x).toInt / 2 ^ ((c.src y).toNat % 64)))
  | .min d x y => some (1, d, word64 (Min.min (c.src x).toInt (c.src y).toInt))
  | .max d x y => some (1, d, word64 (Max.max (c.src x).toInt (c.src y).toInt))
  | .minu d x y => some (1, d, word64 (Min.min (c.src x).toNat (c.src y).toNat))
  | .maxu d x y => some (1, d, word64 (Max.max (c.src x).toNat (c.src y).toNat))
  | .slt d x y => some (1, d, if (c.src x).toInt < (c.src y).toInt then 1 else 0)
  | .sltu d x y => some (1, d, if (c.src x).toNat < (c.src y).toNat then 1 else 0)
  | .seq d x y => some (1, d, if c.src x = c.src y then 1 else 0)
  | .sel d k x y => some (1, d, if c.s.main k ≠ 0 then c.src x else c.src y)
  | .li d v => some (1, d, word64 v.toInt)
  | .lih d v => some (1, d, word64 (v.toNat * 2 ^ 32 + (c.dst d).toNat % 2 ^ 32))
  | .clz d x => some (1, d, word64 ((List.range 64).countP fun n => decide ((c.src x).toNat < 2 ^ n)))
  | .popc d x => some (1, d, word64 ((List.range 64).countP fun n => (c.src x).getLsbD n))
  | .bext d x p n => some (1, d, word64 ((c.reg x).toNat / 2 ^ p.toNat % 2 ^ n.toNat))
  | .bextS d x p n =>
    let v : Int := (c.reg x).toNat / 2 ^ p.toNat % 2 ^ n.toNat
    some (1, d, word64 (if v < 2 ^ (n.toNat - 1) then v else v - 2 ^ n.toNat))
  | .bins d x p n =>
    let r := (c.dst d).toNat
    some
      (1, d,
        word64
          (r / 2 ^ (p.toNat + n.toNat) * 2 ^ (p.toNat + n.toNat) + (c.reg x).toNat % 2 ^ n.toNat * 2 ^ p.toNat +
            r % 2 ^ p.toNat))
  | .madd d x y k => some (3, d, word64 ((c.src x).toInt * (c.src y).toInt + (c.s.main k).toInt))
  | _ => none

/-- What R232 gives a division word: its destination and its result. -/
def divisionResult (i : Instr) (c : Ctx) : Option (Dst × Word) :=
  match i with
  | .div d x y =>
    some (d, if (c.src y).toInt = 0 then word64 (-1) else word64 ((c.src x).toInt.tdiv (c.src y).toInt))
  | .divu d x y =>
    some (d, if (c.src y).toNat = 0 then 0xFFFFFFFFFFFFFFFF else word64 ((c.src x).toNat / (c.src y).toNat))
  | .rem d x y => some (d, if (c.src y).toInt = 0 then c.src x else word64 ((c.src x).toInt.tmod (c.src y).toInt))
  | .remu d x y => some (d, if (c.src y).toNat = 0 then c.src x else word64 ((c.src x).toNat % (c.src y).toNat))
  | _ => none

/-- The FP32 value in the low half of a register (R236). -/
def value32 (w : Word) : FVal := fDec fp32 (w.toNat % 2 ^ 32)

/-- The order of two FP32 values; none when one is a NaN (R195, R236). -/
def order32 (x y : Word) : Option Ordering :=
  if value32 x = .nan ∨ value32 y = .nan then none else some (fCmpV (value32 x) (value32 y))

/-- What R236 and R237 give an FP32 word: its latency (R149), its destination and its result. -/
def floatResult (i : Instr) (c : Ctx) : Option (Nat × Dst × Word) :=
  match i with
  | .fopAdd d x y rtz => some (4, d, w64 (fRnd fp32 rtz false (fAddV (value32 (c.src x)) (value32 (c.src y)))))
  | .fopSub d x y rtz => some (4, d, w64 (fRnd fp32 rtz false (fAddV (value32 (c.src x)) (fNegV (value32 (c.src y))))))
  | .fopMul d x y rtz => some (4, d, w64 (fRnd fp32 rtz false (fMulV (value32 (c.src x)) (value32 (c.src y)))))
  | .fopMin d x y => some (4, d, w64 (fMin fp32 ((c.src x).toNat % 2 ^ 32) ((c.src y).toNat % 2 ^ 32)))
  | .fopMax d x y => some (4, d, w64 (fMax fp32 ((c.src x).toNat % 2 ^ 32) ((c.src y).toNat % 2 ^ 32)))
  | .fopEq d x y => some (4, d, if order32 (c.src x) (c.src y) = some .eq then 1 else 0)
  | .fopLt d x y => some (4, d, if order32 (c.src x) (c.src y) = some .lt then 1 else 0)
  | .fopLe d x y =>
    some (4, d, if order32 (c.src x) (c.src y) = some .lt ∨ order32 (c.src x) (c.src y) = some .eq then 1 else 0)
  | .cvtsfIf d x rtz =>
    some (3, d, w64 (fRnd fp32 rtz false (.fin (decide ((c.src x).toInt < 0)) (c.src x).toInt.natAbs 0 false)))
  | .cvtsfFi d x rtz => some (3, d, word64 (vToRange rtz (-(2 ^ 63)) (2 ^ 63 - 1) (value32 (c.src x))))
  | _ => none

/-- The conditions of BC (R238). -/
def branchHolds (k : Cond) (x y : Word) : Prop :=
  match k with
  | .eq => x = y
  | .ne => x ≠ y
  | .lt => x.toInt < y.toInt
  | .ge => y.toInt ≤ x.toInt
  | .ltu => x.toNat < y.toNat
  | .geu => y.toNat ≤ x.toNat

/-- The address `off` words away from `pc` (R170, R238). -/
def offsetBy (pc : Word) (off : BitVec 24) : Word := word64 (pc.toInt + 8 * off.toInt)

/-- A control transfer ends as a taken branch when it leaves the sequence, and as any word when it does not (R160). -/
def transferEnd (M : Mach) (pc target : Word) : Res := if target = pc + 8 then .done M else .jump M target

/-- The illegal-operand trap of a word (R395). -/
def badOperand (k : Cur) : TrapInfo := ⟨0x13, false, k.raw, 0, [], false⟩

/-- The opcode, operands and compare register of an atomic word (R253). -/
def atomOf (i : Instr) (c : Ctx) : Option (Nat × AtomArgs × Word) :=
  match i with
  | .aadd a => some (0x50, a, 0)
  | .aand a => some (0x51, a, 0)
  | .aor a => some (0x52, a, 0)
  | .axor a => some (0x53, a, 0)
  | .amin a => some (0x54, a, 0)
  | .amax a => some (0x55, a, 0)
  | .aminu a => some (0x56, a, 0)
  | .amaxu a => some (0x57, a, 0)
  | .axchg a => some (0x58, a, 0)
  | .acas a x => some (0x59, a, c.reg x)
  | .afadd a => some (0x5A, a, 0)
  | _ => none

/-- Bytes of an atomic's element (R252). -/
def atomBytes (a : AtomArgs) : Nat := if a.w then 8 else 4

/-- The kind of an ACQ word, with its destination, object register, scope and the number of .ge's operand register (R95,
R258). -/
def acqOf (i : Instr) (c : Ctx) : Option (AcqKind × Dst × Reg × Scope × Nat) :=
  match i with
  | .acqGe d o sc n => some (.ge (c.s.main n).toNat, d, o, sc, n.toNat)
  | .acqNw d o sc => some (.nw, d, o, sc, 0)
  | .acqX d o sc => some (.x, d, o, sc, 0)
  | _ => none

/-- The form, registers and fields of a PUSH or POP word (R343). -/
def queueOf (i : Instr) (c : Ctx) : Option (Reg × QForm × QArgs × List (Dst × Word)) :=
  match i with
  | .push d o lo hi q => some (o, .push (BitVec.ofNat 128 ((c.reg lo).toNat + 2 ^ 64 * (c.reg hi).toNat)), q, [(d, 0)])
  | .popN d o lo hi q => some (o, .popN, q, [(d, 0), (lo, 0), (hi, 0)])
  | .popW d o lo hi q => some (o, .popW, q, [(d, 0), (lo, 0), (hi, 0)])
  | _ => none

/-- The function of a QOCTL word (R119). -/
def ctlOf (i : Instr) : Option (Dst × Reg × QFn) :=
  match i with
  | .qoctlEn d o => some (d, o, .en)
  | .qoctlDis d o => some (d, o, .dis)
  | .qoctlCnt d o => some (d, o, .cnt)
  | _ => none

/-- A grid word's position names an owner of a sealed grid, and the owner's table entry `e` has been read after the
stream's own stores, leaving the machine `M` (R82, R137, R345, R346). -/
structure OwnerRead (c : Ctx) (x : Reg) (p : GPos) (e : List Word) (M : Mach) : Prop where
  pos : c.gridPos x = some p
  below : p.own < gOwners p.g
  read : ∃ N, readEntry (toHomes c.M c.mem.ref c.st) c.mem c.tag none p.g p.own = .entry N e ∧ M = dropFetched N c.mem.ref c.tag

/-- A word that reads halo cells at a joined owner's position below 2^31; `pa` is where the owner's state block lies and
`v` the verdict of R141 on the milestones of `regs`. -/
structure HaloRead (c : Ctx) (x : Reg) (p : GPos) (e : List Word) (M : Mach) (regs : List Nat) (pa : Nat)
    (v : MsState × Nat) : Prop where
  owner : OwnerRead c x p e M
  joined : c.mem.joinedAs p.g p.own = true
  ms : p.ms < 2 ^ 31
  state : statePa M c.mem .read e = .ok pa
  verdict : msVerdict M (regs.map fun r => (pa + 0x100 + 4 * (27 * (p.ms % (gDepth p.g + 1)) + r), r)) p.ms = v

/-- What a milestone asks of a reader at position `ms`: it traps HALO_LATE at the late region, waits while a region is
stalled, and goes on as `next` once it is accepted (R141). -/
def HaloEnds (i : Instr) (s : State) (k : Cur) (m : Member) (p : GPos) (M : Mach) (regs : List Nat) (pa : Nat)
    (v : MsState × Nat) (next : Prop) : Prop :=
  (v.1 = .late → Traps i s k m ⟨0x17, false, k.raw, w64 v.2, [], false⟩) ∧
  (v.1 = .stall →
    Ends i s k m
      (.waitOn M .grid
        (.milestone (regs.map fun r => (pa + 0x100 + 4 * (27 * (p.ms % (gDepth p.g + 1)) + r), r)) p.ms
          (gTimeout p.g)))) ∧
  (v.1 = .accept → next)

/-- A launched command word: it is `run` under the next number of its counter, engine event `ev` is raised for it, and
its number is the word's result (R102). -/
def launched (c : Ctx) (M : Mach) (tc : BitVec 2) (run : CmdRun) (d : Dst) (ev : CmdRef → Event) : Res :=
  let l := c.issueCmd M tc run
  .done (c.resultOn (l.1.raise 1 (ev l.2)) 1 d (w64 l.2.num))

/-- What R274 to R282, R284 and R287 compute for a vector word that maps the elements of X, Y and old D: the rows, whether
the old D is read, and the element function; a float result is rounded once. -/
def elementOf (i : Instr) : Option (VArgs3 × Bool × (Nat → Nat → Nat → Nat)) :=
  let arith (v : VArgs3) (sat : Bool) (fi : Int → Int → Int → Int) (ff : FFmt → Nat → Nat → Nat → Nat)
      (x y d : Nat) : Nat :=
    if v.ty.isI then
      let r := fi (vInt v.ty x) (vInt v.ty y) (vInt v.ty d)
      unsgn (vBits v.ty) (if sat then satS (vBits v.ty) r else r)
    else if v.ty.isN then rnEnc (fi (rnVal x) (rnVal y) (rnVal d))
    else ff (vFmt v.ty) x y d
  let ones (v : VArgs3) : Nat := 2 ^ vBits v.ty
  match i with
  | .vadd v =>
    some (v, false, arith v v.m.sat (fun x y _ => x + y) fun f x y _ => fRnd f false false (fAddV (fDec f x) (fDec f y)))
  | .vsub v =>
    some
      (v, false,
        arith v v.m.sat (fun x y _ => x - y) fun f x y _ => fRnd f false false (fAddV (fDec f x) (fNegV (fDec f y))))
  | .vmul v =>
    some (v, false, arith v v.m.sat (fun x y _ => x * y) fun f x y _ => fRnd f false false (fMulV (fDec f x) (fDec f y)))
  | .vfma v =>
    some
      (v, true,
        arith v v.m.sat (fun x y d => x * y + d) fun f x y d =>
          fRnd f false false (fAddV (fMulV (fDec f x) (fDec f y)) (fDec f d)))
  | .vmin v => some (v, false, arith v false (fun x y _ => Min.min x y) fun f x y _ => fMin f x y)
  | .vmax v => some (v, false, arith v false (fun x y _ => Max.max x y) fun f x y _ => fMax f x y)
  | .vclmp v =>
    some (v, false, arith v false (fun x y _ => Min.min (Max.max x (-y)) y) fun f x y _ => fMin f (fMax f x (fNegC f y)) y)
  | .vand v => some (v, false, fun x y _ => x &&& y)
  | .vor v => some (v, false, fun x y _ => x ||| y)
  | .vxor v => some (v, false, fun x y _ => x ^^^ y)
  | .vshl v =>
    some
      (v, false, fun x y _ =>
        if v.m.sat then unsgn (vBits v.ty) (satS (vBits v.ty) (vInt v.ty x * 2 ^ Min.min y (vBits v.ty)))
        else if vBits v.ty ≤ y then 0 else x * 2 ^ y % ones v)
  | .vshr v => some (v, false, fun x y _ => if vBits v.ty ≤ y then 0 else x / 2 ^ y)
  | .vsar v => some (v, false, fun x y _ => unsgn (vBits v.ty) (vInt v.ty x / 2 ^ Min.min y (vBits v.ty)))
  | .vcmp v =>
    some
      (v, false, fun x y _ =>
        let o : Option Ordering :=
          if v.ty.isI then some (compare (vInt v.ty x) (vInt v.ty y))
          else if v.ty.isN then some (compare (rnVal x) (rnVal y))
          else if fDec (vFmt v.ty) x = .nan ∨ fDec (vFmt v.ty) y = .nan then none
          else some (fCmpV (fDec (vFmt v.ty) x) (fDec (vFmt v.ty) y))
        if o = some .lt then ones v - 1 else if o = some .eq then 0 else if o = some .gt then 1 else 2)
  | .vsel v => some (v, true, fun x y d => if d.testBit (vBits v.ty - 1) then x else y)
  | .vscale v => some (v, false, fun x y _ => vScale v.ty x y)
  | _ => none

/-- What a vector word with one source run makes of its elements, in run order (R275, R278, R285, R287). -/
def runOf (i : Instr) : Option (VArgs2 × (List Nat → List Nat)) :=
  let arith (v : VArgs2) (fi : Int → Int) (ff : FFmt → Nat → Nat) (x : Nat) : Nat :=
    if v.ty.isI then unsgn (vBits v.ty) (if v.m.sat then satS (vBits v.ty) (fi (vInt v.ty x)) else fi (vInt v.ty x))
    else if v.ty.isN then rnEnc (fi (rnVal x))
    else ff (vFmt v.ty) x
  let permute (v : VArgs2) (g : Nat → Nat) (xs : List Nat) : List Nat :=
    (chunks v.ty.count (xs.length / v.ty.count) xs).flatMap fun row =>
      (List.range v.ty.count).map fun e => if g e < v.ty.count then row.getD (g e) 0 else 0
  match i with
  | .vabs v =>
    some (v, List.map (arith v (fun x => x.natAbs) fun f x => if fDec f x = .nan then f.nan else x % f.sign))
  | .vneg v =>
    some
      (v,
        List.map
          (arith v (fun x => -x) fun f x =>
            if fDec f x = .nan then f.nan else if x < f.sign then x + f.sign else x - f.sign))
  | .vnot v => some (v, List.map fun x => 2 ^ vBits v.ty - 1 - x)
  | .vexp2 v => some (v, List.map (fnExp2 (vFmt v.ty)))
  | .vlog2 v => some (v, List.map (fnLog2 (vFmt v.ty)))
  | .vrcp v => some (v, List.map (fnRcp (vFmt v.ty)))
  | .vrsq v => some (v, List.map (fnRsq (vFmt v.ty)))
  | .vscan v => some (v, vScanFrom v.ty v.m.sat none)
  | .vshufRot v n => some (v, permute v fun e => (e + n.toNat) % v.ty.count)
  | .vshufRev v => some (v, permute v fun e => v.ty.count - 1 - e)
  | .vshufUnzip v =>
    some (v, permute v fun e => if e < v.ty.count / 2 then 2 * e else 2 * (e - v.ty.count / 2) + 1)
  | .vshufZip v => some (v, permute v fun e => if e % 2 = 0 then e / 2 else v.ty.count / 2 + (e - 1) / 2)
  | _ => none

/-- What a conversion makes of an element, with the type of its source (R281, R282). -/
def conversionOf (i : Instr) (c : Ctx) : Option (VArgs2 × VType × (Nat → Nat)) :=
  match i with
  | .vcvt v src rtz => some (v, src, vConvert src v.ty rtz v.m.sat)
  | .vqnt v src rtz r => some (v, src, vScaleTo src v.ty rtz v.m.sat ((c.reg r).toNat % 2 ^ 32))
  | .vdqn v src rtz r => some (v, src, vScaleTo src v.ty rtz v.m.sat ((c.reg r).toNat % 2 ^ 32))
  | _ => none

/-- What a reduction gives for the elements of X, and of Y (R283). -/
def reductionOf (i : Instr) : Option (VRed × Option (BitVec 12) × (List Nat → List Nat → Word)) :=
  match i with
  | .vrsum v => some (v, none, fun xs _ => vSum v.ty v.m.sat xs)
  | .vrmax v => some (v, none, fun xs _ => vExtreme v.ty (vMax2 v.ty) xs)
  | .vrmin v => some (v, none, fun xs _ => vExtreme v.ty (vMin2 v.ty) xs)
  | .vdot v y => some (v, some y, vDot v.ty v.m.sat)
  | _ => none

/-- What a vector word with no source run writes at each run index (R276, R286). -/
def constantOf (i : Instr) (c : Ctx) : Option (BitVec 12 × BitVec 3 × VType × (Nat → Nat)) :=
  match i with
  | .vbcst v r => some (v.d, v.run, v.ty, fun _ => (c.reg r).toNat % 2 ^ vBits v.ty)
  | .vmask v r => some (v.d, v.run, v.ty, fun n => if n < (c.reg r).toNat then 2 ^ vBits v.ty - 1 else 0)
  | .vidx v r => some (v.d, v.run, v.ty, fun n => vIdx v.ty v.m.sat ((c.reg r).toInt + n))
  | .vzero d run => some (d, run, .i8, fun _ => 0)
  | _ => none

/-- A vector word may go on: the unit is not occupied, and every tile it checks is readable (R44, R269, R270). -/
def VectorReady (c : Ctx) (u : VUse) : Prop :=
  c.mem.vbusy ≤ c.t + c.mem.skew ∧ ∀ t ∈ u.checked, c.mem.readable t = true

/-- A vector word's end: it acquires for the tiles it checks, has its effect, consumes what it consumes and occupies the
unit for a cycle per four rows of its largest operand (R43, R106, R270). -/
def vectorEnd (c : Ctx) (u : VUse) (effect : Mach → Mach) : Res :=
  let M := effect (acquire c.M c.mem.ref (c.mem.fillScope u.checked))
  .done
    ((u.consumed.foldl (fun M t => consume M c.mem.ref t) M).updMember c.mem.ref fun y =>
      { y with vbusy := c.t + c.mem.skew + (u.rows + 3) / 4 })

/-- A vector word whose unit is occupied freezes the core; a poisoned tile among those it checks traps, and one that is
not readable makes it wait (R44, R152, R269, R270). -/
def VectorHeld (i : Instr) (s : State) (k : Cur) (m : Member) (u : VUse) : Prop :=
  let c := k.ctx s.m m
  (c.t + c.mem.skew < c.mem.vbusy → Ends i s k m (.freeze .vector)) ∧
  (c.mem.vbusy ≤ c.t + c.mem.skew → (∀ t ∈ u.checked, (c.mem.tile t).tag ≠ .poisoned) →
    (∃ t ∈ u.checked, c.mem.readable t = false) → Ends i s k m (.wait .tag (.tagsFull u.checked))) ∧
  (c.mem.vbusy ≤ c.t + c.mem.skew → (∃ t ∈ u.checked, (c.mem.tile t).tag = .poisoned) →
    ∃ t ∈ u.checked, (c.mem.tile t).tag = .poisoned ∧
      Traps i s k m ⟨0x14, false, k.raw, w64 (t + (c.mem.tile t).pcause * 2 ^ 16), [], false⟩)

/-- The event changes one stream of one member to `z` and nothing else of the members, of memory or of the partitions. -/
def ChangesStream (e : Instr) (s : State) (r : MRef) (st : Strm) (m : Member) (z : Stream) : Prop :=
  ∃ N x, Becomes e s N ∧ N.mem = s.m.mem ∧ N.parts = s.m.parts ∧ (∀ q, q ≠ r → N.member q = s.m.member q) ∧
    N.member r = some x ∧ (∀ o, o ≠ st → x.str o = m.str o) ∧ x.str st = z ∧ x.tiles = m.tiles ∧ x.queues = m.queues ∧
    x.mbs = m.mbs

/-- The event lets the stream's waiting word issue from the next cycle on, and does nothing else (R154). -/
def Grants (e : Instr) (s : State) (r : MRef) (st : Strm) (m : Member) (w : Wait) : Prop :=
  ChangesStream e s r st m { m.str st with wait := some { w with granted := some (m.now s.m + 1) } }

/-- A verge event of member `m` has read the table entry `e` of owner `own` of the grid `g`, leaving the machine `N`. -/
structure VergeEntry (M : Mach) (v : VergeRef) (ev : Event) (own : Nat) (m : Member) (g e : List Word) (N : Mach) :
    Prop where
  here : M.member v.m = some m
  read : readEntry M m vergeTag (some ev) g own = .entry N e

/-- A command that may go on: its member, its record, no system fault kept on it, not done, in partition `p`. -/
structure LiveCmd (M : Mach) (r : CmdRef) (m : Member) (c : Cmd) (p : Part) : Prop where
  here : M.member r.m = some m
  cmd : M.cmd r = some c
  part : M.part r.m.part = some p
  healthy : c.sys = none
  going : c.engineDone = false ∧ c.finished = false

/-- The agent's write of a register of partition `part` reaches `p`: the device has power, the partition is there and
the agent is the owner or the firmware (R4, R434). -/
structure Writes (s : State) (ag : RegAgent) (part : Nat) (p : Part) : Prop where
  power : s.host.powered = true
  part : s.m.part part = some p
  admitted : s.host.admits s.m.wclk ag = true

/-- A queue that runs its next command: its partition and its record; no stack of the partition switches. -/
structure RunsQueue (s : State) (r : QueueRef) (p : Part) (q : HQueue) : Prop where
  queue : s.m.queue r = some (p, q)
  running : q.running = true
  free : q.delay = none
  steady : enginesHeld s.m p.id = false

/-- The command is performed, leaving `M`: the queue goes on after it, skipping `n` slots (R374). -/
def Performed (e : Instr) (s : State) (r : QueueRef) (p : Part) (M : Mach) (n : Nat) : Prop :=
  Becomes e s (goOn M p r (1 + n))

/-- The command stops its queue with a status code, nothing of it performed, and the queue's processor goes on with its
other queues (R371, R375). -/
def Stops (e : Instr) (s : State) (r : QueueRef) (p : Part) (code : Nat) : Prop :=
  Becomes e s (kickQueue (stopQueue (dropFetched s.m (cpRef p.id r.q) 0) r code) r)

/-- The command, left in the machine `M`, holds its own queue alone, whose processor goes on with its other queues, and is
tried again 16 cycles later (R371, R374). -/
def HoldsIn (e : Instr) (s : State) (r : QueueRef) (p : Part) (M : Mach) (ev : Event) : Prop :=
  Becomes e s
    (kickQueue
      (((dropFetched M (cpRef p.id r.q) 0).updQueue r fun q => { q with held := true }).raise 16 ev) r)

/-- So when nothing of it has been performed. -/
def Holds (e : Instr) (s : State) (r : QueueRef) (p : Part) (ev : Event) : Prop := HoldsIn e s r p s.m ev

/-- A packet for this device, well-formed, whose turn it is on a connection that stands, and which reaches no stack that
switches; an answer has the size of what was asked (R74, R418, R422). -/
structure InTurn (M : Mach) (p : Packet) (c : Conn) : Prop where
  here : p.dst = M.self
  formed : packetOk p = true
  conn : M.conn ⟨p.dprt, p.src, p.sprt⟩ = some c
  numbered : ¬(p.kind = 7 ∧ p.kspec.toNat % 16 = 3)
  kept : ¬(p.kind = 7 ∧ p.kspec.toNat % 16 = 0 ∧ p.seq = 0)
  stands : c.state ≠ .closed
  fits : rspFits c p = true
  steady : packetHeld M p = false
  turn : p.seq = c.expect

/-- The connection a packet came by. -/
def cameBy (p : Packet) : ConnRef := ⟨p.dprt, p.src, p.sprt⟩

/-- The machine in which a packet that is in turn is performed: its connection expects the next number (R422). -/
def atTurn (M : Mach) (c : Conn) : Mach :=
  M.setConn
    { c with
      expect := seqNext c.expect
      last := M.wclk
      early := c.early.filter fun q => q.seq != seqNext c.expect }

/-- After a packet's own effect: what it acknowledges is taken, its own acknowledgement is due within 256 cycles, and
a packet that came early follows (R422). -/
def afterTurn (N : Mach) (p : Packet) (c : Conn) : Mach :=
  let N := (takeAck N (cameBy p) p.ack).raise 256 (.ackIdleTimeout (cameBy p))
  match c.early.find? fun q => q.seq == seqNext c.expect with
  | some q => N.raise 0 (packetEvent q)
  | none => N

/-- The packet in its turn has the effect `N` on the machine `atTurn`. -/
def Receives (e : Instr) (s : State) (p : Packet) (c : Conn) (N : Mach) : Prop := Becomes e s (afterTurn N p c)

/-- Rows of the table that take a numbered packet, all but CLOSE. -/
def packetRow (e : Instr) (p : Packet) : Prop :=
  e = .rd p ∨ e = .wr p ∨ e = .atom p ∨ e = .arrive p ∨ e = .qop p ∨ e = .obj p ∨ e = .rsp p ∨ e = .openConn p ∨
    e = .openack p ∨ e = .ackOnly p

/-- From `m` to `x` only stream `st` has changed, and of it only its place, its loop counts, its issue counters, its wait
and its results on their way. -/
structure OnlyStream (m x : Member) (st : Strm) : Prop where
  rest : x = { m with c := x.c, a := x.a, v := x.v, x := x.x }
  others : ∀ o, o ≠ st → x.str o = m.str o
  own :
    x.str st =
      { m.str st with
        pc := (x.str st).pc
        lpc0 := (x.str st).lpc0
        lpc1 := (x.str st).lpc1
        last := (x.str st).last
        floor := (x.str st).floor
        nissue := (x.str st).nissue
        nstall := (x.str st).nstall
        wait := (x.str st).wait
        inflight := (x.str st).inflight }

/-- The results a word that changes registers only puts on their way (R231 to R239); none for any other word. -/
def registerResults (i : Instr) (c : Ctx) : Option (List (Nat × Dst × Word)) :=
  match i with
  | .nop => some []
  | .bc _ _ _ _ => some []
  | .j _ => some []
  | .jr _ _ => some []
  | .ret _ => some []
  | .call d _ => some [(1, d, c.pc + 8)]
  | i =>
    match integerResult i c with
    | some r => some [r]
    | none =>
      match divisionResult i c with
      | some (d, v) => some [(20, d, v)]
      | none => (floatResult i c).map fun r => [r]

end Sys2Proof.Machine

open Sys2Proof Sys2Proof.Machine

/-! ### The whole machine -/

/-- A step first lets the waiting words whose condition holds issue from the next cycle on (R154). When the agenda's head
lets a stream issue whose turn it is, the fetch gives a word, its translation is cached, no stopped nest reports and the
bytes decode to `i`, the step is `exec i` of the state with that word as the one being issued and the wall clock brought
to the issue (R151, R152, R167, R179; the agenda is assumption 1). With no agenda, nothing that can happen at once and an
issue as the earliest move, the step is `exec` of the decoded word in the same way (assumption 1). A word that cannot be
fetched traps there with the fault of its fetch (R31); one whose translation is not cached is fetched by a fill before
it can issue (R152); where the nest has stopped, X's next word raises the nest's fault (R314). -/
def Obligations.StepRunsTheDecodedWord : Prop :=
  (∀ (s : State) (r : MRef) (st : Strm) (rest : List Move) (m : Member) (t : Nat) (raw : Word) (i : Instr)
     (tail : List Byte),
     let G : Mach := { grantAll s.m with agenda := rest }
     let W : Mach := { G with wclk := max s.m.wclk (t + m.skew) }
     s.host.powered = true → s.host.boot ≠ .clearing →
     s.m.agenda = .issue r st :: rest → G.member r = some m → attemptAt G m st = some t → m.turn G st t = true →
     fetch W m (m.str st).pc = .ok raw → fetchHit W m (m.str st).pc = true → m.reporting st = none →
     decodeBytes (wordBytes raw) = .ok (i, tail) →
     step s = exec i { s with m := { W with cur := some ⟨r, st, (m.str st).pc, raw⟩ } }) ∧
  (∀ (s : State) (r : MRef) (st : Strm) (rest : List Move) (m : Member) (t : Nat),
     let G : Mach := { grantAll s.m with agenda := rest }
     let W : Mach := { G with wclk := max s.m.wclk (t + m.skew) }
     let pc := (m.str st).pc
     s.host.powered = true → s.host.boot ≠ .clearing →
     s.m.agenda = .issue r st :: rest → G.member r = some m → attemptAt G m st = some t → m.turn G st t = true →
     (∀ f, fetch W m pc = .error f →
       step s = .next { s with m := finish ((⟨r, st, pc, 0⟩ : Cur).ctx W m) (.trap (xlateTrap 0 f .fetch)) }) ∧
     (∀ raw, fetch W m pc = .ok raw → fetchHit W m pc = false →
       step s = exec (.fetchMissFill r st) { s with m := { W with cur := none } }) ∧
     (∀ raw i, fetch W m pc = .ok raw → fetchHit W m pc = true → m.reporting st = some i →
       let c := (⟨r, st, pc, raw⟩ : Cur).ctx W m
       step s =
         .next { s with m := finish c (.trapTaking (raiseOnce c.M 16 (.kStep r)) .nest { i with tval := raw }) })) ∧
  (∀ (s : State) (r : MRef) (st : Strm) (m : Member) (wall rank : Nat) (raw : Word) (i : Instr) (tail : List Byte),
     let G := grantAll s.m
     let W : Mach := { G with wclk := max s.m.wclk wall }
     s.m.agenda = [] → nowEvent G = none → nextInTime G = some (wall, rank, .issue r st) →
     G.member r = some m → m.mayIssue st = true → m.reporting st = none →
     fetch W m (m.str st).pc = .ok raw → fetchHit W m (m.str st).pc = true →
     decodeBytes (wordBytes raw) = .ok (i, tail) →
     step s = exec i { s with m := { W with cur := some ⟨r, st, (m.str st).pc, raw⟩ } })

/-- A raised event that the time has come for is executed as the row of the table with its name, with no word being
issued: shown for a row of each family of events. Three ways lead there, all of the model's default order
(assumption 1): the event stands at the head of the agenda, where claims made together come in the order of R434; with no
agenda, it can happen at once; or its due time is the earliest of all that can happen, and no other raised event is
due before it. A device without power takes no event of the agenda but POWER_UP (R439), and one that is clearing takes
none but those of its host side (R435). -/
def Obligations.EventsRunTheirRows : Prop :=
  (∀ m slot s, runEvent (.dataLanding m slot) s = exec (.dataLanding m slot) s) ∧
  (∀ a s, runEvent (.arrival a) s = exec (.arrival a) s) ∧
  (∀ op s, runEvent (.queueHomeService op) s = exec (.queueHomeService op) s) ∧
  (∀ v s, runEvent (.vergeWriteStart v) s = exec (.vergeWriteStart v) s) ∧
  (∀ c s, runEvent (.copyElement c) s = exec (.copyElement c) s) ∧
  (∀ ag part v s, runEvent (.ptrootWrite ag part v) s = exec (.ptrootWrite ag part v) s) ∧
  (∀ q k s, runEvent (.launch q k) s = exec (.launch q k) s) ∧
  (∀ m s, runEvent (.save m) s = exec (.save m) s) ∧
  (∀ p s, runEvent (.rd p) s = exec (.rd p) s) ∧
  (∀ ag s, runEvent (.claim ag) s = exec (.claim ag) s) ∧
  (∀ (s : State) (e : Event) (rest : List Move), orderClaims s.m.agenda = .event e :: rest →
    let G : Mach := { grantAll s.m with agenda := rest }
    (s.host.powered = false → e ≠ .powerUp → step s = .next { s with m := G }) ∧
    (s.host.boot = .clearing → hostEvent e = false → step s = .next { s with m := G }) ∧
    (s.host.powered = true ∧ s.host.boot ≠ .clearing ∨ s.host.powered = true ∧ hostEvent e = true ∨
        s.host.powered = false ∧ e = .powerUp →
      step s =
        runEvent e
          { s with
            m :=
              { G with
                wclk := max s.m.wclk 0
                cur := none
                pending := dropFirst (fun d => d.ev == e && d.due ≤ max s.m.wclk 0) s.m.pending } })) ∧
  (∀ mv rest, Move.claim mv = none → orderClaims (mv :: rest) = mv :: rest) ∧
  (∀ a b rest, a.code < b.code → (∀ mv ∈ rest.head?, Move.claim mv = none) →
    orderClaims (.event (.claim b) :: .event (.claim a) :: rest) = .event (.claim a) :: .event (.claim b) :: rest) ∧
  (∀ (s : State) (e : Event), s.m.agenda = [] →
    let G := grantAll s.m
    (nowEvent G = some e →
      step s =
        runEvent e
          { s with
            m :=
              { G with
                wclk := max s.m.wclk 0
                cur := none
                pending := dropFirst (fun d => d.ev == e && d.due ≤ max s.m.wclk 0) s.m.pending } }) ∧
    (∀ wall rank, nowEvent G = none → nextInTime G = some (wall, rank, .event e) →
      (∀ d ∈ s.m.pending, wall ≤ d.due) ∧
      step s =
        runEvent e
          { s with
            m :=
              { G with
                wclk := max s.m.wclk wall
                cur := none
                pending := dropFirst (fun d => d.ev == e && d.due ≤ max s.m.wclk wall) s.m.pending } }))

/-- Every step goes on: no state faults or refuses. -/
def Obligations.EveryStepGoesOn : Prop :=
  ∀ s : State, GoesOn s

/-- No row of the table is refused, in any state; the only fault is a word that no stream is issuing. No word of a
stream changes the host side: ownership, boot, attestation, power and links. -/
def Obligations.NothingIsRefusedAndTheHostSideStays : Prop :=
  (∀ (i : Instr) (s : State),
     (∀ r, exec i s ≠ .refused r) ∧ (∀ f, exec i s = .fault f → IsWord i ∧ s.m.issuer = none)) ∧
  (∀ (i : Instr) (s t : State), IsWord i → exec i s = .next t → t.host = s.host)

/-- The host side is sound after reset (R431, R435, R438, R439). -/
def Obligations.HostSideSoundAtReset : Prop :=
  State.reset.host.Sound

/-- Every step keeps the host side sound, from every state in which it is. -/
def Obligations.HostSideStaysSound : Prop :=
  ∀ s t : State, s.host.Sound → step s = .next t → t.host.Sound

/-- What reset leaves: CLEARING with the clearing's end to come, no owner, GO clear, the limit at 7,000 W, no trip,
the wall clock at zero, every byte of memory zero, nothing poisoned, no partition and no member (R431, R435,
R439). -/
def Obligations.ResetIsClearing : Prop :=
  let h := State.reset.host
  let M := State.reset.m
  h.boot = .clearing ∧ h.powered = true ∧ h.owner = none ∧ h.go = false ∧ h.limw = 7000 ∧ h.throttled = false ∧
    h.trip = false ∧ M.wclk = 0 ∧ (∀ a, memGet M.mem a = 0) ∧ Memory.wf M.mem = true ∧ M.poison = [] ∧
    M.parts = [] ∧ M.members = [] ∧ M.pending = [⟨.clearingComplete, 1⟩]

/-! ### Encoding -/

/-- The decoder reads every word the encoder writes for a well-formed instruction, with any IDLE. -/
def Obligations.DecodeReadsWhatEncodeWrites : Prop :=
  ∀ (i : Instr) (idle : BitVec 10), i.wf = true → decode (encode idle i) = .ok i

/-- Each word has one meaning: what decodes is the encoding of a well-formed instruction of a stream, so a word with a
non-zero unused field or a reserved value decodes to nothing (R178, R179). The opcodes the map of R176 leaves out
are reserved, whatever stands in the other fields. -/
def Obligations.DecodedWordsAreEncodings : Prop :=
  (∀ (w : Word) (i : Instr), decode w = .ok i → i.wf = true ∧ IsWord i ∧ encode (wordIdle w) i = w) ∧
  (∀ w : Word,
     let op := (wordOp w).toNat
     decode w = .error .reservedOpcode ↔
       (0x0A ≤ op ∧ op ≤ 0x0F) ∨ (0x37 ≤ op ∧ op ≤ 0x3F) ∨ (0x47 ≤ op ∧ op ≤ 0x4F) ∨ (0x5C ≤ op ∧ op ≤ 0x5F) ∨
         (0x6E ≤ op ∧ op ≤ 0x6F) ∨ op = 0x73 ∨ (0x78 ≤ op ∧ op ≤ 0x7F) ∨ (0x87 ≤ op ∧ op ≤ 0x8F) ∨
         (0x97 ≤ op ∧ op ≤ 0x9F) ∨ (0xA7 ≤ op ∧ op ≤ 0xAF) ∨ (0xD9 ≤ op ∧ op ≤ 0xDF) ∨ 0xEC ≤ op)

/-- Words of the spec's own examples, and the all-zero word, decode to what the examples say (R180, R241). -/
def Obligations.ExampleWordsDecode : Prop :=
  decode 0 = .ok .nop ∧
  decode 0x0001424000000005 = .ok (.csrr (.s 9) .lpc1) ∧
  decode 0x000C020304FFFFFC = .ok (.bc .lt (.s 3) (.s 4) 0xFFFFFC) ∧
  decode 0x000D410500000003 = .ok (.loop true (.s 5) 3)

/-- A word that is no instruction raises ILL_INSTR with the word as its value (R179). A word on a stream that may not
issue it raises ILL_INSTR at that word (R144). While an idempotent region is open, every word of A that R163 does not
list raises ILL_INSTR at that word and has no other effect; of copies, CPGO of a mode other than row-gather does so by
its own statement. -/
def Obligations.IllegalWordsTrap : Prop :=
  (∀ (s : State) (r : MRef) (st : Strm) (rest : List Move) (m : Member) (t : Nat) (raw : Word) (e : Reject),
     let G : Mach := { grantAll s.m with agenda := rest }
     let W : Mach := { G with wclk := max s.m.wclk (t + m.skew) }
     s.host.powered = true → s.host.boot ≠ .clearing →
     s.m.agenda = .issue r st :: rest → G.member r = some m → attemptAt G m st = some t → m.turn G st t = true →
     fetch W m (m.str st).pc = .ok raw → fetchHit W m (m.str st).pc = true → m.reporting st = none →
     decodeBytes (wordBytes raw) = .error e →
     step s =
       .next
         { s with
           m := finish ((⟨r, st, (m.str st).pc, raw⟩ : Cur).ctx W m) (.trap ⟨0x12, false, raw, 0, [], false⟩) }) ∧
  (∀ (i : Instr) (s : State) (k : Cur) (m : Member),
     IsWord i → s.m.issuer = some (k, m) → i.validOn k.st = false →
     Traps i s k m ⟨0x12, false, k.raw, 0, [], false⟩) ∧
  (∀ (i : Instr) (s : State) (k : Cur) (m : Member),
     IsWord i → s.m.issuer = some (k, m) → k.st = .a → m.region ≠ none → regionWord i = false →
     Traps i s k m ⟨0x12, false, k.raw, 0, [], false⟩)

/-! ### Issue, results in time, loops, traps, addresses -/

/-- What an issued word leaves beside its own effect, when no trap of the cycle waits: its stream's last issue is the
cycle, the next no earlier than one later, its place is the one the hardware loops choose, nissue has gone up by
one and nstall by the cycles of a named wait, no wait is left, and the registers, the latch and the results on
their way are those of `M`; so are every other stream, every other member and every byte of memory (R151, R154,
R229). A word in a named wait has not issued: its stream keeps its program counter, registers, latch, results on
their way and counters, memory and every other member are as they were, and the stream holds the wait with the
cycle it began in (R154). -/
def Obligations.IssuedWordsAdvanceTheirStream : Prop :=
  (∀ (c : Ctx) (M : Mach) (m : Member),
     M.member c.mem.ref = some m → m.raised = [] →
     let N := finish c (.done M)
     ∃ x, N.member c.mem.ref = some x ∧
       (x.str c.st).last = c.t ∧ (x.str c.st).floor = c.t + 1 ∧
       (x.str c.st).nissue = (m.str c.st).nissue + 1 ∧
       (x.str c.st).nstall =
         (m.str c.st).nstall + (match (c.mem.str c.st).wait with
           | some w => c.t - w.since
           | none => 0) ∧
       (x.str c.st).wait = none ∧
       (x.str c.st).s = (m.str c.st).s ∧ (x.str c.st).o = (m.str c.st).o ∧ (x.str c.st).lat = (m.str c.st).lat ∧
       (x.str c.st).inflight = (m.str c.st).inflight ∧
       (∀ st, st ≠ c.st → x.str st = m.str st) ∧
       (let next := (m.str c.st).advance c.pc m.handler.isSome
       (x.str c.st).pc = next.pc ∧ (x.str c.st).lpc0 = next.lpc0 ∧ (x.str c.st).lpc1 = next.lpc1) ∧
       (∀ r, r ≠ c.mem.ref → N.member r = M.member r) ∧ N.mem = M.mem ∧ N.parts = M.parts) ∧
  (∀ (c : Ctx) (k : WaitKind) (cond : WaitCond) (m : Member),
     c.M.member c.mem.ref = some m → m.raised = [] →
     let N := finish c (.wait k cond)
     N.mem = c.M.mem ∧ (∀ r, r ≠ c.mem.ref → N.member r = c.M.member r) ∧
       ∃ x w, N.member c.mem.ref = some x ∧ (x.str c.st).wait = some w ∧ w.kind = k ∧ w.cond = cond ∧ w.granted = none ∧
         w.tried = c.t ∧ ((m.str c.st).wait = none → w.since = c.t) ∧
         (∀ o, (m.str c.st).wait = some o → w.since = o.since ∧ w.turn = o.turn) ∧
         { x.str c.st with wait := (m.str c.st).wait } = m.str c.st ∧ (∀ st, st ≠ c.st → x.str st = m.str st))

/-- The hardware loops choose the next word and change only the counts, outside a handler; inside one no level matches
and every loop register keeps its value (R160, R162). -/
def Obligations.LoopsChooseTheNextWord : Prop :=
  ∀ (s : Stream) (pc : Word),
    s.advance pc false = { s with pc := (loopRule s pc).1, lpc0 := (loopRule s pc).2.1, lpc1 := (loopRule s pc).2.2 } ∧
      s.advance pc true = { s with pc := pc + 8 }

/-- A result of latency L of a word issued in cycle t reaches the latch in cycle t + L and its register in cycle t + L
+ 1, and no register before; a write to s0 or to special zero reaches the latch alone (R147, R149). Of two results
for one register, the one that lands in the later cycle stands, and of two that land in one cycle the one of the
later issue, in whatever order they were issued (R150). -/
def Obligations.ResultsLandInTheirCycles : Prop :=
  (∀ (s : Stream) (t lat u : Nat) (d : Dst) (v : Word),
     let s' := { s with inflight := [⟨t + lat, t, [(d, v)], false, none⟩] }
     (u < t + lat → (s'.settle u).lat = s.lat) ∧
     (u < t + lat + 1 → (s'.settle u).s = s.s ∧ (s'.settle u).o = s.o) ∧
     (t + lat ≤ u → (s'.settle u).lat = v) ∧
     (t + lat + 1 ≤ u →
       (s'.settle u).inflight = [] ∧
       (∀ n : BitVec 5, (s'.settle u).main n = if d = .s n ∧ n ≠ 0 then v else s.main n) ∧
       (∀ n : BitVec 3, (s'.settle u).o[n.toNat]'n.isLt = if d = .o n then v else s.o[n.toNat]'n.isLt))) ∧
  (∀ (s : Stream) (f g : InFlight) (d : Dst) (v w : Word) (u : Nat) (swap : Bool),
     f.writes = [(d, v)] → g.writes = [(d, w)] → f.slot = none → g.slot = none →
     f.latched = false → g.latched = false →
     (f.due < g.due ∨ (f.due = g.due ∧ f.iss < g.iss)) → g.due + 1 ≤ u →
     let s' := { s with inflight := if swap then [g, f] else [f, g] }
     (s'.settle u).lat = w ∧
       (∀ n : BitVec 5, (s'.settle u).main n = if d = .s n ∧ n ≠ 0 then w else s.main n) ∧
       (∀ n : BitVec 3, (s'.settle u).o[n.toNat]'n.isLt = if d = .o n then w else s.o[n.toNat]'n.isLt))

/-- Taking a program trap at cycle τ with a handler set up and none running: the trap record is written, ACQs under way at
other devices are withdrawn (R259), and of the member tcause, tstrm, tepc and tval hold the trap, tepc the word's address or for TRAP and BRK the next one's;
every result on its way and every latch are set aside; C issues from tvec, no earlier than the next cycle; tiles,
queues, mailboxes, handles, counters, tvec, tscr and the main and operand files stay (R158, R223, R228). A system
trap, a trap while a handler runs and a trap with tvec zero are escalated: the record says so, the trap CSRs are
written, the core stays frozen, and the firmware is told; its notice holds the trap's cause and the member, and its
RESUME lets the core go on, the trapped stream at the edited address (R228, R395, R401). The layout of that notice
(assumption 8), C's earliest next issue (assumption 20) and an edit of TEPC standing before one of PC (assumption 23) are
the model's choices. -/
def Obligations.TrapsAreTakenOrEscalated : Prop :=
  (∀ (M : Mach) (m : Member) (st : Strm) (i : TrapInfo) (tau : Nat),
     i.system = false → m.handler = none → m.tvec ≠ 0 →
     ∃ x h,
       takeTrap M m st i tau =
         (settleAcqs
           (dropAsked (writeRecord M m (trapRecord M m (some (st, i)) false false fun s => (m.str s).pc)) m) m).putMember
           x ∧
       x.ref = m.ref ∧ x.tcause = w64 i.cause ∧ x.tstrm = w64 st.num ∧ x.tval = i.tval ∧
       x.tepc = (if i.next then (m.str st).pc + 8 else (m.str st).pc) &&& 0x00FFFFFFFFFFFFF8 ∧
       x.handler = some h ∧ h.tau = tau ∧ h.strm = st ∧ x.raised = [] ∧
       h.c = ⟨m.c.inflight, m.c.lat⟩ ∧ h.a = ⟨m.a.inflight, m.a.lat⟩ ∧ h.v = ⟨m.v.inflight, m.v.lat⟩ ∧
       h.x = ⟨m.x.inflight, m.x.lat⟩ ∧
       x.c.pc = m.tvec ∧ x.c.running = true ∧ x.c.floor = tau + 1 ∧ x.a.pc = m.a.pc ∧ x.v.pc = m.v.pc ∧
       x.x.pc = m.x.pc ∧
       (∀ s, (x.str s).inflight = [] ∧ (x.str s).wait = none ∧ (x.str s).s = (m.str s).s ∧ (x.str s).o = (m.str s).o ∧
         (x.str s).lpc0 = (m.str s).lpc0 ∧ (x.str s).lpc1 = (m.str s).lpc1) ∧
       x.tiles = m.tiles ∧ x.queues = m.queues ∧ x.mbs = m.mbs ∧ x.handles = m.handles ∧ x.tc = m.tc ∧
       x.tvec = m.tvec ∧ x.tscr = m.tscr ∧ x.nest = m.nest ∧ x.region = m.region) ∧
  (∀ (M : Mach) (m : Member) (st : Strm) (i : TrapInfo) (tau : Nat),
     (i.system = true ∨ m.handler.isSome = true ∨ m.tvec = 0) →
     ∃ x,
       takeTrap M m st i tau =
         (((settleAcqs
           (dropAsked (writeRecord M m (trapRecord M m (some (st, i)) true false fun s => (m.str s).pc)) m) m).putMember
           x).logPart m.ref.part i.cause m.unit i.tval).raise 0 (.escalation m.ref) ∧
       x.ref = m.ref ∧ x.freeze = .escalated ∧ x.escalated = some (st, i) ∧ x.raised = [] ∧
       x.tcause = w64 i.cause ∧ x.tstrm = w64 st.num ∧ x.tval = i.tval ∧
       x.tepc = (if i.next then (m.str st).pc + 8 else (m.str st).pc) &&& 0x00FFFFFFFFFFFFF8 ∧
       x.handler = m.handler ∧ x.tiles = m.tiles ∧
       (∀ s, (x.str s).inflight = (m.str s).inflight ∧ (x.str s).pc = (m.str s).pc ∧ (x.str s).lat = (m.str s).lat ∧
         (x.str s).s = (m.str s).s ∧ (x.str s).wait = none)) ∧
  (∀ (s : State) (r : MRef) (m : Member) (st : Strm) (i : TrapInfo) (e : ResumeEdit),
     s.m.member r = some m → m.escalated = some (st, i) →
     Becomes (.escalation r) s (s.m.logDev m.unit (i.cause + r.rank <<< 8 + r.ctx <<< 16 + r.part <<< 28)) ∧
     (m.freeze = .escalated →
       ∃ x, Becomes (.resume r e) s (takeStopped (restartEngines (s.m.putMember x) r) r) ∧ x.ref = r ∧
         x.freeze = .none ∧ x.escalated = none ∧ (x.str st).pc = pcField ((e.tepc.or e.pc).getD m.tepc) ∧
         ∀ o, o ≠ st → x.str o = m.str o))

/-- Among the traps of one cycle a system trap comes first, then the streams in the order C, A, V, X (R396). -/
def Obligations.SystemTrapsComeFirst : Prop :=
  ∀ (l : List (Strm × TrapInfo)) (x : Strm × TrapInfo),
    chooseTrap l = some x →
      x ∈ l ∧
      (∀ y ∈ l, y.2.system = true → x.2.system = true) ∧
      (∀ y ∈ l, y.2.system = x.2.system → x.1.num ≤ y.1.num)

/-- A translation that succeeds has zero in bits [63:56] of the address, the bits R17 asks for the access, and is not
a SCARAB page of an attached range (R10, R17, R18). A walk gives LOCAL frames of the partition's own dies and
nothing else, whatever stands in the tables, in the walk caches or in the firmware's mappings at CARDB and of the save
areas (R13; assumptions 5 and 45). A remote access is admitted only with the partition's own key, which is not zero,
under one export entry that holds every byte and grants the kind, of the copy that the port it came by holds: the newest
or, until that port has made it, an older one (R29; assumption 43); without the key nothing else is looked at (R8, R27).
That a SCARAB page is shut for every kind of access, a fetch, a queue operation and an engine among them, is the model's
choice (assumption 36). -/
def Obligations.AddressesArePermitted : Prop :=
  (∀ (M : Mach) (core : Option Nat) (die part : Nat) (k : AKind) (pva : Word) (e : TlbEntry),
     xlate M core die part k pva = .ok e →
       pva.toNat < 2 ^ 56 ∧
       (match k with
         | .read => e.r = true
         | .queuePop => e.r = true
         | .engineRead => e.r = true
         | .write => e.w = true
         | .queuePush => e.w = true
         | .engineWrite => e.w = true
         | .atomic => e.r = true ∧ e.w = true
         | .fetch => e.x = true) ∧
       ∃ p, M.part part = some p ∧ ∀ pa, e.leaf = .local pa true → scarabHit p pva.toNat = false) ∧
  (∀ (M : Mach) (die : Nat) (p : Part) (pva : Word) (e : TlbEntry) (pa : Nat) (sc : Bool),
     walk M die p pva = .ok e → e.leaf = .local pa sc → ownsFrame p pa (2 ^ e.log) = true) ∧
  (∀ (M : Mach) (part port key : Nat) (ek : EKind) (ak : AKind) (addr n : Nat),
     (∀ ps, admission M part port key ek ak addr n = .ok ps →
       ∃ p, M.part part = some p ∧ p.key ≠ 0 ∧ p.key.toNat = key ∧
         (p.exportsAt M.wclk port = p.exports ∨
           ∃ l ∈ p.exportLoads, M.wclk < l.madeAt port ∧ p.exportsAt M.wclk port = l.old) ∧
         ∃ e ∈ p.exportsAt M.wclk port, e.base ≤ addr ∧ addr + n ≤ e.base + e.pages * 0x10000 ∧
           (match ek with
             | .r => e.r
             | .w => e.w
             | .a => e.a
             | .q => e.q) = true) ∧
     ((∀ p, M.part part = some p → p.key = 0 ∨ p.key.toNat ≠ key) → admission M part port key ek ak addr n = .error 0x07))

/-! ### Scalar and control words -/

/-- Every integer word but the divisions issues and its one effect is its result, which reaches its register and the
latch in its cycles (R219, R231, R233 to R235). -/
def Obligations.IntegerWordsGiveTheirResults : Prop :=
  ∀ (i : Instr) (s : State) (k : Cur) (m : Member) (lat : Nat) (d : Dst) (v : Word),
    Issues i s k m → integerResult i (k.ctx s.m m) = some (lat, d, v) →
    Ends i s k m (.done ((k.ctx s.m m).result lat d v))

/-- DIV, DIVU, REM and REMU issue for all operands, never trap, and give the quotient truncated toward zero and the
remainder with the sign of X; Y = 0 gives -1, all ones, X and X, and -2^63 by -1 gives -2^63 and 0 (R232). -/
def Obligations.DivisionsTruncateAndNeverTrap : Prop :=
  (∀ (i : Instr) (s : State) (k : Cur) (m : Member) (d : Dst) (v : Word),
    Issues i s k m → divisionResult i (k.ctx s.m m) = some (d, v) →
    Ends i s k m (.done ((k.ctx s.m m).result 20 d v))) ∧
  (∀ x y : Int, y ≠ 0 → x.tmod y ≠ 0 → (0 < x.tmod y ↔ 0 < x)) ∧
  word64 ((-(2 ^ 63) : Int).tdiv (-1)) = 0x8000000000000000 ∧ word64 ((-(2 ^ 63) : Int).tmod (-1)) = 0 ∧
  word64 ((-7 : Int).tdiv 2) = word64 (-3) ∧ word64 ((-7 : Int).tmod 2) = word64 (-1)

/-- Every FP32 word and conversion issues; its exact value is rounded once (R236, R237). -/
def Obligations.FloatWordsGiveTheirResults : Prop :=
  ∀ (i : Instr) (s : State) (k : Cur) (m : Member) (lat : Nat) (d : Dst) (v : Word),
    Issues i s k m → floatResult i (k.ctx s.m m) = some (lat, d, v) →
    Ends i s k m (.done ((k.ctx s.m m).result lat d v))

/-- BC, J, JR, CALL and RET issue and go where R238 and R239 say. -/
def Obligations.BranchesGoToTheirTargets : Prop :=
  ∀ (s : State) (k : Cur) (m : Member),
    let c := k.ctx s.m m
    (∀ cd x y off, Issues (.bc cd x y off) s k m →
      (branchHolds cd (c.reg x) (c.reg y) →
        Ends (.bc cd x y off) s k m (transferEnd c.M c.pc (offsetBy c.pc off))) ∧
      (¬branchHolds cd (c.reg x) (c.reg y) → Ends (.bc cd x y off) s k m (.done c.M))) ∧
    (∀ off, Issues (.j off) s k m → Ends (.j off) s k m (transferEnd c.M c.pc (offsetBy c.pc off))) ∧
    (∀ x off, Issues (.jr x off) s k m →
      Ends (.jr x off) s k m (transferEnd c.M c.pc (offsetBy (c.reg x) off &&& 0xFFFFFFFFFFFFFFF8))) ∧
    (∀ d off, Issues (.call d off) s k m →
      Ends (.call d off) s k m (transferEnd (c.result 1 d (c.pc + 8)) c.pc (offsetBy c.pc off))) ∧
    (∀ x, Issues (.ret x) s k m → Ends (.ret x) s k m (transferEnd c.M c.pc (c.reg x &&& 0xFFFFFFFFFFFFFFF8)))

/-- LOOP sets its level up for 1 to 2^32 - 1 passes, skips the body for none and traps for more; LPBRK leaves an
active level for the word after it and traps on an inactive one; the other level stays (R240, R241). That a count of
zero writes the level's start and end is the steps of R240 taken over R160, the model's choice (assumption 33). -/
def Obligations.LoopWordsSetAndLeaveTheirLevels : Prop :=
  ∀ (s : State) (k : Cur) (m : Member) (one : Bool),
    let c := k.ctx s.m m
    let pcs (w : Word) : Word := w &&& 0x00FFFFFFFFFFFFF8
    (∀ x off, Issues (.loop one x off) s k m →
      let last := offsetBy c.pc off
      let M :=
        c.upd fun m =>
          m.updStr c.st fun q =>
            if one then { q with lps1 := pcs (c.pc + 8), lpe1 := pcs last, lpc1 := c.reg x }
            else { q with lps0 := pcs (c.pc + 8), lpe0 := pcs last, lpc0 := c.reg x }
      (2 ^ 32 ≤ (c.reg x).toNat → Traps (.loop one x off) s k m ⟨0x13, false, k.raw, 0, [], false⟩) ∧
      (c.reg x = 0 → Ends (.loop one x off) s k m (.jump M (pcs last + 8))) ∧
      (0 < (c.reg x).toNat → (c.reg x).toNat < 2 ^ 32 → Ends (.loop one x off) s k m (.done M))) ∧
    (Issues (.lpbrk one) s k m →
      ((if one then c.s.lpc1 else c.s.lpc0) = 0 → Traps (.lpbrk one) s k m ⟨0x13, false, k.raw, 0, [], false⟩) ∧
      ((if one then c.s.lpc1 else c.s.lpc0) ≠ 0 →
        Ends (.lpbrk one) s k m
          (.jump (c.upd fun m => m.updStr c.st fun q => if one then { q with lpc1 := 0 } else { q with lpc0 := 0 })
            ((if one then c.s.lpe1 else c.s.lpe0) + 8))))

/-- NOP performs nothing, whatever its IDLE; the all-zero word is NOP (R220, R180). GO starts each of A, V and X that
has an entry, with C's operand file and GO as its previous issue; it traps, starting nothing, while one of them
runs or in a handler (R146, R221). A stream without an entry gets C's operand file too, by the model's choice
(assumption 14). HALT stops A, V or X after it issues, and on A closes an open region; on C it traps and changes nothing
(R222). -/
def Obligations.StartAndStopWordsComplete : Prop :=
  ((∀ (s : State) (k : Cur) (m : Member), Issues .nop s k m → Ends .nop s k m (.done (k.ctx s.m m).M)) ∧
   (∀ idle : BitVec 10, decode (encode idle .nop) = .ok .nop) ∧ decode 0 = .ok .nop) ∧
  (∀ (s : State) (k : Cur) (m : Member),
     Issues .go s k m →
     let c := k.ctx s.m m
     ((c.mem.a.running = true ∨ c.mem.v.running = true ∨ c.mem.x.running = true ∨ c.mem.handler.isSome = true) →
       Traps .go s k m ⟨0x13, false, k.raw, 0, [], false⟩) ∧
     (c.mem.a.running = false → c.mem.v.running = false → c.mem.x.running = false → c.mem.handler = none →
       let start (entry : Word) (q : Stream) : Stream :=
         { q with
           o := c.mem.c.o
           pc := if entry = 0 then q.pc else entry &&& 0x00FFFFFFFFFFFFF8
           running := decide (entry ≠ 0) || q.running
           last := if entry = 0 then q.last else c.t
           floor := if entry = 0 then q.floor else c.t + 1
           wait := if entry = 0 then q.wait else none }
       Ends .go s k m
         (.done
           (c.upd fun m =>
             { m with
               a := start (m.entry.getD 1 0) m.a
               v := start (m.entry.getD 2 0) m.v
               x := start (m.entry.getD 3 0) m.x })))) ∧
  (∀ (s : State) (k : Cur) (m : Member),
     Issues .halt s k m →
     let c := k.ctx s.m m
     let M := c.upd fun m => m.updStr c.st fun q => { q with running := false }
     (k.st = .c → Traps .halt s k m ⟨0x13, false, k.raw, 0, [], false⟩) ∧
     (k.st = .a → Ends .halt s k m (.done (closeRegion M c.mem.ref))) ∧
     (k.st = .v ∨ k.st = .x → Ends .halt s k m (.done M)))

/-- TRAP and BRK raise their program traps with X or the code as the value, and they alone resume at the next word; in
an open region they are illegal instructions (R163, R223). ERET outside a handler traps. In one it ends it: the
trapping stream goes on at tepc, C at its place set aside, and all four with their results, latches and spacing as
if the cycles from τ to the one of ERET had not passed (R158, R224); where C's word set aside has come to count as not
issued meanwhile, the loop counts before it stand again (R259). -/
def Obligations.TrapWordsAndReturns : Prop :=
  (∀ (s : State) (k : Cur) (m : Member),
     (∀ x, Issues (.trap x) s k m →
       (NoRegion k m → Traps (.trap x) s k m ⟨0x10, false, (k.ctx s.m m).src x, 0, [], true⟩) ∧
       (¬NoRegion k m → Traps (.trap x) s k m ⟨0x12, false, k.raw, 0, [], false⟩)) ∧
     (∀ n, Issues (.brk n) s k m →
       (NoRegion k m → Traps (.brk n) s k m ⟨0x11, false, word64 n.toNat, 0, [], true⟩) ∧
       (¬NoRegion k m → Traps (.brk n) s k m ⟨0x12, false, k.raw, 0, [], false⟩))) ∧
  (∀ (s : State) (k : Cur) (m : Member),
     Issues .eret s k m →
     let c := k.ctx s.m m
     (c.mem.handler = none → Traps .eret s k m ⟨0x13, false, k.raw, 0, [], false⟩) ∧
     (∀ h, c.mem.handler = some h → ∃ x,
       Ends .eret s k m (.placed (c.upd fun _ => x)) ∧
       let n := c.t + 1 - h.tau
       let moved (f : InFlight) : InFlight := { f with due := f.due + n }
       x.ref = c.mem.ref ∧ x.handler = none ∧ x.tiles = c.mem.tiles ∧ x.tepc = c.mem.tepc ∧
       (x.str h.strm).pc = c.mem.tepc ∧
       (h.strm ≠ .c → x.c.pc = h.cpc) ∧ x.c.running = h.crunning ∧ x.c.last = h.clast + n ∧
       x.c.floor = max (h.cfloor + n) (c.t + 1) ∧ x.c.lat = h.c.lat ∧
       x.c.inflight = h.c.inflight.map moved ++ c.mem.c.inflight ∧
       (h.cback = none → x.c.nissue = c.mem.c.nissue + 1 ∧ x.c.lpc0 = c.mem.c.lpc0 ∧ x.c.lpc1 = c.mem.c.lpc1) ∧
       (∀ u, h.cback = some u → x.c.nissue = c.mem.c.nissue ∧ x.c.lpc0 = u.lpc0 ∧ x.c.lpc1 = u.lpc1) ∧
       (h.strm ≠ .a → x.a.pc = c.mem.a.pc) ∧ x.a.lat = h.a.lat ∧ x.a.last = c.mem.a.last + n ∧
       x.a.inflight = h.a.inflight.map moved ++ c.mem.a.inflight ∧
       (h.strm ≠ .v → x.v.pc = c.mem.v.pc) ∧ x.v.lat = h.v.lat ∧ x.v.last = c.mem.v.last + n ∧
       x.v.inflight = h.v.inflight.map moved ++ c.mem.v.inflight ∧
       (h.strm ≠ .x → x.x.pc = c.mem.x.pc) ∧ x.x.lat = h.x.lat ∧ x.x.last = c.mem.x.last + n ∧
       x.x.inflight = h.x.inflight.map moved ++ c.mem.x.inflight ∧
       (∀ st, (x.str st).s = (c.mem.str st).s ∧ (x.str st).o = (c.mem.str st).o ∧
         (st ≠ .c → (x.str st).lpc0 = (c.mem.str st).lpc0 ∧ (x.str st).lpc1 = (c.mem.str st).lpc1))))

/-- CSRR gives the CSR with latency 1. CSRW advances its stream and then sets the CSR's writable bits; a read-only CSR
keeps its value, and bits that are ignored are logged in the partition's error log (R225, R229, R230, R4). -/
def Obligations.CsrWordsReadAndWrite : Prop :=
  ∀ (s : State) (k : Cur) (m : Member) (n : Csr),
    let c := k.ctx s.m m
    let q := c.s
    let value : Word :=
      match n with
      | .lps0 => q.lps0
      | .lpe0 => q.lpe0
      | .lpc0 => q.lpc0
      | .lps1 => q.lps1
      | .lpe1 => q.lpe1
      | .lpc1 => q.lpc1
      | .vwin => q.vwin
      | .spcfg => word64 c.mem.size
      | .tvec => c.mem.tvec
      | .tcause => c.mem.tcause
      | .tstrm => c.mem.tstrm
      | .tepc => c.mem.tepc
      | .tval => c.mem.tval
      | .tscr => c.mem.tscr
      | .tsave => c.mem.tsave
      | .cycle => word64 c.t
      | .wclk => word64 c.M.wclk
      | .nissue => word64 q.nissue
      | .nstall => word64 q.nstall
      | .ctxinfo =>
        word64
          (c.mem.ref.rank % 256 + 2 ^ 8 * ((c.mem.nmem - 1) % 256) + 2 ^ 16 * (c.mem.ref.part % 8) +
            2 ^ 32 * (c.mem.ref.ctx % 4096))
    let bits : Word :=
      match n with
      | .lps0 | .lpe0 | .lps1 | .lpe1 | .tvec | .tepc => 0x00FFFFFFFFFFFFF8
      | .lpc0 | .lpc1 => 0xFFFFFFFF
      | .vwin => 7
      | .tscr => 0xFFFFFFFFFFFFFFFF
      | _ => 0
    (∀ d, Issues (.csrr d n) s k m → Ends (.csrr d n) s k m (.done (c.result 1 d value))) ∧
    (∀ x, Issues (.csrw n x) s k m →
      let v := c.reg x &&& bits
      let set (y : Member) : Member :=
        match n with
        | .lps0 => y.updStr c.st fun q => { q with lps0 := v }
        | .lpe0 => y.updStr c.st fun q => { q with lpe0 := v }
        | .lpc0 => y.updStr c.st fun q => { q with lpc0 := v }
        | .lps1 => y.updStr c.st fun q => { q with lps1 := v }
        | .lpe1 => y.updStr c.st fun q => { q with lpe1 := v }
        | .lpc1 => y.updStr c.st fun q => { q with lpc1 := v }
        | .vwin => y.updStr c.st fun q => { q with vwin := v }
        | .tvec => { y with tvec := v }
        | .tepc => { y with tepc := v }
        | .tscr => { y with tscr := v }
        | _ => y
      let M :=
        (c.upd fun y => y.updStr c.st fun q => (q.issued c.t (c.s.waited c.t)).advance c.pc y.handler.isSome).updMember
          c.mem.ref set
      Ends (.csrw n x) s k m
        (.placed (if bits ≠ 0 ∧ v = c.reg x then M else M.logPart c.mem.ref.part 0xFF c.mem.unit (c.reg x))))

/-- IDEM opens a region after it, closing one that is open, and IDEM.end closes it and does nothing with none open;
opening counts the member's epoch up and keeps the counters as the mark to go back to (R163, R226). DONE traps in
a handler, and waits while A, V or X runs or a command or tile send is open that no refusal holds. Otherwise it closes
the region and acquires, then takes a refusal or a deferred fault, and with none releases at the task's scope, waits at
.pod for acknowledgements, and retires the iteration: the member's last stream stops and its core is free for the next
iteration (R227, R390). A request for pre-emption reaches every running member of its context, and the halt, a cycle
later (the model's choice within R403's bound, assumption 23), discards an open region and leaves A at its marker with the
region open anew under the next epoch; the ends of an iteration and of a context by the firmware discard it too, after
which no stream of the iteration runs and no member of the context is left (R165, R401 to R404). -/
def Obligations.RegionsOpenCloseAndIterationsEnd : Prop :=
  (∀ (s : State) (k : Cur) (m : Member),
     let c := k.ctx s.m m
     (Issues .idem s k m → Ends .idem s k m (.done (openRegion (closeRegion c.M c.mem.ref) c.mem.ref c.pc))) ∧
     (Issues .idemEnd s k m →
       Ends .idemEnd s k m (.done (closeRegion c.M c.mem.ref)) ∧
         (c.mem.region = none → Ends .idemEnd s k m (.done c.M))) ∧
     (∀ (M : Mach) (r : MRef) (y : Member) (pc : Word), M.member r = some y → ∃ z g,
       (openRegion M r pc).member r = some z ∧ z.region = some g ∧ z.epoch = y.epoch + 1 ∧ g.epoch = y.epoch + 1 ∧
         g.marker = pc + 8 ∧ g.issue = y.tc.toList.map (·.1) ∧ g.compl = y.tc.toList.map (·.2) ∧ g.cmds = []) ∧
     (∀ (M : Mach) (r : MRef) (y : Member), M.member r = some y →
       ∃ z, (closeRegion M r).member r = some z ∧ z = { y with region := none })) ∧
  (∀ (s : State) (k : Cur) (m : Member),
     Issues .done s k m →
     let c := k.ctx s.m m
     (c.mem.handler.isSome = true → Traps .done s k m ⟨0x13, false, k.raw, 0, [], false⟩) ∧
     (c.mem.handler = none →
       (c.mem.a.running = true ∨ c.mem.v.running = true ∨ c.mem.x.running = true ∨ c.mem.tsends ≠ 0 ∨
         ∃ q ∈ c.mem.cmds, q.finished = false ∧ q.sys = none ∧ q.covers c.mem = false) →
       Ends .done s k m (.wait .done .memberQuiet)) ∧
     (c.mem.handler = none → c.mem.a.running = false → c.mem.v.running = false → c.mem.x.running = false →
       c.mem.tsends = 0 → (∀ q ∈ c.mem.cmds, q.finished = true ∨ q.sys.isSome = true ∨ q.covers c.mem = true) →
       let d : Ctx := { c with M := acquire (closeRegion c.M c.mem.ref) c.mem.ref .pkg }
       let faults := d.waitFaults (fun _ => true) (fun _ => true) Strm.all
       (∀ r, faults = some r → Ends .done s k m r) ∧
       (faults = none →
         let sc := taskScope d.M c.mem
         let M := Strm.all.foldl (fun M st => release M c.mem.ref st sc) d.M
         (sc = .pod → anyOutstanding M c.mem.ref = true → Ends .done s k m (.waitOn M .done .acked)) ∧
         ((sc = .pod → anyOutstanding M c.mem.ref = false) →
           Ends .done s k m
             (.placed
               (freeMember
                 (M.updMember c.mem.ref fun y =>
                   { y with c := { (y.c.issued c.t (c.s.waited c.t)).advance c.pc false with running := false } })
                 c.mem.ref)))))) ∧
  (∀ (s : State) (r : MRef) (m : Member),
     s.m.member r = some m →
     (m.preempt = true → m.core.isSome = true →
       ∃ N x, Becomes (.preemptHalt r) s N ∧ N.member r = some x ∧ x.freeze = .halted ∧
         (m.region = none → x.region = none) ∧
         ∀ g, m.region = some g → x.a.pc = g.marker ∧
           ∃ h, x.region = some h ∧ h.marker = g.marker ∧ h.epoch = m.epoch + 1 ∧ h.cmds = [] ∧ h.bins = []) ∧
     (m.task = none →
       ∃ N x, Becomes (.endTheIteration r) s N ∧ N.member r = some x ∧ x.region = none ∧
         ∀ st, (x.str st).running = false)) ∧
  (∀ (s : State) (part ctx : Nat),
     (∃ N, Becomes (.endTheContext part ctx) s N ∧ ∀ q ∈ N.members, ¬(q.ref.part = part ∧ q.ref.ctx = ctx)) ∧
     ∃ N, Becomes (.preemptionRequest part ctx) s N ∧
       ∀ r m, s.m.member r = some m → r.part = part → r.ctx = ctx → m.core.isSome = true → m.freeze ≠ .halted →
         N.member r = some { m with preempt := true } ∧ (⟨.preemptHalt r, N.wclk + 1⟩ : Due) ∈ N.pending)

/-- A source specifier reads its register in the issue cycle: s0 and special zero read zero, the latch reads the
latch, an immediate is sign-extended; a memory offset counts in access sizes (R147, R149, R170, R171). -/
def Obligations.SourcesReadTheirSpecifiers : Prop :=
  ∀ c : Ctx,
    c.reg (.s 0) = 0 ∧ (∀ n : BitVec 5, n ≠ 0 → c.reg (.s n) = c.s.s[n.toNat]'n.isLt) ∧
    (∀ n : BitVec 3, c.reg (.o n) = c.s.o[n.toNat]'n.isLt) ∧ c.reg .lat = c.s.lat ∧ c.reg .zero = 0 ∧
    c.reg .ctxId = word64 c.mem.ref.ctx ∧ (∀ n, c.mem.place = .core n → c.reg .coreId = word64 n) ∧
    (∀ r, c.src (.reg r) = c.reg r) ∧ (∀ v, c.src (.imm v) = word64 v.toInt) ∧
    (∀ b sz off, c.memAddr b sz off = word64 ((c.reg b).toInt + off.toInt * sz.bytes)) ∧
    (∀ b sz, c.storeBytes b sz = leBytes sz.bytes ((c.reg b).toNat + 2 ^ 64 * (c.reg (pairReg b)).toNat))

/-! ### Memory words -/

/-- LD waits for its slot, traps on a failed translation or a poisoned block, and otherwise takes the slot with the
bytes read: with an arrival offset and every byte on this device it is timed, its result falling due that many cycles
after issue; else it is untimed. Remote pieces are asked for, and pieces that go to a stack that switches its mode, the
core holding not all of their bytes, are waited for there (R40, R74, R153, R244). A byte is read from the stream's own youngest store that holds it, else from the core's L1,
else from its home (R82, R87). -/
def Obligations.LoadsTakeTheirSlotsAndSeeStores : Prop :=
  (∀ (s : State) (k : Cur) (m : Member) (d : Dst) (b : Reg) (slot : BitVec 5) (arr : BitVec 10) (sz : Size)
     (sx na : Bool) (off : BitVec 9),
     let i : Instr := .ld d b slot arr sz sx na off
     Issues i s k m →
     let c := k.ctx s.m m
     let addr := c.memAddr b sz off
     (c.mem.slotFree slot = false → Ends i s k m (.wait .slot (.slotFree slot.toNat))) ∧
     (c.mem.slotFree slot = true →
       (∀ f, c.span .read addr sz.bytes = .error f → Traps i s k m (xlateTrap k.raw f .read)) ∧
       (∀ M ts, c.span .read addr sz.bytes = .ok (M, ts) →
         (∀ pa, spanPoison M ts = some pa → Traps i s k m ⟨0x21, true, k.raw, w64 pa, [], false⟩) ∧
         (spanPoison M ts = none →
           let got := localPart M c.mem c.s (c.mem.core.getD 0) na ts
           let busy := switchingStacks M (fun pa n => !pieceHeld M c.s (c.mem.core.getD 0) pa n) ts
           let asked := remotePieces ts + busy.length
           let timed := arr ≠ 0 ∧ remotePieces ts = 0
           let N :=
             got.1.updMember c.mem.ref fun y =>
               y.setSlot slot.toNat
                 ⟨.pending, BitVec.ofNat 128 (leNat got.2), c.st, d, if timed then some (c.t + arr.toNat) else none, sz,
                   sx, asked, k.pc, k.raw⟩
           let N := waitStacks N c.mem.ref slot.toNat busy
           let N :=
             if asked = 0 then N.raise 1 (.dataLanding c.mem.ref slot.toNat)
             else requestPieces N c.mem.ref slot.toNat 0 ts
           (¬timed →
             Ends i s k m
               (.untimed N
                 { c.unt .slot with writes := loadWrites d sz sx 0, slot := some slot.toNat, pva := addr })) ∧
           (timed →
             Ends i s k m
               (.done
                 (N.updMember c.mem.ref fun y =>
                   y.updStr c.st fun q =>
                     { q with
                       inflight :=
                         q.inflight ++
                           [⟨c.t + arr.toNat, c.t, loadWrites d sz sx 0, false, some slot.toNat⟩] }))))))) ∧
  (∀ (M : Mach) (q : Stream) (core pa : Nat),
     (∀ before e after, q.sb ++ q.entering = before ++ e :: after → e.pa ≤ pa → pa < e.pa + e.bytes.length →
       (∀ y ∈ after, ¬(y.pa ≤ pa ∧ pa < y.pa + y.bytes.length)) →
       loadByte M q core pa = e.bytes.getD (pa - e.pa) 0) ∧
     ((∀ y ∈ q.sb ++ q.entering, ¬(y.pa ≤ pa ∧ pa < y.pa + y.bytes.length)) →
       (∀ x, (M.core core).l1.find? (fun x => x.line == pa / 64) = some x →
         loadByte M q core pa = if x.valid.getLsbD (pa % 64) then x.data.getD (pa % 64) 0 else memGet M.mem pa) ∧
       ((M.core core).l1.find? (fun x => x.line == pa / 64) = none → loadByte M q core pa = memGet M.mem pa)))

/-- ST traps on a failed translation, freezes the core while its entries find no room among the eight, and otherwise
puts the low bytes of its register or pair into the store buffer and posts the remote ones; memory keeps every
byte until the buffer drains, but for a store to another core's window or a B store, which arrives as it issues (R87,
R152, R245, R454; assumption 37). STORE_BUFFER_DRAIN performs the oldest entry of a stream's buffer and takes it out, and
the next store that waits to enter takes its place: in a line of the core's L1 where it may hold the bytes, with memory as
it was while the line's set has a way left, else at their home, where exactly its bytes change; an entry whose home is a
stack that switches its mode waits (R34, R74, R86, R87). The oldest entry going first and its place in the L1 (assumption
12), and the 16 cycles between two looks at a switching stack (assumption 47), are the model's choices. -/
def Obligations.StoresEnterTheBufferAndDrain : Prop :=
  ((∀ (s : State) (k : Cur) (m : Member) (v b : Reg) (sz : Size) (off : BitVec 9),
     let i : Instr := .st v b sz off
     Issues i s k m →
     let c := k.ctx s.m m
     let addr := c.memAddr b sz off
     (∀ f, c.span .write addr sz.bytes = .error f → Traps i s k m (xlateTrap k.raw f .write)) ∧
     (∀ M ts, c.span .write addr sz.bytes = .ok (M, ts) →
       (8 < c.s.sb.length + storeEntries ts → Ends i s k m (.freeze (.store k.st))) ∧
       (c.s.sb.length + storeEntries ts ≤ 8 →
         Ends i s k m (.done (storePieces M c.mem c.st addr none ts (c.storeBytes v sz)))))) ∧
   (∀ (M : Mach) (y : Member) (st : Strm) (pva : Word) (rel : Option Scope) (pa n : Nat) (bs : List Byte) (a : Nat),
     let N := storePieces M y st pva rel [(.local pa, n)] bs
     (checkedWindow (y.core.getD 0) pa = false →
       memGet N.mem a = memGet M.mem a ∧
       (pa % 64 + n ≤ 64 → bs.length = n → ∀ z, M.member y.ref = some z →
         ∃ z', N.member y.ref = some z' ∧ (z'.str st).sb = (z.str st).sb ++ [⟨pa, bs, rel⟩])) ∧
     (checkedWindow (y.core.getD 0) pa = true → bs.length = n →
       ∀ j, j < n → memGet N.mem (pa + j) = bs.getD j 0))) ∧
  (∀ (s : State) (r : MRef) (st : Strm) (y : Member) (core : Nat) (e : SbEntry) (rest : List SbEntry),
     s.m.member r = some y → y.place = .core core → (y.str st).sb = e :: rest → e.release = none →
     (cacheable y core e.pa = false → (s.m.switchingAt e.pa).isSome = true →
       Becomes (.storeBufferDrain r st) s (s.m.raise 16 (.storeBufferDrain r st))) ∧
     ((cacheable y core e.pa = false → s.m.switchingAt e.pa = none) →
       ∃ M, Becomes (.storeBufferDrain r st) s M ∧
         (∃ z, M.member r = some z ∧ (z.str st).sb = rest ++ (y.str st).entering.take 1 ∧
           (z.str st).entering = (y.str st).entering.drop 1 ∧ (z.str st).s = (y.str st).s ∧ z.tiles = y.tiles) ∧
         (cacheable y core e.pa = true → e.pa % 64 + e.bytes.length ≤ 64 →
           (∀ x, l1Line (s.m.core core) (e.pa / 64) = some x → x.data.length = 64) →
           (((s.m.core core).l1.filter fun x => y.sameSet x.line (e.pa / 64)).length < 8 →
             ∀ a, memGet M.mem a = memGet s.m.mem a) ∧
           ∀ n, n < e.bytes.length → ∃ x, l1Line (M.core core) (e.pa / 64) = some x ∧
             x.valid.getLsbD (e.pa % 64 + n) = true ∧ x.dirty.getLsbD (e.pa % 64 + n) = true ∧
             x.data.getD (e.pa % 64 + n) 0 = e.bytes.getD n 0) ∧
         (cacheable y core e.pa = false →
           (∀ a, a < e.pa ∨ e.pa + e.bytes.length ≤ a → memGet M.mem a = memGet s.m.mem a) ∧
           ∀ n, n < e.bytes.length → memGet M.mem (e.pa + n) = e.bytes.getD n 0)))

/-- PREF always completes, traps on nothing and changes no member; it changes no byte of memory but the dirty bytes of
a line that leaves a full set of the L1, which reach their homes (R34, R86, R247). CFLUSH and CINV drain
the whole store buffer, which is the model's choice (assumption 12), and, above the core scope, write the line back and for CINV drop its clean copy; STREL performs
its store after a release, in the buffer or at a remote home (R99, R248, R249). -/
def Obligations.LineWordsComplete : Prop :=
  (∀ (s : State) (k : Cur) (m : Member) (b : Reg) (sz : Size) (off : BitVec 9),
     Issues (.pref b sz off) s k m →
     let c := k.ctx s.m m
     let l1 := (c.M.core (c.mem.core.getD 0)).l1
     ∃ M, Ends (.pref b sz off) s k m (.done M) ∧ M.members = c.M.members ∧ M.parts = c.M.parts ∧
       ((∀ n, (l1.filter fun x => c.mem.sameSet x.line n).length < 8) → M.mem = c.M.mem) ∧
       ∀ a, memGet M.mem a = memGet c.M.mem a ∨
         ∃ x ∈ l1, x.line = a / 64 ∧ x.dirty.getLsbD (a % 64) = true ∧ memGet M.mem a = x.data.getD (a % 64) 0) ∧
  (∀ (s : State) (k : Cur) (m : Member) (b : Reg) (sz : Size) (off : BitVec 9) (sc : Scope),
     NoRegion k m →
     let c := k.ctx s.m m
     let addr := c.memAddr b sz off
     (∀ i inv, (i = .cflush sc b sz off ∧ inv = false) ∨ (i = .cinv sc b sz off ∧ inv = true) → Issues i s k m →
       (∀ f, c.reach .read addr 1 = .error f → Traps i s k m (xlateTrap k.raw f .read)) ∧
       (∀ M pa n ts, c.reach .read addr 1 = .ok (M, (.local pa, n) :: ts) →
         let D := drainBuffer M c.mem.ref c.st
         let line (x : Nat) : Bool := x / 64 == pa / 64
         let core := c.mem.core.getD 0
         (sc = .stream ∨ sc = .core → Ends i s k m (.done D)) ∧
         (sc ≠ .stream → sc ≠ .core →
           Ends i s k m
             (.done (if inv then dropClean (writeBack D core line) core line else writeBack D core line)))) ∧
       (∀ M dev p ra n ts, c.reach .read addr 1 = .ok (M, (.remote dev p ra, n) :: ts) →
         Ends i s k m (.done (drainBuffer M c.mem.ref c.st)))) ∧
     (∀ v, Issues (.strel sc v b sz off) s k m →
       let i : Instr := .strel sc v b sz off
       (addr.toNat % sz.bytes ≠ 0 ∨ c.default addr sz.bytes = false → Traps i s k m (badOperand k)) ∧
       (addr.toNat % sz.bytes = 0 → c.default addr sz.bytes = true →
         (∀ f, c.span .write addr sz.bytes = .error f → Traps i s k m (xlateTrap k.raw f .write)) ∧
         (∀ M ts, c.span .write addr sz.bytes = .ok (M, ts) → (sc = .pod → c.s.imprecise = []) →
           (sc = .pod → outstanding M c.mem.ref c.st = true →
             Ends i s k m
               (.untimed M
                 { c.unt .acknowledged with job := .strel sc addr (c.storeBytes v sz), pva := addr, akind := 1 })) ∧
           ((sc = .pod → outstanding M c.mem.ref c.st = false) →
           (remotePieces ts = 0 → c.s.sb.length + storeEntries ts ≤ 8 →
             Ends i s k m (.done (storePieces M c.mem c.st addr (some sc) ts (c.storeBytes v sz)))) ∧
           (remotePieces ts = 0 → 8 < c.s.sb.length + storeEntries ts → Ends i s k m (.freeze (.store k.st))) ∧
           (remotePieces ts ≠ 0 →
             Ends i s k m
               (.done (storePieces (release M c.mem.ref c.st sc) c.mem c.st addr none ts (c.storeBytes v sz)))))))))

/-- LDACQ waits for its slot, traps on an address that is misaligned or in no default region and is not the VERSION of
an enabled region object, on a failed translation, a poisoned block and a malformed object, and otherwise reads at the
home and acquires at its scope when the value lands, which it does not before a stack that switches its mode is ready
(R74); the VERSION of an object at another device is asked for as an ACQ.nw of it (R97, R98, R100, R250). -/
def Obligations.AcquiringLoadsReadAtTheHome : Prop :=
  ∀ (s : State) (k : Cur) (m : Member) (sc : Scope) (d : Dst) (b : Reg) (slot : BitVec 5) (sz : Size)
    (off : BitVec 9),
    let i : Instr := .ldacq sc d b slot sz off
    Issues i s k m → NoRegion k m →
    let c := k.ctx s.m m
    let addr := c.memAddr b sz off
    let version := decide (sz = .b8) && c.versionWord addr
    let u : Untimed :=
      { c.unt .slot with writes := [(d, 0)], slot := some slot.toNat, acquire := some sc, pva := addr }
    let take (M : Mach) (v : Word) (req : Nat) : Mach :=
      M.updMember c.mem.ref fun y =>
        y.setSlot slot.toNat ⟨.pending, BitVec.ofNat 128 v.toNat, c.st, d, none, sz, false, req, k.pc, k.raw⟩
    let got (F : Mach) (pa : Nat) (v : Word) : Mach :=
      match F.switchingAt pa with
      | none => (take F v 0).raise 1 (.dataLanding c.mem.ref slot.toNat)
      | some q => waitStacks (take F v 1) c.mem.ref slot.toNat [q]
    (c.mem.slotFree slot = false → Ends i s k m (.wait .slot (.slotFree slot.toNat))) ∧
    (c.mem.slotFree slot = true →
      (addr.toNat % sz.bytes ≠ 0 ∨ (version = false ∧ c.default addr sz.bytes = false) →
        Traps i s k m (badOperand k)) ∧
      (addr.toNat % sz.bytes = 0 → version = false → c.default addr sz.bytes = true →
        ∀ M pa n ts, c.span .read addr sz.bytes = .ok (M, (.local pa, n) :: ts) →
          M.poisoned pa sz.bytes = false →
          let F := flushLine M c.mem.ref c.st pa
          Ends i s k m (.untimed (got F pa (w64 (leNat (F.get pa sz.bytes)))) u)) ∧
      (addr.toNat % sz.bytes = 0 → version = true →
        ∀ M pa n ts, c.span .atomic addr sz.bytes = .ok (M, (.local pa, n) :: ts) →
          M.poisoned pa sz.bytes = false →
          let F := flushLine M c.mem.ref c.st pa
          objWellFormed (F.word (pa + 8)).toNat = true →
          Ends i s k m (.untimed (got F pa (F.word pa)) u)) ∧
      (addr.toNat % sz.bytes = 0 → version = true →
        ∀ M pa n ts, c.span .atomic addr sz.bytes = .ok (M, (.local pa, n) :: ts) →
          M.poisoned pa sz.bytes = false →
          objWellFormed ((flushLine M c.mem.ref c.st pa).word (pa + 8)).toNat = false →
          Traps i s k m (badOperand k)) ∧
      (addr.toNat % sz.bytes = 0 → (version = true ∨ c.default addr sz.bytes = true) →
        let kind : AKind := if version then .atomic else .read
        (∀ f, c.span kind addr sz.bytes = .error f → Traps i s k m (xlateTrap k.raw f kind)) ∧
        (∀ M pa n ts q, c.span kind addr sz.bytes = .ok (M, (.local pa, n) :: ts) →
          homePoison M [(pa, sz.bytes)] = some q → Traps i s k m ⟨0x21, true, k.raw, w64 q, [], false⟩)) ∧
      (addr.toNat % sz.bytes = 0 → version = false → c.default addr sz.bytes = true →
        ∀ M dev p ra n ts, c.span .read addr sz.bytes = .ok (M, (.remote dev p ra, n) :: ts) →
          Ends i s k m
            (.untimed (requestPieces (take M 0 1) c.mem.ref slot.toNat 0 ((.remote dev p ra, n) :: ts)) u)) ∧
      (addr.toNat % sz.bytes = 0 → version = true →
        ∀ M dev p ra n ts, c.span .atomic addr sz.bytes = .ok (M, (.remote dev p ra, n) :: ts) →
          let N := (take M 0 1).fresh
          Ends i s k m
            (.untimed
              (sendOn N.1 ⟨c.mem.ref.part, dev, p⟩ (acqPacket N.1 c.mem.ref c.st dev p ra .nw 0 sc)
                (.request c.mem.ref c.st N.2))
              { u with needs := .response N.2, akind := 2 })))

/-- An atomic traps on a misaligned address, and with an order on one outside the default region. Else, with no
refusal to take, it releases, waits at .pod until nothing posted is outstanding, waits for a stack that switches its mode
(R74), performs its operation at the home, by a packet when that is remote, and lands with the old value, acquiring then
(R252 to R255). The operation
of an atomic at its home: the old value is given back, the element takes the new one, and every other byte of
memory stays (R253, R254). SCADD traps on a count over 32 bits or a misaligned base, list or source. Else it performs
its entries in order at the homes from the first, the stream's stores there before: it traps at the row that failed with
the earlier rows added, lands with the number of pads, or stands at an entry until the answers of other devices for it
are in, or until a stack that switches its mode is ready, having issued (R74, R257). A padding entry adds nothing and is
counted. That the ports of a row with several pieces are asked before any of it is added is the model's way to leave a
refused row unadded (assumption 16). -/
def Obligations.AtomicsActAtTheirHome : Prop :=
  (∀ (i : Instr) (s : State) (k : Cur) (m : Member) (op : Nat) (a : AtomArgs) (x : Word),
     Issues i s k m → NoRegion k m → atomOf i (k.ctx s.m m) = some (op, a, x) →
     let c := k.ctx s.m m
     let addr := c.reg a.b
     (addr.toNat % atomBytes a ≠ 0 ∨ (a.ord ≠ .rlx ∧ c.default addr (atomBytes a) = false) → Traps i s k m (badOperand k)) ∧
     (addr.toNat % atomBytes a = 0 → (a.ord = .rlx ∨ c.default addr (atomBytes a) = true) →
       (∀ f, c.span .atomic addr (atomBytes a) = .error f → Traps i s k m (xlateTrap k.raw f .atomic)) ∧
       (∀ M t n ts, c.span .atomic addr (atomBytes a) = .ok (M, (t, n) :: ts) → spanPoison M ((t, n) :: ts) = none →
         (ordReleases a.ord = some .pod → c.s.imprecise = []) →
         let R :=
           match ordReleases a.ord with
           | some sc => release M c.mem.ref c.st sc
           | none => M
         let u : Untimed := { c.unt .ready with acquire := ordAcquires a.ord, pva := addr, akind := 2 }
         (ordReleases a.ord = some .pod → outstanding R c.mem.ref c.st = true →
           Ends i s k m
             (.untimed R
               { u with
                 writes := [(a.d, 0)]
                 needs := .acknowledged
                 job := .atom op a.w a.ord addr (c.reg a.v) x })) ∧
         (∀ q, (ordReleases a.ord = some .pod → outstanding R c.mem.ref c.st = false) →
           spanStack R (.ok (R, (t, n) :: ts)) = some q →
           Ends i s k m
             (.untimed R
               { u with
                 writes := [(a.d, 0)]
                 needs := .stack q
                 job := .atom op a.w a.ord addr (c.reg a.v) x })) ∧
         ((ordReleases a.ord = some .pod → outstanding R c.mem.ref c.st = false) →
           spanStack R (.ok (R, (t, n) :: ts)) = none →
           let N := R.fresh
           (∀ pa, t = .local pa →
             let H := homeAtom (flushLine N.1 c.mem.ref c.st pa) pa op a.w (c.reg a.v).toNat x.toNat
             Ends i s k m (.untimed H.1 { u with writes := [(a.d, w64 H.2)] })) ∧
           (∀ dev p ra, t = .remote dev p ra →
             let r : ConnRef := ⟨c.mem.ref.part, dev, p⟩
             Ends i s k m
               (.untimed
                 (sendOn N.1 r (newPacket N.1 r 2 ra (atomKspec op a.w a.ord) (beat [c.reg a.v, x]))
                   (.request c.mem.ref c.st N.2))
                 { u with writes := [(a.d, 0)], needs := .response N.2 })))))) ∧
  (∀ (M : Mach) (pa op : Nat) (w8 : Bool) (v x : Nat),
     let n := if w8 then 8 else 4
     let bits := 8 * n
     let old := leNat (M.get pa n)
     let H := homeAtom M pa op w8 v x
     let signed (z : Nat) : Int := sgn bits z
     let y := v % 2 ^ bits
     H.2 = old ∧ (∀ a, a < pa ∨ pa + n ≤ a → memGet H.1.mem a = memGet M.mem a) ∧ H.1.members = M.members ∧
       (op ≤ 0x59 → 0x50 ≤ op →
         leNat (H.1.get pa n) =
           if op = 0x50 then (old + y) % 2 ^ bits
           else if op = 0x51 then Nat.land old y
           else if op = 0x52 then Nat.lor old y
           else if op = 0x53 then Nat.xor old y
           else if op = 0x54 then (if signed old < signed y then old else y)
           else if op = 0x55 then (if signed old < signed y then y else old)
           else if op = 0x56 then min old y
           else if op = 0x57 then max old y
           else if op = 0x58 then y
           else if old = x % 2 ^ bits then y else old)) ∧
  (∀ (s : State) (k : Cur) (m : Member) (d : FileReg) (b idx src : Reg) (et : ScType) (rlen : BitVec 10),
     let i : Instr := .scadd d b idx src et rlen
     Issues i s k m → NoRegion k m →
     let c := k.ctx s.m m
     let n := (c.fileReg d).toNat
     (2 ^ 32 ≤ n ∨ (c.reg b).toNat % 64 ≠ 0 ∨ (c.reg idx).toNat % 4 ≠ 0 ∨ (c.reg src).toNat % 64 ≠ 0 →
       Traps i s k m (badOperand k)) ∧
     (n < 2 ^ 32 → (c.reg b).toNat % 64 = 0 → (c.reg idx).toNat % 4 = 0 → (c.reg src).toNat % 64 = 0 →
       let e :=
         scaddLoop c.mem c.st k.raw n (toHomes c.M c.mem.ref c.st)
           ⟨c.reg b, c.reg idx, c.reg src, et, rlen.toNat * 64, n, 0, 0⟩
       let swept :=
         dropFetched (dropFetched (dropFetched e.M c.mem.ref (2 ^ 96 + c.st.num)) c.mem.ref (rowTag c.st)) c.mem.ref
           (probeTag c.st)
       let u : Untimed := { c.unt .ready with akind := 2 }
       (∀ t, e.stop = some t → Ends i s k m (.trapAfter swept t)) ∧
       (∀ q, e.stop = none → e.held = some q →
         Ends i s k m
           (.untimed e.M { u with writes := [(fileDst d, 0)], needs := .stack q, job := .scadd e.run })) ∧
       (e.stop = none → e.held = none → e.asks = true →
         Ends i s k m (.untimed e.M { u with writes := [(fileDst d, 0)], needs := .rows, job := .scadd e.run })) ∧
       (e.stop = none → e.held = none → e.asks = false →
         Ends i s k m (.untimed swept { u with writes := [(fileDst d, w64 e.run.pads)] })))) ∧
  (∀ (m : Member) (st : Strm) (raw : Word) (left : Nat) (M N : Mach) (r : ScaddRun) (bs : List Byte),
     scaddHeld M m r = none → scaddRead M m st r.idx (4 * r.k) 4 = .bytes N bs → leNat bs = 0xFFFFFFFF →
     scaddLoop m st raw (left + 1) M r = scaddLoop m st raw left N { r with k := r.k + 1, pads := r.pads + 1 })

/-! ### Synchronisation, tags and queues -/

/-- ACQ at a local object: with HELD and the version as its kind asks for it lands with the version and acquires then,
ACQ.x also taking the object; else it waits, or traps on an object with reserved bits, or for ACQ.x on one with no
LOCK. An ACQ.ge that waited and was answered at a write lands with the version of that write, whatever has been written
since (R95). A remote object is asked by a packet, and object 0 is the partition's default object (R92, R93, R95), on which
ACQ.nw and REL order as FENCE does (R101). REL releases at its scope and then counts the object's VERSION up, giving up
HELD when its stream holds the object; it lands with the new version (R93, R94, R259). Both wait for a stack that
switches its mode (R74). -/
def Obligations.ObjectWordsAcquireAndRelease : Prop :=
  (∀ (i : Instr) (s : State) (k : Cur) (m : Member) (kind : AcqKind) (d : Dst) (o : Reg) (sc : Scope) (rn : Nat),
     Issues i s k m → NoRegion k m → acqOf i (k.ctx s.m m) = some (kind, d, o, sc, rn) →
     let c := k.ctx s.m m
     let obj := c.reg o
     let landed (M : Mach) (v : Word) : Res := .untimed M { c.unt .ready with writes := [(d, v)], acquire := some sc }
     (obj.toNat % 64 ≠ 0 → Traps i s k m (badOperand k)) ∧
     (obj = 0 →
       let v := ((c.M.part c.mem.ref.part).map (·.defver)).getD 0
       (kind = .nw → (sc = .pod → c.s.imprecise = []) →
         let R := release c.M c.mem.ref c.st sc
         let u : Untimed := { c.unt .ready with writes := [(d, R.defver c.mem.ref.part)], acquire := some sc }
         (sc = .pod → outstanding R c.mem.ref c.st = true →
           Ends i s k m (.untimed R { u with needs := .acknowledged, job := .acqNw })) ∧
         ((sc = .pod → outstanding R c.mem.ref c.st = false) → Ends i s k m (.untimed R u))) ∧
       (kind = .x → Traps i s k m (badOperand k)) ∧
       (∀ n x, kind = .ge n → c.met (.defverGe 0) = some x → Ends i s k m (landed c.M x)) ∧
       (∀ n, kind = .ge n → c.met (.defverGe 0) = none → n ≤ v.toNat → Ends i s k m (landed c.M v)) ∧
       (∀ n, kind = .ge n → c.met (.defverGe 0) = none → v.toNat < n → Ends i s k m (.wait .acq (.defverGe n)))) ∧
     (obj.toNat % 64 = 0 → obj ≠ 0 →
       (∀ f, c.span .atomic obj 16 = .error f → Traps i s k m (xlateTrap k.raw f .atomic)) ∧
       (∀ M pa n ts x, c.span .atomic obj 16 = .ok (M, (.local pa, n) :: ts) →
         c.met (acqCond c.mem.ref.part pa kind) = some x → Ends i s k m (landed M x)) ∧
       (∀ M pa n ts q, c.span .atomic obj 16 = .ok (M, (.local pa, n) :: ts) →
         c.met (acqCond c.mem.ref.part pa kind) = none → M.poisoned pa 16 = false → M.switchingAt pa = some q →
         Ends i s k m (.wait .acq (acqCond c.mem.ref.part pa kind))) ∧
       (∀ M pa n ts, c.span .atomic obj 16 = .ok (M, (.local pa, n) :: ts) →
         c.met (acqCond c.mem.ref.part pa kind) = none → M.poisoned pa 16 = false → M.switchingAt pa = none →
         let F := flushLine M c.mem.ref c.st pa
         let v := F.word pa
         let w1 := (F.word (pa + 8)).toNat
         (objWellFormed w1 = false → Traps i s k m (badOperand k)) ∧
         (objWellFormed w1 = true →
           (kind = .nw → Ends i s k m (landed F v)) ∧
           (∀ x, kind = .ge x → x ≤ v.toNat → Ends i s k m (landed F v)) ∧
           (∀ x, kind = .ge x → v.toNat < x → Ends i s k m (.wait .acq (.versionGe c.mem.ref.part pa x))) ∧
           (kind = .x → w1 % 2 = 0 → Traps i s k m (badOperand k)) ∧
           (kind = .x → w1 % 2 = 1 → 2 ^ 63 ≤ w1 → Ends i s k m (.wait .acq (.notHeld pa))) ∧
           (kind = .x → w1 % 2 = 1 → w1 < 2 ^ 63 →
             let held := w64 (2 ^ 63 + fld (holderBits F c.mem.ref c.st) 26 35 <<< 26 + fld w1 0 26)
             Ends i s k m (landed (F.setWord (pa + 8) held) v)))) ∧
       (∀ M dev p ra n ts, c.span .atomic obj 16 = .ok (M, (.remote dev p ra, n) :: ts) →
         let N := M.fresh
         let r : ConnRef := ⟨c.mem.ref.part, dev, p⟩
         let pl := beat [w64 kind.operand, w64 (holderBits N.1 c.mem.ref c.st)]
         Ends i s k m
           (.untimed (sendOn N.1 r (newPacket N.1 r 5 ra (acqKspec kind rn sc) pl) (.request c.mem.ref c.st N.2))
             { c.unt (.acq N.2 (watchdog N.1 c.mem.ref.part) none) with writes := [(d, 0)], acquire := some sc, pva := obj, akind := 2 })))) ∧
  (∀ (s : State) (k : Cur) (m : Member) (d : Dst) (o : Reg) (sc : Scope),
     let i : Instr := .rel d o sc
     Issues i s k m → NoRegion k m →
     let c := k.ctx s.m m
     let obj := c.reg o
     let u : Untimed := { c.unt .ready with pva := obj, akind := 2 }
     (obj.toNat % 64 ≠ 0 → Traps i s k m (badOperand k)) ∧
     (obj = 0 → (sc = .pod → c.s.imprecise = []) →
       let R := release c.M c.mem.ref c.st sc
       let v := ((R.fresh.1.part c.mem.ref.part).map (·.defver)).getD 0
       let u : Untimed := { u with acquire := some sc }
       (sc = .pod → outstanding R c.mem.ref c.st = true →
         Ends i s k m (.untimed R { u with writes := [(d, 0)], needs := .acknowledged, job := .rel obj sc })) ∧
       ((sc = .pod → outstanding R c.mem.ref c.st = false) →
         Ends i s k m
           (.untimed (R.fresh.1.updPart c.mem.ref.part fun p => { p with defver := p.defver + 1 })
             { u with writes := [(d, v + 1)] }))) ∧
     (obj.toNat % 64 = 0 → obj ≠ 0 → (sc = .pod → c.s.imprecise = []) →
       ∀ M ts, c.span .atomic obj 16 = .ok (M, ts) → spanPoison M ts = none →
         let R := (release M c.mem.ref c.st sc).fresh
         let busy := outstanding (release M c.mem.ref c.st sc) c.mem.ref c.st
         (sc = .pod → busy = true →
           Ends i s k m
             (.untimed (release M c.mem.ref c.st sc)
               { u with writes := [(d, 0)], needs := .acknowledged, job := .rel obj sc })) ∧
         (∀ q, (sc = .pod → busy = false) →
           let T := release M c.mem.ref c.st sc
           spanStack T (.ok (T, ts)) = some q →
           Ends i s k m (.untimed T { u with writes := [(d, 0)], needs := .stack q, job := .rel obj sc })) ∧
         (spanStack (release M c.mem.ref c.st sc) (.ok (release M c.mem.ref c.st sc, ts)) = none →
         ((sc = .pod → busy = false) → ∀ N, performRel R.1 c.mem c.st R.2 obj sc k.raw = .sent N →
           Ends i s k m (.untimed N { u with writes := [(d, 0)], needs := .response R.2 })) ∧
         ((sc = .pod → busy = false) → ∀ pa n us es, xspan R.1 c.mem.core c.mem.die c.mem.ref.part .atomic obj 16 = .ok ((.local pa, n) :: us, es) →
           let F := flushLine R.1 c.mem.ref c.st pa
           let v := F.word pa
           let w1 := (F.word (pa + 8)).toNat
           let N := F.setWord pa (v + 1)
           (objWellFormed w1 = false → Traps i s k m (badOperand k)) ∧
           (objWellFormed w1 = true → 2 ^ 63 ≤ w1 → fld w1 26 35 ≠ fld (holderBits F c.mem.ref c.st) 26 35 →
             Traps i s k m ⟨0x1E, false, k.raw, obj, [], false⟩) ∧
           (objWellFormed w1 = true → w1 < 2 ^ 63 → Ends i s k m (.untimed N { u with writes := [(d, v + 1)] })) ∧
           (objWellFormed w1 = true → 2 ^ 63 ≤ w1 → fld w1 26 35 = fld (holderBits F c.mem.ref c.st) 26 35 →
             Ends i s k m
               (.untimed (N.setWord (pa + 8) (w64 (w1 - 2 ^ 63))) { u with writes := [(d, v + 1)] }))))))

/-- FENCE and XFENCE release and then acquire at their scope, XFENCE writing back and dropping the core's copies at
every scope; with posted remote writes at .pod they are untimed until those are acknowledged (R101, R104, R260). The
oldest pending refusal of the stream raises a trap at its next release or fence of scope .pod, and is gone once that trap
is the one that is taken (R31, R396). -/
def Obligations.FencesReleaseAndAcquire : Prop :=
  (∀ (s : State) (k : Cur) (m : Member) (sc : Scope) (i : Instr) (wide : Bool),
     Issues i s k m → NoRegion k m → (i = .fence sc ∧ wide = false) ∨ (i = .xfence sc ∧ wide = true) →
     let c := k.ctx s.m m
     (sc = .pod → c.s.imprecise = []) →
     let R := release c.M c.mem.ref c.st sc
     let W := if wide then acquire (release R c.mem.ref c.st .pkg) c.mem.ref .pkg else R
     (sc = .pod → outstanding W c.mem.ref c.st = true →
       Ends i s k m (.untimed W { c.unt .acknowledged with acquire := some sc })) ∧
     ((sc = .pod → outstanding W c.mem.ref c.st = false) → Ends i s k m (.done (acquire W c.mem.ref sc)))) ∧
  (∀ (s : State) (k : Cur) (m : Member) (i : Instr) (r : Imprecise) (rest : List Imprecise),
     Issues i s k m → NoRegion k m → i = .fence .pod ∨ i = .xfence .pod →
     (k.ctx s.m m).s.imprecise = r :: rest →
     Ends i s k m (.trapTaking (k.ctx s.m m).M (.refusal k.st r) (impreciseTrap k.raw r))) ∧
  (∀ (y : Member) (st : Strm) (r : Imprecise) (rest : List Imprecise) (i : TrapInfo),
     (y.str st).imprecise = r :: rest →
     ((({ y with raised := [(st, i)], taking := [(st, .refusal st r)] } : Member).takeFor st).str st).imprecise = rest)

/-- WAITC holds until the rows that could be popped are at least, or at most, X; WAITC.ge of more than 32 traps (R38,
R261). TLWAIT holds until its counter's completion number reaches X or only refusals that it takes stand before that,
then takes a covered refusal or deferred fault, and with none closes a region of A that it covers and acquires at the
package scope (R262, R455). TLSIG releases at its scope and completes with the next number of its counter as its result;
its command is done when, at .pod, every write its stream had posted before it is acknowledged, also those an HPUB before
it has still to post (assumption 6), and no refusal of one of them stands untaken (R105, R109, R263; assumption 16). -/
def Obligations.WaitAndSignalWordsComplete : Prop :=
  (∀ (s : State) (k : Cur) (m : Member) (x : Reg),
     let c := k.ctx s.m m
     let n := (c.reg x).toNat
     (∀ q, Issues (.waitcGe q x) s k m → NoRegion k m →
       (32 < n → Traps (.waitcGe q x) s k m (badOperand k)) ∧
       (n ≤ readyRows (c.mem.queue q) → n ≤ 32 → Ends (.waitcGe q x) s k m (.done c.M)) ∧
       (readyRows (c.mem.queue q) < n → n ≤ 32 → Ends (.waitcGe q x) s k m (.wait .timeline (.queueRows q.toNat n)))) ∧
     (∀ q, Issues (.waitcLe q x) s k m → NoRegion k m →
       (readyRows (c.mem.queue q) ≤ n → Ends (.waitcLe q x) s k m (.done c.M)) ∧
       (n < readyRows (c.mem.queue q) → Ends (.waitcLe q x) s k m (.wait .timeline (.queueAtMost q.toNat n)))) ∧
     (∀ tc : BitVec 2, Issues (.tlwait tc x) s k m →
       (timelineOk c.mem k.st tc.toNat n = false → Ends (.tlwait tc x) s k m (.wait .timeline (.completed tc.toNat n))) ∧
       (timelineOk c.mem k.st tc.toNat n = true →
         let covered : Bool :=
           match c.mem.region with
           | some g => k.st == .a && g.cmds.any fun r => r.tc == tc.toNat && decide (r.num ≤ n)
           | none => false
         let M := if covered then closeRegion c.M c.mem.ref else c.M
         let faults := c.waitFaults (fun q => q.coveredBy tc.toNat n) (coversRefusal c.mem k.st tc.toNat n) [k.st]
         (∀ r, faults = some r → Ends (.tlwait tc x) s k m r) ∧
         (faults = none → Ends (.tlwait tc x) s k m (.done (acquire M c.mem.ref .pkg)))) ∧
       (n ≤ (c.mem.counter tc).2 → c.mem.region = none → timelineOk c.mem k.st tc.toNat n = true))) ∧
  (∀ (s : State) (k : Cur) (m : Member) (d : Dst) (tc : BitVec 2) (sc : Scope),
     Issues (.tlsig d tc sc) s k m → NoRegion k m →
     let c := k.ctx s.m m
     let R := release c.M c.mem.ref c.st sc
     let l := c.issueCmd R tc (.signal sc c.s.nissue)
     Ends (.tlsig d tc sc) s k m (.done (c.resultOn (settleSignals l.1) 1 d (w64 l.2.num)))) ∧
  (∀ (M : Mach) (y : Member) (q : Cmd) (sc : Scope) (num : Nat), q.run = .signal sc num →
     (signalDone M y q sc num = true ↔
       (sc = .pod →
         (∀ c ∈ M.conns,
           (∀ u ∈ c.unacked, u.origin.postedBy y.ref q.st = true → num < u.origin.place) ∧
           (∀ w ∈ c.waiting, w.2.postedBy y.ref q.st = true → num < w.2.place) ∧
           ∀ z ∈ c.resend, (Origin.arrival z.2).postedBy y.ref q.st = true → num < (Origin.arrival z.2).place) ∧
         (∀ x, M.member y.ref = some x →
           (∀ v ∈ x.verges, v.started = true → v.st = q.st → recF v.grid 27 3 = 5 → num < v.num) ∧
           ∀ p ∈ x.reports, p.st = q.st → recF p.grid 27 3 = 5 → num < p.num) ∧
         ∀ r ∈ (y.str q.st).imprecise, r.strm = q.st → r.cmd = none → num < r.num)))

/-- MBW waits while the box is full or an earlier stream waits for the same, else it releases at the core scope and
fills the box; MBR waits while it is empty or another is first, else it empties the box and gives its value (R39,
R155, R265). The tag words trap on a tile past the member's count. TAGARM arms an EMPTY tile, TAGSET.full and
.poison and TAGCLR change its tag, and TAGWT gives its status, .full and .empty once it is settled (R41, R43, R44,
R266). -/
def Obligations.MailboxAndTagWordsComplete : Prop :=
  (∀ (s : State) (k : Cur) (m : Member) (mb : BitVec 3),
     NoRegion k m →
     let c := k.ctx s.m m
     let b := c.mem.mbs[mb.toNat]'mb.isLt
     (∀ x, Issues (.mbw mb x) s k m →
       ((b.2 = true ∨ c.mustQueue (.mailboxEmpty mb.toNat) = true) →
         Ends (.mbw mb x) s k m (.wait .mailbox (.mailboxEmpty mb.toNat))) ∧
       (b.2 = false → c.mustQueue (.mailboxEmpty mb.toNat) = false →
         Ends (.mbw mb x) s k m
           (.done
             ((release c.M c.mem.ref c.st .core).updMember c.mem.ref fun y =>
               { y with mbs := y.mbs.set mb.toNat (c.reg x, true) mb.isLt })))) ∧
     (∀ d, Issues (.mbr d mb) s k m →
       ((b.2 = false ∨ c.mustQueue (.mailboxFull mb.toNat) = true) →
         Ends (.mbr d mb) s k m (.wait .mailbox (.mailboxFull mb.toNat))) ∧
       (b.2 = true → c.mustQueue (.mailboxFull mb.toNat) = false →
         Ends (.mbr d mb) s k m
           (.done
             (c.resultOn (c.upd fun y => { y with mbs := y.mbs.set mb.toNat (b.1, false) mb.isLt }) 1 d b.1))))) ∧
  (∀ (s : State) (k : Cur) (m : Member) (x : Reg),
     NoRegion k m →
     let c := k.ctx s.m m
     let t := (c.reg x).toNat
     let r := c.mem.tile t
     let set (M : Mach) (z : TileRec) : Mach := M.updMember c.mem.ref fun y => y.setTile t z
     let gives (M : Mach) (d : Dst) : Res := .done (c.resultOn M 1 d r.status)
     (∀ y ct n, Issues (.tagarm x y ct n) s k m →
       let e := (c.reg y).toNat
       let i : Instr := .tagarm x y ct n
       (c.mem.tilesN ≤ t ∨ e = 0 ∨ 128 < e ∨ r.tag ≠ .empty → Traps i s k m (badOperand k)) ∧
       (t < c.mem.tilesN → 0 < e → e ≤ 128 → r.tag = .empty →
         Ends i s k m (.done (set c.M { r with exp := e, mulm1 := n.toNat, ctype := ct, tdup := false })))) ∧
     (Issues (.tagsetFull x) s k m →
       let R := release c.M c.mem.ref c.st .core
       (c.mem.tilesN ≤ t ∨ r.tag = .poisoned → Traps (.tagsetFull x) s k m (badOperand k)) ∧
       (t < c.mem.tilesN → r.tag = .full → Ends (.tagsetFull x) s k m (.done R)) ∧
       (t < c.mem.tilesN → r.tag = .empty ∨ r.tag = .filling →
         Ends (.tagsetFull x) s k m
           (.done (set R { r with cnt := r.exp * (r.mulm1 + 1), tag := .full, acq := r.acq.join .core })))) ∧
     (Issues (.tagsetPoison x) s k m →
       (c.mem.tilesN ≤ t → Traps (.tagsetPoison x) s k m (badOperand k)) ∧
       (t < c.mem.tilesN → r.tag = .poisoned → Ends (.tagsetPoison x) s k m (.done c.M)) ∧
       (t < c.mem.tilesN → r.tag ≠ .poisoned →
         Ends (.tagsetPoison x) s k m (.done (c.upd fun y => y.poison t 0)))) ∧
     (Issues (.tagclr x) s k m →
       (c.mem.tilesN ≤ t → Traps (.tagclr x) s k m (badOperand k)) ∧
       (t < c.mem.tilesN → Ends (.tagclr x) s k m (.done (tagClear c.M c.mem.ref t)))) ∧
     (∀ d, Issues (.tagwtNw d x) s k m →
       (c.mem.tilesN ≤ t → Traps (.tagwtNw d x) s k m (badOperand k)) ∧
       (t < c.mem.tilesN → Ends (.tagwtNw d x) s k m (gives c.M d))) ∧
     (∀ d, Issues (.tagwtFull d x) s k m →
       (c.mem.tilesN ≤ t → Traps (.tagwtFull d x) s k m (badOperand k)) ∧
       (t < c.mem.tilesN →
         (r.tag = .poisoned → Ends (.tagwtFull d x) s k m (gives c.M d)) ∧
         (c.mem.readable t = true → Ends (.tagwtFull d x) s k m (gives (acquire c.M c.mem.ref (c.mem.fillScope [t])) d)) ∧
         (r.tag ≠ .poisoned → c.mem.readable t = false →
           Ends (.tagwtFull d x) s k m (.wait .tag (.tagsFull [t]))))) ∧
     (∀ d, Issues (.tagwtEmpty d x) s k m →
       (c.mem.tilesN ≤ t → Traps (.tagwtEmpty d x) s k m (badOperand k)) ∧
       (t < c.mem.tilesN →
         (r.tag = .empty ∨ r.tag = .poisoned → Ends (.tagwtEmpty d x) s k m (gives c.M d)) ∧
         (r.tag = .filling ∨ r.tag = .full → Ends (.tagwtEmpty d x) s k m (.wait .tag (.tagEmpty t))))))

/-- BAR: the stream scope only releases; a participant that the episode has let pass acquires and goes on; one that
has arrived waits; else its operand checks trap, or it releases and arrives (R159, R264). -/
def Obligations.BarriersReleaseArriveAndPass : Prop :=
  ∀ (s : State) (k : Cur) (m : Member) (sc : Scope) (mask : BitVec 4),
    let i : Instr := .bar sc mask
    Issues i s k m → NoRegion k m →
    let c := k.ctx s.m m
    let me := (c.mem.ref, c.st)
    let key := barKey c.M c.mem sc
    let b := (barFind c.M sc key).getD ⟨sc, key, mask.toNat, [], []⟩
    (sc = .stream → Ends i s k m (.done (release c.M c.mem.ref c.st .stream))) ∧
    (sc ≠ .stream →
      (me ∈ b.passed →
        Ends i s k m
          (.done (acquire (barPut c.M { b with passed := b.passed.filter fun x => x != me }) c.mem.ref sc))) ∧
      (me ∉ b.passed → me ∈ b.arrived → Ends i s k m (.wait .bar .episode)) ∧
      (me ∉ b.passed → me ∉ b.arrived →
        let bad : Prop :=
          (sc ≠ .core ∧ k.st ≠ .c) ∨ (sc = .core ∧ mask.toNat.testBit k.st.num = false) ∨
            (sc = .core ∧ b.arrived ≠ [] ∧ b.mask ≠ mask.toNat) ∨ (sc = .pod ∧ groupOf c.M c.mem.ref = 0)
        (bad → Traps i s k m (badOperand k)) ∧
        (¬bad → (sc = .pod → c.s.imprecise = []) →
          let R := release c.M c.mem.ref c.st sc
          (sc = .pod → outstanding R c.mem.ref c.st = true → Ends i s k m (.waitOn R .bar .acked)) ∧
          ((sc = .pod → outstanding R c.mem.ref c.st = false) →
            Ends i s k m
              (.waitOn (barPut R { b with mask := mask.toNat, arrived := b.arrived ++ [me] }) .bar .episode)))))

/-- PUSH and POP trap on an address that is no multiple of 64 or not translated; a PUSH .pod takes a pending refusal of its
stream; else they leave for the object's home as an operation of their stream, a push after its release, with the pairing
window of their class as it then is, and land with the answer; QOCTL acts at the home and lands with its result (R31, R115
to R120, R343). -/
def Obligations.QueueWordsAskTheHome : Prop :=
  ∀ (i : Instr) (s : State) (k : Cur) (m : Member),
    Issues i s k m → NoRegion k m →
    let c := k.ctx s.m m
    (∀ o form q ws, queueOf i c = some (o, form, q, ws) →
      let pva := c.reg o
      let push := match form with | .push _ => true | _ => false
      let kind : AKind := if push then .queuePush else .queuePop
      (pva.toNat % 64 ≠ 0 → Traps i s k m (badOperand k)) ∧
      (pva.toNat % 64 = 0 →
        (∀ f, c.span kind pva 64 = .error f → Traps i s k m (xlateTrap k.raw f kind)) ∧
        (∀ M ts, c.span kind pva 64 = .ok (M, ts) →
          let N := M.fresh
          let op : QOp :=
            ⟨N.2, form, c.mem.ref.part, pva.toNat, c.mem.ref.part, q, .stream c.mem.ref c.st, 0, 0, []⟩
          let u : Untimed := { c.unt (.queueOp N.2) with writes := ws, pva := pva, akind := 4 }
          let R := if push then release N.1 c.mem.ref c.st q.scope else N.1
          (push = true → q.scope = .pod → ∀ r rest, c.s.imprecise = r :: rest →
            Ends i s k m (.trapTaking c.M (.refusal c.st r) (impreciseTrap k.raw r))) ∧
          ((push = true → q.scope = .pod → c.s.imprecise = []) →
            (push = true → q.scope = .pod → outstanding R c.mem.ref c.st = true →
              Ends i s k m (.untimed R { u with needs := .acknowledged, job := .queue op })) ∧
            ((push = true → q.scope = .pod → outstanding R c.mem.ref c.st = false) →
              Ends i s k m (.untimed (launchOp R c.mem op pva kind) u)))))) ∧
    (∀ d o fn, ctlOf i = some (d, o, fn) →
      let pva := c.reg o
      (pva.toNat % 64 ≠ 0 → Traps i s k m (badOperand k)) ∧
      (pva.toNat % 64 = 0 →
        (∀ f, c.span .atomic pva 64 = .error f → Traps i s k m (xlateTrap k.raw f .queuePop)) ∧
        (∀ M pa n ts, c.span .atomic pva 64 = .ok (M, (.local pa, n) :: ts) → M.poisoned pa 64 = false →
          (∀ cause, homeCtl (flushLine M c.mem.ref c.st pa) c.mem.ref.part pa pva.toNat fn = .error cause →
            Traps i s k m ⟨cause, false, k.raw, pva, [], false⟩) ∧
          (∀ N v, homeCtl (flushLine M c.mem.ref c.st pa) c.mem.ref.part pa pva.toNat fn = .ok (N, v) →
            Ends i s k m (.untimed N { c.unt .ready with writes := [(d, v)] }))) ∧
        (∀ M dev p ra n ts, c.span .atomic pva 64 = .ok (M, (.remote dev p ra, n) :: ts) →
          let N := M.fresh
          let r : ConnRef := ⟨c.mem.ref.part, dev, p⟩
          Ends i s k m
            (.untimed
              (sendOn N.1 r (newPacket N.1 r 4 ra (kspec (fn.num + 1 <<< 15)) (beat [])) (.request c.mem.ref c.st N.2))
              { c.unt (.response N.2) with writes := [(d, 0)], pva := pva, akind := 4 }))))

/-- A queue operation at its home fails on translation, on a poisoned descriptor, on a frame or fields that do not fit
and on a disabled object; else a push is given to the oldest parked pop or becomes the newest entry unless the
object is full, and a pop takes the newest entry of a stack, is answered empty, or is parked until its time is out; no
entry outside the array is reached whatever COUNT holds (R113, R114, R117, R118). A parked pop whose time is out is
answered and leaves the object, but a push that is due there in the same cycle is served first; a held operation goes on to
its next hop with what is left of its budget when its time there is out; an operation reaching a junction is
paired with a matching one held there, held with its allowance, or forwarded where it may not be held (R118, R122
to R126). -/
def Obligations.QueueObjectsAndJunctionsServe : Prop :=
  (∀ (s : State) (op : QOp),
     let e : Instr := .queueHomeService op
     let k : AKind := if op.isPush then .queuePush else .queuePop
     (∀ q, homeSpan s.m op.part k op.pva 64 = .error q → Becomes e s (replyOp s.m op q)) ∧
     (∀ pa, homeSpan s.m op.part k op.pva 64 = .ok pa →
       let d := wordsOf 8 (s.m.get pa 64)
       let n := fld (recW d 2) 0 25
       let cap := 2 ^ fld (recW d 0) 24 5
       let serves := s.m.poisoned pa 64 = false ∧ descFrame pa = true ∧ opMatches op (recW d 0) = true ∧
         bitOf (recW d 0) 63 = true
       (s.m.poisoned pa 64 = true → Becomes e s (replyOp s.m op (.ecc (pa / 64 * 64)))) ∧
       (s.m.poisoned pa 64 = false → descFrame pa = false → Becomes e s (replyOp s.m op (.trap 0x1D))) ∧
       (s.m.poisoned pa 64 = false → descFrame pa = true → opMatches op (recW d 0) = false →
         Becomes e s (replyOp s.m op (.trap 0x1C))) ∧
       (s.m.poisoned pa 64 = false → descFrame pa = true → opMatches op (recW d 0) = true →
         bitOf (recW d 0) 63 = false → Becomes e s (replyOp s.m op (.status 0 5 0))) ∧
       (serves → ∀ p, op.form = .push p →
         (∀ w ws, parkedOn s.m op.part op.pva = w :: ws →
           Becomes e s
             (replyOp
               (replyOp
                 (({ s.m with parked := s.m.parked.filter fun x => x.op.id != w.op.id } : Mach).setWord (pa + 24)
                   (w64 (recW d 3 - 1)))
                 w.op (.status 0 0 p))
               op (.status 0 0 0))) ∧
         (parkedOn s.m op.part op.pva = [] → cap ≤ n → Becomes e s (replyOp s.m op (.status 0 2 0))) ∧
         (parkedOn s.m op.part op.pva = [] → n < cap → ∀ ea, entryAt s.m op (descStore d) n = .ok ea →
           Becomes e s
             (replyOp ((s.m.put ea (leBytes 16 p.toNat)).setWord (pa + 16) (w64 (n + 1))) op (.status 0 0 0)))) ∧
       (serves → op.isPush = false →
         let held := min n cap
         (∀ t, 0 < n → fld (recW d 0) 0 1 = 1 → entryAt s.m op (descStore d) (held - 1) = .ok t →
           let M := s.m.put t (s.m.get t 16)
           Becomes e s
             (replyOp (M.setWord (pa + 16) (w64 (held - 1))) op
               (.status 0 0 (BitVec.ofNat 128 (leNat (s.m.get t 16)))))) ∧
         (∀ a t, 0 < n → fld (recW d 0) 0 1 = 0 → entryAt s.m op (descStore d) (bagChoice held) = .ok a →
           entryAt s.m op (descStore d) (held - 1) = .ok t →
           Becomes e s
             (replyOp ((s.m.put a (s.m.get t 16)).setWord (pa + 16) (w64 (held - 1))) op
               (.status 0 0 (BitVec.ofNat 128 (leNat (s.m.get a 16)))))) ∧
         (n = 0 → op.form = .popN ∨ fld (recW d 0) 32 16 = 0 → Becomes e s (replyOp s.m op (.status 0 1 0))) ∧
         (n = 0 → op.form = .popW → fld (recW d 0) 32 16 ≠ 0 →
           let home := (paDie pa).getD 0
           let waits := fld (recW d 0) 32 16 * 1024
           (1024 ≤ (s.m.parked.filter fun x => x.die == home).length → Becomes e s (replyOp s.m op (.status 0 4 0))) ∧
           ((s.m.parked.filter fun x => x.die == home).length < 1024 →
             Becomes e s
               ((({ s.m with parked := s.m.parked ++ [(⟨op, home, s.m.wclk + waits⟩ : Parked)] } : Mach).setWord
                 (pa + 24) (w64 (fld (recW d 3) 0 11 + 1))).raise waits (.parkedPopTimeout op.id))))))) ∧
  (∀ s : State,
     (∀ id x, s.m.parked.find? (fun y => y.op.id == id) = some x → x.deadline ≤ s.m.wclk →
       pushDue s.m x.op.part x.op.pva = true →
       Becomes (.parkedPopTimeout id) s (s.m.raise 0 (.parkedPopTimeout id))) ∧
     (∀ id x, s.m.parked.find? (fun y => y.op.id == id) = some x → x.deadline ≤ s.m.wclk →
       pushDue s.m x.op.part x.op.pva = false →
       let M : Mach := { s.m with parked := s.m.parked.filter fun y => y.op.id != id }
       (∀ pa, homeSpan M x.op.part .queuePop x.op.pva 64 = .ok pa →
         Becomes (.parkedPopTimeout id) s
           (replyOp (M.setWord (pa + 24) (w64 ((M.word (pa + 24)).toNat - 1))) x.op (.status 0 3 0))) ∧
       (∀ f, homeSpan M x.op.part .queuePop x.op.pva 64 = .error f →
         Becomes (.parkedPopTimeout id) s (replyOp M x.op (.status 0 3 0)))) ∧
     (∀ id h, s.m.held.find? (fun y => y.op.id == id) = some h →
       Becomes (.holdExpiry id) s
         (arriveAt { s.m with held := s.m.held.filter fun x => x.op.id != id }
           { h.op with budget := h.op.budget - h.allowance, route := h.op.route.drop 1 })) ∧
     (∀ op, op.route = [] → Becomes (.junctionHold op) s (s.m.raise 1 (.queueHomeService op))) ∧
     (∀ op j rest, op.route = j :: rest →
       (∀ h, heldMatch s.m op j = some h → Becomes (.junctionHold op) s (pairAt s.m j h.op op)) ∧
       (heldMatch s.m op j = none →
         let allow := if rest = [] then op.budget else min op.budget (op.window / 4)
         (allow = 0 ∨ holdSlots j ≤ heldCount s.m op j →
           Becomes (.junctionHold op) s (arriveAt s.m { op with route := rest })) ∧
         (allow ≠ 0 → heldCount s.m op j < holdSlots j →
           Becomes (.junctionHold op) s
             (({ s.m with held := s.m.held ++ [(⟨op, j, s.m.wclk, allow⟩ : Held)] } : Mach).raise (nsCycles allow)
               (.holdExpiry op.id))))) ∧
     (∀ held op h, s.m.held.find? (fun y => y.op == held && pairs y.op op) = some h →
       Becomes (.junctionPair held op) s (pairAt s.m h.place h.op op)) ∧
     (∀ held op, s.m.held.find? (fun y => y.op == held && pairs y.op op) = none →
       Becomes (.junctionPair held op) s (arriveAt s.m op)))

/-- GRIDCTL: .join puts a fresh state block down for an owner of this member that has not joined and lands; .leave of
a joined owner lands once its verge writes are performed; .stat and .stat.ms land with the owner's milestone words
(R137, R347). HWAIT, HWAIT.all, HLD and HLD.q wait for the milestones of their regions, trap on a late one, and
with all accepted acquire at the grid's scope and complete: HLD as a load of the cell's bytes, from tiles or from
the verge area, HLD.q by pushing rows (R141, R345, R346). HPUB by a joined owner at its next position traps on
another position, waits while a receiver's published position is behind by the grid's depth, and else releases,
writes the owner's milestone, and leaves one verge write for each receiver, with the source cells of its block as they stand and
a report for each region that another owner sources (R135, R138, R139, R346; where the block lies is left open:
assumption 6). -/
def Obligations.GridWordsComplete : Prop :=
  (∀ (s : State) (k : Cur) (m : Member) (x : Reg),
     NoRegion k m →
     let c := k.ctx s.m m
     (Issues (.gridctlJoin x) s k m → ∀ p e M pa, OwnerRead c x p e M → p.ms = 0 → p.reg = 0 →
       c.mem.joinedAs p.g p.own = false → entHere M c.mem e = true → entMember e = c.mem.ref →
       statePa M c.mem .engineWrite e = .ok pa →
       let pva := (((c.mem.handles.toList.getD p.h none).map (·.pva)).getD 0)
       Ends (.gridctlJoin x) s k m
         (.untimed
           (((dropCopies M c.mem.ref [(.local pa, 0x800)]).put pa (freshState p.g)).updMember c.mem.ref fun y =>
             { y with joined := y.joined ++ [(⟨p.g, pva, p.own⟩ : Joined)] })
           { c.unt .ready with writes := [] })) ∧
     (Issues (.gridctlLeave x) s k m → ∀ p, c.gridPos x = some p →
       (c.mem.joinedAs p.g p.own = true → Ends (.gridctlLeave x) s k m (.untimed c.M (c.unt (.vergeWrites p.g p.own)))) ∧
       (c.mem.joinedAs p.g p.own = false → Traps (.gridctlLeave x) s k m (badOperand k))) ∧
     (∀ d, Issues (.gridctlStat d x) s k m → ∀ p e M pa, OwnerRead c x p e M → entHere M c.mem e = true →
       statePa M c.mem .read e = .ok pa → M.poisoned pa 4 = false →
       Ends (.gridctlStat d x) s k m
         (.untimed (dropCopies M c.mem.ref [(.local pa, 4)]) { c.unt .ready with writes := [(d, w64 (M.word32 pa))] })) ∧
     (∀ d j, Issues (.gridctlStatMs d x j) s k m → ∀ p e M pa, OwnerRead c x p e M → (c.reg j).toNat ≤ gDepth p.g →
       p.reg < 27 → entHere M c.mem e = true → statePa M c.mem .read e = .ok pa →
       let a := pa + 0x100 + 4 * (27 * (c.reg j).toNat + p.reg)
       M.poisoned a 4 = false →
       Ends (.gridctlStatMs d x j) s k m
         (.untimed (dropCopies M c.mem.ref [(.local a, 4)]) { c.unt .ready with writes := [(d, w64 (M.word32 a))] })) ∧
     (∀ i, Issues i s k m → c.gridPos x = none →
       i = .gridctlJoin x ∨ i = .gridctlLeave x ∨ (∃ d, i = .gridctlStat d x) ∨ (∃ d j, i = .gridctlStatMs d x j) ∨
         i = .hwait x ∨ i = .hwaitAll x ∨ i = .hpub x →
       Traps i s k m (badOperand k))) ∧
  (∀ (s : State) (k : Cur) (m : Member) (x : Reg) (p : GPos) (e : List Word) (M : Mach) (regs : List Nat) (pa : Nat)
     (v : MsState × Nat),
     NoRegion k m → HaloRead (k.ctx s.m m) x p e M regs pa v →
     let c := k.ctx s.m m
     let A := acquire M c.mem.ref (gScope p.g)
     (Issues (.hwait x) s k m → regionExists p.g p.reg = true → regs = [p.reg] →
       HaloEnds (.hwait x) s k m p M regs pa v (Ends (.hwait x) s k m (.done A))) ∧
     (Issues (.hwaitAll x) s k m → p.reg = 0 → regs = (List.range 27).filter (fun r => decide (regionBytes p.g r ≠ 0)) →
       HaloEnds (.hwaitAll x) s k m p M regs pa v (Ends (.hwaitAll x) s k m (.done A))) ∧
     (∀ d b slot sz arr, Issues (.hld d x b slot sz arr) s k m →
       runOk p (c.reg b).toNat sz.bytes sz.bytes = true → regs = [p.reg] →
       HaloEnds (.hld d x b slot sz arr) s k m p M regs pa v
         (let o : Ctx := { c with M := A }
         match vergeAt c.mem p e (c.reg b).toNat sz.bytes with
         | .ok pva => Ends (.hld d x b slot sz arr) s k m (o.load d slot arr sz false false pva)
         | .error (some ts) =>
           Ends (.hld d x b slot sz arr) s k m (o.loadFrom d slot arr sz false false 0 (.ok (A, ts)))
         | .error none => Traps (.hld d x b slot sz arr) s k m (badOperand k))) ∧
     (∀ q b n, Issues (.hldQ q x b n) s k m →
       let z := (c.reg n).toNat
       1 ≤ z → z ≤ 32 → runOk p (c.reg b).toNat 64 (128 * z) = true → regs = [p.reg] →
       HaloEnds (.hldQ q x b n) s k m p M regs pa v
         ((∀ pva N, vergeAt c.mem p e (c.reg b).toNat (128 * z) = .ok pva →
           c.queueLoad A q z ((List.range z).map fun j => some ((pva.toNat + 128 * j : Nat) : Int)) = .ok N →
           Ends (.hldQ q x b n) s k m (.done N)) ∧
         (∀ pva r, vergeAt c.mem p e (c.reg b).toNat (128 * z) = .ok pva →
           c.queueLoad A q z ((List.range z).map fun j => some ((pva.toNat + 128 * j : Nat) : Int)) = .error r →
           Ends (.hldQ q x b n) s k m r) ∧
         (vergeAt c.mem p e (c.reg b).toNat (128 * z) = .error none → Traps (.hldQ q x b n) s k m (badOperand k)) ∧
         (∀ a l ts, vergeAt c.mem p e (c.reg b).toNat (128 * z) = .error (some ((.local a, l) :: ts)) →
           (32 < (c.mem.queue q).length + z ∨ c.mustQueue (.queueRoom q.toNat z) = true →
             Ends (.hldQ q x b n) s k m (.wait .queue (.queueRoom q.toNat z))) ∧
           ((c.mem.queue q).length + z ≤ 32 → c.mustQueue (.queueRoom q.toNat z) = false →
             Ends (.hldQ q x b n) s k m
               (.done
                 (pushRows A c.mem c.s q
                   ((List.range z).map fun j => some [((.local (a + 128 * j) : Target), 128)]))))))) ∧
     (∀ i, Issues i s k m → i = .hwait x → regionExists p.g p.reg = false → Traps i s k m (badOperand k)) ∧
     (∀ i, Issues i s k m → i = .hwaitAll x → p.reg ≠ 0 → Traps i s k m (badOperand k))) ∧
  (∀ (s : State) (k : Cur) (m : Member) (x : Reg) (p : GPos) (e : List Word) (M : Mach) (pa : Nat),
     Issues (.hpub x) s k m → NoRegion k m → OwnerRead (k.ctx s.m m) x p e M →
     statePa M (k.ctx s.m m).mem .engineWrite e = .ok pa →
     let c := k.ctx s.m m
     c.mem.joinedAs p.g p.own = true → p.reg = 0 →
     (p.ms ≠ msRank (M.word32 pa) ∨ 2 ^ 31 ≤ p.ms → Traps (.hpub x) s k m (badOperand k)) ∧
     (p.ms = msRank (M.word32 pa) → p.ms < 2 ^ 31 →
       ∀ r, ({ c with M := M } : Ctx).vergeRefusal p.g p.own = some r → Ends (.hpub x) s k m r) ∧
     (p.ms = msRank (M.word32 pa) → p.ms < 2 ^ 31 → ({ c with M := M } : Ctx).vergeRefusal p.g p.own = none →
       let need := p.ms - gDepth p.g
       let words := (receivers p.g p.own).flatMap fun q => q.2.map fun r => (pa + 0x600 + 4 * (26 - r), q.1)
       ((∃ w ∈ words, msRank (M.word32 w.1) < need) →
         Ends (.hpub x) s k m (.waitOn M .grid (.published words need (gTimeout p.g)))) ∧
       ((∀ w ∈ words, need ≤ msRank (M.word32 w.1)) → (gScope p.g = .pod → c.s.imprecise = []) →
         let R := release M c.mem.ref c.st (gScope p.g)
         (gScope p.g = .pod → outstanding R c.mem.ref c.st = true →
           Ends (.hpub x) s k m (.waitOn R .untimed .acked)) ∧
         ((gScope p.g = .pod → outstanding R c.mem.ref c.st = false) →
           let P := (dropCopies R c.mem.ref [(.local pa, 4)]).put pa (leBytes 4 p.ms)
           let reports := publishReports c.mem p c.st c.s.nissue
           let N :=
             P.updMember c.mem.ref fun y =>
               { y with verges := y.verges ++ publishVerges P y p c.st c.s.nissue, reports := y.reports ++ reports }
           Ends (.hpub x) s k m
             (.untimed (reports.foldl (fun N z => N.raise 1 (.progressReport z.ref z.region)) N)
               (c.unt (.published p.g p.own p.ms (gTimeout p.g))))))))

/-! ### Commands -/

/-- A command takes the next number of its counter: issue goes up by one, the completion number, the other counters,
memory and every other member stay, and the command is open on its stream with nothing done (R102). The
copy-shadow words set their part of the shadow and nothing else, or trap on a value out of range (R332 to R336).
CPGO traps on a malformed shadow, waits while the die's twelve engines are taken, and else launches the shadow's
sequence on a free one, for a tile destination after its release; CPSTAT gives its command's status word (R337,
R342). -/
def Obligations.CopyWordsComplete : Prop :=
  (∀ (c : Ctx) (M : Mach) (tc : BitVec 2) (run : CmdRun) (y : Member),
     M.member c.mem.ref = some y →
     let l := c.issueCmd M tc run
     let n := (y.counter tc).1 + 1
     l.2 = ⟨c.mem.ref, tc.toNat, n⟩ ∧ l.1.mem = M.mem ∧ (∀ r, r ≠ c.mem.ref → l.1.member r = M.member r) ∧
       ∃ z, l.1.member c.mem.ref = some z ∧ z.counter tc = (n, (y.counter tc).2) ∧
         (∀ t, t ≠ tc → z.counter t = y.counter t) ∧
         (∃ q, z.cmds = y.cmds ++ [q] ∧ q.ref = l.2 ∧ q.run = run ∧ q.st = c.st ∧ q.finished = false ∧ q.out = 0 ∧
           q.pos = 0) ∧
         z.tiles = y.tiles ∧ z.queues = y.queues ∧ (∀ st, z.str st = y.str st)) ∧
  (∀ (s : State) (k : Cur) (m : Member),
     let c := k.ctx s.m m
     let shadow (f : CopyCfg → CopyCfg) : Res := .done (c.upd fun y => { y with copy := f y.copy })
     let level (lv : BitVec 3) (f : CLevel → CLevel) : Res := shadow fun z => z.setLevel lv.toNat f
     let inWindow (x y : Reg) : Prop :=
       -(2 ^ 31) ≤ (c.reg x).toInt ∧ (c.reg x).toInt < 2 ^ 31 ∧ (c.reg y).toNat < 2 ^ 32
     let passes (n : Count) : Nat :=
       match n with
       | .reg r => (c.reg r).toNat
       | .hl j => (c.mem.hl[j.toNat]'j.isLt).toNat
     (∀ lv n, Issues (.cpseq lv n) s k m →
       (1 ≤ passes n ∧ passes n < 2 ^ 31 →
         Ends (.cpseq lv n) s k m (level lv fun l => { l with count := passes n })) ∧
       (¬(1 ≤ passes n ∧ passes n < 2 ^ 31) → Traps (.cpseq lv n) s k m (badOperand k))) ∧
     (Issues .cpseqClr s k m → Ends .cpseqClr s k m (shadow fun _ => CopyCfg.fresh)) ∧
     (∀ x, Issues (.cpsrcBase x) s k m →
       Ends (.cpsrcBase x) s k m (shadow fun z => { z with srcBase := c.reg x })) ∧
     (∀ x, Issues (.cpdstBase x) s k m →
       Ends (.cpdstBase x) s k m (shadow fun z => { z with dstBase := c.reg x, tile := false })) ∧
     (∀ x, Issues (.cpdstBaseTile x) s k m →
       Ends (.cpdstBaseTile x) s k m (shadow fun z => { z with dstBase := c.reg x, tile := true })) ∧
     (∀ lv x, Issues (.cpsrcStride lv x) s k m →
       Ends (.cpsrcStride lv x) s k m (level lv fun l => { l with src := { l.src with stride := (c.reg x).toInt } })) ∧
     (∀ lv x, Issues (.cpdstStride lv x) s k m →
       Ends (.cpdstStride lv x) s k m (level lv fun l => { l with dst := { l.dst with stride := (c.reg x).toInt } })) ∧
     (∀ lv x y, Issues (.cpsrcWin lv x y) s k m →
       (inWindow x y →
         Ends (.cpsrcWin lv x y) s k m
           (level lv fun l => { l with src := { l.src with org := (c.reg x).toInt, ext := (c.reg y).toNat } })) ∧
       (¬inWindow x y → Traps (.cpsrcWin lv x y) s k m (badOperand k))) ∧
     (∀ lv x y, Issues (.cpdstWin lv x y) s k m →
       (inWindow x y →
         Ends (.cpdstWin lv x y) s k m
           (level lv fun l => { l with dst := { l.dst with org := (c.reg x).toInt, ext := (c.reg y).toNat } })) ∧
       (¬inWindow x y → Traps (.cpdstWin lv x y) s k m (badOperand k))) ∧
     (∀ lv list n, Issues (.cpidx lv list n) s k m →
       let ok := (c.reg list).toNat % 32 = 0 ∧ 1 ≤ (c.reg n).toNat ∧ (c.reg n).toNat < 2 ^ 31
       (ok →
         Ends (.cpidx lv list n) s k m
           (shadow fun z => { z with gather := some (lv.toNat, c.reg list, (c.reg n).toNat) })) ∧
       (¬ok → Traps (.cpidx lv list n) s k m (badOperand k))) ∧
     (Issues .cpidxOff s k m → Ends .cpidxOff s k m (shadow fun z => { z with gather := none })) ∧
     (∀ x, Issues (.cpswz x) s k m →
       (swzOk (c.reg x) = true → Ends (.cpswz x) s k m (shadow fun z => { z with swz := c.reg x })) ∧
       (swzOk (c.reg x) = false → Traps (.cpswz x) s k m (badOperand k)))) ∧
  (∀ (s : State) (k : Cur) (m : Member) (d : Dst) (tc : BitVec 2),
     let c := k.ctx s.m m
     let z := c.mem.copy
     (∀ esz sc, Issues (.cpgo d tc esz sc) s k m →
       let i : Instr := .cpgo d tc esz sc
       (k.st = .a → c.mem.region ≠ none → z.gather = none → Traps i s k m ⟨0x12, false, k.raw, 0, [], false⟩) ∧
       ((NoRegion k m ∨ z.gather ≠ none) →
         (z.malformed esz.toNat sc = true → Traps i s k m (badOperand k)) ∧
         (z.malformed esz.toNat sc = false →
           (engineFree c.M c.mem.die = none → Ends i s k m (.wait .cpgo .engineFree)) ∧
           (∀ e, engineFree c.M c.mem.die = some e →
             let run : CmdRun :=
               .copy
                 { cfg := z, esz := esz.toNat, sc := sc, engine := some e, sector := none, batch := none, undo := [],
                   sent := [], tiles := [], come := false }
             let go (M : Mach) : Res := launched c (toHomes M c.mem.ref c.st) tc run d .copyElement
             (z.tile = false → Ends i s k m (go c.M)) ∧
             (z.tile = true → (sc = .pod → c.s.imprecise = []) →
               let R := release c.M c.mem.ref c.st sc
               (sc = .pod → outstanding R c.mem.ref c.st = true → Ends i s k m (.waitOn R .untimed .acked)) ∧
               ((sc = .pod → outstanding R c.mem.ref c.st = false) → Ends i s k m (go R))))))) ∧
     (∀ x, Issues (.cpstat d tc x) s k m →
       Ends (.cpstat d tc x) s k m (.done (c.result 1 d (copyStatus c.mem tc (c.reg x).toNat)))) ∧
     (∀ x, Issues (.lkstat d tc x) s k m →
       Ends (.lkstat d tc x) s k m (.done (c.result 1 d (lookupStatus c.mem tc (c.reg x).toNat)))))

/-- QLD and QLDX trap on their operand checks, wait for room in the queue behind streams that waited for it before
(R155), and else take a place for every row, QLDX
after its list; QFLUSH empties its queue (R325 to R327). TGET and BLD trap on their operand checks and else launch
an engine command after the stream's stores have reached their homes; TSEND sends its sectors as arrivals after
its tile check and release; TSTO puts its rows into the store buffer after its tile check, and what the buffer has no room
for waits to enter it with the core frozen (R152, R328 to R331). -/
def Obligations.RowAndTileTransfersComplete : Prop :=
  (∀ (s : State) (k : Cur) (m : Member) (q : BitVec 3),
     let c := k.ctx s.m m
     (∀ b stride n, Issues (.qld q b stride n) s k m →
       let i : Instr := .qld q b stride n
       let z := (c.reg n).toNat
       let rows := (List.range z).map fun (j : Nat) => some (((c.reg b).toNat : Int) + (j : Int) * (c.reg stride).toInt)
       let bad := (c.reg b).toNat % 64 ≠ 0 ∨ (c.reg stride).toNat % 64 ≠ 0 ∨ z = 0 ∨ 32 < z
       (bad → Traps i s k m (badOperand k)) ∧
       let held := 32 < (c.mem.queue q).length + z ∨ c.mustQueue (.queueRoom q.toNat z) = true
       (¬bad → held → Ends i s k m (.wait .queue (.queueRoom q.toNat z))) ∧
       (¬bad → ¬held → ∀ M ts, c.rowSpans c.M rows = .ok (M, ts) → Ends i s k m (.done (pushRows M c.mem c.s q ts))) ∧
       (¬bad → ¬held → ∀ r, c.rowSpans c.M rows = .error r → Ends i s k m r)) ∧
     (∀ b stride list n, Issues (.qldx q b stride list n) s k m →
       let i : Instr := .qldx q b stride list n
       let z := (c.reg n).toNat
       let bad := (c.reg b).toNat % 64 ≠ 0 ∨ (c.reg stride).toNat % 64 ≠ 0 ∨ (c.reg list).toNat % 4 ≠ 0 ∨ z = 0 ∨ 32 < z
       (bad → Traps i s k m (badOperand k)) ∧
       (¬bad → ∀ M, c.readSpan (c.reg list) (4 * z) = .asking M →
         Ends i s k m (.untimed M { c.unt (.fetched c.tag) with job := .again c.s.s c.s.o c.s.lat })) ∧
       (¬bad → ∀ f, c.readSpan (c.reg list) (4 * z) = .fault f → Traps i s k m (xlateTrap k.raw f .read)) ∧
       (¬bad → ∀ pa, c.readSpan (c.reg list) (4 * z) = .ecc pa → Traps i s k m (eccTrap k.raw pa)) ∧
       (¬bad → ∀ M bs, c.readSpan (c.reg list) (4 * z) = .bytes M bs →
         let D := dropFetched M c.mem.ref c.tag
         let rows :=
           (List.range z).map fun (j : Nat) =>
             let v := leNat ((bs.drop (4 * j)).take 4)
             if v = 0xFFFFFFFF then none else some (((c.reg b).toNat : Int) + v * (c.reg stride).toInt)
         let held := 32 < (c.mem.queue q).length + z ∨ c.mustQueue (.queueRoom q.toNat z) = true
         (held → Ends i s k m (.wait .queue (.queueRoom q.toNat z))) ∧
         (¬held → ∀ N ts, c.rowSpans D rows = .ok (N, ts) →
           Ends i s k m (.untimed (pushRows N c.mem c.s q ts) { c.unt .ready with writes := [] })) ∧
         (¬held → ∀ r, c.rowSpans D rows = .error r → Ends i s k m r))) ∧
     (Issues (.qflush q) s k m → NoRegion k m →
       Ends (.qflush q) s k m (.done (c.upd fun y => { y with queues := y.queues.set q.toNat [] q.isLt })))) ∧
  (∀ (s : State) (k : Cur) (m : Member),
     let c := k.ctx s.m m
     let H := toHomes c.M c.mem.ref c.st
     (∀ tc d src g n, Issues (.tget tc d src g n) s k m →
       let z := (c.reg n).toNat
       let bad := (c.reg src).toNat % 64 ≠ 0 ∨ z = 0 ∨ 128 < z ∨ c.mem.sectorRun (c.reg g).toNat z = none
       (bad → Traps (.tget tc d src g n) s k m (badOperand k)) ∧
       (¬bad →
         Ends (.tget tc d src g n) s k m
           (launched c H tc (.tget (c.reg src) (c.reg g).toNat z 0) d .commandCompletion))) ∧
     (∀ tc d src geom cs, Issues (.bld tc d src geom cs) s k m → NoRegion k m →
       let w := (c.reg geom).toNat
       let col := w % 2 ^ 8
       let n := w / 2 ^ 8 % 2 ^ 8 + 1
       let off := w / 2 ^ 16 % 2 ^ 14
       let len := w / 2 ^ 32 % 2 ^ 15
       let bad :=
         (c.reg src).toNat % 64 ≠ 0 ∨ (c.reg cs).toNat % 64 ≠ 0 ∨ w / 2 ^ 47 ≠ 0 ∨ w / 2 ^ 30 % 4 ≠ 0 ∨ 128 < col + n ∨
           16384 < off + len ∨ len = 0 ∨ len % 64 ≠ 0 ∨ off % 64 ≠ 0
       (bad → Traps (.bld tc d src geom cs) s k m (badOperand k)) ∧
       (¬bad →
         Ends (.bld tc d src geom cs) s k m
           (launched c H tc (.bld (c.reg src) col n off len (c.reg cs).toInt 0) d .commandCompletion))) ∧
     (∀ sc kind ta g n ck cx, Issues (.tsend sc kind ta g n ck cx) s k m → NoRegion k m →
       let i : Instr := .tsend sc kind ta g n ck cx
       let w := c.reg ta
       let z := (c.reg n).toNat
       let bad :=
         c.mem.sectorRun (c.reg g).toNat z = none ∨ taddrOk w = false ∨ z = 0 ∨ 128 < z ∨ 128 < w.toNat % 128 + z
       (bad → Traps i s k m (badOperand k)) ∧
       (¬bad → ∀ t s0 r, c.mem.sectorRun (c.reg g).toNat z = some (t, s0) → c.sourceTile ck cx t = .error r →
         Ends i s k m r) ∧
       (¬bad → ∀ t s0 M, c.mem.sectorRun (c.reg g).toNat z = some (t, s0) → c.sourceTile ck cx t = .ok M →
         (sc = .pod → c.s.imprecise = []) →
         let R := release M c.mem.ref c.st sc
         (sc = .pod → outstanding R c.mem.ref c.st = true → Ends i s k m (.waitOn R .untimed .acked)) ∧
         ((sc = .pod → outstanding R c.mem.ref c.st = false) →
           let bs := tileBytes R c.mem t (64 * s0) (64 * z)
           let D := if cx then consume R c.mem.ref t else R
           let D := D.updMember c.mem.ref fun y => { y with tsends := y.tsends + z }
           Ends i s k m
             (.done
               ((List.range z).foldl
                 (fun N j =>
                   sendArrival N (taddrDev D w)
                     { dst := taddrMember w
                       tile := wf w 16 9
                       sector := wf w 0 7 + j
                       kind := kind
                       poison := false
                       scope := sc
                       mask := BitVec.allOnes 64
                       data := (bs.drop (64 * j)).take 64
                       region := none
                       sender := ⟨c.mem.ref, c.st, none, true, w + w64 j, none, none, c.s.nissue⟩ })
                 D))))) ∧
     (∀ d r n stride ck cx, Issues (.tsto d r n stride ck cx) s k m → NoRegion k m →
       let i : Instr := .tsto d r n stride ck cx
       let z := (c.reg n).toNat
       let bad :=
         c.mem.rowRun (c.reg r).toNat z = none ∨ (c.reg d).toNat % 64 ≠ 0 ∨ (c.reg stride).toNat % 64 ≠ 0 ∨ z = 0 ∨ 64 < z
       let rows := (List.range z).map fun (j : Nat) => ((c.reg d).toNat : Int) + (j : Int) * (c.reg stride).toInt
       (bad → Traps i s k m (badOperand k)) ∧
       (¬bad → ∀ t r0 e, c.mem.rowRun (c.reg r).toNat z = some (t, r0) → c.sourceTile ck cx t = .error e →
         Ends i s k m e) ∧
       (¬bad → ∀ t r0 M e, c.mem.rowRun (c.reg r).toNat z = some (t, r0) → c.sourceTile ck cx t = .ok M →
         c.destSpans M rows = .error e → Ends i s k m e) ∧
       (¬bad → ∀ t r0 M N spans, c.mem.rowRun (c.reg r).toNat z = some (t, r0) → c.sourceTile ck cx t = .ok M →
         c.destSpans M rows = .ok (N, spans) →
         let bs := tileBytes (drainBuffer N c.mem.ref c.st) c.mem t (128 * r0) (128 * z)
         let S :=
           spans.zipIdx.foldl (fun S y => storePieces S c.mem c.st y.1.1 none y.1.2 ((bs.drop (64 * y.2)).take 64)) N
         Ends i s k m (.done (enterStores (if cx then consume S c.mem.ref t else S) c.mem.ref c.st))))) ∧
  (∀ (M : Mach) (r : MRef) (st : Strm) (y : Member), M.member r = some y → ∃ z,
     (enterStores M r st).member r = some z ∧ (z.str st).sb = (y.str st).sb.take 8 ∧
       (z.str st).entering = (y.str st).sb.drop 8 ∧
       z.freeze = (if 8 < (y.str st).sb.length then .store st else y.freeze) ∧ z.tiles = y.tiles)

/-! ### Vector and matrix words -/

/-- A row address names row a mod 64 of tile 64 * VWIN + a / 64; a run past row 63 or the tile count traps (R36, R172,
R267, R268). Vector words that map elements: out-of-range runs trap, a held unit or an unready tile holds them,
and else the result run is the element function of the operand runs (R269 to R282). That the hold of the unit is looked
at before the tags is the model's choice (assumption 19). -/
def Obligations.VectorWordsMapTheirRuns : Prop :=
  (∀ (c : Ctx) (a : BitVec 12) (n : Nat),
     let row := a.toNat % 64
     let tile := c.s.vwin.toNat % 8 * 64 + a.toNat / 64
     (row + n ≤ 64 → tile < c.mem.tilesN → c.vrows a n = some (tile, row)) ∧
     (64 < row + n ∨ c.mem.tilesN ≤ tile → c.vrows a n = none)) ∧
  (∀ (i : Instr) (s : State) (k : Cur) (m : Member),
     Issues i s k m →
     let c := k.ctx s.m m
     (∀ v old f, elementOf i = some (v, old, f) →
       let n := v.run.toNat + 1
       (c.vrows v.d n = none ∨ c.vrows v.x n = none ∨ c.vrows v.y n = none → Traps i s k m (badOperand k)) ∧
       (∀ d x y, c.vrows v.d n = some d → c.vrows v.x n = some x → c.vrows v.y n = some y →
         let u : VUse := ⟨[x.1, y.1] ++ (if old then [d.1] else []), some x.1, some y.1, v.m, n⟩
         VectorHeld i s k m u ∧
         (VectorReady c u →
           Ends i s k m
             (vectorEnd c u fun M =>
               let xs := readRun M c.mem v.ty x n
               let ys := readRun M c.mem v.ty y n
               let ds := if old then readRun M c.mem v.ty d n else []
               writeRun M c.mem v.ty d ((xs.zip ys).zipIdx.map fun p => f p.1.1 p.1.2 (ds.getD p.2 0)))))) ∧
     (∀ v f, runOf i = some (v, f) →
       let n := v.run.toNat + 1
       (c.vrows v.d n = none ∨ c.vrows v.x n = none → Traps i s k m (badOperand k)) ∧
       (∀ d x, c.vrows v.d n = some d → c.vrows v.x n = some x →
         let u : VUse := ⟨[x.1], some x.1, none, v.m, n⟩
         VectorHeld i s k m u ∧
         (VectorReady c u →
           Ends i s k m (vectorEnd c u fun M => writeRun M c.mem v.ty d (f (readRun M c.mem v.ty x n)))))) ∧
     (∀ v src f, conversionOf i c = some (v, src, f) →
       let lo := min src.bytes v.ty.bytes
       let nx := (v.run.toNat + 1) * src.bytes / lo
       let nd := (v.run.toNat + 1) * v.ty.bytes / lo
       (c.vrows v.d nd = none ∨ c.vrows v.x nx = none → Traps i s k m (badOperand k)) ∧
       (∀ d x, c.vrows v.d nd = some d → c.vrows v.x nx = some x →
         let u : VUse := ⟨[x.1], some x.1, none, v.m, max nx nd⟩
         VectorHeld i s k m u ∧
         (VectorReady c u →
           Ends i s k m (vectorEnd c u fun M => writeRun M c.mem v.ty d ((readRun M c.mem src x nx).map f))))) ∧
     (∀ a run ty f, constantOf i c = some (a, run, ty, f) →
       let n := run.toNat + 1
       (c.vrows a n = none → Traps i s k m (badOperand k)) ∧
       (∀ d, c.vrows a n = some d →
         let u : VUse := ⟨[], none, none, ⟨false, false, false, false⟩, n⟩
         VectorHeld i s k m u ∧
         (VectorReady c u →
           Ends i s k m (vectorEnd c u fun M => writeRun M c.mem ty d ((List.range (n * ty.count)).map f))))))

/-- Reductions take all the run's elements, or as many as their length register says, and give a scalar after 8 + 2n
cycles; more elements than the run holds trap (R271, R283). The other vector words: VACT by its table tile, VPERM
by the indices of Y, VSPRS with the kept pairs and their metadata row, VMOVS of one element, and VPOP of ready
rows (R279, R286 to R289). The model's choices (assumption 19): VSPRS checks its metadata tile as a tile it reads, and
VACT's table is no operand of the tag check. -/
def Obligations.ReducingAndMovingVectorWordsComplete : Prop :=
  (∀ (i : Instr) (s : State) (k : Cur) (m : Member) (v : VRed) (y : Option (BitVec 12))
     (f : List Nat → List Nat → Word),
     Issues i s k m → reductionOf i = some (v, y, f) →
     let c := k.ctx s.m m
     let n := v.run.toNat + 1
     let count := if v.len = 0 then n * v.ty.count else (c.s.main (v.len.setWidth 5)).toNat
     (c.vrows v.x n = none ∨ (∃ a, y = some a ∧ c.vrows a n = none) → Traps i s k m (badOperand k)) ∧
     (∀ x yo, c.vrows v.x n = some x → (y = none ∧ yo = none ∨ ∃ a p, y = some a ∧ c.vrows a n = some p ∧ yo = some p) →
       let u : VUse := ⟨x.1 :: (yo.map (·.1)).toList, some x.1, yo.map (·.1), v.m, n⟩
       (n * v.ty.count < count → Traps i s k m (badOperand k)) ∧
       (count ≤ n * v.ty.count → VectorHeld i s k m u) ∧
       (count ≤ n * v.ty.count → VectorReady c u →
         Ends i s k m
           (vectorEnd c u fun M =>
             let xs := (readRun M c.mem v.ty x n).take count
             let ys :=
               match yo with
               | some p => (readRun M c.mem v.ty p n).take count
               | none => []
             c.resultOn M (8 + 2 * n) v.d (f xs ys))))) ∧
  (∀ (s : State) (k : Cur) (m : Member),
     let c := k.ctx s.m m
     (∀ v tab, Issues (.vact v tab) s k m →
       let n := v.run.toNat + 1
       (c.vrows v.d n = none ∨ c.vrows v.x n = none ∨ c.vrows (tab ++ 0#6) 1 = none →
         Traps (.vact v tab) s k m (badOperand k)) ∧
       ∀ d x t, c.vrows v.d n = some d → c.vrows v.x n = some x → c.vrows (tab ++ 0#6) 1 = some t →
         let u : VUse := ⟨[x.1, t.1], some x.1, none, v.m, n⟩
         VectorHeld (.vact v tab) s k m u ∧
         (VectorReady c u →
           Ends (.vact v tab) s k m
             (vectorEnd c u fun M =>
               writeRun M c.mem v.ty d
                 ((readRun M c.mem v.ty x n).map (vAct v.ty (tileBytes M c.mem t.1 0 8192)))))) ∧
     (∀ v, Issues (.vperm v) s k m →
       let n := v.run.toNat + 1
       (c.vrows v.d n = none ∨ c.vrows v.x n = none ∨ c.vrows v.y n = none →
         Traps (.vperm v) s k m (badOperand k)) ∧
       ∀ d x y, c.vrows v.d n = some d → c.vrows v.x n = some x → c.vrows v.y n = some y →
         let u : VUse := ⟨[x.1, y.1], some x.1, some y.1, v.m, n⟩
         VectorHeld (.vperm v) s k m u ∧
         (VectorReady c u →
           Ends (.vperm v) s k m
             (vectorEnd c u fun M =>
               let xs := chunks v.ty.count n (readRun M c.mem v.ty x n)
               let is := chunks 128 n (readRun M c.mem .i8 y n)
               writeRun M c.mem v.ty d
                 ((xs.zip is).flatMap fun p =>
                   (List.range v.ty.count).map fun e =>
                     if p.2.getD e 0 < v.ty.count then p.1.getD (p.2.getD e 0) 0 else 0)))) ∧
     (∀ v, Issues (.vsprs v) s k m →
       let n := v.run.toNat + 1
       (c.vrows v.d (n / 2) = none ∨ c.vrows v.x n = none ∨ c.vrows v.y 1 = none →
         Traps (.vsprs v) s k m (badOperand k)) ∧
       ∀ d x y, c.vrows v.d (n / 2) = some d → c.vrows v.x n = some x → c.vrows v.y 1 = some y →
         let u : VUse := ⟨[x.1, y.1], some x.1, some y.1, v.m, n⟩
         VectorHeld (.vsprs v) s k m u ∧
         (VectorReady c u →
           Ends (.vsprs v) s k m
             (vectorEnd c u fun M =>
               let gs := chunks 4 (n * v.ty.count / 4) (readRun M c.mem v.ty x n)
               let ks := gs.map (keptPair v.ty)
               let M := writeRun M c.mem v.ty d ((gs.zip ks).flatMap fun p => [p.1.getD p.2.1 0, p.1.getD p.2.2 0])
               let nib := ks.map fun q => q.2 * 4 + q.1
               let pairs := (chunks 2 (nib.length / 2) nib).map fun p => p.getD 0 0 + 16 * p.getD 1 0
               tileWrite M c.mem y.1 (128 * y.2) (bytesOf 1 pairs ++ zeros (128 - pairs.length))))) ∧
     (∀ a e r ty, Issues (.vmovsIns a e r ty) s k m →
       (c.vrows a 1 = none → Traps (.vmovsIns a e r ty) s k m (badOperand k)) ∧ ∀ p, c.vrows a 1 = some p →
       let u : VUse := ⟨[], none, none, ⟨false, false, false, false⟩, 1⟩
       VectorHeld (.vmovsIns a e r ty) s k m u ∧
       (VectorReady c u →
         Ends (.vmovsIns a e r ty) s k m
           (vectorEnd c u fun M =>
             tileWrite M c.mem p.1 (128 * p.2 + ty.bytes * e.toNat) (leBytes ty.bytes (c.reg r).toNat)))) ∧
     (∀ d a e ty ck cx, Issues (.vmovsExt d a e ty ck cx) s k m →
       (c.vrows a 1 = none → Traps (.vmovsExt d a e ty ck cx) s k m (badOperand k)) ∧ ∀ p, c.vrows a 1 = some p →
       let u : VUse := ⟨[p.1], some p.1, none, ⟨ck, cx, false, false⟩, 1⟩
       VectorHeld (.vmovsExt d a e ty ck cx) s k m u ∧
       (VectorReady c u →
         Ends (.vmovsExt d a e ty ck cx) s k m
           (vectorEnd c u fun M =>
             let v := (readRun M c.mem ty p 1).getD e.toNat 0
             c.resultOn M 2 d (if ty.isI then word64 (vInt ty v) else w64 v)))) ∧
     (∀ a run q, Issues (.vpop a run q) s k m →
       let n := run.toNat + 1
       let u : VUse := ⟨[], none, none, ⟨false, false, false, false⟩, n⟩
       (c.vrows a n = none → Traps (.vpop a run q) s k m (badOperand k)) ∧
       (∀ p, c.vrows a n = some p →
         (c.t + c.mem.skew < c.mem.vbusy → Ends (.vpop a run q) s k m (.freeze .vector)) ∧
         let held := readyRows (c.mem.queue q) < n ∨ c.mustQueue (.queueRows q.toNat n) = true
         (c.mem.vbusy ≤ c.t + c.mem.skew → held → Ends (.vpop a run q) s k m (.wait .queue (.queueRows q.toNat n))) ∧
         (c.mem.vbusy ≤ c.t + c.mem.skew → ¬held →
           Ends (.vpop a run q) s k m
             (vectorEnd c u fun M =>
               (tileWrite M c.mem p.1 (128 * p.2) (((c.mem.queue q).take n).flatMap fun r => r.data)).updMember
                 c.mem.ref fun y => { y with queues := y.queues.set q.toNat ((y.queue q).drop n) q.isLt })))))

/-- The configuration words set their part of the shadow or trap on a reserved or out-of-range value; XLR reads and
writes the engine loop registers and reads the committed position; XMASK reads its mask first (R290, R300, R301,
R304, R305, R310, R315, R317). XGO waits while a nest is live, traps on a configuration it cannot run, and else
starts the nest from the shadow at position 0; XWAIT waits until no nest is live and its results are in (R312,
R313). The XACC words wait while a nest uses their set, and else clear a set, add one to another of its mode,
store one to tiles, load one from tiles, or send one through the post-chain; they are untimed (R314). The model's
choices (assumption 21): MROW or NCOL of 128 and more traps at XOPS, and rows of XACC.post outside the set are an
illegal instruction. -/
def Obligations.MatrixWordsComplete : Prop :=
  (∀ (s : State) (k : Cur) (m : Member) (x : Reg),
     let c := k.ctx s.m m
     let v := c.reg x
     let shadow (f : XCfg → XCfg) : Res := .done (c.upd fun y => { y with shadow := f y.shadow })
     let sets (i : Instr) (ok : Prop) (f : XCfg → XCfg) : Prop :=
       Issues i s k m → (ok → Ends i s k m (shadow f)) ∧ (¬ok → Traps i s k m (badOperand k))
     (∀ lv b n sa sb sov,
       let count :=
         match n with
         | .reg r => (c.reg r).toNat
         | .hl j => (c.mem.hl[j.toNat]'j.isLt).toNat
       let o := (c.reg sov).toNat
       let half (z : Nat) : Int := if z < 2 ^ 31 then (z : Int) else (z : Int) - 2 ^ 32
       let level : XLevel :=
         ⟨count, b, (c.reg sa).toInt, (c.reg sb).toInt, half (o % 2 ^ 32), half (o / 2 ^ 32)⟩
       let levels := c.mem.shadow.levels.set lv.toNat level
       sets (.xnest lv b n sa sb sov)
         (0 < count ∧ count < 2 ^ 24 ∧ xProd (levels.filter fun l => l.k) ≤ 65535) fun z => { z with lev := levels }) ∧
     sets .xnestClr True (fun z => { z with lev := [] }) ∧
     sets (.xopsA x)
       (wf v 48 16 = 0 ∧ wf v 15 17 = 0 ∧ wf v 45 3 ≤ 4 ∧ wf v 32 8 < 128 ∧
         (v.getLsbD 43 = true → v.getLsbD 44 = false ∧ wf v 0 15 = 0) ∧ (v.getLsbD 43 = false → wf v 40 3 = 0))
       (fun z => { z with os0 := v }) ∧
     sets (.xopsB x)
       (wf v 48 16 = 0 ∧ wf v 40 4 = 0 ∧ wf v 14 18 = 0 ∧ wf v 45 3 ≤ 4 ∧ wf v 32 8 < 128 ∧
         ¬(v.getLsbD 44 = true ∧ wf v 45 3 = 1))
       (fun z => { z with os1 := v }) ∧
     sets (.xpost x) (wf v 45 19 = 0 ∧ v.getLsbD 30 = false ∧ wf v 40 3 ≤ 5) (fun z => { z with xp := v }) ∧
     sets (.xspm x) (wf v 17 47 = 0 ∧ v.getLsbD 15 = false) (fun z => { z with spm := v }) ∧
     (∀ d n, Issues (.xlrRd d n) s k m → Ends (.xlrRd d n) s k m (.done (c.result 1 d (c.mem.hl[n.toNat]'n.isLt)))) ∧
     (∀ n, Issues (.xlrWr n x) s k m →
       Ends (.xlrWr n x) s k m (.done (c.upd fun y => { y with hl := y.hl.set n.toNat v n.isLt }))) ∧
     (∀ d, Issues (.xlrPos d) s k m →
       Ends (.xlrPos d) s k m
         (.done (c.result 1 d (w64 ((c.mem.nest.map (·.committed)).getD c.mem.lastPos))))) ∧
     (Issues (.xmask x) s k m →
       (v.toNat % 64 ≠ 0 → Traps (.xmask x) s k m (badOperand k)) ∧
       (v.toNat % 64 = 0 →
         (∀ M, c.readSpan v 64 = .asking M →
           Ends (.xmask x) s k m (.untimed M { c.unt (.fetched c.tag) with job := .again c.s.s c.s.o c.s.lat })) ∧
         (∀ f, c.readSpan v 64 = .fault f → Traps (.xmask x) s k m (xlateTrap k.raw f .read)) ∧
         (∀ pa, c.readSpan v 64 = .ecc pa → Traps (.xmask x) s k m (eccTrap k.raw pa)) ∧
         (∀ M bs, c.readSpan v 64 = .bytes M bs →
           (maskOk (wordsOf 8 bs) = false → Traps (.xmask x) s k m (badOperand k)) ∧
           (maskOk (wordsOf 8 bs) = true →
             Ends (.xmask x) s k m
               (.untimed
                 ((dropFetched M c.mem.ref c.tag).updMember c.mem.ref fun y =>
                   { y with shadow := { y.shadow with mask := some (wordsOf 8 bs) } })
                 { c.unt .ready with writes := [] })))))) ∧
  (∀ (s : State) (k : Cur) (m : Member),
     let c := k.ctx s.m m
     (∀ acc cont out stg msk, Issues (.xgo acc cont out stg msk) s k m →
       let i : Instr := .xgo acc cont out stg msk
       (c.mem.nest ≠ none → Ends i s k m (.wait .matrix (.nestIdle false))) ∧
       (c.mem.nest = none → xgoOk c.mem acc.toNat cont out stg msk = false → Traps i s k m (badOperand k)) ∧
       (c.mem.nest = none → xgoOk c.mem acc.toNat cont out stg msk = true →
         let n : Nest :=
           { cfg := c.mem.shadow, acc := acc.toNat, cont := cont, out := out, stg := stg, msk := msk,
             idx := [0, 0, 0, 0, 0, 0], committed := 0, spec := 0, held := [], rows := [], started := false,
             due := 0, fault := none }
         Ends i s k m
           (.done (raiseOnce (c.upd fun y => { y with nest := some n }) 1 (.kStep c.mem.ref))))) ∧
     (Issues .xwait s k m →
       (c.mem.nest = none → postPending c.M c.mem = false → Ends .xwait s k m (.done c.M)) ∧
       (c.mem.nest ≠ none ∨ postPending c.M c.mem = true → Ends .xwait s k m (.wait .matrix (.nestIdle true))))) ∧
  (∀ (s : State) (k : Cur) (m : Member) (acc : BitVec 2),
     let c := k.ctx s.m m
     let x := c.mem.accSet acc.toNat
     let lands (M : Mach) : Res := .untimed M { c.unt .ready with writes := [] }
     let holds (z : AccSet) (M : Mach) : Res := lands (M.updMember c.mem.ref fun y => y.setAcc acc.toNat z)
     let free := c.accBusy [acc.toNat] = false
     (∀ i, Issues i s k m → c.accBusy [acc.toNat] = true →
       i = .xaccClr acc ∨ (∃ t, i = .xaccSt acc t) ∨ (∃ t ck cx, i = .xaccLd acc t ck cx) ∨
         (∃ t ck cx, i = .xaccLdp acc t ck cx) ∨ (∃ stg, i = .xaccPost acc stg) →
       Ends i s k m (.wait .matrix (.nestIdle false))) ∧
     (Issues (.xaccClr acc) s k m → free → Ends (.xaccClr acc) s k m (holds ⟨.empty, [], [], false, none⟩ c.M)) ∧
     (∀ t, Issues (.xaccSt acc t) s k m → free →
       let a := (c.reg t).toNat
       (x.mode = .empty → Traps (.xaccSt acc t) s k m (badOperand k)) ∧
       (x.mode = .exact → a + 16 ≤ c.mem.tilesN →
         Ends (.xaccSt acc t) s k m
           (lands
             (writeTiles c.M c.mem a 16
               ((List.range 128).flatMap fun r => accRow 8 ((x.rn.getD r []).map fun v => rnCanon v.toNat))))) ∧
       (x.mode = .scaled → a + 8 ≤ c.mem.tilesN →
         Ends (.xaccSt acc t) s k m
           (lands
             (writeTiles c.M c.mem a 8 ((List.range 128).flatMap fun r => accRow 4 ((x.p.getD r []).map (·.toNat)))))) ∧
       (x.mode = .exact ∧ c.mem.tilesN < a + 16 ∨ x.mode = .scaled ∧ c.mem.tilesN < a + 8 →
         Traps (.xaccSt acc t) s k m (badOperand k))) ∧
     (∀ i t ck cx n f, Issues i s k m → free →
       (i = .xaccLd acc t ck cx ∧ n = 16 ∧
           f = fun bs =>
             (⟨.exact, (chunks 1024 128 bs).map fun r => (elemsOf 8 r).map fun v => w64 (rnCanon v), [], false, none⟩
               : AccSet)) ∨
         (i = .xaccLdp acc t ck cx ∧ n = 8 ∧
           f = fun bs =>
             (⟨.scaled, [], (chunks 512 128 bs).map fun r => (elemsOf 4 r).map (BitVec.ofNat 32), true, none⟩
               : AccSet)) →
       let a := (c.reg t).toNat
       let ts := (List.range n).map fun j => a + j
       (c.mem.tilesN < a + n → Traps i s k m (badOperand k)) ∧
       (a + n ≤ c.mem.tilesN → (ck = true ∨ cx = true) → ∀ r, c.tileCheck ts = some r → Ends i s k m r) ∧
       (a + n ≤ c.mem.tilesN → (ck = true ∨ cx = true → c.tileCheck ts = none) →
         let M := if ck || cx then acquire c.M c.mem.ref (c.mem.fillScope ts) else c.M
         let z := f (ts.flatMap fun t => tileBytes M c.mem t 0 8192)
         Ends i s k m (holds z (if cx then ts.foldl (fun M t => consume M c.mem.ref t) M else M)))) ∧
     (∀ src, Issues (.xaccAdd acc src) s k m →
       let i : Instr := .xaccAdd acc src
       let y := c.mem.accSet src.toNat
       (c.accBusy [acc.toNat, src.toNat] = true → Ends i s k m (.wait .matrix (.nestIdle false))) ∧
       (c.accBusy [acc.toNat, src.toNat] = false →
         (y.mode = .empty → Ends i s k m (lands c.M)) ∧
         (x.mode = .empty → y.mode ≠ .empty → Ends i s k m (holds y c.M)) ∧
         (x.mode = .exact → y.mode = .exact →
           Ends i s k m (holds { x with rn := zipRows 0 (fun p q => w64 (rnAdd p.toNat q.toNat)) x.rn y.rn } c.M)) ∧
         (x.mode = .scaled → y.mode = .scaled →
           Ends i s k m
             (holds
               { x with
                 set := true
                 p := zipRows 0 (fun p q => BitVec.ofNat 32 (fAdd fp32 false p.toNat q.toNat)) x.p y.p }
               c.M)) ∧
         (x.mode = .exact ∧ y.mode = .scaled ∨ x.mode = .scaled ∧ y.mode = .exact → Traps i s k m (badOperand k)))) ∧
     (∀ stg, Issues (.xaccPost acc stg) s k m → free →
       let y := c.mem.shadow
       let ob : Int := y.xp.toNat % 2 ^ 15
       let vb : Int := y.xp.toNat / 2 ^ 15 % 2 ^ 15
       let ok :=
         x.mode ≠ .empty ∧ postOk c.mem y.xp stg x.mode = true ∧ postRowsOk c.mem y.xp stg y.mr y.nc ob vb = true
       (ok → Ends (.xaccPost acc stg) s k m (lands (postChain c.M c.mem x y.xp stg y.mr y.nc ob vb))) ∧
       (¬ok → Traps (.xaccPost acc stg) s k m (badOperand k))))

/-- SEAL gives HBUSY for a handle in use, a refusal code for a record that fails a check, and else zero with the
record's copy in the handle, a table joining its partition's attachment list and a grid's owner table being read after the stream's earlier stores (R82), its areas
outside core SRAM windows (R131); UNSEAL frees a handle; HMOV copies one to an empty handle of this or another member
of the context, of a switched-out member also in its save image (R293 to R299, R407). The embedding words trap on a
handle that is no attached table or on their operand checks, and else launch their command under the next number
of their counter; SKCTL writes and reads the sketch configuration of every chiplet of the partition and estimates
a row (R352, R362, R363, R365 to R369). The model's choices: HBUSY comes before the record is read, an ADDR_TOP at SEAL
traps, and the areas of entries are looked at whole (assumption 22); SKCTL's ignored bits make one line of the error
log (assumption 8). -/
def Obligations.SealAndEmbeddingWordsComplete : Prop :=
  (∀ (s : State) (k : Cur) (m : Member) (d : Dst) (h : BitVec 4) (x : Reg),
     let c := k.ctx s.m m
     let p := c.reg x
     let lands (M : Mach) (v : Word) : Res := .untimed M { c.unt .ready with writes := [(d, v)] }
     let drop (M : Mach) : Mach := dropFetched M c.mem.ref c.tag
     let holds (M : Mach) (kd : HKind) (r : List Word) : Res :=
       lands ((drop M).updMember c.mem.ref fun y => { y with handles := y.handles.set h.toNat (some ⟨kd, r, p⟩) h.isLt }) 0
     (∀ i, Issues i s k m → i = .sealTensor d h x ∨ i = .sealTable d h x ∨ i = .sealGrid d h x →
       (p.toNat % 64 ≠ 0 → Traps i s k m (badOperand k)) ∧
       (p.toNat % 64 = 0 → c.mem.handles[h.toNat]'h.isLt ≠ none → Ends i s k m (lands (drop c.M) 7)) ∧
       (p.toNat % 64 = 0 → c.mem.handles[h.toNat]'h.isLt = none →
         (∀ M, c.readSpan p 64 = .asking M →
           Ends i s k m (.untimed M { c.unt (.fetched c.tag) with job := .again c.s.s c.s.o c.s.lat })) ∧
         (∀ pa, c.readSpan p 64 = .ecc pa → Traps i s k m (eccTrap k.raw pa)) ∧
         (∀ f, c.readSpan p 64 = .fault f →
           (f.code ≠ 0x22 ∧ f.code ≠ 0x01 → Ends i s k m (lands (drop c.M) 6)) ∧
           (f.code = 0x22 ∨ f.code = 0x01 → Traps i s k m (xlateTrap k.raw f .read))))) ∧
     (p.toNat % 64 = 0 → c.mem.handles[h.toNat]'h.isLt = none → ∀ M bs, c.readSpan p 64 = .bytes M bs →
       let r := wordsOf 8 bs
       (Issues (.sealTensor d h x) s k m →
         (sealTensorCode r = 0 → Ends (.sealTensor d h x) s k m (holds M .tensor r)) ∧
         (sealTensorCode r ≠ 0 → Ends (.sealTensor d h x) s k m (lands (drop M) (w64 (sealTensorCode r))))) ∧
       (Issues (.sealTable d h x) s k m → ∀ pt, M.part c.mem.ref.part = some pt →
         let code := sealTableCode M pt c.mem.core c.mem.die r
         (code = 0 →
           Ends (.sealTable d h x) s k m
             (holds
               ((settleAccesses M pt.id).updPart pt.id fun q => { q with attached := q.attached ++ [⟨r, false⟩] })
               .table r)) ∧
         (code ≠ 0 → Ends (.sealTable d h x) s k m (lands (drop M) (w64 code)))) ∧
       (Issues (.sealGrid d h x) s k m →
         (sealGridCode r ≠ 0 → Ends (.sealGrid d h x) s k m (lands (drop M) (w64 (sealGridCode r)))) ∧
         let owners := c.readOwners r (gOwners r) 0 (toHomes M c.mem.ref c.st)
         (sealGridCode r = 0 → owners = .unreadable → Ends (.sealGrid d h x) s k m (lands (drop M) 4)) ∧
         (sealGridCode r = 0 → ∀ z, owners = .stop z → Ends (.sealGrid d h x) s k m z) ∧
         (sealGridCode r = 0 → ∀ N es, owners = .entries N es →
           let sc := recF r 27 3
           let fit := ∀ e ∈ es, entOk e = true ∧ entAreasOk N r e = true
           let reach := sc = 5 ∨ sc = 4 ∧ es.all (entHere N c.mem) = true
           (fit → reach → Ends (.sealGrid d h x) s k m (holds N .grid r)) ∧
           (¬fit → Ends (.sealGrid d h x) s k m (lands (drop N) 4)) ∧
           (fit → ¬reach → Ends (.sealGrid d h x) s k m (lands (drop N) 5))))) ∧
     (Issues (.unsealHandle h) s k m →
       (c.mem.handles[h.toNat]'h.isLt = none → Traps (.unsealHandle h) s k m (badOperand k)) ∧
       (∀ z, c.mem.handles[h.toNat]'h.isLt = some z →
         let used := z.kind = .grid ∧ ∃ j ∈ c.mem.joined, j.grid = z.copy
         (used → Traps (.unsealHandle h) s k m (badOperand k)) ∧
         (¬used →
           Ends (.unsealHandle h) s k m (.done (c.upd fun y => { y with handles := y.handles.set h.toNat none h.isLt }))))) ∧
     (∀ i hs target, Issues i s k m →
       (i = .hmov d h hs ∧ target = c.mem.ref ∨
         i = .hmovMem d h hs x ∧ p.toNat < c.mem.nmem ∧ target = ⟨c.mem.ref.part, c.mem.ref.ctx, p.toNat⟩) →
       (c.mem.handles[hs.toNat]'hs.isLt = none → Traps i s k m (badOperand k)) ∧
       (∀ z t, c.mem.handles[hs.toNat]'hs.isLt = some z → c.M.member target = some t →
         (t.handles[h.toNat]'h.isLt ≠ none → Ends i s k m (lands c.M 7)) ∧
         (t.handles[h.toNat]'h.isLt = none →
           let N := c.M.updMember target fun y => { y with handles := y.handles.set h.toNat (some z) h.isLt }
           (t.core ≠ none → Ends i s k m (lands N 0)) ∧
           (t.core = none →
             Ends i s k m (lands (saveWords N t (0x2480 + 128 * h.toNat) (handleWords (some z))) 0))))) ∧
     (∀ hs, Issues (.hmovMem d h hs x) s k m → c.mem.nmem ≤ p.toNat → Traps (.hmovMem d h hs x) s k m (badOperand k))) ∧
  (∀ (s : State) (k : Cur) (m : Member) (d : Dst) (h : BitVec 4) (tc : BitVec 2),
     let c := k.ctx s.m m
     let lands (M : Mach) (ws : List (Dst × Word)) : Res := .untimed M { c.unt .ready with writes := ws }
     let lookupMode (mode : Pool) (bs : List Byte) : Prop := blockOk mode (wordsOf 4 bs) = true
     (∀ i, Issues i s k m → NoRegion k m → c.table h = none →
       (∃ mode nf list args ta, i = .lookup mode nf d h tc list args ta) ∨
         (∃ nf list grad n, i = .update nf d h tc list grad n) ∨ (∃ a b, i = .replayAcc d h tc a b) ∨
         (∃ a b, i = .replaySgd d h tc a b) ∨ (∃ a b, i = .replayAdag d h tc a b) ∨ (∃ x, i = .skctlEst d h x) ∨
         i = .hrctlFlush d h tc ∨ i = .hrctlDetach d h tc →
       Traps i s k m (badOperand k)) ∧
     (∀ pt t, c.table h = some (pt, t) →
       (∀ mode nf list args ta, Issues (.lookup mode nf d h tc list args ta) s k m →
         let i : Instr := .lookup mode nf d h tc list args ta
         let ok :=
           (c.reg list).toNat % 8 = 0 ∧ (c.reg args).toNat % 8 = 0 ∧ c.lookupTarget (c.reg ta) = true
         (¬ok → Traps i s k m (badOperand k)) ∧
         (ok → ∀ M, c.readSpan (c.reg args) 32 = .asking M →
           Ends i s k m (.untimed M { c.unt (.fetched c.tag) with job := .again c.s.s c.s.o c.s.lat })) ∧
         (ok → ∀ f, c.readSpan (c.reg args) 32 = .fault f → Traps i s k m (xlateTrap k.raw f .read)) ∧
         (ok → ∀ pa, c.readSpan (c.reg args) 32 = .ecc pa → Traps i s k m (eccTrap k.raw pa)) ∧
         (ok → ∀ M bs, c.readSpan (c.reg args) 32 = .bytes M bs →
           (¬lookupMode mode bs → Traps i s k m (badOperand k)) ∧
           (lookupMode mode bs →
             let R := release (dropFetched M c.mem.ref c.tag) c.mem.ref c.st .pkg
             let l := c.issueCmd R tc (.lookup (newLookup mode nf (c.reg list) (wordsOf 4 bs) t (c.reg ta)))
             Ends i s k m (lands (l.1.raise 1 (.lookupBag l.2 0)) [(d, w64 l.2.num)])))) ∧
       (∀ nf list grad n, Issues (.update nf d h tc list grad n) s k m →
         let i : Instr := .update nf d h tc list grad n
         let z := (c.reg n).toNat
         let ok :=
           tTrain t = true ∧ 0 < z ∧ z ≤ 65536 ∧ (c.reg list).toNat % 8 = 0 ∧ (c.reg grad).toNat % 64 = 0 ∧
             c.mem.ref.rank < tSources t
         (¬ok → Traps i s k m (badOperand k)) ∧
         (ok →
           Ends i s k m
             (launched c c.M tc (.update nf (c.reg list) (c.reg grad) z t 0) d fun r => .binAppend r 0))) ∧
       (∀ i o a b, Issues i s k m → NoRegion k m →
         (i = .replayAcc d h tc a b ∧ o = .acc) ∨ (i = .replaySgd d h tc a b ∧ o = .sgd) ∨
           (i = .replayAdag d h tc a b ∧ o = .adag) →
         let r0 := (c.reg a).toNat
         let n := (c.reg b).toNat
         let eps := tEps t
         let ok :=
           tTrain t = true ∧ 0 < n ∧ r0 + n ≤ tRegions t ∧
             (o = .adag → tAdagrad t = true ∧ fIsFin fp32 eps = true ∧ fld eps 31 1 = 0 ∧ fld eps 0 31 ≠ 0)
         (¬ok → Traps i s k m (badOperand k)) ∧
         (ok →
           let l := c.issueCmd c.M tc (.replay o t r0 (r0 + n))
           Ends i s k m
             (.done
               (c.resultOn ((l.1.updCmd l.2 fun q => { q with pos := r0 }).raise 1 (.replayRegion l.2 r0)) 1 d
                 (w64 l.2.num))))) ∧
       (∀ x, Issues (.skctlEst d h x) s k m → NoRegion k m →
         let row := (c.reg x).toNat
         (tRows t ≤ row → Traps (.skctlEst d h x) s k m (badOperand k)) ∧
         (row < tRows t →
           let q := (c.M.chip (pt.chipOf row)).sketch (tGroup t)
           Ends (.skctlEst d h x) s k m
             (lands c.M [(d, if q.cfg.getLsbD 0 then w64 (q.estimate (rowKey t row)) else 0)]))) ∧
       (Issues (.hrctlFlush d h tc) s k m → NoRegion k m →
         Ends (.hrctlFlush d h tc) s k m (launched c c.M tc (.flush t false) d .commandCompletion)) ∧
       (Issues (.hrctlDetach d h tc) s k m → NoRegion k m →
         Ends (.hrctlDetach d h tc) s k m
           (launched c
             (c.M.updPart pt.id fun q =>
               { q with attached := q.attached.map fun a => if a.table = t then { a with detaching := true } else a })
             tc (.flush t true) d .commandCompletion))) ∧
     (∀ g x, Issues (.skctlWr g x) s k m → NoRegion k m → ∀ pt, c.M.part c.mem.ref.part = some pt →
       Ends (.skctlWr g x) s k m
         (lands
           ((List.range pt.chips).foldl
             (fun M n =>
               if skcfgOk (c.reg x) then M.updChip (2 * pt.id + n) fun q => q.setSkcfg g.toNat (c.reg x)
               else M.logPart pt.id 0xFF (2 * pt.id + n) (c.reg x))
             c.M)
           [])) ∧
     (∀ g, Issues (.skctlRd d g) s k m → NoRegion k m →
       Ends (.skctlRd d g) s k m (lands c.M [(d, ((c.M.chip (2 * c.mem.ref.part)).sketch g.toNat).cfg)])) ∧
     (∀ mode nf re ta, Issues (.a2a mode nf d tc re ta) s k m → NoRegion k m →
       let i : Instr := .a2a mode nf d tc re ta
       let ok := (c.reg re).toNat % 64 = 0 ∧ c.lookupTarget (c.reg ta) = true
       (¬ok → Traps i s k m (badOperand k)) ∧
       (ok → ∀ M, c.readSpan (c.reg re) 64 = .asking M →
         Ends i s k m (.untimed M { c.unt (.fetched c.tag) with job := .again c.s.s c.s.o c.s.lat })) ∧
       (ok → ∀ f, c.readSpan (c.reg re) 64 = .fault f → Traps i s k m (xlateTrap k.raw f .read)) ∧
       (ok → ∀ pa, c.readSpan (c.reg re) 64 = .ecc pa → Traps i s k m (eccTrap k.raw pa)) ∧
       (ok → ∀ M bs, c.readSpan (c.reg re) 64 = .bytes M bs →
         let r := wordsOf 8 bs
         (exchangeOk r = false → Traps i s k m (badOperand k)) ∧
         (exchangeOk r = true → ∀ N us, ({ c with M := M } : Ctx).readSpan (r.getD 1 0) 32 = .bytes N us →
           (¬lookupMode mode us → Traps i s k m (badOperand k)) ∧
           (lookupMode mode us →
             let H := toHomes (dropFetched N c.mem.ref c.tag) c.mem.ref c.st
             let row : List Word := [0, 0, 0, 0, w64 (fld (recW r 6) 32 11), 0, 0, 0]
             let run : ExchangeRun :=
               { run := newLookup mode nf (r.getD 0 0) (wordsOf 4 us) row (c.reg ta)
                 dim := xDim r, record := r, formed := false, unsent := [], kinds := [], shards := [] }
             let l := c.issueCmd H tc (.exchange run)
             Ends i s k m (lands (l.1.raise 1 (.commandCompletion l.2)) [(d, w64 l.2.num)]))))))

/-! ### Events of cores, tiles, grids and memory -/

/-- DATA_LANDING gives a timed load its value in its result on the way, and an untimed one makes its result ready;
UNTIMED_RESULT_LANDING of a ready word puts the result on its way in that cycle, lets the stream issue from the
next one, counts its cycles as stalls and acquires at its scope; of a refused word it takes the trap; an HPUB's
once its milestone's cells have all left the block, a GRIDCTL.leave's once its owner's verge writes and reports are
performed; a job is performed once nothing of its stream is outstanding, a SCADD's rows once their answers are in, one
at a stack once that no longer switches; a word with a block at another device goes on, once the block is in, from the
sources of its issue (R40, R73, R97, R137, R138, R153, R256, R257). A word whose fetch missed has its translation kept; the vector unit's end
lets a core held by it go on; a walk's end takes the walk off the walks in progress, and a prefetched line joins the L1;
a withdrawn ACQ counts as not issued, one at another device after a withdrawal has followed its request (log entry 39
for its packet); a wait past its limit ends in a WAIT_TIMEOUT trap with the kind of the wait in AUX (R21, R95,
R152, R156, R247, R259, R270). A word waiting on tiles, a mailbox, a row queue or an
object's version, or on an object that has become malformed or poisoned, issues from the cycle after the one its
condition came to hold in, an ACQ.ge with the version it held there; the last arrival at a barrier's episode empties it and lets every participant pass after the latency of its scope, which at .pod is a
free number (R44, R95, R154, R155, R159). The model's choices: a result comes exactly after the latency the spec gives
(assumption 15), the latency at .pod is free (assumption 4), and a word waits, looking every 16 cycles, while a stack it
reads switches its channel (assumption 47). -/
def Obligations.CoreEventsGoOn : Prop :=
  (∀ (s : State) (r : MRef) (m : Member),
     s.m.member r = some m →
     (∀ (k : Nat) (hk : k < 32), m.slots[k].state = .pending → m.slots[k].req = 0 →
       let l := m.slots[k]
       let ws := loadWrites l.dst l.size l.sx l.data
       (∀ due, l.due = some due → ∃ x, Becomes (.dataLanding r k) s (syncCore (s.m.putMember x) r) ∧
         x.slots[k] = { l with state := .landed } ∧ x.skew = max m.skew (s.m.wclk - due) ∧
         x.handler = (m.fillSlot l.strm k ws).handler ∧
         (∀ f ∈ (m.str l.strm).inflight, f.slot = some k →
           { f with writes := ws, slot := none } ∈ (x.str l.strm).inflight) ∧
         (∀ st, st ≠ l.strm → x.str st = m.str st)) ∧
       (l.due = none → ∃ x, Becomes (.dataLanding r k) s (syncCore (s.m.putMember x) r) ∧
         x.slots[k] = { l with state := .landed } ∧
         (∀ u, (m.str l.strm).untimed = some u → u.needs = .slot → u.slot = some k →
           (x.str l.strm).untimed = some { u with needs := .ready, writes := ws }) ∧
         (∀ st, st ≠ l.strm → x.str st = m.str st))) ∧
     (∀ k, Becomes (.dataLanding r (32 + k)) s (syncCore (s.m.updMember r fun y => y.placeLanded k) r)) ∧
     (∀ st u, (m.str st).untimed = some u → u.needs = .rows →
       (∀ f ∈ s.m.fetched, f.who = r → f.tag = 2 ^ 96 + st.num ∨ f.tag = rowTag st ∨ f.tag = probeTag st → f.code ≠ none) →
       Becomes (.untimedResultLanding r st) s (syncCore (performJob s.m m st u) r)) ∧
     (∀ st u q, (m.str st).untimed = some u → u.needs = .stack q → (∀ x ∈ s.m.hbm, x.num = q → x.switching = none) →
       (u.scadds = true → Becomes (.untimedResultLanding r st) s (syncCore (performJob s.m m st u) r)) ∧
       (u.scadds = false → m.mayLand st = true →
         Becomes (.untimedResultLanding r st) s (performJob s.m m st u))) ∧
     (∀ st u tag w o lat i, (m.str st).untimed = some u → u.needs = .fetched tag → u.job = .again w o lat →
       decode u.raw = .ok i → m.mayLand st = true →
       (∀ f ∈ s.m.fetched, f.who = r → f.tag = tag → f.code ≠ none) →
       let c := lateCtx s.m m st u w o lat
       Becomes (.untimedResultLanding r st) s (finishLate c u (lateRes c i))) ∧
     (∀ st u, (m.str st).untimed = some u → m.mayLand st = true →
       let there : Prop :=
         match u.needs with
         | .ready => True
         | .published g own ms _ => ∀ v ∈ m.verges, v.grid = g → v.ref.own = own → v.ref.ms = ms → v.started ∨ v.spilled
         | .vergeWrites g own =>
           (∀ v ∈ m.verges, v.grid = g → v.ref.own ≠ own) ∧ ∀ v ∈ m.reports, v.grid = g → v.ref.own ≠ own
         | _ => False
       (there → ∃ x,
         Becomes (.untimedResultLanding r st) s
           (match u.acquire with
             | some sc => acquire (s.m.putMember x) x.ref sc
             | none => s.m.putMember x) ∧
         x.ref = m.ref ∧
         (∀ (k : Nat) (hk : k < 32), u.slot = some k → x.slots[k] = LSlot.empty) ∧
         (∀ g own, u.needs = .vergeWrites g own → ∀ j, j ∈ x.joined ↔ j ∈ m.joined ∧ ¬(j.own = own ∧ j.grid = g)) ∧
         x.str st =
           (let y := (m.str st).settle (m.now s.m)
           ({ y with
             inflight :=
               if u.writes = [] then y.inflight else y.inflight ++ [⟨m.now s.m, u.born, u.writes, false, none⟩]
             untimed := none
             floor := max y.floor (m.now s.m + 1)
             nstall := y.nstall + (m.now s.m - u.iss) } : Stream).settle (m.now s.m))) ∧
       (∀ i, u.needs = .refused i → Becomes (.untimedResultLanding r st) s (unissue s.m m st u none i)) ∧
       (u.needs = .acknowledged → outstanding s.m r st = false → (m.str st).imprecise = [] →
         Becomes (.untimedResultLanding r st) s (performJob s.m m st u)) ∧
       (∀ x rest, u.needs = .acknowledged → outstanding s.m r st = false → (m.str st).imprecise = x :: rest →
         Becomes (.untimedResultLanding r st) s
           (unissue s.m m st u (some (.refusal st x)) (impreciseTrap u.raw x))))) ∧
  (∀ (s : State) (r : MRef) (m : Member),
     s.m.member r = some m →
     (∀ st ts es, xspan s.m m.core m.die r.part .fetch (m.str st).pc 8 = .ok (ts, es) →
       Becomes (.fetchMissFill r st) s (tlbFills s.m m.core m.die es)) ∧
     (m.freeze = .vector → m.vbusy ≤ s.m.wclk →
       Becomes (.vectorUnitFree r) s
         (s.m.putMember { m with freeze := .none, skew := max m.skew (s.m.wclk - m.cycle) })) ∧
     (∀ part die block w,
       s.m.walks.find? (fun x => x.part == part && x.die == die && x.block == block) = some w →
       ∃ N, Becomes (.walkComplete part die block) s N ∧
         N.walks = s.m.walks.filter (fun x => !(x.part == part && x.die == die && x.block == block)) ∧
         (w.joined = [] ∨ (∃ f, w.result = .fault f) → N = { s.m with walks := N.walks }) ∧
         (∀ core pva g pt e a y, w.joined = [(core, pva)] → w.result = .found g → s.m.part g.part = some pt →
           leafAllows pt .read pva g = .ok e → e.target pva.toNat = .local a →
           let P := tlbFill { s.m with walks := N.walks } (some core) die e
           P.occupant core = some y →
           let kept := (∀ c n, paKind a ≠ .sram c n) ∧ fenced P a = false ∧ windowOk P a = true
           (kept → N = allocate P y core (a / 64 * 64) 64) ∧ (¬kept → N = P))) ∧
     (∀ st w, (m.str st).wait = some w → w.kind = .acq → m.untimeds st = [] →
       ChangesStream (.acqWithdrawal r st) s r st m
         { m.str st with
           wait := none
           floor := max (m.str st).floor (m.now s.m)
           nstall := (m.str st).nstall + (m.now s.m - w.since) }) ∧
     (∀ st u id limit, (m.str st).wait = none → m.untimeds st = [u] → u.needs = .acq id limit none →
       let o : Origin := .request r st id
       let asked := s.m.conns.findSome? fun c => (c.asked.find? fun x => x.2 == o).map fun x => (c.ref, x.1)
       (∀ k seq, asked = some (k, seq) →
         let M :=
           s.m.updMember r fun y =>
             y.updUntimed st (fun v => v.needs == .acq id limit none) fun v => { v with needs := .acq id limit (some false) }
         Becomes (.acqWithdrawal r st) s (sendOn M k (withdrawPacket M k u.raddr seq) (.withdraw r st id seq))) ∧
       (asked = none →
         let M : Mach :=
           { s.m with conns := s.m.conns.map fun c => { c with waiting := c.waiting.filter fun x => x.2 != o } }
         Becomes (.acqWithdrawal r st) s
           (M.updMember r fun y => y.withdrawn st (fun v => v.needs == .acq id limit none) (y.now M))) ∧
       ((m.str st).untimed = some u → m.mayLand st = true → u.iss + limit ≤ m.now s.m →
         Becomes (.waitTimeout r st) s (withdrawAcq s.m r st true))) ∧
     (∀ st w, (m.str st).wait = some w → w.watched = true → w.granted = none → m.freeze = .none →
       w.since + w.limit ≤ m.now s.m →
       ∃ x raw, Becomes (.waitTimeout r st) s (endCycle (s.m.putMember x) r (m.now s.m)) ∧
         (∀ v, fetch s.m m (m.str st).pc = .ok v → raw = v) ∧
         x.raised = m.raised ++ [(st, ⟨0x15, false, raw, w64 w.kind.code, [], false⟩)] ∧ (x.str st).wait = none ∧
         (x.str st).pc = (m.str st).pc ∧ (x.str st).nstall = (m.str st).nstall + (m.now s.m - w.since))) ∧
  (∀ (s : State) (r : MRef) (st : Strm) (m : Member),
     s.m.member r = some m →
     (∀ w, (m.str st).wait = some w → w.granted = none →
       (∀ ts, w.cond = .tagsFull ts → m.tagsSettled ts = true → Grants (.tagCheckSatisfied r st) s r st m w) ∧
       (∀ t, w.cond = .tagEmpty t → (m.tile t).tag = .empty ∨ (m.tile t).tag = .poisoned →
         Grants (.tagCheckSatisfied r st) s r st m w) ∧
       (∀ (k : Nat) (hk : k < 8), w.cond = .mailboxEmpty k → m.mbs[k].2 = false →
         Grants (.mailboxWake r st) s r st m w) ∧
       (∀ (k : Nat) (hk : k < 8), w.cond = .mailboxFull k → m.mbs[k].2 = true →
         Grants (.mailboxWake r st) s r st m w) ∧
       (∀ (q : Nat) (hq : q < 8) n, w.cond = .queueRoom q n → m.queues[q].length + n ≤ 32 →
         Grants (.mailboxWake r st) s r st m w) ∧
       (∀ (q : Nat) (hq : q < 8) n, w.cond = .queueRows q n → n ≤ readyRows m.queues[q] →
         Grants (.mailboxWake r st) s r st m w) ∧
       (∀ (q : Nat) (hq : q < 8) n, w.cond = .queueAtMost q n → readyRows m.queues[q] ≤ n →
         Grants (.mailboxWake r st) s r st m w) ∧
       (let retests (met : Option Nat) : Prop :=
          ChangesStream (.acqHomeRetest r st) s r st m
            { m.str st with wait := some { w with granted := some (m.now s.m + 1), met := w.met.or met } }
        (∀ x pa n, w.cond = .versionGe x pa n ∨ w.cond = .notHeld pa → s.m.switchingAt pa = none →
          s.m.poisoned pa 16 = true ∨ objWellFormed (s.m.word (pa + 8)).toNat = false → retests none) ∧
        (∀ x pa n, w.cond = .versionGe x pa n → s.m.switchingAt pa = none → s.m.poisoned pa 16 = false →
          objWellFormed (s.m.word (pa + 8)).toNat = true → n ≤ (s.m.word pa).toNat →
          retests (some (s.m.word pa).toNat)) ∧
        (∀ pa, w.cond = .notHeld pa → s.m.switchingAt pa = none → (s.m.word (pa + 8)).getLsbD 63 = false → retests none) ∧
        (∀ p n, w.cond = .defverGe n → s.m.part r.part = some p → n ≤ p.defver.toNat →
          retests (some p.defver.toNat)))) ∧
     (∀ sc b, barFind s.m sc (barKey s.m m sc) = some b → barComplete s.m b = true ∨ podComplete s.m b = true →
       let M := { barPut s.m { b with arrived := [], passed := b.passed ++ b.arrived } with free := s.m.free + 1 }
       let lat :=
         match sc with
         | .stream => 1
         | .core => 4
         | .quad => 12
         | .die => 40
         | .pkg => 110
         | .pod => Config.freeNat s.m.free + 1
       Becomes (.barrierEpisodeComplete r sc) s
         (b.arrived.foldl
           (fun N x =>
             match (N.member x.1).bind fun y => (y.str x.2).wait with
             | some w => if w.cond = .episode then grantAfter N x.1 x.2 lat else N
             | none => N)
           M)))

/-- An arrival, or its retry, is taken by a tile that is not FULL, waits in the tile's queue of 64 entries, comes
again when that is full or its journal entry is held, counts as taken when it lies below its
rank's floor, and is refused to its sender where its member or tile does not exist; the image of a switched-out member
follows its records; an abort poisons a tile not yet FULL, which no connection is filling any longer; a closing notice
frees its journal entries, and a rollback takes back what they hold, a POISONED tile keeping only its tag, and raises
the rank's floor; SAVE keeps a member's tile records, its arrival queue and its journal, and RESTORE takes them from its
image; both come again later while a stack of the partition switches (R43 to R49, R166, R409, R410). Model's choices: that
a retry comes exactly 64 cycles later and a held SAVE or RESTORE 16 (logs 47 and 49), and how an image follows its member
and is read (log 23). -/
def Obligations.ArrivalsReachTheirTiles : Prop :=
  ∀ s : State,
    (∀ (e : Instr) (a : Arrival), e = .arrival a ∨ e = .arrivalRetry a →
      (s.m.member a.dst = none → Becomes e s (arrivalRefused s.m a 0x23 false)) ∧
      (∀ m, s.m.member a.dst = some m →
        (m.tilesN ≤ a.tile → Becomes e s (arrivalRefused s.m a 0x23 false)) ∧
        (a.tile < m.tilesN → m.stale a = true → Becomes e s (arrivalIn s.m a)) ∧
        (a.tile < m.tilesN → m.stale a = false →
          ((m.tile a.tile).tag = .full → m.arrq.length < 64 →
            Becomes e s (arrivalIn (syncTags (s.m.putMember { m with arrq := m.arrq ++ [a] }) a.dst) a)) ∧
          ((m.tile a.tile).tag = .full → 64 ≤ m.arrq.length → Becomes e s (s.m.raise 64 (.arrivalRetry a))) ∧
          ((m.tile a.tile).tag ≠ .full → journalBusy s.m m a = true → Becomes e s (s.m.raise 64 (.arrivalRetry a))) ∧
          ((m.tile a.tile).tag ≠ .full → journalBusy s.m m a = false →
            Becomes e s (arrivalIn (syncTags (applyArrival s.m m a) a.dst) a))))) ∧
    (∀ r m t, s.m.member r = some m →
      ((m.tile t).tag = .empty ∨ (m.tile t).tag = .filling →
        ∃ N, Becomes (.abortEvent r t) s N ∧ N.member r = some (m.poison t 2) ∧
          (m.core ≠ none → N.mem = s.m.mem) ∧
          (m.core = none →
            N =
              syncTags
                ((dropFilling s.m r t).updMember r fun y =>
                  if (y.tile t).tag = .empty ∨ (y.tile t).tag = .filling then y.poison t 2 else y) r) ∧
          (∀ c ∈ N.conns, (r, t) ∉ c.filling) ∧ ∀ q, q ≠ r → N.member q = s.m.member q) ∧
      ((m.tile t).tag = .full ∨ (m.tile t).tag = .poisoned →
        ∃ N, Becomes (.abortEvent r t) s N ∧ (m.core ≠ none → N.mem = s.m.mem) ∧
          ∀ q, N.member q = s.m.member q)) ∧
    (∀ r m rank epoch, s.m.member r = some m →
      let mine (j : Journal) : Bool := j.rank == rank && j.epoch == epoch
      (∃ N, Becomes (.closingNotice r rank epoch) s N ∧
        N.member r = some { m with journal := m.journal.filter fun j => !mine j } ∧
        (m.core ≠ none → N.mem = s.m.mem) ∧ ∀ q, q ≠ r → N.member q = s.m.member q) ∧
      (∃ x,
        Becomes (.rollback r rank epoch) s
          (syncTags
            (((m.journal.filter mine).filter fun j => (m.tile j.tile).tag == .full).foldl
              (fun M j => drainTile M r j.tile)
              ((m.journal.filter mine).foldl (fun M j => dropFilling M r j.tile) (s.m.putMember x)))
            r) ∧
        x.ref = m.ref ∧ x.journal = m.journal.filter (fun j => !mine j) ∧
        x.floorOf rank = max (m.floorOf rank) (epoch + 1) ∧
        (∀ n, n ≠ rank → x.floorOf n = m.floorOf n) ∧
        (∀ st, x.str st = m.str st) ∧
        (∀ j, m.journal.filter mine = [j] →
          (x.tile j.tile).cnt = (m.tile j.tile).cnt - j.count ∧
          (x.tile j.tile).map = (m.tile j.tile).map &&& ~~~j.mask ∧ (x.tile j.tile).tdup = j.tdup ∧
          ((m.tile j.tile).tag = .poisoned → (x.tile j.tile).tag = .poisoned) ∧
          ((m.tile j.tile).tag ≠ .poisoned → ((x.tile j.tile).tag = .empty ↔ (m.tile j.tile).cnt ≤ j.count))))) ∧
    (∀ r m core, s.m.member r = some m →
      (enginesHeld s.m r.part = true →
        Becomes (.save r) s (s.m.raise 16 (.save r)) ∧ Becomes (.restore r core) s (s.m.raise 16 (.restore r core))) ∧
      (enginesHeld s.m r.part = false → m.place = .core core → m.freeze = .halted →
        ∃ N x, Becomes (.save r) s N ∧ N.member r = some x ∧ x.place = .image ∧ x.tiles = m.tiles ∧ x.arrq = m.arrq ∧
          x.journal = m.journal) ∧
      (∀ p, enginesHeld s.m r.part = false → s.m.part r.part = some p → m.place = .image → m.unsettled s.m = false →
        p.owns (core / 32) = true → core / 32 ∈ s.m.liveDies →
        s.m.occupant core = none → stoppedCmd m = none → m.owed = [] → (∀ c ∈ m.cmds, c.finished = true) →
        let P := movePieces (clearCore s.m core) m false (sramBase core) 0x200000 (tileCount m.size / 8)
        let z := readImage (movePieces P m false (bstoreBase core) 0x600000 32) m
        ∃ N x, Becomes (.restore r core) s N ∧ N.member r = some x ∧ x.place = .core core ∧ x.tiles = z.tiles ∧
          x.arrq = z.arrq ∧ x.journal = z.journal))

/-- A verge write starts once its receiver's slot may be overwritten and the receiver has joined, and else moves to
the spill area once, unless an earlier milestone's cells for that receiver still stand there; its complete regions take
their milestone with the grid's scope; a progress report writes the receiver's published position, in the order of the
publications, and comes again 64 cycles later for an owner not yet joined; one that is refused is refused to the
publisher's stream (R138 to R140). Model's choices: the order of spills and of reports to one word, the wait for
an owner that has not joined and the repetition after 64 cycles (log 6), owners of other devices (log 22). The wait of a grid word ends the moment its
milestones are accepted or late, or its receivers have published far enough; past the grid's timeout it ends in
HALO_STALE with the stalled region, or the lagging receiver, as its value, and so does an HPUB whose cells have not left
its block by then (R137, R138, R141). -/
def Obligations.VergeWritesAndHaloWaitsComplete : Prop :=
  (∀ (s : State) (v : VergeRef) (m : Member) (mine e : List Word) (M N : Mach),
     enginesHeld s.m v.m.part = false →
     (∀ x,
       m.verges.find? (fun y => y.ref == v && !y.started) = some x →
       VergeEntry s.m v (.vergeWriteStart v) v.own m x.grid mine M →
       readEntry M m vergeTag (some (.vergeWriteStart v)) x.grid v.recv = .entry N e →
       let i : Instr := .vergeWriteStart v
       let joined := entJoined N e x.grid v.recv
       (∀ f, statePa N m .engineRead mine = .error f → Becomes i s (settleSignals (dropVerge N x f))) ∧
       (∀ pa, statePa N m .engineRead mine = .ok pa →
         let published (r : Nat) : Nat := msRank (N.word32 (pa + 0x600 + 4 * (26 - r)))
         let may :=
           v.recv = v.own ∨ v.ms ≤ gDepth x.grid ∨
             ∀ p ∈ x.regions, published p.1 ≠ 0 ∧ v.ms - gDepth x.grid ≤ published p.1 - 1
         (may → joined = true → Becomes i s (settleSignals (startVerge N m x mine e))) ∧
         (may → joined = false → Becomes i s (settleSignals N)) ∧
         (¬may → x.spilled = false → spillBusy m x = false →
           Becomes i s (settleSignals (spillVerge N m x mine e joined))) ∧
         (¬may → x.spilled = true ∨ spillBusy m x = true → Becomes i s (settleSignals N)))) ∧
     (∀ x, m.verges.find? (fun y => y.ref == v && y.started) = some x →
       VergeEntry s.m v (.vergeWriteComplete v) v.recv m x.grid e N →
       let ready := (x.regions.filter fun p => p.2 = 0 && p.1 < 27).map (·.1)
       Becomes (.vergeWriteComplete v) s
         (settleSignals
           ((vergeWords N m x e (ready.map fun r => msOff x.grid v.ms r) v.ms ((gScope x.grid).num <<< 13)).updVerge v
             fun y =>
             { y with regions := y.regions.filter fun p => !(ready.contains p.1) && !(p.1 == 27 && p.2 == 0) }))) ∧
     (∀ r x, m.reports.find? (fun y => y.ref == v && y.region == r) = some x →
       (m.reports.find? x.alike ≠ some x → s.m.member v.m = some m → Becomes (.progressReport v r) s (settleSignals s.m)) ∧
       (m.reports.find? x.alike = some x → VergeEntry s.m v (.progressReport v r) v.recv m x.grid e N →
         let at_ := w64 (entSbase e + 0x600 + 4 * (26 - r))
         let sent := ownerWrite N m (.verge v 28 x.st at_ x.grid x.num) e at_.toNat (leBytes 4 v.ms)
         (entJoined N e x.grid v.recv = false →
           Becomes (.progressReport v r) s (settleSignals (N.raise 64 (.progressReport v r)))) ∧
         (∀ P n, entJoined N e x.grid v.recv = true → sent = .ok (P, n) →
           Becomes (.progressReport v r) s (settleSignals (endReport P x))) ∧
         (∀ f, entJoined N e x.grid v.recv = true → sent = .error f →
           Becomes (.progressReport v r) s
             (settleSignals (endReport (vergeRefused N v 28 x.st x.grid x.num f) x)))))) ∧
  (∀ (s : State) (v : VergeRef) (r : Nat), enginesHeld s.m v.m.part = true →
     Becomes (.vergeWriteStart v) s (s.m.raise 16 (.vergeWriteStart v)) ∧
       Becomes (.vergeWriteComplete v) s (s.m.raise 16 (.vergeWriteComplete v)) ∧
       Becomes (.progressReport v r) s (s.m.raise 16 (.progressReport v r))) ∧
  (∀ (s : State) (r : MRef) (st : Strm) (m : Member) (w : Wait),
     s.m.member r = some m → (m.str st).wait = some w → w.granted = none →
     (∀ ws n t, w.cond = .milestone ws n t → (msVerdict s.m ws n).1 ≠ .stall →
       Grants (.hpubWaitEnd r st) s r st m w) ∧
     (∀ ws n t, w.cond = .published ws n t → (∀ x ∈ ws, n ≤ msRank (s.m.word32 x.1)) →
       Grants (.hpubWaitEnd r st) s r st m w) ∧
     (∀ aux,
       (∃ ws n t, w.cond = .milestone ws n t ∧ (msVerdict s.m ws n).1 = .stall ∧ aux = (msVerdict s.m ws n).2) ∨
         (∃ ws n t x, w.cond = .published ws n t ∧ ws.find? (fun y => msRank (s.m.word32 y.1) < n) = some x ∧
           aux = x.2) →
       m.freeze = .none → w.since + w.limit ≤ m.now s.m →
       ∃ x raw, Becomes (.haloTimeout r st) s (endCycle (s.m.putMember x) r (m.now s.m)) ∧
         (∀ u, fetch s.m m (m.str st).pc = .ok u → raw = u) ∧
         x.raised = m.raised ++ [(st, ⟨0x16, false, raw, w64 aux, [], false⟩)] ∧ (x.str st).wait = none ∧
         (x.str st).pc = (m.str st).pc ∧ (x.str st).nstall = (m.str st).nstall + (m.now s.m - w.since))) ∧
  (∀ (s : State) (r : MRef) (st : Strm) (m : Member) (u : Untimed) (g : List Word) (own ms limit : Nat) (v : Verge),
     s.m.member r = some m → (m.str st).wait = none → (m.str st).untimed = some u →
     u.needs = .published g own ms limit → (m.unread g own ms).head? = some v → m.mayLand st = true →
     u.iss + limit ≤ m.now s.m →
     Becomes (.haloTimeout r st) s (unissue s.m m st u none ⟨0x16, false, u.raw, w64 v.ref.recv, [], false⟩))

/-- A fill brings the row's bytes into its slot and makes the way CLEAN; a write-back puts the slot's bytes at the
row's place and frees the way, or gives it to the promotion that waits; poison moves with the bytes, is logged and traps ECC_FATAL;
either that meets a translation fault is logged, the fill given up and the write-back tried again (log entry 42); a
decay halves a group's sketch whose observation reached the period (R65, R69, R77). A mode switch to the mode that
replays need begins and ends 1880 cycles later, when the replays and the accesses waiting for the stack go on; a
refresh, not of a switching stack, moves the pseudo channel's pointer to the next bank and makes up one postponed
refresh; an uncorrectable error poisons its block, makes a directory set unusable,
zeroes a sketch counter, loses a row in the replay SRAM, or poisons a tile and traps ECC_FATAL (R71, R73, R74, R77). Model's choices: the refresh constants, the retry after 4,096
cycles and the AUX of a directory set (log 42), that such an error is taken on C of a member (log 26), the words of a log
line (log 8), and that a fill or write-back of a partition with a switching stack comes again 16 cycles later (log 47). -/
def Obligations.HotRowsAndStacksGoOn : Prop :=
  (∀ (s : State) (part n : Nat) (p : Part),
     s.m.part part = some p →
     (enginesHeld s.m part = true → ∀ set way,
       Becomes (.fillComplete part n set way) s (s.m.raise 16 (.fillComplete part n set way)) ∧
         Becomes (.writeBackComplete part n set way) s (s.m.raise 16 (.writeBackComplete part n set way))) ∧
     (∀ g, p.owns (n / 2) = true →
       Becomes (.decay part n g) s
         (s.m.updChip n fun c =>
           let old := (c.sketches.find? fun x => x.group == g).getD ⟨g, 0, [], 0, false⟩
           c.setSketch (if old.due then { old.halve with due := false } else old))) ∧
     (enginesHeld s.m part = false →
       ∀ set way e t row, (s.m.chip n).way set way = some e → keyRow p e.key = some (t, row) →
       let slot := slotPa p.hrcfg n set way
       (e.state = .filling →
         let C := s.m.updChip n fun c => c.setWay set way none
         let i : Instr := .fillComplete part n set way
         let clean (M : Mach) : Mach := M.updChip n fun c => c.setWay set way (some { e with state := .clean })
         (∀ f, rowPieces C p.id p t .engineRead row = .error f → Becomes i s (C.logPart p.id 0x20 n f.pva)) ∧
         (∀ M ps, rowPieces C p.id p t .engineRead row = .ok (M, ps) →
           (homePoison M ps = none → Becomes i s (clean (M.put slot (homeBytes M ps)))) ∧
           (∀ pa, homePoison M ps = some pa →
             Becomes i s
               (clean
                 (movePoison ((partFault M p.id n pa).put slot (homeBytes M ps)) ps [(slot, rowDense t)]))))) ∧
       (e.state = .draining →
         let i : Instr := .writeBackComplete part n set way
         let place := msSpan s.m p.id p .engineWrite (rowDense t / 0x10000 + 2) (rowPva p t row) (rowDense t)
         (∀ f, place = .error f → Becomes i s ((s.m.logPart p.id 0x20 n f.pva).raise 4096 (.writeBackComplete part n set way))) ∧
         (∀ M ps, place = .ok (M, ps) →
           let src := [(slot, rowDense t)]
           let bs := M.get slot (rowDense t)
           let free (M : Mach) : Mach :=
             let N := M.updChip n fun c => c.setWay e.set e.way none
             match e.next with
             | none => N
             | some key => claimWay N p n e.set e.way key
           (homePoison M src = none → Becomes i s (free (homeWrite M ps bs))) ∧
           (∀ pa, homePoison M src = some pa →
             Becomes i s (free (movePoison (homeWrite (partFault M p.id n pa) ps bs) src ps))))))) ∧
  (∀ s : State,
     (∀ k b, stackNeeded s.m k = b → (s.m.stack k).switching = none → (s.m.stack k).compute = !b →
       Becomes (.modeSwitch k b) s
         ((s.m.updStack k fun x =>
             { x with
               switching := some b
               refresh := x.refresh.map fun z => x.refreshAt z.pc (s.m.wclk / (Config.refreshInterval + 1)) }).raise 1880
             (.modeSwitchComplete k))) ∧
     (∀ k b, stackNeeded s.m k = !b ∨ (s.m.stack k).switching ≠ none → Becomes (.modeSwitch k b) s s.m) ∧
     (∀ k b, (s.m.stack k).switching = some b →
       let M := s.m.updStack k fun x => { x with compute := b, switching := none, waiting := [] }
       let N := (s.m.stack k).waiting.foldl (fun M x => stackReady M x.1 x.2) M
       Becomes (.modeSwitchComplete k) s
         ((liveReplays N).foldl (fun N c => raiseOnce N 1 (.replayRegion c.ref c.pos)) N)) ∧
     (∀ k pc,
       ∃ N, Becomes (.refresh k pc) s N ∧ N = { s.m with hbm := N.hbm } ∧
         ∀ x ∈ s.m.hbm, x.num = k → ∃ y ∈ N.hbm,
           y.num = k ∧ y.compute = x.compute ∧ y.switching = x.switching ∧ y.waiting = x.waiting ∧
             let r := x.refreshAt pc (s.m.wclk / (Config.refreshInterval + 1))
             let held := x.switching ≠ none ∨ r.credit ≤ -(Config.refreshAhead : Int)
             (held → y = x) ∧
             (¬held →
               y.refresh.find? (fun z => z.pc == pc) =
                 some { r with bank := Config.nextBank r.bank, credit := r.credit - 1 } ∧
               ∀ q, q ≠ pc →
                 y.refresh.find? (fun z => z.pc == q) = x.refresh.find? fun z => z.pc == q)) ∧
     (∀ part unit, Becomes (.uncorrectableError (.entry part unit)) s (s.m.logPart part 0x21 unit 0)) ∧
     (∀ part tid row p a M ps, s.m.part part = some p → p.attached.find? (fun a => tId a.table = tid) = some a →
       rowPieces s.m part p a.table .engineRead row = .ok (M, ps) → (∀ q ∈ ps, 0 < q.2) →
       ∃ N, Becomes (.uncorrectableError (.replaySram part tid row)) s N ∧ N = { M with poison := N.poison } ∧
         ∀ b, b ∈ N.poison ↔ b ∈ M.poison ∨ ∃ q ∈ ps, q.1 / 64 ≤ b ∧ b ≤ (q.1 + q.2 - 1) / 64) ∧
     (∀ pa, Becomes (.uncorrectableError (.block pa)) s { s.m with poison := insertNat (pa / 64) s.m.poison }) ∧
     (∀ n set p, partOfDie s.m (n / 2) = some p →
       let M :=
         (s.m.updChip n fun c =>
           { c with unusable := insertNat set c.unusable, dir := c.dir.filter fun x => x.set != set }).logPart
           p.id 0x21 n (w64 set)
       let i (met : Option MRef) : Instr := .uncorrectableError (.dirSet n set met)
       let trap : TrapInfo := ⟨0x21, true, 0, w64 (slotPa p.hrcfg n set 0), [], false⟩
       (∀ r, Becomes (i (some r)) s (memberFault M r trap)) ∧
       (∀ r, anyMember M p.id = some r → Becomes (i none) s (memberFault M r trap)) ∧
       (anyMember M p.id = none → Becomes (i none) s M)) ∧
     (∀ n g row j p, partOfDie s.m (n / 2) = some p →
       Becomes (.uncorrectableError (.sketch n g row j)) s
         ((s.m.updChip n fun c => c.setSketch ((c.sketch g).setCount row j 0)).logPart p.id 0x21 n (w64 j))) ∧
     (∀ r t m pa, s.m.member r = some m → tilePa s.m m t 0 = some pa →
       Becomes (.uncorrectableError (.tile r t)) s
         (memberFault (syncTags (s.m.putMember (m.poison t 1)) r) r ⟨0x21, true, 0, w64 pa, [], false⟩)))

/-! ### Commands at work -/

/-- A bag of a lookup whose offsets run backwards lands as an invalid bag; else its positions, and for WSUM its
weights, are read, its rows are pooled, and its row and status land, or a fault of a row stops the command; the
next bag follows (R355 to R357). A pair of an UPDATE is appended in list order and the next one follows, the last
ends the command; a region of a replay waits for its stacks' compute mode, and else is coalesced, applied, its
bins emptied and the next one follows; a fault of either stops its command with the position (R362, R363). A
bucket is answered with its bags' partials, or refused for its key, its table or a row's fault, whether it comes
from this partition, as a RUD packet or in a packet of a connection; partials fill their shard's place, and with the last
one every bag's row lands; a refusal or a delivery failure refuses the exchange (R370, R430). Model's choices: the codes 0x08
and 0x0A of a refusal, the key not asked of the own partition and the ascending order of combination (log 26), the 0xFF log
line (log 8), the packet of a bucket (log 48) and the 16 cycles after which an engine held by a switching stack goes on
(log 47). -/
def Obligations.EmbeddingCommandsRun : Prop :=
  (∀ (s : State) (r : CmdRef) (bag : Nat) (m : Member) (c : Cmd) (p : Part) (k : LookupRun) (M : Mach) (os : List Byte),
     enginesHeld s.m r.m.part = false → LiveCmd s.m r m c p → c.run = .lookup k → bag < k.nbag → bag ∉ k.ended → (∀ b ∈ k.bags, b.1 ≠ bag) →
     readAny s.m m r.tag (bagWake r bag) .engineRead (k.off + w64 (4 * bag)) 8 = .bytes M os →
     let a := leNat (os.take 4)
     let b := leNat (os.drop 4)
     let next (N : Mach) : Mach :=
       let N := dropFetched N m.ref r.tag
       if bag + 1 < k.nbag then N.raise 1 (.lookupBag r (bag + 1)) else N
     (b < a →
       Becomes (.lookupBag r bag) s
         (next (landBag M r bag (bagRow (tDim k.table) k.mode true 0 none) (bagStatus false false false true)))) ∧
     (∀ L ls W ws, a ≤ b →
       readAny M m r.tag (bagWake r bag) .engineRead (k.list + w64 (8 * a)) (8 * (b - a)) = .bytes L ls →
       (k.mode ≠ .wsum → W = L ∧ ws = []) →
       (k.mode = .wsum →
         readAny L m r.tag (bagWake r bag) .engineRead (k.wgt + w64 (4 * a)) (4 * (b - a)) = .bytes W ws) →
       let x := poolAll W m.die p k.table k.mode (positions (b - a) ls ws)
       (∀ f, x.fault = some f → Becomes (.lookupBag r bag) s (stopRead W r (.fault f))) ∧
       (x.fault = none →
         Becomes (.lookupBag r bag) s
           (next
             (landBag x.M r bag (bagRow (tDim k.table) k.mode (x.oob || x.err) x.n x.acc)
               (bagStatus x.oob (a = b) x.err false)))))) ∧
  (∀ (s : State) (r : CmdRef) (n : Nat), enginesHeld s.m r.m.part = true →
     Becomes (.lookupBag r n) s (s.m.raise 16 (.lookupBag r n)) ∧
       Becomes (.binAppend r n) s (s.m.raise 16 (.binAppend r n)) ∧
       Becomes (.replayRegion r n) s (s.m.raise 16 (.replayRegion r n))) ∧
  (∀ (s : State) (r : CmdRef) (m : Member) (c : Cmd) (p : Part),
     enginesHeld s.m r.m.part = false → LiveCmd s.m r m c p →
     (∀ nf list grad n t k M bs N g,
       c.run = .update nf list grad n t k →
       readAny s.m m r.tag (some (.binAppend r k)) .engineRead (list + w64 (8 * k)) 8 = .bytes M bs →
       readAny M m r.tag (some (.binAppend r k)) .engineRead (grad + w64 (64 * rowSectors (tDim t) * k)) (4 * tDim t) =
         .bytes N g →
       (∀ f a, appendPair N m c p nf t k (leNat bs) g = .fault f a →
         Becomes (.binAppend r k) s (engineFault N r (engineTrap r.num f a k))) ∧
       (∀ O, appendPair N m c p nf t k (leNat bs) g = .next O →
         let O := (dropFetched O m.ref r.tag).updCmd r fun y =>
           { y with run := .update nf list grad n t (k + 1), pos := k + 1 }
         (k + 1 < n → Becomes (.binAppend r k) s (O.raise 1 (.binAppend r (k + 1)))) ∧
         (n ≤ k + 1 → Becomes (.binAppend r k) s (engineEnds O r)))) ∧
     (∀ o t k last,
       c.run = .replay o t k last →
       let ready (x : Nat) : Prop := (s.m.stack x).compute = true ∧ (s.m.stack x).switching = none
       ((∃ x ∈ regionStacks s.m p t k, ¬ready x) →
         ∃ N, Becomes (.replayRegion r k) s N ∧ N = { s.m with pending := N.pending } ∧
           ∀ x ∈ regionStacks s.m p t k, (s.m.stack x).compute = false → (s.m.stack x).switching = none →
             ∃ d ∈ N.pending, d.ev = .modeSwitch x true) ∧
       ((∀ x ∈ regionStacks s.m p t k, ready x) →
         (∀ f, coalesce s.m m.die p t k = .error f →
           Becomes (.replayRegion r k) s (engineFault s.m r (engineTrap r.num f .engineRead k))) ∧
         (∀ L tails sums odd f, coalesce s.m m.die p t k = .ok (L, tails, sums, odd) →
           regionRows m.die p t o sums L = .error f ∨
             (∃ R rows, regionRows m.die p t o sums L = .ok (R, rows) ∧ putHeads R m.die p t k tails = .error f) →
           Becomes (.replayRegion r k) s (engineFault s.m r (engineTrap r.num f .engineWrite k))) ∧
         (∀ L tails sums odd R rows M,
           coalesce s.m m.die p t k = .ok (L, tails, sums, odd) → regionRows m.die p t o sums L = .ok (R, rows) →
           putHeads R m.die p t k tails = .ok M →
           let N := rows.foldl (fun N x => writeRow N p t x.1 x.2.1 x.2.2) M
           let N := (List.range odd).foldl (fun N _ => N.logPart p.id 0xFF m.unit (w64 k)) N
           let N := N.updCmd r fun y => { y with run := .replay o t (k + 1) last, pos := k + 1 }
           (k + 1 < last → Becomes (.replayRegion r k) s (N.raise 1 (.replayRegion r (k + 1)))) ∧
           (last ≤ k + 1 → Becomes (.replayRegion r k) s (engineEnds N r)))))) ∧
  (∀ s : State,
     (∀ b, enginesHeld s.m b.dpart = true →
       Becomes (.bucketReceive b) s (s.m.raise 16 (.bucketReceive b)) ∧
         Becomes (.rudBucket b) s (s.m.raise 16 (.rudBucket b))) ∧
     (∀ (e : Instr) (b : Bucket) (q : Packet), e = .bucketReceive b ∨ e = .rudBucket b → enginesHeld s.m b.dpart = false →
       b.via = some q →
       Becomes e s
         (receiveAs s.m (q.resvd == 0 && bucketPayload (packetBucket q) == q.payload) q fun M _ =>
           poolBucket M (packetBucket q))) ∧
     (∀ (e : Instr) (b : Bucket), e = .bucketReceive b ∨ e = .rudBucket b → enginesHeld s.m b.dpart = false → b.via = none →
       let admitted := (b.src = s.m.self ∧ b.spart = b.dpart) ∨ keyOk s.m b.dpart b.key = true
       (s.m.part b.dpart = none ∨ ¬admitted → Becomes e s (answerBucket s.m b (.refused 0x07))) ∧
       (∀ p, s.m.part b.dpart = some p → admitted →
         let here (a : Attached) : Bool := tId a.table = b.tid && tExported a.table && tDim a.table = b.dim
         (p.attached.find? here = none → Becomes e s (answerBucket s.m b (.refused 0x08))) ∧
         (∀ a M x, p.attached.find? here = some a → bucketPartials s.m p a.table b (bucketBags b) = (M, .error x) →
           Becomes e s (answerBucket M b (.refused 0x0A))) ∧
         (∀ a M ps, p.attached.find? here = some a → bucketPartials s.m p a.table b (bucketBags b) = (M, .ok ps) →
           Becomes e s (answerBucket M b (.partials ps))))) ∧
     (∀ r m c p x, LiveCmd s.m r m c p → c.run = .exchange x →
       (∀ shard ps, (∃ y ∈ x.shards, y.1 = shard) → x.run.bags = [] →
         let shards := x.shards.map fun y => if y.1 = shard then (shard, some ps) else y
         let M := s.m.updCmd r fun c => { c with run := .exchange { x with shards := shards } }
         ((∀ y ∈ shards, y.2 ≠ none) → Becomes (.rudiPartial r shard (.partials ps)) s (M.raise 1 (.a2aCombination r))) ∧
         ((∃ y ∈ shards, y.2 = none) → Becomes (.rudiPartial r shard (.partials ps)) s M) ∧
         ∀ code,
           Becomes (.rudiPartial r shard (.refused code)) s
             (stopExchange (refuse s.m r.m c.st (Imprecise.command code 0 c.st r c.pos 0 true)) r)) ∧
       (x.formed = true → (∀ y ∈ x.shards, y.2 ≠ none) → x.run.bags = [] → x.run.ended = [] →
         Becomes (.a2aCombination r) s
           ((List.range x.run.nbag).foldl
             (fun M bag => landBag M r bag (combineBag x bag).1 (combineBag x bag).2) s.m)) ∧
       Becomes (.uecDeliveryFailure r) s
         (stopExchange (refuse s.m r.m c.st (Imprecise.command 0x22 0 c.st r c.pos 0 true)) r)))

/-- An iteration of a copy sequence moves its element and the next one follows, a position outside its bounds in
arithmetic ends the sequence with the fault kept, a failed translation or a poisoned block traps with its
position, and a refused tile stops it there; past the last iteration the engine is free; a sequence without an
engine takes the lowest free one; a command whose engine is done and whose bytes are all in is finished (R102,
R337, R338, R341, R455). A nest's K-step: a nest held by its inputs polls every 16 cycles; with no chain left the
nest has ended and its last position stands; a chain with no kept K-step finishes with its accumulators zero,
continued or not; a K-step takes the data of its group once, or stops the nest on a fault, and the array is busy with it for
128 of its core's cycles (R307, R308, R439, R451). Model's choices: the poll every 16 cycles (logs 11 and 49), the chain
with no kept K-step (log 21), the AUX of a refused element (log 25) and the 16 cycles after which a sequence held by a
switching stack goes on (log 47). -/
def Obligations.EnginesRunToTheirEnd : Prop :=
  (∀ (s : State) (r : CmdRef) (m : Member) (c : Cmd),
     s.m.member r.m = some m → s.m.cmd r = some c →
     (∀ k, c.run = .copy k → m.engines = true → c.engineDone = false → c.finished = false → c.sys = none →
       enginesHeld s.m r.m.part = true → Becomes (.copyElement r) s (s.m.raise 16 (.copyElement r))) ∧
     (∀ k, c.run = .copy k → m.engines = true → c.engineDone = false → c.finished = false → c.sys = none →
       enginesHeld s.m r.m.part = false →
       let i : Instr := .copyElement r
       (k.engine = none →
         (∀ e, engineFree s.m m.die = some e →
           Becomes i s ((updCopy s.m r fun k => { k with engine := some e }).raise 1 (.copyElement r))) ∧
         (engineFree s.m m.die = none → Becomes i s (s.m.raise 1 (.copyElement r)))) ∧
       (∀ e, k.engine = some e →
         (k.cfg.total ≤ c.pos → Becomes i s (copyEnds s.m r)) ∧
         (c.pos < k.cfg.total →
           (∀ M, copyElem s.m m c k c.pos = .next M →
             Becomes i s
               ((dropFetched (M.updCmd r fun y => { y with pos := c.pos + 1 }) m.ref r.tag).raise 1 (.copyElement r))) ∧
           (∀ M, copyElem s.m m c k c.pos = .ovf M →
             Becomes i s (copyEnds (M.updCmd r fun y => { y with fault := true }.defer 0x1B c.pos) r)) ∧
           (∀ t, copyElem s.m m c k c.pos = .stop t → Becomes i s (engineFault (flushSector s.m r) r t)) ∧
           (copyElem s.m m c k c.pos = .refused →
             let x := { Imprecise.command 0x23 k.cfg.dstBase c.st r c.pos 0 false with aux := k.cfg.dstBase }
             Becomes i s
               ((refuse (flushSector s.m r) m.ref c.st x).updCmd r fun y => y.stopAt c.pos (impreciseTrap 0 x))) ∧
           (∀ M, copyElem s.m m c k c.pos = .asking M → Becomes i s M)))) ∧
     (∀ N, driveCmd s.m r = N → ∀ d, N.cmd r = some d →
       (d.engineDone = true → d.out = 0 →
         Becomes (.commandCompletion r) s
           (syncCmds
             (dropFetched ((N.updCmd r fun y => { y with finished := true }).updMember r.m settleCounters) r.m
               (r.tc + 4 * r.num + 1))
             r.m)) ∧
       (d.engineDone = false ∨ d.out ≠ 0 → Becomes (.commandCompletion r) s N))) ∧
  (∀ (s : State) (r : MRef) (m : Member) (n : Nest),
     s.m.member r = some m → m.nest = some n → m.core.isSome = true → n.fault = none →
     let i : Instr := .kStep r
     (nestHeld s.m m n = true → Becomes i s (raiseOnce s.m m.nestPoll (.kStep r))) ∧
     (nestHeld s.m m n = false → m.now s.m < n.due → Becomes i s (raiseOnce s.m (n.due - m.now s.m) (.kStep r))) ∧
     (nestHeld s.m m n = false → n.due ≤ m.now s.m → ∀ chain, (if n.started then some n.idx else n.seekChain n.idx) = chain →
       (chain = none → Becomes i s (s.m.putMember { m with nest := none, lastPos := n.committed })) ∧
       (∀ ci, chain = some ci →
         (n.seekStep ci = none →
           (n.rowsOk m ci = true →
             let b := (beginChain n m).setAcc n.acc (AccSet.zero (n.cfg.mode.getD .exact))
             Becomes i s (raiseOnce (finishChain s.m b (b.nest.getD n) ci) 1 (.kStep r))) ∧
           (n.rowsOk m ci = false → Becomes i s (stopNest s.m r (nestTrap 0x13 0)))) ∧
         (∀ idx, n.seekStep ci = some idx →
           (n.held ≠ [] → Becomes i s (raiseOnce (performStep s.m r idx) 128 (.kStep r))) ∧
           (n.held = [] →
             (∀ t, n.take s.m m (n.group idx) = .fault t → Becomes i s (stopNest s.m r t)) ∧
             (∀ M, n.take s.m m (n.group idx) = .later M → Becomes i s (raiseOnce M 16 (.kStep r))) ∧
             (∀ M ds, n.take s.m m (n.group idx) = .data M ds →
               Becomes i s
                 (raiseOnce
                   (performStep
                     (M.updMember r fun y =>
                       { y with
                         nest := y.nest.map fun x =>
                           { x with held := ds, spec := x.committed + ds.length, rows := [] } })
                     r idx)
                   128 (.kStep r))))))))

/-! ### Registers, command queues, tasks -/

/-- Writes of translation registers outside the hot-row region take their bits and log reserved ones: PTROOT goes with
an invalidation of all, TLBINV with GO drops all of the partition's translations and walk-cache entries or those of a
page at once, GO reads 1 until every access from before, of any kind, has completed (log entry 36), and then everything
stored is performed and no cached copy stays; a second TLBINV meanwhile is ignored and logged (R4, R21, R23, R25, R26).
EXPCTL.LOAD gives the ports the enabled export entries of the table, each port by a free cycle, and reads 1 until the last
has them (log entry 43); a poisoned table is taken as an ECC fault and changes nothing (R77); RGNCTL.LOAD installs the region table once every access from before has completed and reads 1 until then,
whatever else is written; HRCFG is the firmware's to write while no table is attached, and takes a value that changes
the region with the invalidation that goes with it, zeroing the region it leaves and the one it names; and a write of
any other partition register reaches it through its mask, which drops and logs reserved bits (R4, R24, R29, R59, R60,
R89, R91). A write that an agent may not make, or of a partition that is not there, changes nothing but the log (R4,
R434). A partition that is dissolved has no registers any more, one that is formed has its key and nothing attached,
and a fenced die is no longer live; before READY no partition is formed (R7, R9, R412, R435). Model's choices: that
reserved bits are dropped and logged in one entry while the rest takes effect (log 17), the words of a log line (log 8), and
how a partition changes (log 29). -/
def Obligations.RegisterWritesReachTheirPartition : Prop :=
  (∀ (s : State) (ag : RegAgent) (part : Nat) (p : Part),
     Writes s ag part p →
     (∀ v, p.hotBase (wf v 12 32 * 4096) = false →
       let M := s.m.updPart p.id fun q => { q with ptroot := v &&& 0x00000FFFFFFFF001 }
       let M := if v &&& 0x00000FFFFFFFF001 = v then M else M.logIgnored p.id v
       Becomes (.ptrootWrite ag part v) s (ensurePops (startInv M p.id .all none) p.id)) ∧
     (∀ v, p.hotBase (wf v 12 32 * 4096) = true → Becomes (.ptrootWrite ag part v) s (s.m.logIgnored p.id v)) ∧
     (∀ v, p.tlbinv.getLsbD 0 = true →
       Becomes (.tlbinvAll ag part v) s (s.m.logIgnored p.id (w64 (putFld v.toNat 62 2 0))) ∧
       Becomes (.tlbinvPage ag part v) s (s.m.logIgnored p.id (w64 (putFld v.toNat 62 2 1)))) ∧
     (∀ v, p.tlbinv.getLsbD 0 = false → v.getLsbD 0 = true →
       let put (x : Word) : Mach := s.m.updPart p.id fun q => { q with tlbinv := x }
       (let x := w64 (putFld v.toNat 62 2 0)
       x &&& tlbinvMask = x → Becomes (.tlbinvAll ag part v) s (startInv (put x) p.id .all none)) ∧
       (let x := w64 (putFld v.toNat 62 2 1)
       x &&& tlbinvMask = x →
         Becomes (.tlbinvPage ag part v) s (startInv (put x) p.id (.page (wf x 16 40 * 0x10000)) none))) ∧
     (∀ v rest, p.rgnload = none → p.invs = v :: rest →
       let i : Instr := .tlbinvComplete part
       (v.passed s.m part = false → Becomes i s (s.m.raise 64 (.tlbinvComplete part))) ∧
       (v.passed s.m part = true →
         let M :=
           match v.cfg with
           | some w => hrcfgTake (fenceAll s.m part) part w
           | none => fenceAll s.m part
         let M :=
           M.updPart part fun q =>
             { q with invs := rest, tlbinv := if rest.isEmpty then q.tlbinv &&& ~~~1#64 else q.tlbinv }
         Becomes i s (if rest.isEmpty then M else M.raise 1 (.tlbinvComplete part)))) ∧
     (∀ v x, p.invs = [] → p.rgnload = some (v, x) →
       let i : Instr := .tlbinvComplete part
       (x.passed s.m part = false → Becomes i s (s.m.raise 64 (.tlbinvComplete part))) ∧
       (x.passed s.m part = true → Becomes i s (installRegions s.m p v))) ∧
     (∀ v : Inv,
       v.passed s.m part = true →
         (∀ op ∈ opsUnderWay s.m, op.part = part → v.ops ≤ op.id) ∧
         (∀ x ∈ v.loads, ∀ k ∈ s.m.hbm, x ∉ k.waiting) ∧
         ∀ x ∈ v.marks, ∀ c, s.m.conn x.1 = some c →
           (∀ u ∈ c.unacked, seqBefore u.p.seq x.2 = false) ∧ (∀ y ∈ c.resend, seqBefore y.1 x.2 = false) ∧
           (∀ y ∈ c.asked, seqBefore y.1 x.2 = true → y.2.unanswered s.m = false)) ∧
     (∀ k cfg,
       let N := startInv s.m part k cfg
       N.mem = s.m.mem ∧ N.members = s.m.members ∧
         N.part part =
           some { p with tlbinv := p.tlbinv ||| 1, invs := p.invs ++ [invNow s.m part cfg] } ∧
         (∀ r ∈ N.cores, ∀ e ∈ r.tlb, e.part = part → k.drops part e = false) ∧
         (∀ x ∈ N.dieTlb, ∀ e ∈ x.2, e.part = part → k.drops part e = false) ∧
         (∀ x ∈ N.walkCache, ∀ e ∈ x.2, e.part = part → k.dropsWalk e = false))) ∧
  (∀ (s : State) (ag : RegAgent) (part : Nat) (p : Part),
     Writes s ag part p →
     (∀ v, wf v 0 7 ≤ 64 → v &&& 0x00000FFFFFFFFCFF = v → v.getLsbD 7 = true →
       p.hotBase (wf v 10 34 * 1024) = false → ownsHbm p (wf v 10 34 * 1024) 1024 = true →
       let es := tableWords s.m (wf v 10 34 * 1024) 2 (wf v 0 7)
       let taken (q : Part) : Part := { q with expctl := w64 (putFld v.toNat 7 1 0) }
       (∀ pa, homePoison s.m [(wf v 10 34 * 1024, 16 * wf v 0 7)] = some pa →
         Becomes (.expctlLoad ag part v) s (partFault (s.m.updPart p.id taken) p.id 0 pa)) ∧
       (homePoison s.m [(wf v 10 34 * 1024, 16 * wf v 0 7)] = none → (∀ e ∈ es, exportBad (recW e 0) (recW e 1) = false) →
       let l : ExportLoad := ⟨p.exports, s.m.wclk, s.m.free⟩
       ∃ N, Becomes (.expctlLoad ag part v) s N ∧ N.mem = s.m.mem ∧ N.members = s.m.members ∧
         N.part part =
           some
             { taken p with
               exportLoads := l :: (if s.m.wclk < p.expdue then p.exportLoads else [])
               exports := es.filterMap fun e => exportEntry (recW e 0) (recW e 1)
               expdue := (List.range fabricPorts).foldl (fun t k => max t (l.madeAt k)) p.expdue })) ∧
     (∀ port t l, p.exportLoads = [l] →
       (t < l.madeAt port → p.exportsAt t port = l.old) ∧ (l.madeAt port ≤ t → p.exportsAt t port = p.exports)) ∧
     (∀ t, p.expctl.getLsbD 7 = false → ((p.expctlAt t).getLsbD 7 = true ↔ t < p.expdue)) ∧
     (∀ v, p.rgnload = none → v &&& 0x00000FFFFFFE3FFF = v → wf v 0 13 ≤ 4096 → v.getLsbD 13 = true →
       p.hotBase (wf v 17 27 * 131072) = false →
       let x := invNow s.m p.id none
       let q : Part := { p with rgnctl := v, rgnload := some (v, x) }
       let M := s.m.updPart p.id fun q => { q with rgnctl := v, rgnload := some (v, x) }
       M.part p.id = some q ∧
         (x.passed M p.id = false → Becomes (.rgnctlLoad ag part v) s (M.raise 64 (.tlbinvComplete p.id))) ∧
         (x.passed M p.id = true → Becomes (.rgnctlLoad ag part v) s (installRegions M q v))) ∧
     (∀ v, p.rgnload ≠ none →
       (v.getLsbD 13 = true → Becomes (.rgnctlLoad ag part v) s (s.m.logIgnored p.id v)) ∧
       (v.getLsbD 13 = false → v &&& 0x00000FFFFFFE3FFF = v → wf v 0 13 ≤ 4096 →
         p.hotBase (wf v 17 27 * 131072) = false →
         Becomes (.rgnctlLoad ag part v) s (s.m.updPart p.id fun q => { q with rgnctl := v ||| 0x2000 }))) ∧
     (∀ v, ag ≠ .fw ∨ p.attached ≠ [] → Becomes (.hrcfgWrite ag part v) s (s.m.logIgnored p.id v)) ∧
     (∀ v, ag = .fw → p.attached = [] → v &&& 0x01F0FFFF03FF01FF = v → 2 ≤ wf v 52 5 → wf v 52 5 ≤ 16 →
       wf v 16 10 * 0x4000000 + hrSize v ≤ 0xC00000000 → (∀ x ∈ p.invs, x.cfg = none) →
       (v.getLsbD 0 = false → p.hrEn = false →
         Becomes (.hrcfgWrite ag part v) s (s.m.updPart p.id fun q => { q with hrcfg := v })) ∧
       (v.getLsbD 0 = false → p.hrEn = true →
         Becomes (.hrcfgWrite ag part v) s (startInv s.m p.id .all (some v))) ∧
       (v.getLsbD 0 = true → p.hrEn = false → 10 ≤ wf v 4 5 → wf v 4 5 ≤ 16 → wf v 1 3 ≠ 7 →
         (tableBases p).any (inHotRegion p v) = false →
         Becomes (.hrcfgWrite ag part v) s (startInv s.m p.id .all (some v)))) ∧
     (∀ w, hrChanges p.hrcfg w = true →
       hrcfgTake s.m p.id w =
         (zeroRegion (zeroRegion (dropTlb s.m p.id .all) p p.hrcfg) p w).updPart p.id fun q => { q with hrcfg := w }) ∧
     (∀ v off, off ≠ 0x058 →
       Becomes (.registerWrite ag (.pcb part off) v) s (pcbPut s.m p ag off v)) ∧
     (∀ v, Becomes (.registerWrite ag (.pcb part 0x058) v) s (ringDoorbell s.m p v)) ∧
     (∀ v, v &&& 0x03FF03FF03FF03FF = v →
       pcbPut s.m p ag 0x038 v = s.m.updPart p.id (fun q => { q with qwin0 := v }) ∧
       pcbPut s.m p ag 0x040 v = s.m.updPart p.id (fun q => { q with qwin1 := v })) ∧
     (∀ v, 16 ≤ v.toNat → v.toNat < 32 →
       pcbPut s.m p ag 0x048 v = s.m.updPart p.id (fun q => { q with wdcfg := v })) ∧
     (∀ v, pcbPut s.m p ag 0x068 v = s.m.updPart p.id (fun q => { q with budg0 := v }) ∧
       pcbPut s.m p ag 0x070 v = s.m.updPart p.id (fun q => { q with budg1 := v }))) ∧
  (∀ (s : State) (ag : RegAgent) (part : Nat) (v : Word) (e : Instr),
     (∀ m st, ag ≠ .stream m st) →
     e = .ptrootWrite ag part v ∨ e = .tlbinvAll ag part v ∨ e = .tlbinvPage ag part v ∨ e = .expctlLoad ag part v ∨
       e = .hrcfgWrite ag part v ∨ e = .rgnctlLoad ag part v ∨ e = .hqdb ag part v ∨
       (s.host.powered = true ∧ ∃ off, e = .registerWrite ag (.pcb part off) v) →
     (s.m.part part = none → Becomes e s (s.m.logDev part v.toNat)) ∧
     (∀ p, s.m.part part = some p → s.host.admits s.m.wclk ag = false → Becomes e s (s.m.logIgnored part v))) ∧
  (∀ s : State,
     (∀ part dies key, s.host.boot ≠ .ready → Becomes (.partitionChange part dies key) s s.m) ∧
     (∀ part p, s.host.boot = .ready → s.m.part part = some p → Becomes (.partitionChange part p.dies p.key) s s.m) ∧
     (∀ part key p, s.host.boot = .ready → s.m.part part = some p → p.dies ≠ 0 → p.idle s.m = true →
       ∃ N, Becomes (.partitionChange part 0 key) s N ∧ N.part part = none) ∧
     (∀ part dies key, s.host.boot = .ready → s.m.part part = none → 1 ≤ dies → partShape s.m part dies = true →
       ∃ N p, Becomes (.partitionChange part dies key) s N ∧ N.part part = some p ∧ p.dies = dies ∧ p.key = key ∧
         p.ptroot = 0 ∧ p.exports = []) ∧
     (∀ die, ∃ N, Becomes (.dieFence die) s N ∧ die ∉ N.liveDies))

/-- HQDB of an enabled, ready queue in the partition's HBM takes its TAIL and starts it: it stops at once with 2 for a
malformed descriptor and with 8 for a TAIL too far ahead, and else looks for its next command; NOP, LOOP, IF,
JUMP, DELAY, INTR and QSTOP steer their queue, a slot with a field out of place stops it with 2, and a DELAY's end
lets it go on; a body or a skip past TAIL holds its queue until TAIL covers it, and whatever a queue does, its command
processor then serves the next of its queues that can go on (R371 to R375, R456; log entry 41). WAIT holds its queue until the word has reached its number; SIGNAL, SIGADD and
FENCE hold until the queue's tasks have finished and, at .pod, its posted writes are acknowledged, then store, add
or go on; an ordering word in a bound region stops the queue with 2 (R99; log entry 41); WRITE stores at once; a misaligned address stops the queue with 2, an address that cannot be reached
with 3 (R374, R375, R382). LAUNCH and LAUNCHI of a task in state 0 whose block and counts are well-formed put it
on the partition's launched tasks: one without predecessors gets its card at once, another waits for them; a block
in another state or malformed stops the queue with 5, and one in order whose loop nest cannot be read with 3; CTXNEW creates a context that is new, placeable and free of
its group's conflicts, or stops with 6; CTXEND waits for the context's tasks and removes it (R374, R378, R380,
R384). Model's choices: poison stopping a queue with 3, one command an event and the retry after 16 cycles (log 31), the
processor a queue is given to and the cycles of a command (log 41), a command waiting while a stack of the partition
switches (log 47), and groups kept on other devices (log 15). -/
def Obligations.CommandQueuesRunTheirSlots : Prop :=
  (∀ (s : State) (r : QueueRef) (p : Part),
     (∀ m st v, m.part = r.part → (toHomes s.m m st).part r.part = some p →
       Becomes (.hqdb (.stream m st) r.part v) s (ringDoorbell (toHomes s.m m st) p v)) ∧
     (∀ m st v, m.part ≠ r.part → s.m.part r.part = some p →
       Becomes (.hqdb (.stream m st) r.part v) s (s.m.logIgnored r.part v)) ∧
     (∀ ag v, Writes s ag r.part p → (∀ m st, ag ≠ .stream m st) → r.q = wf v 0 6 → wf v 6 58 = 0 →
       let a := queueDesc p r.q
       let d0 := s.m.word a
       let d1 := s.m.word (a + 8)
       let d2 := s.m.word (a + 16)
       r.q < min 64 (wf p.hqctl 0 7) → ownsHbm p a 32 = true → d0.getLsbD 63 = true → wf d1 32 8 = 0 →
       (∃ x ∈ p.queues, x.num = r.q) →
       let M := s.m.updQueue r fun x => { x with tail := wf d2 0 32, running := true }
       let bad := wf d0 61 2 ≠ 0 ∨ wf d1 40 24 ≠ 0 ∨ wf d2 32 32 ≠ 0 ∨ s.m.word (a + 24) ≠ 0 ∨ wf d0 56 5 < 4 ∨
         20 < wf d0 56 5 ∨ wf d0 0 56 % (32 * 2 ^ wf d0 56 5) ≠ 0
       let far := 2 ^ wf d0 56 5 < (wf d2 0 32 + 2 ^ 32 - wf d1 0 32) % 2 ^ 32
       (bad → Becomes (.hqdb ag r.part v) s (stopQueue M r 2)) ∧
       (¬bad → far → Becomes (.hqdb ag r.part v) s (stopQueue M r 8)) ∧
       (¬bad → ¬far → Becomes (.hqdb ag r.part v) s (kickQueue M r))) ∧
     (∀ q k, RunsQueue s r p q →
       (slotOk k 0 false false 0 = true →
         Performed (.cmdNop r k) s r p s.m 0 ∧ Stops (.qstop r k) s r p 7) ∧
       (slotOk k 0 false false 0 = false → Stops (.cmdNop r k) s r p 2 ∧ Stops (.qstop r k) s r p 2) ∧
       (let i := slotIndex q.frames (queueHead s.m p r.q)
       let inside := ∀ b n, jumpFrame q.frames = some (b, n) → i + 1 + k.argh ≤ n
       let covered := tailCovers s.m p q k.argh = true
       slotOk k 0 true true 0 = true → 1 ≤ k.argh → k.argh ≤ 1024 →
         (4 ≤ loopDepth q.frames ∨ ¬inside → Stops (.cmdLoop r k) s r p 4) ∧
         (loopDepth q.frames < 4 → inside →
           (¬covered → Holds (.cmdLoop r k) s r p (.cmdLoop r k)) ∧
           (covered → k.argl = 0 → Performed (.cmdLoop r k) s r p s.m k.argh) ∧
           (covered → k.argl ≠ 0 →
             Becomes (.cmdLoop r k) s
               (kickQueue
                 (s.m.updQueue r fun x =>
                   { x with frames := (.loop (i + 1) k.argh k.argl, 0) :: x.frames, held := false }) r)))) ∧
       (∀ n,
         let head := queueHead s.m p r.q
         tailCovers s.m p q n = true ↔
           jumpFrame q.frames ≠ none ∨
             (slotIndex q.frames head + 2 ^ 32 - head) % 2 ^ 32 + 1 + n ≤ (q.tail + 2 ^ 32 - head) % 2 ^ 32) ∧
       (∀ M bs, slotOk k 2 true false 3 = true → aligned k.w1 8 = true →
         devReadAny s.m p.id (cpRef p.id r.q) 0 (some (.cmdIf r k)) k.w1 8 = .bytes M bs →
         let v := wOfBytes bs &&& k.w3
         let holds :=
           (k.flags = 0 ∧ v = k.w2) ∨ (k.flags = 1 ∧ v ≠ k.w2) ∨ (k.flags = 2 ∧ k.w2.toNat ≤ v.toNat) ∨
             (k.flags = 3 ∧ v.toNat < k.w2.toNat)
         (holds → Performed (.cmdIf r k) s r p M 0) ∧
         (¬holds → tailCovers M p q k.argl = true → Performed (.cmdIf r k) s r p M k.argl) ∧
         (¬holds → tailCovers M p q k.argl = false → HoldsIn (.cmdIf r k) s r p M (.cmdIf r k))) ∧
       (slotOk k 0 true false 1 = true → aligned k.w1 32 = true → 1 ≤ k.argl → k.argl ≤ 65536 →
         (jumpFrame q.frames ≠ none → Stops (.jump r k) s r p 4) ∧
         (jumpFrame q.frames = none →
           Becomes (.jump r k) s
             (kickQueue
               (s.m.updQueue r fun x => { x with frames := (.jump k.w1 k.argl, 0) :: x.frames, held := false }) r))) ∧
       (slotOk k 0 true false 0 = true →
         Becomes (.delay r k) s
           (kickQueue
             ((s.m.updQueue r fun x => { x with delay := some (s.m.wclk + k.argl) }).raise k.argl (.delayExpiry r)) r) ∧
         (k.argl < 2048 → Performed (.intr r k) s r p { s.m with msix := s.m.msix ++ [(k.argl, s.host.ownerAt s.m.wclk)] } 0) ∧
         (2048 ≤ k.argl → Stops (.intr r k) s r p 2)) ∧
       (slotOk k 0 true false 0 = false → Stops (.delay r k) s r p 2 ∧ Stops (.intr r k) s r p 2) ∧
       (k.argh = 0 ∨ 1024 < k.argh → Stops (.cmdLoop r k) s r p 2)) ∧
     (∀ q k, s.m.queue r = some (p, q) → q.running = true → q.delay = none → enginesHeld s.m p.id = true →
       let held : Mach := s.m.updQueue r fun x => { x with held := true }
       Becomes (.cmdNop r k) s (held.raise 16 (.cmdNop r k)) ∧ Becomes (.write r k) s (held.raise 16 (.write r k)) ∧
         Becomes (.launch r k) s (held.raise 16 (.launch r k))) ∧
     (∀ q t, s.m.queue r = some (p, q) → q.delay = some t → t ≤ s.m.wclk →
       Becomes (.delayExpiry r) s (goOn (s.m.updQueue r fun x => { x with delay := none }) p r 1)) ∧
     (∀ q, s.m.queue r = some (p, q) → q.delay = none →
       Becomes (.delayExpiry r) s (kickQueue (s.m.updQueue r fun x => { x with held := false }) r))) ∧
  (∀ (s : State) (r : QueueRef) (p : Part) (q : HQueue) (k : Slot),
     RunsQueue s r p q →
     (slotOk k 3 false false 2 = true → k.flags < 6 → aligned k.w1 8 = true →
       (∀ M bs, devReadAny s.m p.id (cpRef p.id r.q) 0 (some (.wait r k)) k.w1 8 = .bytes M bs →
         (k.w2.toNat ≤ (wOfBytes bs).toNat → Performed (.wait r k) s r p M 0) ∧
         ((wOfBytes bs).toNat < k.w2.toNat → HoldsIn (.wait r k) s r p M (.wait r k))) ∧
       (inDefault p k.w1.toNat 8 = false → Stops (.signal r k) s r p 2 ∧ Stops (.sigadd r k) s r p 2) ∧
       (inDefault p k.w1.toNat 8 = true → mayRelease s.m p q k.flags = false →
         Holds (.signal r k) s r p (.signal r k) ∧ Holds (.sigadd r k) s r p (.sigadd r k)) ∧
       (inDefault p k.w1.toNat 8 = true → mayRelease s.m p q k.flags = true →
         (∀ M, devStore s.m p.id (cpRef p.id r.q) k.w1 (wBytes k.w2) = .ok M → Performed (.signal r k) s r p M 0) ∧
         (∀ f, devStore s.m p.id (cpRef p.id r.q) k.w1 (wBytes k.w2) = .error f → Stops (.signal r k) s r p 3) ∧
         (∀ M pa l ts, devSpan s.m p.id .atomic k.w1 8 = .ok (M, (.local pa, l) :: ts) →
           (M.poisoned pa 8 = false → Performed (.sigadd r k) s r p (homeAtom M pa 0x50 true k.w2.toNat 0).1 0) ∧
           (M.poisoned pa 8 = true →
             Becomes (.sigadd r k) s (kickQueue (stopQueue (dropFetched M (cpRef p.id r.q) 0) r 3) r))) ∧
         (∀ N dev peer ra l ts, devSpan s.m p.id .atomic k.w1 8 = .ok (N, (.remote dev peer ra, l) :: ts) →
           let waits (M : Mach) : Mach := kickQueue (M.updQueue r fun q => { q with held := true }) r
           let who := cpRef p.id r.q
           let c : ConnRef := ⟨p.id, dev, peer⟩
           let got := N.fetched.find? fun f =>
             f.who == who && f.tag == 0 && f.dev == dev && f.peer == peer && f.addr == ra
           (got = none →
             let M := { N with fetched := N.fetched ++ [⟨who, 0, dev, peer, ra, 8, none, [], some (.sigadd r k)⟩] }
             Becomes (.sigadd r k) s
               (waits
                 (sendOn M c (newPacket M c 2 ra (kspec (0x50 + 1 <<< 8 + 2 <<< 9 + k.flags <<< 11)) (beat [k.w2, 0]))
                   (.fetch who 0 p.id dev peer ra 8)))) ∧
           (∀ f, got = some f →
             (f.code = none → Becomes (.sigadd r k) s (waits N)) ∧
             (f.code = some 0 → Performed (.sigadd r k) s r p N 0) ∧
             (∀ n, f.code = some (n + 1) →
               Becomes (.sigadd r k) s (kickQueue (stopQueue (dropFetched N (cpRef p.id r.q) 0) r 3) r)))) ∧
         (∀ f, devSpan s.m p.id .atomic k.w1 8 = .error f → Stops (.sigadd r k) s r p 3))) ∧
     (slotOk k 3 false false 2 = false ∨ 6 ≤ k.flags ∨ aligned k.w1 8 = false →
       Stops (.wait r k) s r p 2 ∧ Stops (.signal r k) s r p 2 ∧ Stops (.sigadd r k) s r p 2) ∧
     (slotOk k 0 false false 2 = false ∨ aligned k.w1 8 = false → Stops (.write r k) s r p 2) ∧
     (slotOk k 0 false false 2 = true → aligned k.w1 8 = true →
       (∀ M, devStore s.m p.id (cpRef p.id r.q) k.w1 (wBytes k.w2) = .ok M → Performed (.write r k) s r p M 0) ∧
       (∀ f, devStore s.m p.id (cpRef p.id r.q) k.w1 (wBytes k.w2) = .error f → Stops (.write r k) s r p 3)) ∧
     (slotOk k 3 false false 0 = true → k.flags < 6 →
       (mayRelease s.m p q k.flags = true → Performed (.cmdFence r k) s r p s.m 0) ∧
       (mayRelease s.m p q k.flags = false → Holds (.cmdFence r k) s r p (.cmdFence r k)))) ∧
  (∀ (s : State) (r : QueueRef) (p : Part) (q : HQueue) (k : Slot),
     RunsQueue s r p q →
     (∀ (e : Instr) (N : Mach) (sizes : Option (List Nat)),
       (e = .launch r k ∧ slotOk k 0 false false 1 = true ∧ aligned k.w1 128 = true ∧ N = s.m ∧ sizes = none) ∨
         (e = .launchi r k ∧ slotOk k 0 false false 2 = true ∧ aligned k.w1 128 = true ∧ aligned k.w2 8 = true ∧
           ∃ bs, devReadAny s.m p.id (cpRef p.id r.q) 0 (some (.launchi r k)) k.w2 24 = .bytes N bs ∧
             sizes = some (countsOf (wordsOf 3 bs) 0)) →
       ∀ w nest, tcbRead N p.id k.w1.toNat = some w → recRead N p.id 8 (recW w 1) = some nest →
         let counts := sizes.getD (countsOf nest 1)
         let good := tcbState (recW w 0) = 0 ∧ tcbOk N p.id w nest counts = true
         let M :=
           N.updPart p.id fun p =>
             { p with
               launched := p.launched ++ [k.w1.toNat]
               sizes := match sizes with
                 | some c => aSet p.sizes k.w1.toNat c
                 | none => p.sizes
               queues := updIf (fun x => x.num == q.num) (fun x => { x with tasks := x.tasks ++ [k.w1.toNat] }) p.queues }
         (good → fld (recW w 0) 0 16 = 0 →
           let w0 := putFld (recW w 0) 40 3 2
           Performed e s r p (publishCard (tcbPut M p.id k.w1.toNat w0) p.id k.w1.toNat w0 none) 0) ∧
         (good → fld (recW w 0) 0 16 ≠ 0 →
           Performed e s r p (tcbPut M p.id k.w1.toNat (putFld (recW w 0) 40 3 1)) 0) ∧
         (¬good → Becomes e s (kickQueue (stopQueue (dropFetched N (cpRef p.id r.q) 0) r 5) r))) ∧
     (slotOk k 0 false false 1 = true → aligned k.w1 128 = true → ∀ w, tcbRead s.m p.id k.w1.toNat = some w →
       recRead s.m p.id 8 (recW w 1) = none →
       let good := tcbState (recW w 0) = 0 ∧ tcbFields s.m p.id w = true
       (good → Stops (.launch r k) s r p 3) ∧ (¬good → Stops (.launch r k) s r p 5)) ∧
     (slotOk k 0 true false 1 = true → k.argl < 4096 → aligned k.w1 64 = true →
       ∀ M bs, devReadAny s.m p.id (cpRef p.id r.q) 0 (some (.ctxnew r k)) k.w1 64 = .bytes M bs →
         let w := wordsOf 8 bs
         let gid := groupId p (recW w 7)
         let refused := (∃ c ∈ p.ctxs, c.id = k.argl) ∨ launchBad M p w = true ∨
           (gid ≠ 0 ∧ groupBad M gid (fld (recW w 7) 16 16) = true)
         (refused →
           Becomes (.ctxnew r k) s
             (kickQueue (stopQueue (dropFetched { M with free := M.free + 1 } (cpRef p.id r.q) 0) r 6) r)) ∧
         (∀ N img, ¬refused →
           let n := if recW w 4 = 0 then 0 else fld (recW w 5) 0 16
           devReadAny M p.id (cpRef p.id r.q) 0 (some (.ctxnew r k)) (w.getD 4 0) (n * 0x2000) = .bytes N img →
           Performed (.ctxnew r k) s r p (createContext { N with free := N.free + 1 } p k.argl w (chunks 0x2000 n img)) 0)) ∧
     (slotOk k 0 true false 0 = true → k.argl < 4096 →
       ((∀ c ∈ p.ctxs, c.id ≠ k.argl) → Stops (.ctxend r k) s r p 6) ∧
       ((∃ c ∈ p.ctxs, c.id = k.argl) →
         (ctxBusy s.m p k.argl = true → Holds (.ctxend r k) s r p (.ctxend r k)) ∧
         (ctxBusy s.m p k.argl = false → Performed (.ctxend r k) s r p (removeContext s.m p.id k.argl) 0))))

/-- A predecessor's end counts the successor's counter down: at 0 a waiting task becomes ready and its card goes out
by the master's die; a failed predecessor fails it with code 2, unless it has failed already; a count below 0 fails it with
code 1 and is logged; one that has failed already is only settled (R381, R382). A card is kept while 64 tasks are active,
dropped and logged when malformed or when its task is not to be admitted, and else its task becomes active, in
state 3, and is dispatched, or retires at once when it has no iterations; a card whose push failed goes out again
(R385, R386). A distributor dispatches the iterations of its best claimed task that has permitted free members,
one to each member in rising rank, and else, while a member of the die is free, claims the next chunk of the best task with
work left and a permitted member there; best is the
highest effective priority, then the greatest age, then the lowest block; a refresh of the ages keeps what each
task has grown to (R384, R387, R388). A task with every iteration ended writes its completion word and state 4,
and once that is performed leaves the active tasks and counts its successors down; at a period's boundary the
regulators start again with what was overdrawn, and the next boundary comes while anything is (R391, R392, R394). Model's
choices: claimed iterations before a new chunk and members in rising rank (log 14), the words of a log line (log 8), and that
the reserved bits of a card are checked (log 44). -/
def Obligations.TasksGoFromCardToRetirement : Prop :=
  (∀ (s : State) (part tcb : Nat) (p : Part) (r : List Word),
     s.m.part part = some p → tcbRead s.m part tcb = some r →
     let w := recW r 0
     let st := tcbState w
     let e : Instr := .predDecrement part tcb false
     (fld w 0 16 = 0 → Becomes e s ((failTask s.m part tcb 1).logPart part 0xFF 0 (w64 tcb))) ∧
     (fld w 0 16 = 1 → st = 1 →
       let w' := putFld (w - 1) 40 3 2
       Becomes e s (publishCard (tcbPut s.m part tcb w') part tcb w' (some (masterDie s.m p)))) ∧
     (1 < fld w 0 16 ∨ (fld w 0 16 = 1 ∧ st ≠ 1) → Becomes e s (tcbPut s.m part tcb (w - 1))) ∧
     (st ≠ 5 → Becomes (.predDecrement part tcb true) s (failTask s.m part tcb 2)) ∧
     (st = 5 → Becomes (.predDecrement part tcb true) s (settleFailed s.m part tcb 2))) ∧
  (∀ (s : State) (part die : Nat) (card : BitVec 128) (p : Part),
     s.m.part part = some p →
     let c := card.toNat
     let tcb := fld c 0 56
     let e : Instr := .cardAdmission part die card
     (∀ prio d, Becomes (.cardRepush part prio ⟨card, d⟩) s (pushCard s.m part prio card d)) ∧
     (64 ≤ p.tasks.length →
       Becomes e s (s.m.updPart part fun q => { q with cards := q.cards ++ [(die, card)] })) ∧
     (p.tasks.length < 64 →
       let dropped := ensurePops (s.m.logPart part 0xFF 0 (w64 c)) part
       (fld c 59 5 ≠ 0 ∨ fld c 96 32 ≠ 0 → Becomes e s dropped) ∧
       (tcbRead s.m part tcb = none → Becomes e s dropped) ∧
       (∀ r, tcbRead s.m part tcb = some r → taskNest s.m p tcb r = none → Becomes e s dropped) ∧
       (∀ r nest counts, fld c 59 5 = 0 → fld c 96 32 = 0 → tcbRead s.m part tcb = some r →
         taskNest s.m p tcb r = some (nest, counts) →
         let w := recW r 0
         let admissible := tcbState w = 2 ∨
           (tcbState w = 0 ∧ fld w 0 16 = 0 ∧ tcb % 128 = 0 ∧ tcbOk s.m part r nest counts = true)
         (¬admissible → Becomes e s dropped) ∧
         (admissible → Becomes e s (ensurePops (admitTask s.m part tcb card r nest counts) part))))) ∧
  (∀ (s : State) (part die : Nat) (p : Part),
     s.m.part part = some p →
     (die ∈ s.m.liveDies → p.owns die = true →
       let e : Instr := .chunkDispatch part die
       let free := s.m.members.any fun m => m.ref.part == p.id && m.die == die && m.isFree s.m
       let claimed := p.tasks.filter fun t =>
         t.failed.isNone && (t.claimOf die).isSome && !(permitted s.m p die t).isEmpty
       let next := p.tasks.filter fun t =>
         free && t.unclaimed && (t.claimOf die).isNone && !(permittedAll s.m p die t).isEmpty
       let best (l : List Task) (t : Task) : Prop := leastBy (fun t : Task => t.order s.m p) l = some t
       (∀ t first n, best claimed t → t.claimOf die = some (first, n) →
         let ms := (permitted s.m p die t).take n
         let k := ms.length
         let rest := dropFirst (fun x => x == (die, first, n)) t.claimed
         let M := updTask s.m part t.tcb fun y =>
           { y with claimed := if k < n then (die, first + k, n - k) :: rest else rest }
         Becomes e s (raiseOnce (startOn M p t first ms) 1 (.chunkDispatch part die))) ∧
       (∀ t, claimed = [] → best next t →
         Becomes e s (raiseOnce (updTask s.m part t.tcb fun y => y.claim die) 0 (.chunkDispatch part die))) ∧
       (claimed = [] → next = [] → Becomes e s s.m)) ∧
     (∃ N, Becomes (.ageRefresh part) s N ∧ N.mem = s.m.mem ∧ N.members = s.m.members ∧
       N.part part = some { p with tasks := p.tasks.map fun t => { t with age := t.ageAt s.m } }) ∧
     (∀ (m : Member) (t : Task) (n now : Nat),
       let x := m.start p t n now
       x.c.running = true ∧ x.a.running = false ∧ x.v.running = false ∧ x.x.running = false ∧
         x.c.pc = m.entry.getD 0 0 &&& 0x00FFFFFFFFFFFFF8 ∧ x.task = some (t.tcb, n) ∧ x.handler = none ∧
         (∀ d : Fin 6, x.c.main (BitVec.ofNat 5 (d.val + 1)) = w64 (iterIndex t.nest t.counts n d.val)) ∧
         x.c.main 7 = t.block.getD 2 0 ∧ (∀ j : BitVec 5, 8 ≤ j.toNat → x.c.main j = 0) ∧ x.c.lat = 0 ∧ x.tvec = 0 ∧
         x.tiles = m.tiles ∧ x.queues = m.queues ∧ x.tc = m.tc)) ∧
  (∀ (s : State) (part tcb : Nat),
     (∀ t r, activeTask s.m part tcb = some t → tcbRead s.m part tcb = some r → t.failed = none → t.total ≤ t.retired →
       let M :=
         if tcbState (recW r 0) = 4 then s.m
         else tcbPut (writeCompletion s.m part t.block (recW t.block 5)) part tcb (putFld (recW r 0) 40 3 4)
       (outstanding M (masterRef part) .c = true →
         Becomes (.taskRetire part tcb) s (M.raise 64 (.taskRetire part tcb))) ∧
       (outstanding M (masterRef part) .c = false →
         Becomes (.taskRetire part tcb) s
           ((successors M part t.block).foldl (fun M x => M.raise 1 (.predDecrement part x false))
             (finishTask M part tcb)))) ∧
     (∀ p, s.m.part part = some p →
       let left (budget used : Nat) : Nat := if budget = 0 then 0 else used - budget
       ∃ M,
         (let N := flushReturned (kickAll M part) part
          Becomes (.periodBoundary part) s (if (N.part part).any Part.overdrawn then needPeriod N part else N)) ∧
         M.mem = s.m.mem ∧ M.members = s.m.members ∧
         (∃ q, M.part part = some q ∧ q.schcfg = p.schnext.getD p.schcfg ∧ q.schnext = none ∧
           q.cpUsed = left (wf p.budg1 0 32) p.cpUsed ∧
           q.queues = p.queues.map fun x => { x with used := left (wf p.budg1 32 32) x.used }) ∧
         ∀ c ∈ M.chiplets, p.owns (c.num / 2) = true → c.promoted = 0))

/-- A request reaches every member of the context on a core, whose halt is performed a cycle later: a trap of its last
cycle is taken first, the record says PRE, the marker is written, an open region is discarded and stands open again with A
at its marker, copies give up their engines, its waits are withdrawn, and its save follows (R403 to R405, R165).
SAVE of a halted member empties its core: its stores are performed, its state stands in its save area, its place is
its image, and the core's L1 is empty; RESTORE onto a free live core of the partition clears the core's arrays,
brings tiles and B store back, reads the rest from the image, names the save area, and the member goes on with the
architectural cycle of the image, a fault that came meanwhile first (R406 to R410). The firmware's answers to an escalated trap: the notice
is logged with the trap's cause and the member; RESUME lets the core go on at the edited address, and the command
whose fault was taken goes on; END_THE_ITERATION stops its streams, ends its commands with FAULT and fails its task
with code 4; END_THE_CONTEXT ends every member's iteration and removes the context (R382, R401, R402). A fenced die
is no longer live and holds no member, and a context that had one there ends; a partition formed on free dies has its key, its registers at their reset
values and nothing attached, one dissolved is gone, one changed has no exports, and a change of a partition that is
not quiet, or to dies it cannot have, does nothing (R7, R9, R389, R412). Model's choices: the halt a cycle after the
request, the image's free bytes and what follows it (log 23), the words of the notice (log 8), the landing slots an ended
iteration frees (log 44), what a fence ends (log 24), how a partition changes (log 29), and the look again after 16 cycles at
a withdrawn ACQ without its answer (log 49). -/
def Obligations.MembersAreHaltedSavedAndRestored : Prop :=
  (∀ s : State,
     (∀ part ctx,
       Becomes (.preemptionRequest part ctx) s
         ((membersOf s.m part ctx).foldl
           (fun M m =>
             if m.core.isSome && m.freeze ≠ .halted then
               (M.updMember m.ref fun y => { y with preempt := true }).raise 1 (.preemptHalt m.ref)
             else M)
           s.m)) ∧
     (∀ r m, s.m.member r = some m →
       ((m.preempt = false ∨ m.core = none) → Becomes (.preemptHalt r) s s.m) ∧
       (m.preempt = true → m.core.isSome = true →
         ∃ N x, Becomes (.preemptHalt r) s N ∧ N.member r = some x ∧ x.freeze = .halted ∧ x.preempt = false ∧
           x.raised = [] ∧ x.taking = [] ∧ (m.region = none → x.region = none) ∧ (∀ st, (x.str st).wait = none) ∧
           (⟨.save r, N.wclk + 1⟩ : Due) ∈ N.pending ∧
           (∀ g, m.region = some g →
             x.a.pc = g.marker ∧ (∀ c ∈ x.cmds, ¬(c.st = .a ∧ c.epoch = some g.epoch)) ∧
               (∃ z, x.region = some z ∧ z.marker = g.marker ∧ z.bins = [] ∧ z.cmds = [] ∧ z.reached = []) ∧
               (m.raised = [] → ∀ i, m.escalated = some (.a, i) → x.tepc = g.marker)) ∧
           (m.raised = [] → m.handler = none → m.freeze = .none → m.region = none →
             (∀ c ∈ m.cmds, c.finished = true) →
             let y := m.settle (m.now s.m)
             let M := s.m.putMember y
             let M := writeMarker (writeRecord M y (trapRecord M y none false true fun st => (y.str st).pc)) y
             N.mem = M.mem ∧ (∀ st, (x.str st).pc = (m.str st).pc) ∧ x.tiles = m.tiles ∧ x.task = m.task ∧
               x.cmds = m.cmds)))) ∧
  (∀ (s : State) (r : MRef) (m : Member),
     s.m.member r = some m →
     enginesHeld s.m r.part = false →
     (∀ core, m.place = .core core → m.freeze = .halted →
       ∃ N, Becomes (.save r) s N ∧
         N.member r = some
           { Strm.all.foldl (fun x st => x.updStr st fun y => { y with sb := [], entering := [] }) m with
             place := .image, vbusy := 0 } ∧
         (∀ q, q ≠ r → N.member q = s.m.member q) ∧ (N.core core).l1 = [] ∧
         ((∀ q ∈ s.m.members, q.ref ≠ r → q.place ≠ .core core) → N.occupant core = none)) ∧
     ((m.place = .image ∨ m.freeze ≠ .halted) → Becomes (.save r) s s.m) ∧
     (∀ core, m.unsettled s.m = true → s.m.part r.part ≠ none →
       Becomes (.restore r core) s (s.m.raise 16 (.restore r core))) ∧
     (∀ core p, s.m.part r.part = some p → m.unsettled s.m = false →
       ((m.place ≠ .image ∨ p.owns (core / 32) = false ∨ core / 32 ∉ s.m.liveDies ∨ (s.m.occupant core).isSome = true) →
         Becomes (.restore r core) s s.m) ∧
       (m.place = .image → p.owns (core / 32) = true → core / 32 ∈ s.m.liveDies → s.m.occupant core = none →
         let M := movePieces (clearCore s.m core) m false (sramBase core) 0x200000 (tileCount m.size / 8)
         let M := movePieces M m false (bstoreBase core) 0x600000 32
         let z := readImage M m
         let x : Member :=
           { z with
             place := .core core
             freeze := if m.escalated.isSome then .escalated else .none
             skew := s.m.wclk - z.cycle
             tsave := w64 (saveArea p r)
             vbusy := 0 }
         let M := M.putMember x
         Becomes (.restore r core) s
           (raiseOnce (restartEngines (takeStopped (saveWords M x 0 [3]) r) r) 1 (.chunkDispatch r.part (core / 32))) ∧
         (stoppedCmd m = none → m.owed = [] →
           (∀ c ∈ m.cmds, c.finished = false → c.sys = none →
             (∀ k, c.run = .lookup k → ∀ b ∈ k.bags, b.2.1 ≠ 0) ∧
             ∀ k, c.run = .exchange k → ∀ b ∈ k.run.bags, b.2.1 ≠ 0) →
           ∃ N, Becomes (.restore r core) s N ∧ N.member r = some x)))) ∧
  (∀ (s : State) (r : MRef) (m : Member),
     s.m.member r = some m →
     (m.escalated = none → Becomes (.escalation r) s s.m) ∧
     (∀ e : ResumeEdit, (m.escalated = none ∨ m.freeze ≠ .escalated) → Becomes (.resume r e) s s.m) ∧
     (∀ st i, m.escalated = some (st, i) →
       Becomes (.escalation r) s (s.m.logDev m.unit (i.cause + r.rank <<< 8 + r.ctx <<< 16 + r.part <<< 28)) ∧
       (∀ e : ResumeEdit, m.freeze = .escalated →
         let pc := pcField ((e.tepc.or e.pc).getD m.tepc)
         ∃ x, Becomes (.resume r e) s (takeStopped (restartEngines (s.m.putMember x) r) r) ∧ x.ref = r ∧
           x.freeze = .none ∧ x.escalated = none ∧
           x.str st = { m.str st with pc := pc, floor := max (m.str st).floor m.cycle } ∧
           (∀ o, o ≠ st → x.str o = m.str o) ∧
           x.cmds = m.cmds.map (fun c => if c.sys.any (TrapInfo.same i) then { c with sys := none } else c) ∧
           x.tepc = pcField (e.tepc.getD m.tepc))) ∧
     (m.task = none →
       ∃ N x, Becomes (.endTheIteration r) s N ∧ N.member r = some x ∧
         (m.region = none → m.core ≠ none → N.mem = s.m.mem) ∧
         (∀ b ∈ N.bars, ∀ z ∈ b.arrived ++ b.passed, z.1 ≠ r) ∧
         x.lastPos = (m.nest.map (·.committed)).getD m.lastPos ∧
         (∀ st, (x.str st).running = false ∧ (x.str st).inflight = [] ∧ (x.str st).wait = none ∧
           (x.str st).untimed = none) ∧
         x.handler = none ∧ x.escalated = none ∧ x.nest = none ∧ x.region = none ∧ x.owed = [] ∧ x.raised = [] ∧
         x.slots = Vector.replicate 32 LSlot.empty ∧ (∀ c ∈ x.cmds, c.finished = true) ∧ x.tiles = m.tiles ∧
         ∀ q, q ≠ r → N.member q = s.m.member q) ∧
     (∀ tcb n, m.task = some (tcb, n) →
       ∃ M x, M.member r = some x ∧ x.task = none ∧ x.handler = none ∧ x.escalated = none ∧ x.nest = none ∧
         x.region = none ∧ (∀ c ∈ x.cmds, c.finished = true) ∧ x.tiles = m.tiles ∧
         (m.region = none → m.core ≠ none → M.mem = s.m.mem) ∧
         (∀ st, (x.str st).running = false ∧ (x.str st).inflight = [] ∧ (x.str st).wait = none) ∧
         Becomes (.endTheIteration r) s
           (raiseOnce
             (failTask
               (updTask M r.part tcb fun t =>
                 { t with running := t.running.filter fun y => y != (n, r), failed := some 4 })
               r.part tcb 4)
             1 (.chunkDispatch r.part m.die)))) ∧
  (∀ (s : State) (part ctx : Nat),
     ∃ N, Becomes (.endTheContext part ctx) s N ∧ (∀ q ∈ N.members, ¬(q.ref.part = part ∧ q.ref.ctx = ctx)) ∧
       (∀ p, N.part part = some p → ∀ c ∈ p.ctxs, c.id ≠ ctx) ∧
       ∀ b ∈ N.bars, ∀ x ∈ b.arrived, ¬(x.1.part = part ∧ x.1.ctx = ctx)) ∧
  (∀ s : State,
     (∀ die, die ∈ s.m.liveDies →
       ∃ N, Becomes (.dieFence die) s N ∧ die ∉ N.liveDies ∧
         (∀ m ∈ N.members, m.core.map (· / 32) ≠ some die) ∧
         ∀ m ∈ s.m.members, m.core.map (· / 32) = some die → ∀ p c, p ∈ s.m.parts → p.id = m.ref.part → p.owns die = true →
           c ∈ p.ctxs → c.id = m.ref.ctx → ∀ q ∈ N.members, ¬(q.ref.part = m.ref.part ∧ q.ref.ctx = m.ref.ctx)) ∧
     (∀ die, die ∉ s.m.liveDies → Becomes (.dieFence die) s s.m) ∧
     (∀ part dies key p, s.m.part part = some p → p.idle s.m = false → Becomes (.partitionChange part dies key) s s.m) ∧
     (∀ part dies key, 1 ≤ dies → partShape s.m part dies = false → Becomes (.partitionChange part dies key) s s.m) ∧
     (∀ part key p, s.host.boot = .ready → s.m.part part = some p → p.dies ≠ 0 → p.idle s.m = true →
       ∃ N, Becomes (.partitionChange part 0 key) s N ∧ N.part part = none) ∧
     (∀ part dies key p, s.host.boot = .ready → s.m.part part = some p → p.idle s.m = true → 1 ≤ dies →
       p.id + p.dies ≤ 8 → partShape s.m part dies = true →
       ∃ N q, Becomes (.partitionChange part dies key) s N ∧ N.part part = some q ∧ q.dies = dies ∧ q.key = key ∧
         (dies ≠ p.dies → q.exports = []) ∧ (key ≠ 0 → key ≠ p.key → q.exports = [] ∧ q.ctxs = [])) ∧
     (∀ part dies key, s.host.boot = .ready → s.m.part part = none → 1 ≤ dies → partShape s.m part dies = true →
       ∃ N p, Becomes (.partitionChange part dies key) s N ∧ N.part part = some p ∧ p.dies = dies ∧ p.key = key ∧
         p.exports = [] ∧ p.regions = [] ∧ p.tasks = [] ∧ p.ctxs = [] ∧ p.ptroot = 0 ∧ p.hrcfg = 0))

/-! ### Packets and the host side -/

/-- RD, WR, ATOM and ARRIVE in their turn: refused with their admission's code, an error for a poisoned block, and
else the bytes are answered, stored, combined with the old value answered, or delivered to their tile, a full
queue asking for another try and an unknown tile refused (R27, R253, R422, R424, R425). QOP and OBJ in their turn:
refused with their admission's code, an error for a poisoned block, and else the operation enters the home's
junctions, the control function is performed and answered, or the object operation is performed and answered, with
its trap's cause where it has one, and an ACQ that must wait is kept, tested again as the packet comes up again, and
gone once it is withdrawn (R95, R117, R119, R121, R259, R422, R425; the packet of a withdrawal and the window of a
remote queue operation are the model's, assumptions 39 and 40). RSP in its turn answers the request it names or fails
it with its code, and of a posted packet takes the refusal, an arrival's 0x24 sending it again 64 cycles later; OPEN,
the first packet of a pair, is answered by OPENACK, OPENACK opens the connection and lets waiting packets leave; an
ACK alone takes its acknowledgement; CLOSE tears the connection down (R420, R422, R423, R424). A packet for another device is routed, a malformed one is logged, one without a
connection is dropped, one that comes before its turn is kept once, and one that was performed already is not
performed again and its acknowledgement is due once more (R417, R419, R422). What the clock does to connections:
an acknowledgement that is owed goes out alone, or waits for a queue operation not yet served, an unacknowledged packet goes out again every 16,384 cycles and
after 64 tries its connection is torn down, which tells the other side by CLOSE; tiles still being filled after
2^26 cycles without a packet are aborted; a refused arrival goes out again (R422 to R424). The router sends a
packet in transit by a permitted port, charged to its partition, or keeps it until the next period when the link's
budget is spent and no slack lends it the port, after packets in transit from other devices; one for which no
permitted port came up is dropped; a port comes up when both lanes train and the
far end agrees, and goes down, packets looking for another port, when its link fails; FABCFG is the firmware's to
write until a port has trained (R415, R416, R419, R426). Model's choices: CLOSE, HOPS and a duplicate acknowledged again
(log 16), the words of a log line (log 8), the routes (log 27), FABCFG's MYROW (log 44), the 64 cycles of a back-off (log 49),
and a packet that waits 16 cycles while it reaches a stack that switches (log 47). -/
def Obligations.PacketsActInTheirTurn : Prop :=
  (∀ (s : State) (p : Packet) (c : Conn),
     InTurn s.m p c →
     let M := atTurn s.m c
     let r := (cameBy p)
     let n := p.kspec.toNat % 2 ^ 13
     let port := packetPort p
     (∀ code, p.kind = 0 → admission M p.dprt port p.key .r .read p.addr n = .error code →
       Receives (.rd p) s p c (respond M r p.seq code [])) ∧
     (∀ ps, p.kind = 0 → admission M p.dprt port p.key .r .read p.addr n = .ok ps →
       (homePoison M ps ≠ none → Receives (.rd p) s p c (respond M r p.seq 0x21 [])) ∧
       (homePoison M ps = none →
         Receives (.rd p) s p c (respond M r p.seq 0 (wrPayload p.addr (homeBytes M ps))))) ∧
     (∀ code, p.kind = 1 → admission M p.dprt port p.key .w .write p.addr n = .error code →
       Receives (.wr p) s p c (respond M r p.seq code [])) ∧
     (∀ ps, p.kind = 1 → admission M p.dprt port p.key .w .write p.addr n = .ok ps →
       Receives (.wr p) s p c (homeWrite M ps (wrBytes p.addr n p.payload))) ∧
     (let bytes := if p.kspec.getLsbD 8 then 8 else 4
     let ws := wordsOf 2 p.payload
     (∀ code, p.kind = 2 → admission M p.dprt port p.key .a .atomic p.addr bytes = .error code →
       Receives (.atom p) s p c (respond M r p.seq code [])) ∧
     (∀ pa l ps, p.kind = 2 → admission M p.dprt port p.key .a .atomic p.addr bytes = .ok ((pa, l) :: ps) →
       (M.poisoned pa l = true → Receives (.atom p) s p c (respond M r p.seq 0x21 [])) ∧
       (M.poisoned pa l = false →
         let old := leNat (M.get pa bytes)
         let new := atomNew (p.kspec.toNat % 256) (p.kspec.getLsbD 8) old (recW ws 0) (recW ws 1)
         Receives (.atom p) s p c (respond (M.put pa (leBytes bytes new)) r p.seq 0 (beat [w64 old]))))) ∧
     (keyOk M p.dprt p.key = false → Receives (.arrive p) s p c (respond M r p.seq 0x07 [])) ∧
     (keyOk M p.dprt p.key = true → ∀ N d, deliver M (packetArrival r p) = (N, d) →
       (d = .taken → Receives (.arrive p) s p c N) ∧
       (d = .again → Receives (.arrive p) s p c (respond N r p.seq 0x24 [])) ∧
       (d = .unknown → Receives (.arrive p) s p c (respond N r p.seq 0x23 [])))) ∧
  (∀ (s : State) (p : Packet) (c : Conn),
     InTurn s.m p c →
     let M := atTurn s.m c
     let r := (cameBy p)
     let k := p.kspec.toNat
     (let ak : AKind := if bitOf k 15 then .atomic else if bitOf k 14 then .queuePop else .queuePush
     (∀ code, p.kind = 4 → admission M p.dprt (packetPort p) p.key .q ak p.addr 64 = .error code →
       Receives (.qop p) s p c (respond M r p.seq code [])) ∧
     (∀ pa l ps, p.kind = 4 → admission M p.dprt (packetPort p) p.key .q ak p.addr 64 = .ok ((pa, l) :: ps) →
       (M.poisoned pa 64 = true → Receives (.qop p) s p c (respond M r p.seq 0x21 [])) ∧
       (M.poisoned pa 64 = false → bitOf k 15 = false →
         Receives (.qop p) s p c
           (arriveAt { M with nextId := M.nextId + 1, free := M.free + 1 }
             { packetOp M p with route := farRoute ((paDie pa).getD 0) })) ∧
       (M.poisoned pa 64 = false → bitOf k 15 = true →
         let fn : QFn := if fld k 0 2 = 0 then .en else if fld k 0 2 = 1 then .dis else .cnt
         (∀ N v, homeCtl M p.dprt pa p.addr fn = .ok (N, v) →
           Receives (.qop p) s p c (respond N r p.seq 0 (beat [v, 0]))) ∧
         (∀ cause, homeCtl M p.dprt pa p.addr fn = .error cause →
           Receives (.qop p) s p c (respond M r p.seq 0 (beat [0, w64 cause])))))) ∧
     (p.kind = 5 → (∀ x ∈ c.serving, x.2 ≠ p) →
       let reach := admission M p.dprt (packetPort p) p.key .a .atomic p.addr 16
       (∀ code, reach = .error code → Receives (.obj p) s p c (respond M r p.seq code [])) ∧
       (∀ pa l ps, reach = .ok ((pa, l) :: ps) → ¬(k % 4 = 3 ∧ bitOf k 30 = false) →
         (M.poisoned pa 16 = true → Receives (.obj p) s p c (respond M r p.seq 0x21 [])) ∧
         (M.poisoned pa 16 = false →
           let holder := leNat ((p.payload.drop 8).take 8)
           let got := if bitOf k 30 then homeRel M pa holder else homeAcq M pa holder (packetAcq p)
           (∀ N v, got = .version N v → Receives (.obj p) s p c (respond N r p.seq 0 (beat [v, 0]))) ∧
           (∀ cause, got = .trap cause → Receives (.obj p) s p c (respond M r p.seq 0 (beat [0, w64 cause]))) ∧
           (∀ x, got = .waits → M.conn r = some x →
             Receives (.obj p) s p c
               (M.setConn { x with serving := x.serving.filter (fun y => y.1 != p.seq) ++ [(p.seq, p)] })))) ∧
       (∀ pa l ps x, reach = .ok ((pa, l) :: ps) → k % 4 = 3 → bitOf k 30 = false → M.conn r = some x →
         let named (y : Nat × Packet) : Bool := y.1 == leNat (p.payload.take 8) && y.2.addr == p.addr
         Receives (.obj p) s p c
           (respond (M.setConn { x with serving := x.serving.filter fun y => !named y }) r p.seq 0
             (beat [0, w01 (x.serving.any named)]))))) ∧
  (∀ (s : State) (p : Packet) (c : Conn),
     s.m.conn (cameBy p) = some c → (∃ x ∈ c.serving, x.2 = p) → ¬(p.kspec.toNat % 4 = 3 ∧ bitOf p.kspec.toNat 30 = false) →
     p.kind = 5 → packetHeld s.m p = false →
     let r := cameBy p
     let M := s.m.setConn { c with serving := c.serving.filter fun x => x.2 != p }
     (∀ code, admission M p.dprt (packetPort p) p.key .a .atomic p.addr 16 = .error code →
       Becomes (.obj p) s (respond M r p.seq code [])) ∧
     (∀ pa l ps, admission M p.dprt (packetPort p) p.key .a .atomic p.addr 16 = .ok ((pa, l) :: ps) →
       M.poisoned pa 16 = false →
       let holder := leNat ((p.payload.drop 8).take 8)
       let got := if bitOf p.kspec.toNat 30 then homeRel M pa holder else homeAcq M pa holder (packetAcq p)
       (∀ N v, got = .version N v → Becomes (.obj p) s (respond N r p.seq 0 (beat [v, 0]))) ∧
       (∀ cause, got = .trap cause → Becomes (.obj p) s (respond M r p.seq 0 (beat [0, w64 cause]))) ∧
       (got = .waits →
         ∃ N x, Becomes (.obj p) s N ∧ N.conn r = some x ∧ (p.seq, p) ∈ x.serving ∧ N.mem = s.m.mem))) ∧
  (∀ (s : State) (p : Packet) (c : Conn),
     (InTurn s.m p c →
       let M := atTurn s.m c
       let r := (cameBy p)
       let n := p.addr % 2 ^ 32
       let code := p.kspec.toNat % 256
       (∀ x o, M.conn r = some x → x.asked.find? (fun y => y.1 == n) = some (n, o) →
         let N := M.setConn { x with asked := x.asked.filter fun y => y.1 != n }
         (code = 0 → Receives (.rsp p) s p c (answerOrigin N o p.payload)) ∧
         (code ≠ 0 → Receives (.rsp p) s p c (failOrigin N o code))) ∧
       (∀ x u, M.conn r = some x → x.asked.find? (fun y => y.1 == n) = none →
         x.unacked.find? (fun y => y.p.seq == n) = some u → code ≠ 0 →
         let y : Conn := { x with unacked := x.unacked.filter fun z => z.p.seq != n }
         (∀ a, code = 0x24 → u.origin = .arrival a →
           Receives (.rsp p) s p c
             ((M.setConn { y with resend := y.resend ++ [(n, a)] }).raise 64 (.arrivalResend r n))) ∧
         ((code ≠ 0x24 ∨ ∀ a, u.origin ≠ .arrival a) →
           Receives (.rsp p) s p c (settleSignals (failOrigin (M.setConn y) u.origin code)))) ∧
       (∀ x, M.conn r = some x → x.asked.find? (fun y => y.1 == n) = none →
         (code = 0 ∨ x.unacked.find? (fun y => y.p.seq == n) = none) → Receives (.rsp p) s p c M) ∧
       (∀ x, M.conn r = some x →
         Receives (.openConn p) s p c (flushWaiting (transmit M x (newPacket M r 7 0 (kspec 1) []) .control) r) ∧
         Receives (.openack p) s p c (flushWaiting (M.setConn { x with state := .open }) r)) ∧
       Receives (.ackOnly p) s p c M) ∧
     (p.dst = s.m.self → packetOk p = true → s.m.conn (cameBy p) = some c →
       (p.kind = 7 → p.kspec.toNat % 16 = 3 →
         let M := s.m.setConn { c with last := s.m.wclk }
         Becomes (.ackOnly p) s (takeAckOnly M c p) ∧
         (seqBefore c.expect p.seq = true → Becomes (.ackOnly p) s M)) ∧
       (c.state = .closed ∨ seqBefore p.seq c.expect = true → Becomes (.close p) s (ackClose s.m p)) ∧
       (c.state ≠ .closed → seqBefore p.seq c.expect = false →
         (p.seq = c.expect ∨ (∃ q ∈ c.early, q.seq = p.seq) →
           Becomes (.close p) s (teardown (ackClose s.m p) (cameBy p))) ∧
         (p.seq ≠ c.expect → (∀ q ∈ c.early, q.seq ≠ p.seq) →
           Becomes (.close p) s (s.m.setConn { c with early := c.early ++ [p], last := s.m.wclk })))) ∧
     (p.dst = s.m.self → packetOk p = true → s.m.conn (cameBy p) = none → Becomes (.close p) s (ackClose s.m p)) ∧
     (∀ waiting, p.dst = s.m.self → packetOk p = true → p.kind = 7 → p.kspec.toNat % 16 = 0 → p.seq = 0 →
       (s.m.conn (cameBy p) = none ∧ waiting = [] ∨
         s.m.conn (cameBy p) = some c ∧ c.state = .closed ∧ waiting = c.waiting) →
       let k : Conn := { Conn.fresh (cameBy p) .open with waiting := waiting }
       let M := atTurn (s.m.setConn k) k
       ∀ x, M.conn (cameBy p) = some x →
         Becomes (.openConn p) s
           (afterTurn (flushWaiting (transmit M x (newPacket M (cameBy p) 7 0 (kspec 1) []) .control) (cameBy p)) p k))) ∧
  (∀ (s : State) (p : Packet) (e : Instr),
     packetRow e p → (∀ c, s.m.conn (cameBy p) = some c → ∀ x ∈ c.serving, x.2 ≠ p) →
     (p.dst ≠ s.m.self → Becomes e s (route s.m { p with hops := p.hops + 1 })) ∧
     (p.dst = s.m.self → packetOk p = false → Becomes e s (s.m.logDev (0xF000 + p.sprt) p.addr)) ∧
     (p.dst = s.m.self → packetOk p = true → s.m.conn (cameBy p) = none → ¬(p.kind = 7 ∧ p.kspec.toNat % 16 = 0 ∧ p.seq = 0) →
       Becomes e s s.m) ∧
     (∀ c, p.dst = s.m.self → packetOk p = true → s.m.conn (cameBy p) = some c →
       ¬(p.kind = 7 ∧ (p.kspec.toNat % 16 = 0 ∨ p.kspec.toNat % 16 = 3)) →
       let M := s.m.setConn { c with last := s.m.wclk }
       (rspFits c p = false → Becomes e s (s.m.logDev (0xF000 + p.sprt) p.addr)) ∧
       (rspFits c p = true → c.state = .closed → Becomes e s M) ∧
       (rspFits c p = true → c.state ≠ .closed → p.seq = c.expect → packetHeld s.m p = true →
         Becomes e s (M.raise 16 (packetEvent p)))) ∧
     (∀ c, p.dst = s.m.self → packetOk p = true → s.m.conn (cameBy p) = some c →
       ¬(p.kind = 7 ∧ (p.kspec.toNat % 16 = 0 ∨ p.kspec.toNat % 16 = 3)) → rspFits c p = true → c.state ≠ .closed →
       p.seq ≠ c.expect →
       (seqBefore c.expect p.seq = true → (∀ q ∈ c.early, q.seq ≠ p.seq) →
         Becomes e s (s.m.setConn { c with early := c.early ++ [p], last := s.m.wclk })) ∧
       (seqBefore c.expect p.seq = false → seqBefore p.seq c.expect = true →
         Becomes e s
           ((s.m.setConn { c with acked := p.seq, last := s.m.wclk }).raise 256 (.ackIdleTimeout (cameBy p)))))) ∧
  (∀ (s : State) (r : ConnRef) (k : Conn),
     s.m.conn r = some k →
     (k.acked ≠ k.ackNo s.m → Becomes (.ackIdleTimeout r) s (sendAck s.m k)) ∧
     (k.acked = k.ackNo s.m → k.acked ≠ k.expect →
       Becomes (.ackIdleTimeout r) s (s.m.raise 256 (.ackIdleTimeout r))) ∧
     (k.acked = k.ackNo s.m → k.acked = k.expect → Becomes (.ackIdleTimeout r) s s.m) ∧
     (∀ seq u, k.unacked.find? (fun x => x.p.seq == seq) = some u →
       (64 ≤ u.tries → Becomes (.retransmitTimeout r seq) s (s.m.raise 1 (.teardown r))) ∧
       (u.tries < 64 →
         let p := { u.p with ack := k.ackNo s.m }
         let k' :=
           { k with
             acked := k.ackNo s.m
             unacked := updIf (fun x => x.p.seq == seq) (fun x => { x with p := p, tries := x.tries + 1 }) k.unacked }
         Becomes (.retransmitTimeout r seq) s
           (route ((s.m.setConn k').raise 16384 (.retransmitTimeout r seq)) p))) ∧
     (k.state = .closed → Becomes (.teardown r) s (endClose s.m r)) ∧
     (k.state ≠ .closed →
       Becomes (.teardown r) s
         (transmit (teardown s.m r) { Conn.fresh r .closed with nextSeq := k.nextSeq, expect := k.expect }
           (newPacket s.m r 7 0 (kspec 2) []) .control)) ∧
     (k.filling ≠ [] → s.m.wclk < k.last + 2 ^ 26 →
       Becomes (.fillingIdleTimeout r) s (s.m.raise (k.last + 2 ^ 26 - s.m.wclk) (.fillingIdleTimeout r))) ∧
     (k.filling ≠ [] → k.last + 2 ^ 26 ≤ s.m.wclk →
       Becomes (.fillingIdleTimeout r) s
         (k.filling.foldl (fun M x => M.raise 1 (.abortEvent x.1 x.2)) (s.m.setConn { k with filling := [] }))) ∧
     (∀ seq a, k.resend.find? (fun x => x.1 == seq) = some (seq, a) →
       Becomes (.arrivalResend r seq) s
         (settleSignals
           (moveMarks (sendArrival (s.m.setConn { k with resend := k.resend.filter fun x => x.1 != seq }) r.dev a) r
             seq)))) ∧
  (∀ s : State,
     (∀ p port, p ∈ s.m.transit → port ∈ permittedPorts s.m p →
       (transitFirst s.m p port = true →
         Becomes (.packetForward p port) s (s.m.raise 1 (.packetForward p port))) ∧
       (transitFirst s.m p port = false → linkSpent s.m p port = true → linkLent s.m p port = false →
         let period := ((s.m.part p.sprt).map fun q => wf q.schcfg 0 17).getD 4096
         Becomes (.packetForward p port) s
           ((needPeriod s.m p.sprt).raise (max 1 period) (.packetForward p port))) ∧
       (p.src ≠ s.m.self →
         Becomes (.packetForward p port) s
           { s.m with
             transit := dropFirst (fun x => x == p) s.m.transit
             sent := s.m.sent ++ [p] }) ∧
       (p.src = s.m.self → transitFirst s.m p port = false → linkSpent s.m p port = false ∨ linkLent s.m p port = true →
         injectNext s.m p port ≠ some p.sprt →
         Becomes (.packetForward p port) s (s.m.raise 1 (.packetForward p port))) ∧
       (p.src = s.m.self → transitFirst s.m p port = false → linkSpent s.m p port = true → linkLent s.m p port = true →
         injectNext s.m p port = some p.sprt →
         Becomes (.packetForward p port) s
           { needPeriod s.m p.sprt with
             transit := dropFirst (fun x => x == p) s.m.transit
             injTurn := aSet s.m.injTurn port p.sprt
             sent := s.m.sent ++ [p] }) ∧
       (p.src = s.m.self → transitFirst s.m p port = false → linkSpent s.m p port = false →
         injectNext s.m p port = some p.sprt →
         ∃ N, Becomes (.packetForward p port) s N ∧ N.transit = dropFirst (fun x => x == p) s.m.transit ∧
           N.sent = s.m.sent ++ [p] ∧ N.injTurn = aSet s.m.injTurn port p.sprt ∧
           ∀ q, s.m.part p.sprt = some q → ∃ x, N.part p.sprt = some x ∧
             aGet x.lnkUsed port = some ((aGet q.lnkUsed port).getD 0 + packetUnits p))) ∧
     (∀ p, permittedPorts s.m p = [] →
       Becomes (.routerWaitExpiry p) s { s.m with transit := dropFirst (fun x => x == p) s.m.transit }) ∧
     (∀ port rows cols peer, port < 62 → (portPeer s.m.self port).row < podRows s.m →
       (portPeer s.m.self port).col < podCols s.m →
       let agrees := rows + 1 = podRows s.m ∧ cols + 1 = podCols s.m ∧ peer = portPeer s.m.self port
       let e : Instr := .portTraining port true rows cols peer
       (agrees → Becomes e s (rerouteAll { s.m with trained := true, portup := insertNat port s.m.portup })) ∧
       (¬agrees →
         Becomes e s
           (({ s.m with trained := true, portup := s.m.portup.filter fun q => q != port } : Mach).logDev
             (0xF000 + port) (peer.row * 32 + peer.col)))) ∧
     (∀ port rows cols peer, Becomes (.portTraining port false rows cols peer) s s.m) ∧
     (∀ port lanes rows cols peer,
       (62 ≤ port ∨ podRows s.m ≤ (portPeer s.m.self port).row ∨ podCols s.m ≤ (portPeer s.m.self port).col) →
       Becomes (.portTraining port lanes rows cols peer) s s.m) ∧
     (∀ port, Becomes (.linkReplayFailure port) s
       (rerouteAll { s.m with portup := s.m.portup.filter fun q => q != port })) ∧
     (∀ ag v,
       let ok := ag = .fw ∧ s.m.trained = false ∧ wf v 25 5 ≤ wf v 35 5 ∧ wf v 20 5 ≤ wf v 30 5 ∧ wf v 16 2 < 2
       (¬ok → Becomes (.fabcfgWrite ag v) s (s.m.logDev 0xF100 v.toNat)) ∧
       (ok → v &&& 0x000000FFFFF30100 = v → Becomes (.fabcfgWrite ag v) s { s.m with fabcfg := v }) ∧
       (ok → v &&& 0x000000FFFFF30100 ≠ v →
         Becomes (.fabcfgWrite ag v) s
           (({ s.m with fabcfg := v &&& 0x000000FFFFF30100 } : Mach).logDev 0xF100 v.toNat))))

/-- CLAIM of an unowned device and RENEW by its owner before the lease's end give a lease of 100 ms, HANDOVER gives it
to another agent; each by anyone else changes nothing but the log; from a lease's end on the device has no owner
(R434). Power and boot: a device without power does nothing but power up; power-up and DEVRST leave the
device clearing with its fuses kept, DEVRST its links too; clearing ends with every byte zero; BOOTCTL.GO from
IDLE starts verification, which ends in a failure's state or raises the fuse, copies the payload and starts the firmware, which forms one
partition of eight dies with key 0 and leaves READY (the event that stands for its end is the model's, assumption
44); power-down keeps only the fuses (R435, R436, R437, R439). Attestation, power and
PCIe: ATTGO takes the writer's nonce and the report on it follows; a window above the limit, or a reading at a
hardware limit, throttles every core on the device without changing its architectural state, a window within it
ends throttling, and 115 degrees trip; a port trains at a generation both ends support; the owner's port writes
bytes through its windows where every byte exists and its core provides it, and what another writes there, or anyone while
the device is clearing, is ignored and logged (R431, R432, R435, R438, R439, R152). Model's choices: that DEVRST keeps the
links, that a window within the limit ends throttling and the cycles of a lease (log 18), the units and codes of the host log
(log 8). Cryptography is uninterpreted (log 28), so no concrete image is shown to verify. -/
def Obligations.TheHostOwnsBootsAndReads : Prop :=
  (∀ (s : State) (ag : RegAgent),
     s.host.powered = true →
     let owned (a : RegAgent) : State :=
       { host := { s.host with owner := some a, lease := s.m.wclk + 94000000 }, m := s.m.raise 94000000 .leaseExpiry }
     let owner := s.host.ownerAt s.m.wclk
     (owner = none → ag.code ≠ 0 → exec (.claim ag) s = .next (owned ag)) ∧
     (owner ≠ none ∨ ag.code = 0 → exec (.claim ag) s = .next (s.logHost 0 1)) ∧
     (owner = some ag → exec (.renew ag) s = .next (owned ag)) ∧
     (owner ≠ some ag → exec (.renew ag) s = .next (s.logHost 0 2)) ∧
     (∀ (succ : BitVec 2) heir,
       (succ = 1#2 ∧ heir = .port0) ∨ (succ = 2#2 ∧ heir = .port1) ∨ (succ = 3#2 ∧ heir = .mc) →
       (owner = some ag → heir ≠ ag → exec (.handover ag succ) s = .next (owned heir)) ∧
       (owner ≠ some ag ∨ heir = ag → exec (.handover ag succ) s = .next (s.logHost 0 3))) ∧
     (exec (.handover ag 0#2) s = .next (s.logHost 0 3)) ∧
     (s.host.owner ≠ none → s.host.lease ≤ s.m.wclk →
       exec .leaseExpiry s = .next { s with host := { s.host with owner := none, lease := 0 } }) ∧
     (s.m.wclk < s.host.lease → exec .leaseExpiry s = .next s) ∧
     (owner = if s.m.wclk < s.host.lease then s.host.owner else none)) ∧
  (∀ (s : State),
     let again : Mach := { State.reset.m with agenda := s.m.agenda, free := s.m.free }
     (s.host.powered = false → ∃ t, exec .powerUp s = .next t ∧ t.m = again ∧ t.host.boot = .clearing ∧
       t.host.powered = true ∧ t.host.arb = s.host.arb ∧ t.host.owner = none ∧ t.host.limw = 7000) ∧
     (s.host.powered = true → exec .powerUp s = .next s) ∧
     (∃ t, exec .powerDown s = .next t ∧ t.host.powered = false ∧ t.host.arb = s.host.arb ∧ t.m.pending = [] ∧
       t.m.mem = [] ∧ t.m.parts = [] ∧ t.m.members = []) ∧
     (s.host.powered = true →
       (s.host.boot = .clearing →
         exec .clearingComplete s =
           .next { host := { s.host with boot := .idle }, m := { s.m with mem := [], poison := [] } }) ∧
       (∀ ag, s.host.ownerAt s.m.wclk = some ag → s.host.boot.isIdle = true →
         exec (.bootctlGo ag) s =
           .next
             { host := { s.host with boot := .verifying, go := true }
               m := s.m.raise 1 .verificationComplete }) ∧
       (∀ ag, s.host.ownerAt s.m.wclk ≠ some ag ∨ s.host.boot.isIdle = false →
         exec (.bootctlGo ag) s = .next (s.logHost 0x10 1)) ∧
       (s.host.boot = .verifying →
         (verifyImage s.m s.host.arb ≠ .ready →
           exec .verificationComplete s =
             .next { s with host := { s.host with boot := verifyImage s.m s.host.arb, go := false } }) ∧
         (verifyImage s.m s.host.arb = .ready →
           ∃ t, exec .verificationComplete s = .next t ∧ t.m = s.m.raise 1 .verificationComplete ∧
             t.host.boot = .starting ∧ t.host.go = false ∧ t.host.arb = max s.host.arb (leNat (s.m.get 0xC 4)) ∧
             t.host.svn = leNat (s.m.get 8 4) ∧ t.host.cpmem = s.m.get 1024 (leNat (s.m.get 0x10 8)) ∧
             t.host.cpEntry = some (leNat (s.m.get 0x18 8)))) ∧
       (s.host.boot = .starting →
         ∃ t, exec .verificationComplete s = .next t ∧ t.m = formPart s.m 0 8 0 ∧
           t.host = { s.host with boot := .ready } ∧ ∃ p, t.m.part 0 = some p ∧ p.dies = 8 ∧ p.key = 0) ∧
       (s.host.boot ≠ .verifying → s.host.boot ≠ .starting → exec .verificationComplete s = .next s) ∧
       (∀ ag v, s.host.ownerAt s.m.wclk = some ag → v = 0x52535444 →
         ∃ t, exec (.devrst ag v) s = .next t ∧ t.m = again ∧ t.host.boot = .clearing ∧
           t.host.arb = s.host.arb ∧ t.host.links = s.host.links ∧ t.host.owner = none) ∧
       (∀ ag v, s.host.ownerAt s.m.wclk ≠ some ag ∨ v ≠ 0x52535444 →
         exec (.devrst ag v) s = .next (s.logHost 0x20 v)))) ∧
  (∀ (s : State),
     s.host.powered = true →
     (∀ ag k, agentIdx ag = some k → s.host.attgo = none →
       exec (.attgo ag) s =
         .next
           { host := { s.host with attgo := some (s.host.attn.getD k []) }
             m := s.m.raise 1 .attestationReport }) ∧
     (∀ nonce, s.host.attgo = some nonce →
       exec .attestationReport s =
         .next { s with host := { s.host with attgo := none, report := makeReport s.host s.m nonce } }) ∧
     (∀ e : Instr,
       (∃ w, e = .powerWindow w ∧ s.host.limw < w) ∨
         (∃ w a t, e = .limitReached w a t ∧ (8000 ≤ w ∨ 16000 ≤ a ∨ 100 ≤ t)) →
       ∃ u, exec e s = .next u ∧ u.host = { s.host with throttled := true } ∧ u.m.mem = s.m.mem ∧
         u.m.parts = s.m.parts ∧ u.m.wclk = s.m.wclk ∧
         ∀ r m, s.m.member r = some m →
           ∃ x, u.m.member r = some x ∧ x = { m with skew := x.skew } ∧
             (m.core.isSome = true → m.skew < x.skew) ∧ (m.core = none → x = m)) ∧
     (∀ w, w ≤ s.host.limw →
       exec (.powerWindow w) s = .next { s with host := { s.host with throttled := false } }) ∧
     (∀ w a t, w < 8000 → a < 16000 → t < 100 → exec (.limitReached w a t) s = .next s) ∧
     (∀ t, 115 ≤ t → exec (.thermalTrip t) s = .next { s with host := { s.host with trip := true } }) ∧
     (∀ t, t < 115 → exec (.thermalTrip t) s = .next s) ∧
     (∀ port gen x16, port < 2 → 5 ≤ gen → gen ≤ 7 →
       exec (.pcieLinkTraining port gen x16) s =
         .next { s with host := { s.host with links := s.host.links.set port (some ⟨gen, x16⟩) } }) ∧
     (∀ boot off n,
       let pa := if boot then off else s.host.apbase * 0x400000000 + off
       let reached := off + n ≤ (if boot then 0x10000000 else 0x400000000) ∧
         ∀ i < n, paExists (pa + i) = true ∧ windowOk s.m (pa + i) = true ∧ fenced s.m (pa + i) = false
       (reached →
         windowRead s boot off n = (if s.m.poisoned pa n then none else some (s.m.get pa n)) ∧
         ∀ ag bs, bs.length = n → n ≠ 0 → ag = .port0 ∨ ag = .port1 → s.host.ownerAt s.m.wclk = some ag →
           s.host.boot ≠ .clearing → (boot = true → s.host.boot.isIdle = true) →
           (pa < 0x10000000 → s.host.boot ≠ .ready → s.host.boot.isIdle = true) →
           exec (.apertureWrite ag boot off bs) s = .next { s with m := s.m.put pa bs }) ∧
       (¬reached →
         windowRead s boot off n = none ∧
         ∀ ag bs, bs.length = n → n ≠ 0 →
           exec (.apertureWrite ag boot off bs) s = .next (s.logHost (if boot then 0x40000 else 0x50000) (w64 off)))) ∧
     (∀ ag boot off bs, bs ≠ [] →
       (s.host.ownerAt s.m.wclk ≠ some ag ∨ s.host.boot = .clearing ∨ boot = true ∧ s.host.boot.isIdle = false) →
       exec (.apertureWrite ag boot off bs) s = .next (s.logHost (if boot then 0x40000 else 0x50000) (w64 off))))

/-! ### The frame of the words that change registers only, and exact residues -/

/-- An integer, division, FP32, branch, jump, call, return or NOP word puts its one result on its way, if it has one,
and changes nothing else: every byte of memory, every partition, every other member, the host side, every other
stream, and of its own stream every register, the latch and every loop register but the counts stay; no trap is
raised and the trap registers, tiles, queues, mailboxes, handles and counters stay (R147, R149, R160, R231 to
R239). -/
def Obligations.RegisterWordsLeaveTheRest : Prop :=
  ∀ (i : Instr) (s : State) (k : Cur) (m : Member) (rs : List (Nat × Dst × Word)),
    Issues i s k m → m.raised = [] → registerResults i (k.ctx s.m m) = some rs →
    let c := k.ctx s.m m
    ∃ t x, exec i s = .next t ∧ t.host = s.host ∧ t.m.mem = s.m.mem ∧ t.m.poison = s.m.poison ∧
      t.m.parts = s.m.parts ∧ t.m.pending = s.m.pending ∧ t.m.cores = s.m.cores ∧
      (∀ r, r ≠ m.ref → t.m.member r = s.m.member r) ∧ t.m.member m.ref = some x ∧
      OnlyStream c.mem x k.st ∧
      (x.str k.st).inflight =
        ((m.str k.st).settle c.t).inflight ++ rs.map fun r => (⟨c.t + r.1, c.t, [(r.2.1, r.2.2)], false, none⟩ : InFlight)

/-- RN3 numbers: encoding an integer of the signed range sets each field to its residue, the Chinese-remainder sum
reads an element back, after bits [63:40] are dropped and each field is reduced; every integer of the range is
read back as itself; addition, subtraction and multiplication act field by field and give the canonical encoding
of the true result reduced into the signed range modulo M (R199; R197 and R198 for the fields and the canonical
form). -/
def Obligations.ResidueArithmeticIsExact : Prop :=
  let M : Int := 549755805696
  let inRange (v : Int) : Prop := -274877902848 ≤ v ∧ v ≤ 274877902847
  let f0 (x : Nat) : Nat := x % 8192 % 8191
  let f1 (x : Nat) : Nat := x / 2 ^ 13 % 8192
  let f2 (x : Nat) : Nat := x / 2 ^ 26 % 16384 % 8193
  let canonical (x : Nat) : Prop := x < 2 ^ 40 ∧ x % 8192 ≤ 8190 ∧ x / 2 ^ 26 ≤ 8192
  let fields (z : Nat) (g : Nat → Nat → Nat) (x y : Nat) : Prop :=
    f0 z = g (f0 x) (f0 y) % 8191 ∧ f1 z = g (f1 x) (f1 y) % 8192 ∧ f2 z = g (f2 x) (f2 y) % 8193
  (∀ v, inRange v →
    canonical (rnEnc v) ∧ (f0 (rnEnc v) : Int) = v % 8191 ∧ (f1 (rnEnc v) : Int) = v % 8192 ∧
      (f2 (rnEnc v) : Int) = v % 8193 ∧ rnVal (rnEnc v) = v) ∧
  (∀ x : Nat,
    let u := (f0 x * 274911461376 + f1 x * 549688696833 + f2 x * 274911453184) % 549755805696
    rnVal x = (if 274877902848 ≤ u then (u : Int) - M else u) ∧ inRange (rnVal x) ∧ rnVal (x % 2 ^ 40) = rnVal x ∧
      (canonical x → rnEnc (rnVal x) = x)) ∧
  (∀ x y,
    (canonical (rnAdd x y) ∧ fields (rnAdd x y) (· + ·) x y ∧ (rnVal (rnAdd x y) - (rnVal x + rnVal y)) % M = 0) ∧
    (canonical (rnSub x y) ∧ fields (rnSub x y) (fun a b => a + 8191 * 8192 * 8193 - b) x y ∧
      (rnVal (rnSub x y) - (rnVal x - rnVal y)) % M = 0) ∧
    (canonical (rnMul x y) ∧ fields (rnMul x y) (· * ·) x y ∧ (rnVal (rnMul x y) - rnVal x * rnVal y) % M = 0))
end

