-- ==== Sys2Proof/Laws/Codes.lean ====
section
/-!
SUPPORT. Fields and formats read back: every code decodes to what it encodes, every format's body to its fields.
-/

namespace Sys2Proof

@[simp] theorem Scope.ofCode_code (s : Scope) : Scope.ofCode s.code = some s := by cases s <;> rfl

@[simp] theorem Reg.ofCode_code (r : Reg) : Reg.ofCode r.code = some r := by
  cases r with
  | s n => revert n; decide
  | o n => revert n; decide
  | _ => rfl

@[simp] theorem Reg.code_ne_imm (r : Reg) : r.code ≠ 193#8 := by
  cases r with
  | s n => revert n; decide
  | o n => revert n; decide
  | _ => decide

@[simp] theorem Dst.ofCode_code (d : Dst) : Dst.ofCode d.code = some d := by
  cases d with
  | s n => revert n; decide
  | o n => revert n; decide
  | none => rfl

@[simp] theorem FileReg.ofCode_code (d : FileReg) : FileReg.ofCode d.code = some d := by
  cases d with
  | s n => revert n; decide
  | o n => revert n; decide

/-- A source reads back from its own immediate. -/
@[simp] theorem Src.ofCode_code (x : Src) : Src.ofCode x.imm16 x.code = some x := by
  cases x with
  | reg r => simp [Src.ofCode, Src.code]
  | imm v => simp [Src.ofCode, Src.code, Src.imm16]

/-- The first of two sources reads back from their common immediate. -/
@[simp] theorem Src.ofCode_left (x y : Src) : Src.ofCode (immOf x y) x.code = some x := by
  cases x with
  | reg r => simp [Src.ofCode, Src.code]
  | imm v => simp [Src.ofCode, Src.code, immOf]

/-- So does the second, where two immediates are one. -/
theorem Src.ofCode_right (x y : Src) (h : srcPairOk x y = true) : Src.ofCode (immOf x y) y.code = some y := by
  cases y with
  | reg r => simp [Src.ofCode, Src.code]
  | imm w =>
    cases x with
    | reg r => simp [Src.ofCode, Src.code, immOf, Src.imm16]
    | imm v => simpa [Src.ofCode, Src.code, immOf, srcPairOk] using h

@[simp] theorem Csr.ofNum_num (n : Csr) : Csr.ofNum n.num = some n := by cases n <;> rfl

@[simp] theorem Cond.ofCode_code (c : Cond) : Cond.ofCode c.code = some c := by cases c <;> rfl

@[simp] theorem Size.ofCode_code (z : Size) : Size.ofCode z.code = some z := by cases z <;> rfl

@[simp] theorem AOrd.ofCode_code (o : AOrd) : AOrd.ofCode o.code = some o := by
  cases o with
  | rlx => rfl
  | _ s => cases s <;> rfl

@[simp] theorem ScType.ofCode_code (t : ScType) : ScType.ofCode t.code = some t := by cases t <;> rfl

@[simp] theorem CType.ofCode_code (t : CType) : CType.ofCode t.code = some t := by cases t <;> rfl

@[simp] theorem Pool.ofCode_code (p : Pool) : Pool.ofCode p.code = p := by cases p <;> rfl

@[simp] theorem VType.ofCode_code (t : VType) : VType.ofCode t.code = t := by cases t <;> rfl

@[simp] theorem VMod.ofCode_code (m : VMod) : VMod.ofCode m.code = m := by
  obtain ⟨a, b, c, d⟩ := m
  cases a <;> cases b <;> cases c <;> cases d <;> rfl

@[simp] theorem Stages.ofCode_code (s : Stages) : Stages.ofCode s.code = s := by
  obtain ⟨a, b, c, d⟩ := s
  cases a <;> cases b <;> cases c <;> cases d <;> rfl

@[simp] theorem Disc.ofBit_code (d : Disc) : (if d.code[0] = true then Disc.stack else .bag) = d := by cases d <;> rfl

/-! ### Pieces of a concatenation -/

/-- The high part. -/
theorem extract_above {n m : Nat} (x : BitVec n) (y : BitVec m) (lo len : Nat) (h : m ≤ lo) :
    (x ++ y).extractLsb' lo len = x.extractLsb' (lo - m) len := by
  ext i hi
  have : ¬ lo + i < m := by omega
  simp [BitVec.getElem_extractLsb', BitVec.getLsbD_append, this]
  congr 1; omega

/-- The low part. -/
theorem extract_below {n m : Nat} (x : BitVec n) (y : BitVec m) (lo len : Nat) (h : lo + len ≤ m) :
    (x ++ y).extractLsb' lo len = y.extractLsb' lo len := by
  ext i hi
  have : lo + i < m := by omega
  simp [BitVec.getElem_extractLsb', BitVec.getLsbD_append, this]

/-- A bit of the high part. -/
theorem getLsbD_above {n m : Nat} (x : BitVec n) (y : BitVec m) (i : Nat) (h : m ≤ i) :
    (x ++ y).getLsbD i = x.getLsbD (i - m) := by
  have : ¬ i < m := by omega
  simp [BitVec.getLsbD_append, this]

/-- A bit of the low part. -/
theorem getLsbD_below {n m : Nat} (x : BitVec n) (y : BitVec m) (i : Nat) (h : i < m) :
    (x ++ y).getLsbD i = y.getLsbD i := by
  simp [BitVec.getLsbD_append, h]

@[simp] theorem flag_getLsbD (b : Bool) : (flag b).getLsbD 0 = b := by cases b <;> rfl

@[simp] theorem flag_getElem (b : Bool) : (flag b)[0] = b := by cases b <;> rfl

/-! ### The seven formats (R169) -/

@[simp] theorem readS3_body (d x y fn imm) : readS3 (Fmt.s3 d x y fn imm).body = .s3 d x y fn imm := by
  simp (disch := omega) only [readS3, Fmt.body, extract_above, extract_below]
  simp

@[simp] theorem readSi_body (d fn imm) : readSi (Fmt.si d fn imm).body = .si d fn imm := by
  simp (disch := omega) only [readSi, Fmt.body, extract_above, extract_below]
  simp

@[simp] theorem readBr_body (c x y off) : readBr (Fmt.br c x y off).body = .br c x y off := by
  simp (disch := omega) only [readBr, Fmt.body, extract_above, extract_below]
  simp

@[simp] theorem readMem_body (v b sl ar z o off) : readMem (Fmt.mem v b sl ar z o off).body = .mem v b sl ar z o off := by
  simp (disch := omega) only [readMem, Fmt.body, extract_above, extract_below]
  simp

@[simp] theorem readVec_body (d x y t r m) : readVec (Fmt.vec d x y t r m).body = .vec d x y t r m := by
  simp (disch := omega) only [readVec, Fmt.body, extract_above, extract_below]
  simp

@[simp] theorem readEng_body (a b c d fn) : readEng (Fmt.eng a b c d fn).body = .eng a b c d fn := by
  simp (disch := omega) only [readEng, Fmt.body, extract_above, extract_below]
  simp

@[simp] theorem readSyn_body (x y sc fn) : readSyn (Fmt.syn x y sc fn).body = .syn x y sc fn := by
  simp (disch := omega) only [readSyn, Fmt.body, extract_above, extract_below]
  simp

/-- A word decodes to its instruction once its format reads back and its fields name it. -/
theorem decode_encode {i : Instr} {op : BitVec 8} {f : Fmt} {read : BitVec 46 → Fmt} (idle : BitVec 10)
    (hf : i.fields = (op, f)) (ho : opFormat op.toNat = some read) (hr : read f.body = f)
    (hi : readFields op.toNat f = some i) (hw : i.wf = true) : decode (encode idle i) = .ok i := by
  have h1 : wordOp (encode idle i) = op := by
    simp (disch := omega) only [wordOp, encode, hf, extract_above, extract_below]
    simp
  have h2 : (encode idle i).extractLsb' 0 46 = f.body := by
    simp (disch := omega) only [encode, hf, extract_below]
    simp
  have h3 : wordIdle (encode idle i) = idle := by
    simp (disch := omega) only [wordIdle, encode, hf, extract_above]
    simp
  simp only [decode, h1, h2, h3, ho, hr, hi, hw, Bool.true_and, beq_self_eq_true, if_true]

end Sys2Proof
end

