-- ==== Sys2Proof/Laws/Dispatch.lean ====
section
/-!
SUPPORT. Every constructor's arm as a rewrite: `exec` of an instruction is its meaning, with no case analysis over the
others.
-/

namespace Sys2Proof.Machine

theorem exec_nop (s : State) : exec .nop s = execNop s := rfl

theorem exec_go (s : State) : exec .go s = execGo s := rfl

theorem exec_halt (s : State) : exec .halt s = execHalt s := rfl

theorem exec_trap (x : Src) (s : State) : exec (.trap x) s = execTrap x s := rfl

theorem exec_eret (s : State) : exec .eret s = execEret s := rfl

theorem exec_csrr (d : Dst) (n : Csr) (s : State) : exec (.csrr d n) s = execCsrr d n s := rfl

theorem exec_csrw (n : Csr) (x : Reg) (s : State) : exec (.csrw n x) s = execCsrw n x s := rfl

theorem exec_idem (s : State) : exec .idem s = execIdem s := rfl

theorem exec_idemEnd (s : State) : exec .idemEnd s = execIdemEnd s := rfl

theorem exec_brk (n : BitVec 16) (s : State) : exec (.brk n) s = execBrk n s := rfl

theorem exec_done (s : State) : exec .done s = execDone s := rfl

theorem exec_add (d : Dst) (x y : Src) (s : State) : exec (.add d x y) s = execAdd d x y s := rfl

theorem exec_sub (d : Dst) (x y : Src) (s : State) : exec (.sub d x y) s = execSub d x y s := rfl

theorem exec_mul (d : Dst) (x y : Src) (s : State) : exec (.mul d x y) s = execMul d x y s := rfl

theorem exec_mulh (d : Dst) (x y : Src) (s : State) : exec (.mulh d x y) s = execMulh d x y s := rfl

theorem exec_mulhu (d : Dst) (x y : Src) (s : State) : exec (.mulhu d x y) s = execMulhu d x y s := rfl

theorem exec_div (d : Dst) (x y : Src) (s : State) : exec (.div d x y) s = execDiv d x y s := rfl

theorem exec_divu (d : Dst) (x y : Src) (s : State) : exec (.divu d x y) s = execDivu d x y s := rfl

theorem exec_rem (d : Dst) (x y : Src) (s : State) : exec (.rem d x y) s = execRem d x y s := rfl

theorem exec_remu (d : Dst) (x y : Src) (s : State) : exec (.remu d x y) s = execRemu d x y s := rfl

theorem exec_and (d : Dst) (x y : Src) (s : State) : exec (.and d x y) s = execAnd d x y s := rfl

theorem exec_or (d : Dst) (x y : Src) (s : State) : exec (.or d x y) s = execOr d x y s := rfl

theorem exec_xor (d : Dst) (x y : Src) (s : State) : exec (.xor d x y) s = execXor d x y s := rfl

theorem exec_shl (d : Dst) (x y : Src) (s : State) : exec (.shl d x y) s = execShl d x y s := rfl

theorem exec_shr (d : Dst) (x y : Src) (s : State) : exec (.shr d x y) s = execShr d x y s := rfl

theorem exec_sar (d : Dst) (x y : Src) (s : State) : exec (.sar d x y) s = execSar d x y s := rfl

theorem exec_min (d : Dst) (x y : Src) (s : State) : exec (.min d x y) s = execMin d x y s := rfl

theorem exec_max (d : Dst) (x y : Src) (s : State) : exec (.max d x y) s = execMax d x y s := rfl

theorem exec_minu (d : Dst) (x y : Src) (s : State) : exec (.minu d x y) s = execMinu d x y s := rfl

theorem exec_maxu (d : Dst) (x y : Src) (s : State) : exec (.maxu d x y) s = execMaxu d x y s := rfl

theorem exec_slt (d : Dst) (x y : Src) (s : State) : exec (.slt d x y) s = execSlt d x y s := rfl

theorem exec_sltu (d : Dst) (x y : Src) (s : State) : exec (.sltu d x y) s = execSltu d x y s := rfl

theorem exec_seq (d : Dst) (x y : Src) (s : State) : exec (.seq d x y) s = execSeq d x y s := rfl

theorem exec_sel (d : Dst) (c : BitVec 5) (x y : Src) (s : State) : exec (.sel d c x y) s = execSel d c x y s := rfl

theorem exec_li (d : Dst) (v : BitVec 32) (s : State) : exec (.li d v) s = execLi d v s := rfl

theorem exec_lih (d : Dst) (v : BitVec 32) (s : State) : exec (.lih d v) s = execLih d v s := rfl

theorem exec_clz (d : Dst) (x : Src) (s : State) : exec (.clz d x) s = execClz d x s := rfl

theorem exec_popc (d : Dst) (x : Src) (s : State) : exec (.popc d x) s = execPopc d x s := rfl

theorem exec_bext (d : Dst) (x : Reg) (p : BitVec 6) (n : BitVec 7)
    (s : State) :
    exec (.bext d x p n) s = execBext d x p n s := rfl

theorem exec_bextS (d : Dst) (x : Reg) (p : BitVec 6) (n : BitVec 7)
    (s : State) :
    exec (.bextS d x p n) s = execBextS d x p n s := rfl

theorem exec_bins (d : Dst) (x : Reg) (p : BitVec 6) (n : BitVec 7)
    (s : State) :
    exec (.bins d x p n) s = execBins d x p n s := rfl

theorem exec_madd (d : Dst) (x y : Src) (c : BitVec 5) (s : State) : exec (.madd d x y c) s = execMadd d x y c s := rfl

theorem exec_fopAdd (d : Dst) (x y : Src) (rtz : Bool)
    (s : State) :
    exec (.fopAdd d x y rtz) s = execFopAdd d x y rtz s := rfl

theorem exec_fopSub (d : Dst) (x y : Src) (rtz : Bool)
    (s : State) :
    exec (.fopSub d x y rtz) s = execFopSub d x y rtz s := rfl

theorem exec_fopMul (d : Dst) (x y : Src) (rtz : Bool)
    (s : State) :
    exec (.fopMul d x y rtz) s = execFopMul d x y rtz s := rfl

theorem exec_fopMin (d : Dst) (x y : Src) (s : State) : exec (.fopMin d x y) s = execFopMin d x y s := rfl

theorem exec_fopMax (d : Dst) (x y : Src) (s : State) : exec (.fopMax d x y) s = execFopMax d x y s := rfl

theorem exec_fopEq (d : Dst) (x y : Src) (s : State) : exec (.fopEq d x y) s = execFopEq d x y s := rfl

theorem exec_fopLt (d : Dst) (x y : Src) (s : State) : exec (.fopLt d x y) s = execFopLt d x y s := rfl

theorem exec_fopLe (d : Dst) (x y : Src) (s : State) : exec (.fopLe d x y) s = execFopLe d x y s := rfl

theorem exec_cvtsfIf (d : Dst) (x : Src) (rtz : Bool)
    (s : State) :
    exec (.cvtsfIf d x rtz) s = execCvtsfIf d x rtz s := rfl

theorem exec_cvtsfFi (d : Dst) (x : Src) (rtz : Bool)
    (s : State) :
    exec (.cvtsfFi d x rtz) s = execCvtsfFi d x rtz s := rfl

theorem exec_bc (c : Cond) (x y : Reg) (off : BitVec 24)
    (s : State) :
    exec (.bc c x y off) s = execBc c x y off s := rfl

theorem exec_j (off : BitVec 24) (s : State) : exec (.j off) s = execJ off s := rfl

theorem exec_jr (x : Reg) (off : BitVec 24) (s : State) : exec (.jr x off) s = execJr x off s := rfl

theorem exec_call (d : Dst) (off : BitVec 24) (s : State) : exec (.call d off) s = execCall d off s := rfl

theorem exec_ret (x : Reg) (s : State) : exec (.ret x) s = execRet x s := rfl

theorem exec_loop (k : Bool) (x : Reg) (off : BitVec 24)
    (s : State) :
    exec (.loop k x off) s = execLoop k x off s := rfl

theorem exec_lpbrk (k : Bool) (s : State) : exec (.lpbrk k) s = execLpbrk k s := rfl

theorem exec_ld (d : Dst) (b : Reg) (slot : BitVec 5) (arr : BitVec 10) (sz : Size) (sx na : Bool) (off : BitVec 9)
    (s : State) :
    exec (.ld d b slot arr sz sx na off) s = execLd d b slot arr sz sx na off s := rfl

theorem exec_st (v : Reg) (b : Reg) (sz : Size) (off : BitVec 9)
    (s : State) :
    exec (.st v b sz off) s = execSt v b sz off s := rfl

theorem exec_pref (b : Reg) (sz : Size) (off : BitVec 9)
    (s : State) :
    exec (.pref b sz off) s = execPref b sz off s := rfl

theorem exec_cflush (sc : Scope) (b : Reg) (sz : Size) (off : BitVec 9)
    (s : State) :
    exec (.cflush sc b sz off) s = execCflush sc b sz off s := rfl

theorem exec_cinv (sc : Scope) (b : Reg) (sz : Size) (off : BitVec 9)
    (s : State) :
    exec (.cinv sc b sz off) s = execCinv sc b sz off s := rfl

theorem exec_strel (sc : Scope) (v b : Reg) (sz : Size) (off : BitVec 9)
    (s : State) :
    exec (.strel sc v b sz off) s = execStrel sc v b sz off s := rfl

theorem exec_ldacq (sc : Scope) (d : Dst) (b : Reg) (slot : BitVec 5) (sz : Size) (off : BitVec 9)
    (s : State) :
    exec (.ldacq sc d b slot sz off) s = execLdacq sc d b slot sz off s := rfl

theorem exec_aadd (a : AtomArgs) (s : State) : exec (.aadd a) s = execAadd a s := rfl

theorem exec_aand (a : AtomArgs) (s : State) : exec (.aand a) s = execAand a s := rfl

theorem exec_aor (a : AtomArgs) (s : State) : exec (.aor a) s = execAor a s := rfl

theorem exec_axor (a : AtomArgs) (s : State) : exec (.axor a) s = execAxor a s := rfl

theorem exec_amin (a : AtomArgs) (s : State) : exec (.amin a) s = execAmin a s := rfl

theorem exec_amax (a : AtomArgs) (s : State) : exec (.amax a) s = execAmax a s := rfl

theorem exec_aminu (a : AtomArgs) (s : State) : exec (.aminu a) s = execAminu a s := rfl

theorem exec_amaxu (a : AtomArgs) (s : State) : exec (.amaxu a) s = execAmaxu a s := rfl

theorem exec_axchg (a : AtomArgs) (s : State) : exec (.axchg a) s = execAxchg a s := rfl

theorem exec_acas (a : AtomArgs) (c : Reg) (s : State) : exec (.acas a c) s = execAcas a c s := rfl

theorem exec_afadd (a : AtomArgs) (s : State) : exec (.afadd a) s = execAfadd a s := rfl

theorem exec_scadd (d : FileReg) (b idx src : Reg) (et : ScType) (rlen : BitVec 10)
    (s : State) :
    exec (.scadd d b idx src et rlen) s = execScadd d b idx src et rlen s := rfl

theorem exec_acqGe (d : Dst) (o : Reg) (sc : Scope) (n : BitVec 5)
    (s : State) :
    exec (.acqGe d o sc n) s = execAcqGe d o sc n s := rfl

theorem exec_acqNw (d : Dst) (o : Reg) (sc : Scope) (s : State) : exec (.acqNw d o sc) s = execAcqNw d o sc s := rfl

theorem exec_acqX (d : Dst) (o : Reg) (sc : Scope) (s : State) : exec (.acqX d o sc) s = execAcqX d o sc s := rfl

theorem exec_rel (d : Dst) (o : Reg) (sc : Scope) (s : State) : exec (.rel d o sc) s = execRel d o sc s := rfl

theorem exec_fence (sc : Scope) (s : State) : exec (.fence sc) s = execFence sc s := rfl

theorem exec_waitcGe (q : BitVec 3) (x : Reg) (s : State) : exec (.waitcGe q x) s = execWaitcGe q x s := rfl

theorem exec_waitcLe (q : BitVec 3) (x : Reg) (s : State) : exec (.waitcLe q x) s = execWaitcLe q x s := rfl

theorem exec_tlwait (tc : BitVec 2) (x : Reg) (s : State) : exec (.tlwait tc x) s = execTlwait tc x s := rfl

theorem exec_tlsig (d : Dst) (tc : BitVec 2) (sc : Scope)
    (s : State) :
    exec (.tlsig d tc sc) s = execTlsig d tc sc s := rfl

theorem exec_bar (sc : Scope) (mask : BitVec 4) (s : State) : exec (.bar sc mask) s = execBar sc mask s := rfl

theorem exec_mbw (mb : BitVec 3) (x : Reg) (s : State) : exec (.mbw mb x) s = execMbw mb x s := rfl

theorem exec_mbr (d : Dst) (mb : BitVec 3) (s : State) : exec (.mbr d mb) s = execMbr d mb s := rfl

theorem exec_tagarm (x y : Reg) (ct : CType) (mulm1 : BitVec 6)
    (s : State) :
    exec (.tagarm x y ct mulm1) s = execTagarm x y ct mulm1 s := rfl

theorem exec_tagsetFull (x : Reg) (s : State) : exec (.tagsetFull x) s = execTagsetFull x s := rfl

theorem exec_tagsetPoison (x : Reg) (s : State) : exec (.tagsetPoison x) s = execTagsetPoison x s := rfl

theorem exec_tagclr (x : Reg) (s : State) : exec (.tagclr x) s = execTagclr x s := rfl

theorem exec_tagwtNw (d : Dst) (y : Reg) (s : State) : exec (.tagwtNw d y) s = execTagwtNw d y s := rfl

theorem exec_tagwtFull (d : Dst) (y : Reg) (s : State) : exec (.tagwtFull d y) s = execTagwtFull d y s := rfl

theorem exec_tagwtEmpty (d : Dst) (y : Reg) (s : State) : exec (.tagwtEmpty d y) s = execTagwtEmpty d y s := rfl

theorem exec_xfence (sc : Scope) (s : State) : exec (.xfence sc) s = execXfence sc s := rfl

theorem exec_push (d : Dst) (o lo hi : Reg) (q : QArgs)
    (s : State) :
    exec (.push d o lo hi q) s = execPush d o lo hi q s := rfl

theorem exec_popN (d : Dst) (o : Reg) (lo hi : Dst) (q : QArgs)
    (s : State) :
    exec (.popN d o lo hi q) s = execPopN d o lo hi q s := rfl

theorem exec_popW (d : Dst) (o : Reg) (lo hi : Dst) (q : QArgs)
    (s : State) :
    exec (.popW d o lo hi q) s = execPopW d o lo hi q s := rfl

theorem exec_qoctlEn (d : Dst) (o : Reg) (s : State) : exec (.qoctlEn d o) s = execQoctlEn d o s := rfl

theorem exec_qoctlDis (d : Dst) (o : Reg) (s : State) : exec (.qoctlDis d o) s = execQoctlDis d o s := rfl

theorem exec_qoctlCnt (d : Dst) (o : Reg) (s : State) : exec (.qoctlCnt d o) s = execQoctlCnt d o s := rfl

theorem exec_hld (d : Dst) (x b : Reg) (slot : BitVec 5) (sz : Size) (arr : BitVec 10)
    (s : State) :
    exec (.hld d x b slot sz arr) s = execHld d x b slot sz arr s := rfl

theorem exec_hldQ (q : BitVec 3) (x b n : Reg) (s : State) : exec (.hldQ q x b n) s = execHldQ q x b n s := rfl

theorem exec_hpub (x : Reg) (s : State) : exec (.hpub x) s = execHpub x s := rfl

theorem exec_hwait (x : Reg) (s : State) : exec (.hwait x) s = execHwait x s := rfl

theorem exec_hwaitAll (x : Reg) (s : State) : exec (.hwaitAll x) s = execHwaitAll x s := rfl

theorem exec_gridctlJoin (x : Reg) (s : State) : exec (.gridctlJoin x) s = execGridctlJoin x s := rfl

theorem exec_gridctlLeave (x : Reg) (s : State) : exec (.gridctlLeave x) s = execGridctlLeave x s := rfl

theorem exec_gridctlStat (d : Dst) (x : Reg) (s : State) : exec (.gridctlStat d x) s = execGridctlStat d x s := rfl

theorem exec_gridctlStatMs (d : Dst) (x j : Reg)
    (s : State) :
    exec (.gridctlStatMs d x j) s = execGridctlStatMs d x j s := rfl

theorem exec_qld (q : BitVec 3) (b stride n : Reg)
    (s : State) :
    exec (.qld q b stride n) s = execQld q b stride n s := rfl

theorem exec_qldx (q : BitVec 3) (b stride list n : Reg)
    (s : State) :
    exec (.qldx q b stride list n) s = execQldx q b stride list n s := rfl

theorem exec_tget (tc : BitVec 2) (d : Dst) (src g n : Reg)
    (s : State) :
    exec (.tget tc d src g n) s = execTget tc d src g n s := rfl

theorem exec_tsend (sc : Scope) (kind : CType) (taddr g n : Reg) (ck cx : Bool)
    (s : State) :
    exec (.tsend sc kind taddr g n ck cx) s = execTsend sc kind taddr g n ck cx s := rfl

theorem exec_tsto (d r n stride : Reg) (ck cx : Bool)
    (s : State) :
    exec (.tsto d r n stride ck cx) s = execTsto d r n stride ck cx s := rfl

theorem exec_bld (tc : BitVec 2) (d : Dst) (src geom cstride : Reg)
    (s : State) :
    exec (.bld tc d src geom cstride) s = execBld tc d src geom cstride s := rfl

theorem exec_qflush (q : BitVec 3) (s : State) : exec (.qflush q) s = execQflush q s := rfl

theorem exec_cpseq (lv : BitVec 3) (n : Count) (s : State) : exec (.cpseq lv n) s = execCpseq lv n s := rfl

theorem exec_cpseqClr (s : State) : exec .cpseqClr s = execCpseqClr s := rfl

theorem exec_cpsrcBase (x : Reg) (s : State) : exec (.cpsrcBase x) s = execCpsrcBase x s := rfl

theorem exec_cpsrcStride (lv : BitVec 3) (x : Reg)
    (s : State) :
    exec (.cpsrcStride lv x) s = execCpsrcStride lv x s := rfl

theorem exec_cpsrcWin (lv : BitVec 3) (x y : Reg) (s : State) : exec (.cpsrcWin lv x y) s = execCpsrcWin lv x y s := rfl

theorem exec_cpdstBase (x : Reg) (s : State) : exec (.cpdstBase x) s = execCpdstBase x s := rfl

theorem exec_cpdstBaseTile (x : Reg) (s : State) : exec (.cpdstBaseTile x) s = execCpdstBaseTile x s := rfl

theorem exec_cpdstStride (lv : BitVec 3) (x : Reg)
    (s : State) :
    exec (.cpdstStride lv x) s = execCpdstStride lv x s := rfl

theorem exec_cpdstWin (lv : BitVec 3) (x y : Reg) (s : State) : exec (.cpdstWin lv x y) s = execCpdstWin lv x y s := rfl

theorem exec_cpidx (lv : BitVec 3) (list nrow : Reg)
    (s : State) :
    exec (.cpidx lv list nrow) s = execCpidx lv list nrow s := rfl

theorem exec_cpidxOff (s : State) : exec .cpidxOff s = execCpidxOff s := rfl

theorem exec_cpswz (x : Reg) (s : State) : exec (.cpswz x) s = execCpswz x s := rfl

theorem exec_cpgo (d : Dst) (tc : BitVec 2) (esz : BitVec 3) (sc : Scope)
    (s : State) :
    exec (.cpgo d tc esz sc) s = execCpgo d tc esz sc s := rfl

theorem exec_cpstat (d : Dst) (tc : BitVec 2) (x : Reg)
    (s : State) :
    exec (.cpstat d tc x) s = execCpstat d tc x s := rfl

theorem exec_lookup (mode : Pool) (nf : Bool) (d : Dst) (h : BitVec 4) (tc : BitVec 2) (list args taddr : Reg)
    (s : State) :
    exec (.lookup mode nf d h tc list args taddr) s = execLookup mode nf d h tc list args taddr s := rfl

theorem exec_lkstat (d : Dst) (tc : BitVec 2) (x : Reg)
    (s : State) :
    exec (.lkstat d tc x) s = execLkstat d tc x s := rfl

theorem exec_update (nf : Bool) (d : Dst) (h : BitVec 4) (tc : BitVec 2) (list grad n : Reg)
    (s : State) :
    exec (.update nf d h tc list grad n) s = execUpdate nf d h tc list grad n s := rfl

theorem exec_replayAcc (d : Dst) (h : BitVec 4) (tc : BitVec 2) (r0 nr : Reg)
    (s : State) :
    exec (.replayAcc d h tc r0 nr) s = execReplayAcc d h tc r0 nr s := rfl

theorem exec_replaySgd (d : Dst) (h : BitVec 4) (tc : BitVec 2) (r0 nr : Reg)
    (s : State) :
    exec (.replaySgd d h tc r0 nr) s = execReplaySgd d h tc r0 nr s := rfl

theorem exec_replayAdag (d : Dst) (h : BitVec 4) (tc : BitVec 2) (r0 nr : Reg)
    (s : State) :
    exec (.replayAdag d h tc r0 nr) s = execReplayAdag d h tc r0 nr s := rfl

theorem exec_skctlWr (g : BitVec 4) (x : Reg) (s : State) : exec (.skctlWr g x) s = execSkctlWr g x s := rfl

theorem exec_skctlRd (d : Dst) (g : BitVec 4) (s : State) : exec (.skctlRd d g) s = execSkctlRd d g s := rfl

theorem exec_skctlEst (d : Dst) (h : BitVec 4) (x : Reg)
    (s : State) :
    exec (.skctlEst d h x) s = execSkctlEst d h x s := rfl

theorem exec_hrctlFlush (d : Dst) (h : BitVec 4) (tc : BitVec 2)
    (s : State) :
    exec (.hrctlFlush d h tc) s = execHrctlFlush d h tc s := rfl

theorem exec_hrctlDetach (d : Dst) (h : BitVec 4) (tc : BitVec 2)
    (s : State) :
    exec (.hrctlDetach d h tc) s = execHrctlDetach d h tc s := rfl

theorem exec_a2a (mode : Pool) (nf : Bool) (d : Dst) (tc : BitVec 2) (r taddr : Reg)
    (s : State) :
    exec (.a2a mode nf d tc r taddr) s = execA2a mode nf d tc r taddr s := rfl

theorem exec_vadd (v : VArgs3) (s : State) : exec (.vadd v) s = execVadd v s := rfl

theorem exec_vsub (v : VArgs3) (s : State) : exec (.vsub v) s = execVsub v s := rfl

theorem exec_vmul (v : VArgs3) (s : State) : exec (.vmul v) s = execVmul v s := rfl

theorem exec_vfma (v : VArgs3) (s : State) : exec (.vfma v) s = execVfma v s := rfl

theorem exec_vmin (v : VArgs3) (s : State) : exec (.vmin v) s = execVmin v s := rfl

theorem exec_vmax (v : VArgs3) (s : State) : exec (.vmax v) s = execVmax v s := rfl

theorem exec_vabs (v : VArgs2) (s : State) : exec (.vabs v) s = execVabs v s := rfl

theorem exec_vneg (v : VArgs2) (s : State) : exec (.vneg v) s = execVneg v s := rfl

theorem exec_vand (v : VArgs3) (s : State) : exec (.vand v) s = execVand v s := rfl

theorem exec_vor (v : VArgs3) (s : State) : exec (.vor v) s = execVor v s := rfl

theorem exec_vxor (v : VArgs3) (s : State) : exec (.vxor v) s = execVxor v s := rfl

theorem exec_vnot (v : VArgs2) (s : State) : exec (.vnot v) s = execVnot v s := rfl

theorem exec_vshl (v : VArgs3) (s : State) : exec (.vshl v) s = execVshl v s := rfl

theorem exec_vshr (v : VArgs3) (s : State) : exec (.vshr v) s = execVshr v s := rfl

theorem exec_vsar (v : VArgs3) (s : State) : exec (.vsar v) s = execVsar v s := rfl

theorem exec_vcmp (v : VArgs3) (s : State) : exec (.vcmp v) s = execVcmp v s := rfl

theorem exec_vsel (v : VArgs3) (s : State) : exec (.vsel v) s = execVsel v s := rfl

theorem exec_vcvt (v : VArgs2) (src : VType) (rtz : Bool)
    (s : State) :
    exec (.vcvt v src rtz) s = execVcvt v src rtz s := rfl

theorem exec_vqnt (v : VArgs2) (src : VType) (rtz : Bool) (scale : Reg)
    (s : State) :
    exec (.vqnt v src rtz scale) s = execVqnt v src rtz scale s := rfl

theorem exec_vdqn (v : VArgs2) (src : VType) (rtz : Bool) (scale : Reg)
    (s : State) :
    exec (.vdqn v src rtz scale) s = execVdqn v src rtz scale s := rfl

theorem exec_vrsum (v : VRed) (s : State) : exec (.vrsum v) s = execVrsum v s := rfl

theorem exec_vrmax (v : VRed) (s : State) : exec (.vrmax v) s = execVrmax v s := rfl

theorem exec_vrmin (v : VRed) (s : State) : exec (.vrmin v) s = execVrmin v s := rfl

theorem exec_vdot (v : VRed) (y : BitVec 12) (s : State) : exec (.vdot v y) s = execVdot v y s := rfl

theorem exec_vexp2 (v : VArgs2) (s : State) : exec (.vexp2 v) s = execVexp2 v s := rfl

theorem exec_vlog2 (v : VArgs2) (s : State) : exec (.vlog2 v) s = execVlog2 v s := rfl

theorem exec_vrcp (v : VArgs2) (s : State) : exec (.vrcp v) s = execVrcp v s := rfl

theorem exec_vrsq (v : VArgs2) (s : State) : exec (.vrsq v) s = execVrsq v s := rfl

theorem exec_vact (v : VArgs2) (table : BitVec 6) (s : State) : exec (.vact v table) s = execVact v table s := rfl

theorem exec_vbcst (v : VArgs1) (s : Reg) (t : State) : exec (.vbcst v s) t = execVbcst v s t := rfl

theorem exec_vperm (v : VArgs3) (s : State) : exec (.vperm v) s = execVperm v s := rfl

theorem exec_vshufRot (v : VArgs2) (amount : BitVec 7)
    (s : State) :
    exec (.vshufRot v amount) s = execVshufRot v amount s := rfl

theorem exec_vshufRev (v : VArgs2) (s : State) : exec (.vshufRev v) s = execVshufRev v s := rfl

theorem exec_vshufUnzip (v : VArgs2) (s : State) : exec (.vshufUnzip v) s = execVshufUnzip v s := rfl

theorem exec_vshufZip (v : VArgs2) (s : State) : exec (.vshufZip v) s = execVshufZip v s := rfl

theorem exec_vmovsIns (d : BitVec 12) (e : BitVec 7) (s : Reg) (ty : VType) (t : State) :
    exec (.vmovsIns d e s ty) t = execVmovsIns d e s ty t := rfl

theorem exec_vmovsExt (d : Dst) (x : BitVec 12) (e : BitVec 7) (ty : VType) (ck cx : Bool)
    (s : State) :
    exec (.vmovsExt d x e ty ck cx) s = execVmovsExt d x e ty ck cx s := rfl

theorem exec_vclmp (v : VArgs3) (s : State) : exec (.vclmp v) s = execVclmp v s := rfl

theorem exec_vscan (v : VArgs2) (s : State) : exec (.vscan v) s = execVscan v s := rfl

theorem exec_vpop (d : BitVec 12) (run : BitVec 3) (q : BitVec 3)
    (s : State) :
    exec (.vpop d run q) s = execVpop d run q s := rfl

theorem exec_vmask (v : VArgs1) (s : Reg) (t : State) : exec (.vmask v s) t = execVmask v s t := rfl

theorem exec_vzero (d : BitVec 12) (run : BitVec 3) (s : State) : exec (.vzero d run) s = execVzero d run s := rfl

theorem exec_vidx (v : VArgs1) (s : Reg) (t : State) : exec (.vidx v s) t = execVidx v s t := rfl

theorem exec_vsprs (v : VArgs3) (s : State) : exec (.vsprs v) s = execVsprs v s := rfl

theorem exec_vscale (v : VArgs3) (s : State) : exec (.vscale v) s = execVscale v s := rfl

theorem exec_xnest (lv : BitVec 3) (k : Bool) (n : Count) (sa sb sov : Reg)
    (s : State) :
    exec (.xnest lv k n sa sb sov) s = execXnest lv k n sa sb sov s := rfl

theorem exec_xnestClr (s : State) : exec .xnestClr s = execXnestClr s := rfl

theorem exec_xlrRd (d : Dst) (hl : BitVec 4) (s : State) : exec (.xlrRd d hl) s = execXlrRd d hl s := rfl

theorem exec_xlrWr (hl : BitVec 4) (x : Reg) (s : State) : exec (.xlrWr hl x) s = execXlrWr hl x s := rfl

theorem exec_xlrPos (d : Dst) (s : State) : exec (.xlrPos d) s = execXlrPos d s := rfl

theorem exec_xopsA (x : Reg) (s : State) : exec (.xopsA x) s = execXopsA x s := rfl

theorem exec_xopsB (x : Reg) (s : State) : exec (.xopsB x) s = execXopsB x s := rfl

theorem exec_xpost (x : Reg) (s : State) : exec (.xpost x) s = execXpost x s := rfl

theorem exec_xspm (x : Reg) (s : State) : exec (.xspm x) s = execXspm x s := rfl

theorem exec_xmask (x : Reg) (s : State) : exec (.xmask x) s = execXmask x s := rfl

theorem exec_xgo (acc : BitVec 2) (cont out : Bool) (stg : Stages) (msk : Bool)
    (s : State) :
    exec (.xgo acc cont out stg msk) s = execXgo acc cont out stg msk s := rfl

theorem exec_xwait (s : State) : exec .xwait s = execXwait s := rfl

theorem exec_xaccClr (acc : BitVec 2) (s : State) : exec (.xaccClr acc) s = execXaccClr acc s := rfl

theorem exec_xaccSt (acc : BitVec 2) (t : Reg) (s : State) : exec (.xaccSt acc t) s = execXaccSt acc t s := rfl

theorem exec_xaccLd (acc : BitVec 2) (t : Reg) (ck cx : Bool)
    (s : State) :
    exec (.xaccLd acc t ck cx) s = execXaccLd acc t ck cx s := rfl

theorem exec_xaccLdp (acc : BitVec 2) (t : Reg) (ck cx : Bool)
    (s : State) :
    exec (.xaccLdp acc t ck cx) s = execXaccLdp acc t ck cx s := rfl

theorem exec_xaccAdd (acc src : BitVec 2) (s : State) : exec (.xaccAdd acc src) s = execXaccAdd acc src s := rfl

theorem exec_xaccPost (acc : BitVec 2) (stg : Stages)
    (s : State) :
    exec (.xaccPost acc stg) s = execXaccPost acc stg s := rfl

theorem exec_sealTensor (d : Dst) (h : BitVec 4) (x : Reg)
    (s : State) :
    exec (.sealTensor d h x) s = execSealTensor d h x s := rfl

theorem exec_sealTable (d : Dst) (h : BitVec 4) (x : Reg)
    (s : State) :
    exec (.sealTable d h x) s = execSealTable d h x s := rfl

theorem exec_sealGrid (d : Dst) (h : BitVec 4) (x : Reg)
    (s : State) :
    exec (.sealGrid d h x) s = execSealGrid d h x s := rfl

theorem exec_unsealHandle (h : BitVec 4) (s : State) : exec (.unsealHandle h) s = execUnseal h s := rfl

theorem exec_hmov (d : Dst) (hd hs : BitVec 4) (s : State) : exec (.hmov d hd hs) s = execHmov d hd hs s := rfl

theorem exec_hmovMem (d : Dst) (hd hs : BitVec 4) (x : Reg)
    (s : State) :
    exec (.hmovMem d hd hs x) s = execHmovMem d hd hs x s := rfl

theorem exec_dataLanding (m : MRef) (slot : Nat)
    (s : State) :
    exec (.dataLanding m slot) s = execDataLanding m slot s := rfl

theorem exec_untimedResultLanding (m : MRef) (st : Strm)
    (s : State) :
    exec (.untimedResultLanding m st) s = execUntimedResultLanding m st s := rfl

theorem exec_storeBufferDrain (m : MRef) (st : Strm)
    (s : State) :
    exec (.storeBufferDrain m st) s = execStoreBufferDrain m st s := rfl

theorem exec_fetchMissFill (m : MRef) (st : Strm)
    (s : State) :
    exec (.fetchMissFill m st) s = execFetchMissFill m st s := rfl

theorem exec_vectorUnitFree (m : MRef) (s : State) : exec (.vectorUnitFree m) s = execVectorUnitFree m s := rfl

theorem exec_walkComplete (part die block : Nat)
    (s : State) :
    exec (.walkComplete part die block) s = execWalkComplete part die block s := rfl

theorem exec_tagCheckSatisfied (m : MRef) (st : Strm)
    (s : State) :
    exec (.tagCheckSatisfied m st) s = execTagCheckSatisfied m st s := rfl

theorem exec_arrival (a : Arrival) (s : State) : exec (.arrival a) s = execArrival a s := rfl

theorem exec_arrivalRetry (a : Arrival) (s : State) : exec (.arrivalRetry a) s = execArrivalRetry a s := rfl

theorem exec_abortEvent (m : MRef) (tile : Nat)
    (s : State) :
    exec (.abortEvent m tile) s = execAbortEvent m tile s := rfl

theorem exec_closingNotice (m : MRef) (rank epoch : Nat)
    (s : State) :
    exec (.closingNotice m rank epoch) s = execClosingNotice m rank epoch s := rfl

theorem exec_rollback (m : MRef) (rank epoch : Nat)
    (s : State) :
    exec (.rollback m rank epoch) s = execRollback m rank epoch s := rfl

theorem exec_mailboxWake (m : MRef) (st : Strm) (s : State) : exec (.mailboxWake m st) s = execMailboxWake m st s := rfl

theorem exec_barrierEpisodeComplete (m : MRef) (sc : Scope)
    (s : State) :
    exec (.barrierEpisodeComplete m sc) s = execBarrierEpisodeComplete m sc s := rfl

theorem exec_acqHomeRetest (m : MRef) (st : Strm)
    (s : State) :
    exec (.acqHomeRetest m st) s = execAcqHomeRetest m st s := rfl

theorem exec_acqWithdrawal (m : MRef) (st : Strm)
    (s : State) :
    exec (.acqWithdrawal m st) s = execAcqWithdrawal m st s := rfl

theorem exec_queueHomeService (op : QOp) (s : State) : exec (.queueHomeService op) s = execQueueHomeService op s := rfl

theorem exec_junctionPair (held arriving : QOp)
    (s : State) :
    exec (.junctionPair held arriving) s = execJunctionPair held arriving s := rfl

theorem exec_holdExpiry (id : Nat) (s : State) : exec (.holdExpiry id) s = execHoldExpiry id s := rfl

theorem exec_parkedPopTimeout (id : Nat) (s : State) : exec (.parkedPopTimeout id) s = execParkedPopTimeout id s := rfl

theorem exec_vergeWriteStart (v : VergeRef) (s : State) : exec (.vergeWriteStart v) s = execVergeWriteStart v s := rfl

theorem exec_vergeWriteComplete (v : VergeRef)
    (s : State) :
    exec (.vergeWriteComplete v) s = execVergeWriteComplete v s := rfl

theorem exec_progressReport (v : VergeRef) (region : Nat)
    (s : State) :
    exec (.progressReport v region) s = execProgressReport v region s := rfl

theorem exec_hpubWaitEnd (m : MRef) (st : Strm) (s : State) : exec (.hpubWaitEnd m st) s = execHpubWaitEnd m st s := rfl

theorem exec_haloTimeout (m : MRef) (st : Strm) (s : State) : exec (.haloTimeout m st) s = execHaloTimeout m st s := rfl

theorem exec_waitTimeout (m : MRef) (st : Strm) (s : State) : exec (.waitTimeout m st) s = execWaitTimeout m st s := rfl

theorem exec_decay (part chiplet group : Nat)
    (s : State) :
    exec (.decay part chiplet group) s = execDecay part chiplet group s := rfl

theorem exec_fillComplete (part chiplet set way : Nat)
    (s : State) :
    exec (.fillComplete part chiplet set way) s = execFillComplete part chiplet set way s := rfl

theorem exec_writeBackComplete (part chiplet set way : Nat)
    (s : State) :
    exec (.writeBackComplete part chiplet set way) s = execWriteBackComplete part chiplet set way s := rfl

theorem exec_modeSwitch (stack : Nat) (compute : Bool)
    (s : State) :
    exec (.modeSwitch stack compute) s = execModeSwitch stack compute s := rfl

theorem exec_modeSwitchComplete (stack : Nat)
    (s : State) :
    exec (.modeSwitchComplete stack) s = execModeSwitchComplete stack s := rfl

theorem exec_lookupBag (c : CmdRef) (bag : Nat) (s : State) : exec (.lookupBag c bag) s = execLookupBag c bag s := rfl

theorem exec_binAppend (c : CmdRef) (pair : Nat)
    (s : State) :
    exec (.binAppend c pair) s = execBinAppend c pair s := rfl

theorem exec_replayRegion (c : CmdRef) (region : Nat)
    (s : State) :
    exec (.replayRegion c region) s = execReplayRegion c region s := rfl

theorem exec_bucketReceive (b : Bucket) (s : State) : exec (.bucketReceive b) s = execBucketReceive b s := rfl

theorem exec_a2aCombination (c : CmdRef) (s : State) : exec (.a2aCombination c) s = execA2aCombination c s := rfl

theorem exec_copyElement (c : CmdRef) (s : State) : exec (.copyElement c) s = execCopyElement c s := rfl

theorem exec_commandCompletion (c : CmdRef)
    (s : State) :
    exec (.commandCompletion c) s = execCommandCompletion c s := rfl

theorem exec_kStep (m : MRef) (s : State) : exec (.kStep m) s = execKStep m s := rfl

theorem exec_ptrootWrite (ag : RegAgent) (part : Nat) (v : Word)
    (s : State) :
    exec (.ptrootWrite ag part v) s = execPtrootWrite ag part v s := rfl

theorem exec_tlbinvAll (ag : RegAgent) (part : Nat) (v : Word)
    (s : State) :
    exec (.tlbinvAll ag part v) s = execTlbinvAll ag part v s := rfl

theorem exec_tlbinvPage (ag : RegAgent) (part : Nat) (v : Word)
    (s : State) :
    exec (.tlbinvPage ag part v) s = execTlbinvPage ag part v s := rfl

theorem exec_tlbinvComplete (part : Nat) (s : State) : exec (.tlbinvComplete part) s = execTlbinvComplete part s := rfl

theorem exec_expctlLoad (ag : RegAgent) (part : Nat) (v : Word)
    (s : State) :
    exec (.expctlLoad ag part v) s = execExpctlLoad ag part v s := rfl

theorem exec_hrcfgWrite (ag : RegAgent) (part : Nat) (v : Word)
    (s : State) :
    exec (.hrcfgWrite ag part v) s = execHrcfgWrite ag part v s := rfl

theorem exec_rgnctlLoad (ag : RegAgent) (part : Nat) (v : Word)
    (s : State) :
    exec (.rgnctlLoad ag part v) s = execRgnctlLoad ag part v s := rfl

theorem exec_registerWrite (ag : RegAgent) (r : RegAddr) (v : Word)
    (s : State) :
    exec (.registerWrite ag r v) s = execRegisterWrite ag r v s := rfl

theorem exec_hqdb (ag : RegAgent) (part : Nat) (v : Word)
    (s : State) :
    exec (.hqdb ag part v) s = execHqdb ag part v s := rfl

theorem exec_cmdNop (q : QueueRef) (s : Slot) (t : State) : exec (.cmdNop q s) t = execCmdNop q s t := rfl

theorem exec_launch (q : QueueRef) (s : Slot) (t : State) : exec (.launch q s) t = execLaunch q s t := rfl

theorem exec_launchi (q : QueueRef) (s : Slot) (t : State) : exec (.launchi q s) t = execLaunchi q s t := rfl

theorem exec_cmdLoop (q : QueueRef) (s : Slot) (t : State) : exec (.cmdLoop q s) t = execCmdLoop q s t := rfl

theorem exec_cmdIf (q : QueueRef) (s : Slot) (t : State) : exec (.cmdIf q s) t = execCmdIf q s t := rfl

theorem exec_jump (q : QueueRef) (s : Slot) (t : State) : exec (.jump q s) t = execJump q s t := rfl

theorem exec_wait (q : QueueRef) (s : Slot) (t : State) : exec (.wait q s) t = execWait q s t := rfl

theorem exec_signal (q : QueueRef) (s : Slot) (t : State) : exec (.signal q s) t = execSignal q s t := rfl

theorem exec_sigadd (q : QueueRef) (s : Slot) (t : State) : exec (.sigadd q s) t = execSigadd q s t := rfl

theorem exec_write (q : QueueRef) (s : Slot) (t : State) : exec (.write q s) t = execWrite q s t := rfl

theorem exec_cmdFence (q : QueueRef) (s : Slot) (t : State) : exec (.cmdFence q s) t = execCmdFence q s t := rfl

theorem exec_delay (q : QueueRef) (s : Slot) (t : State) : exec (.delay q s) t = execDelay q s t := rfl

theorem exec_delayExpiry (q : QueueRef) (s : State) : exec (.delayExpiry q) s = execDelayExpiry q s := rfl

theorem exec_ctxnew (q : QueueRef) (s : Slot) (t : State) : exec (.ctxnew q s) t = execCtxnew q s t := rfl

theorem exec_ctxend (q : QueueRef) (s : Slot) (t : State) : exec (.ctxend q s) t = execCtxend q s t := rfl

theorem exec_intr (q : QueueRef) (s : Slot) (t : State) : exec (.intr q s) t = execIntr q s t := rfl

theorem exec_qstop (q : QueueRef) (s : Slot) (t : State) : exec (.qstop q s) t = execQstop q s t := rfl

theorem exec_predDecrement (part tcb : Nat) (failed : Bool)
    (s : State) :
    exec (.predDecrement part tcb failed) s = execPredDecrement part tcb failed s := rfl

theorem exec_cardAdmission (part die : Nat) (card : BitVec 128)
    (s : State) :
    exec (.cardAdmission part die card) s = execCardAdmission part die card s := rfl

theorem exec_cardRepush (part prio : Nat) (card : CardPush)
    (s : State) :
    exec (.cardRepush part prio card) s = execCardRepush part prio card s := rfl

theorem exec_chunkDispatch (part die : Nat)
    (s : State) :
    exec (.chunkDispatch part die) s = execChunkDispatch part die s := rfl

theorem exec_taskRetire (part tcb : Nat) (s : State) : exec (.taskRetire part tcb) s = execTaskRetire part tcb s := rfl

theorem exec_periodBoundary (part : Nat) (s : State) : exec (.periodBoundary part) s = execPeriodBoundary part s := rfl

theorem exec_preemptionRequest (part ctx : Nat)
    (s : State) :
    exec (.preemptionRequest part ctx) s = execPreemptionRequest part ctx s := rfl

theorem exec_preemptHalt (m : MRef) (s : State) : exec (.preemptHalt m) s = execPreemptHalt m s := rfl

theorem exec_save (m : MRef) (s : State) : exec (.save m) s = execSave m s := rfl

theorem exec_restore (m : MRef) (core : Nat) (s : State) : exec (.restore m core) s = execRestore m core s := rfl

theorem exec_escalation (m : MRef) (s : State) : exec (.escalation m) s = execEscalation m s := rfl

theorem exec_resume (m : MRef) (e : ResumeEdit) (s : State) : exec (.resume m e) s = execResume m e s := rfl

theorem exec_endTheIteration (m : MRef) (s : State) : exec (.endTheIteration m) s = execEndTheIteration m s := rfl

theorem exec_endTheContext (part ctx : Nat)
    (s : State) :
    exec (.endTheContext part ctx) s = execEndTheContext part ctx s := rfl

theorem exec_dieFence (die : Nat) (s : State) : exec (.dieFence die) s = execDieFence die s := rfl

theorem exec_partitionChange (part dies : Nat) (key : BitVec 32)
    (s : State) :
    exec (.partitionChange part dies key) s = execPartitionChange part dies key s := rfl

theorem exec_uncorrectableError (e : EccSite)
    (s : State) :
    exec (.uncorrectableError e) s = execUncorrectableError e s := rfl

theorem exec_fabcfgWrite (ag : RegAgent) (v : Word)
    (s : State) :
    exec (.fabcfgWrite ag v) s = execFabcfgWrite ag v s := rfl

theorem exec_portTraining (port : Nat) (lanes : Bool) (rowsM1 colsM1 : Nat) (peer : DevRef)
    (s : State) :
    exec (.portTraining port lanes rowsM1 colsM1 peer) s = execPortTraining port lanes rowsM1 colsM1 peer s := rfl

theorem exec_linkReplayFailure (port : Nat)
    (s : State) :
    exec (.linkReplayFailure port) s = execLinkReplayFailure port s := rfl

theorem exec_rd (p : Packet) (s : State) : exec (.rd p) s = execRd p s := rfl

theorem exec_wr (p : Packet) (s : State) : exec (.wr p) s = execWr p s := rfl

theorem exec_atom (p : Packet) (s : State) : exec (.atom p) s = execAtom p s := rfl

theorem exec_arrive (p : Packet) (s : State) : exec (.arrive p) s = execArrive p s := rfl

theorem exec_qop (p : Packet) (s : State) : exec (.qop p) s = execQop p s := rfl

theorem exec_obj (p : Packet) (s : State) : exec (.obj p) s = execObj p s := rfl

theorem exec_rsp (p : Packet) (s : State) : exec (.rsp p) s = execRsp p s := rfl

theorem exec_openConn (p : Packet) (s : State) : exec (.openConn p) s = execOpenConn p s := rfl

theorem exec_openack (p : Packet) (s : State) : exec (.openack p) s = execOpenack p s := rfl

theorem exec_close (p : Packet) (s : State) : exec (.close p) s = execClose p s := rfl

theorem exec_ackOnly (p : Packet) (s : State) : exec (.ackOnly p) s = execAckOnly p s := rfl

theorem exec_ackIdleTimeout (c : ConnRef) (s : State) : exec (.ackIdleTimeout c) s = execAckIdleTimeout c s := rfl

theorem exec_retransmitTimeout (c : ConnRef) (seq : Nat)
    (s : State) :
    exec (.retransmitTimeout c seq) s = execRetransmitTimeout c seq s := rfl

theorem exec_teardown (c : ConnRef) (s : State) : exec (.teardown c) s = execTeardown c s := rfl

theorem exec_fillingIdleTimeout (c : ConnRef)
    (s : State) :
    exec (.fillingIdleTimeout c) s = execFillingIdleTimeout c s := rfl

theorem exec_arrivalResend (c : ConnRef) (seq : Nat)
    (s : State) :
    exec (.arrivalResend c seq) s = execArrivalResend c seq s := rfl

theorem exec_routerWaitExpiry (p : Packet) (s : State) : exec (.routerWaitExpiry p) s = execRouterWaitExpiry p s := rfl

theorem exec_rudBucket (b : Bucket) (s : State) : exec (.rudBucket b) s = execRudBucket b s := rfl

theorem exec_rudiPartial (c : CmdRef) (shard : Nat) (ps : ShardAnswer)
    (s : State) :
    exec (.rudiPartial c shard ps) s = execRudiPartial c shard ps s := rfl

theorem exec_uecDeliveryFailure (c : CmdRef)
    (s : State) :
    exec (.uecDeliveryFailure c) s = execUecDeliveryFailure c s := rfl

theorem exec_claim (ag : RegAgent) (s : State) : exec (.claim ag) s = execClaim ag s := rfl

theorem exec_renew (ag : RegAgent) (s : State) : exec (.renew ag) s = execRenew ag s := rfl

theorem exec_handover (ag : RegAgent) (succ : BitVec 2)
    (s : State) :
    exec (.handover ag succ) s = execHandover ag succ s := rfl

theorem exec_leaseExpiry (s : State) : exec .leaseExpiry s = execLeaseExpiry s := rfl

theorem exec_powerUp (s : State) : exec .powerUp s = execPowerUp s := rfl

theorem exec_clearingComplete (s : State) : exec .clearingComplete s = execClearingComplete s := rfl

theorem exec_bootctlGo (ag : RegAgent) (s : State) : exec (.bootctlGo ag) s = execBootctlGo ag s := rfl

theorem exec_verificationComplete (s : State) : exec .verificationComplete s = execVerificationComplete s := rfl

theorem exec_devrst (ag : RegAgent) (v : Word) (s : State) : exec (.devrst ag v) s = execDevrst ag v s := rfl

theorem exec_attgo (ag : RegAgent) (s : State) : exec (.attgo ag) s = execAttgo ag s := rfl

theorem exec_attestationReport (s : State) : exec .attestationReport s = execAttestationReport s := rfl

theorem exec_powerWindow (watts : Nat) (s : State) : exec (.powerWindow watts) s = execPowerWindow watts s := rfl

theorem exec_limitReached (watts amps temp : Nat)
    (s : State) :
    exec (.limitReached watts amps temp) s = execLimitReached watts amps temp s := rfl

theorem exec_thermalTrip (temp : Nat) (s : State) : exec (.thermalTrip temp) s = execThermalTrip temp s := rfl

theorem exec_powerDown (s : State) : exec .powerDown s = execPowerDown s := rfl

theorem exec_refresh (stack pc : Nat) (s : State) : exec (.refresh stack pc) s = execRefresh stack pc s := rfl

theorem exec_ageRefresh (part : Nat) (s : State) : exec (.ageRefresh part) s = execAgeRefresh part s := rfl

theorem exec_pcieLinkTraining (port gen : Nat) (x16 : Bool)
    (s : State) :
    exec (.pcieLinkTraining port gen x16) s = execPcieLinkTraining port gen x16 s := rfl

theorem exec_apertureWrite (ag : RegAgent) (boot : Bool) (offset : Nat) (bytes : List Byte)
    (s : State) :
    exec (.apertureWrite ag boot offset bytes) s = execApertureWrite ag boot offset bytes s := rfl

theorem exec_packetForward (p : Packet) (port : Nat)
    (s : State) :
    exec (.packetForward p port) s = execPacketForward p port s := rfl

theorem exec_junctionHold (op : QOp) (s : State) : exec (.junctionHold op) s = execJunctionHold op s := rfl

end Sys2Proof.Machine
end

