-- ==== Sys2Proof/Laws/Events.lean ====
section
/-!
SUPPORT. Every raised event is executed as the row of the table with its name.
-/

namespace Sys2Proof.Machine

theorem runEvent_dataLanding (m : MRef) (slot : Nat) (s : State) :
    runEvent (.dataLanding m slot) s = exec (.dataLanding m slot) s := rfl

theorem runEvent_untimedResultLanding (m : MRef) (st : Strm) (s : State) :
    runEvent (.untimedResultLanding m st) s = exec (.untimedResultLanding m st) s := rfl

theorem runEvent_storeBufferDrain (m : MRef) (st : Strm) (s : State) :
    runEvent (.storeBufferDrain m st) s = exec (.storeBufferDrain m st) s := rfl

theorem runEvent_fetchMissFill (m : MRef) (st : Strm) (s : State) :
    runEvent (.fetchMissFill m st) s = exec (.fetchMissFill m st) s := rfl

theorem runEvent_vectorUnitFree (m : MRef) (s : State) :
    runEvent (.vectorUnitFree m) s = exec (.vectorUnitFree m) s := rfl

theorem runEvent_walkComplete (part die block : Nat) (s : State) :
    runEvent (.walkComplete part die block) s = exec (.walkComplete part die block) s := rfl

theorem runEvent_tagCheckSatisfied (m : MRef) (st : Strm) (s : State) :
    runEvent (.tagCheckSatisfied m st) s = exec (.tagCheckSatisfied m st) s := rfl

theorem runEvent_arrival (a : Arrival) (s : State) : runEvent (.arrival a) s = exec (.arrival a) s := rfl

theorem runEvent_arrivalRetry (a : Arrival) (s : State) : runEvent (.arrivalRetry a) s = exec (.arrivalRetry a) s := rfl

theorem runEvent_abortEvent (m : MRef) (tile : Nat) (s : State) :
    runEvent (.abortEvent m tile) s = exec (.abortEvent m tile) s := rfl

theorem runEvent_closingNotice (m : MRef) (rank epoch : Nat) (s : State) :
    runEvent (.closingNotice m rank epoch) s = exec (.closingNotice m rank epoch) s := rfl

theorem runEvent_rollback (m : MRef) (rank epoch : Nat) (s : State) :
    runEvent (.rollback m rank epoch) s = exec (.rollback m rank epoch) s := rfl

theorem runEvent_mailboxWake (m : MRef) (st : Strm) (s : State) :
    runEvent (.mailboxWake m st) s = exec (.mailboxWake m st) s := rfl

theorem runEvent_barrierEpisodeComplete (m : MRef) (sc : Scope) (s : State) :
    runEvent (.barrierEpisodeComplete m sc) s = exec (.barrierEpisodeComplete m sc) s := rfl

theorem runEvent_acqHomeRetest (m : MRef) (st : Strm) (s : State) :
    runEvent (.acqHomeRetest m st) s = exec (.acqHomeRetest m st) s := rfl

theorem runEvent_acqWithdrawal (m : MRef) (st : Strm) (s : State) :
    runEvent (.acqWithdrawal m st) s = exec (.acqWithdrawal m st) s := rfl

theorem runEvent_queueHomeService (op : QOp) (s : State) :
    runEvent (.queueHomeService op) s = exec (.queueHomeService op) s := rfl

theorem runEvent_junctionPair (held arriving : QOp) (s : State) :
    runEvent (.junctionPair held arriving) s = exec (.junctionPair held arriving) s := rfl

theorem runEvent_holdExpiry (id : Nat) (s : State) : runEvent (.holdExpiry id) s = exec (.holdExpiry id) s := rfl

theorem runEvent_parkedPopTimeout (id : Nat) (s : State) :
    runEvent (.parkedPopTimeout id) s = exec (.parkedPopTimeout id) s := rfl

theorem runEvent_vergeWriteStart (v : VergeRef) (s : State) :
    runEvent (.vergeWriteStart v) s = exec (.vergeWriteStart v) s := rfl

theorem runEvent_vergeWriteComplete (v : VergeRef) (s : State) :
    runEvent (.vergeWriteComplete v) s = exec (.vergeWriteComplete v) s := rfl

theorem runEvent_progressReport (v : VergeRef) (region : Nat) (s : State) :
    runEvent (.progressReport v region) s = exec (.progressReport v region) s := rfl

theorem runEvent_hpubWaitEnd (m : MRef) (st : Strm) (s : State) :
    runEvent (.hpubWaitEnd m st) s = exec (.hpubWaitEnd m st) s := rfl

theorem runEvent_haloTimeout (m : MRef) (st : Strm) (s : State) :
    runEvent (.haloTimeout m st) s = exec (.haloTimeout m st) s := rfl

theorem runEvent_waitTimeout (m : MRef) (st : Strm) (s : State) :
    runEvent (.waitTimeout m st) s = exec (.waitTimeout m st) s := rfl

theorem runEvent_decay (part chiplet group : Nat) (s : State) :
    runEvent (.decay part chiplet group) s = exec (.decay part chiplet group) s := rfl

theorem runEvent_fillComplete (part chiplet set way : Nat) (s : State) :
    runEvent (.fillComplete part chiplet set way) s = exec (.fillComplete part chiplet set way) s := rfl

theorem runEvent_writeBackComplete (part chiplet set way : Nat) (s : State) :
    runEvent (.writeBackComplete part chiplet set way) s = exec (.writeBackComplete part chiplet set way) s := rfl

theorem runEvent_modeSwitch (stack : Nat) (compute : Bool) (s : State) :
    runEvent (.modeSwitch stack compute) s = exec (.modeSwitch stack compute) s := rfl

theorem runEvent_modeSwitchComplete (stack : Nat) (s : State) :
    runEvent (.modeSwitchComplete stack) s = exec (.modeSwitchComplete stack) s := rfl

theorem runEvent_lookupBag (c : CmdRef) (bag : Nat) (s : State) :
    runEvent (.lookupBag c bag) s = exec (.lookupBag c bag) s := rfl

theorem runEvent_binAppend (c : CmdRef) (pair : Nat) (s : State) :
    runEvent (.binAppend c pair) s = exec (.binAppend c pair) s := rfl

theorem runEvent_replayRegion (c : CmdRef) (region : Nat) (s : State) :
    runEvent (.replayRegion c region) s = exec (.replayRegion c region) s := rfl

theorem runEvent_bucketReceive (b : Bucket) (s : State) :
    runEvent (.bucketReceive b) s = exec (.bucketReceive b) s := rfl

theorem runEvent_a2aCombination (c : CmdRef) (s : State) :
    runEvent (.a2aCombination c) s = exec (.a2aCombination c) s := rfl

theorem runEvent_copyElement (c : CmdRef) (s : State) : runEvent (.copyElement c) s = exec (.copyElement c) s := rfl

theorem runEvent_commandCompletion (c : CmdRef) (s : State) :
    runEvent (.commandCompletion c) s = exec (.commandCompletion c) s := rfl

theorem runEvent_kStep (m : MRef) (s : State) : runEvent (.kStep m) s = exec (.kStep m) s := rfl

theorem runEvent_ptrootWrite (ag : RegAgent) (part : Nat) (v : Word) (s : State) :
    runEvent (.ptrootWrite ag part v) s = exec (.ptrootWrite ag part v) s := rfl

theorem runEvent_tlbinvAll (ag : RegAgent) (part : Nat) (v : Word) (s : State) :
    runEvent (.tlbinvAll ag part v) s = exec (.tlbinvAll ag part v) s := rfl

theorem runEvent_tlbinvPage (ag : RegAgent) (part : Nat) (v : Word) (s : State) :
    runEvent (.tlbinvPage ag part v) s = exec (.tlbinvPage ag part v) s := rfl

theorem runEvent_tlbinvComplete (part : Nat) (s : State) :
    runEvent (.tlbinvComplete part) s = exec (.tlbinvComplete part) s := rfl

theorem runEvent_expctlLoad (ag : RegAgent) (part : Nat) (v : Word) (s : State) :
    runEvent (.expctlLoad ag part v) s = exec (.expctlLoad ag part v) s := rfl

theorem runEvent_hrcfgWrite (ag : RegAgent) (part : Nat) (v : Word) (s : State) :
    runEvent (.hrcfgWrite ag part v) s = exec (.hrcfgWrite ag part v) s := rfl

theorem runEvent_rgnctlLoad (ag : RegAgent) (part : Nat) (v : Word) (s : State) :
    runEvent (.rgnctlLoad ag part v) s = exec (.rgnctlLoad ag part v) s := rfl

theorem runEvent_registerWrite (ag : RegAgent) (r : RegAddr) (v : Word) (s : State) :
    runEvent (.registerWrite ag r v) s = exec (.registerWrite ag r v) s := rfl

theorem runEvent_hqdb (ag : RegAgent) (part : Nat) (v : Word) (s : State) :
    runEvent (.hqdb ag part v) s = exec (.hqdb ag part v) s := rfl

theorem runEvent_cmdNop (q : QueueRef) (s : Slot) (t : State) : runEvent (.cmdNop q s) t = exec (.cmdNop q s) t := rfl

theorem runEvent_launch (q : QueueRef) (s : Slot) (t : State) : runEvent (.launch q s) t = exec (.launch q s) t := rfl

theorem runEvent_launchi (q : QueueRef) (s : Slot) (t : State) :
    runEvent (.launchi q s) t = exec (.launchi q s) t := rfl

theorem runEvent_cmdLoop (q : QueueRef) (s : Slot) (t : State) :
    runEvent (.cmdLoop q s) t = exec (.cmdLoop q s) t := rfl

theorem runEvent_cmdIf (q : QueueRef) (s : Slot) (t : State) : runEvent (.cmdIf q s) t = exec (.cmdIf q s) t := rfl

theorem runEvent_jump (q : QueueRef) (s : Slot) (t : State) : runEvent (.jump q s) t = exec (.jump q s) t := rfl

theorem runEvent_wait (q : QueueRef) (s : Slot) (t : State) : runEvent (.wait q s) t = exec (.wait q s) t := rfl

theorem runEvent_signal (q : QueueRef) (s : Slot) (t : State) : runEvent (.signal q s) t = exec (.signal q s) t := rfl

theorem runEvent_sigadd (q : QueueRef) (s : Slot) (t : State) : runEvent (.sigadd q s) t = exec (.sigadd q s) t := rfl

theorem runEvent_write (q : QueueRef) (s : Slot) (t : State) : runEvent (.write q s) t = exec (.write q s) t := rfl

theorem runEvent_cmdFence (q : QueueRef) (s : Slot) (t : State) :
    runEvent (.cmdFence q s) t = exec (.cmdFence q s) t := rfl

theorem runEvent_delay (q : QueueRef) (s : Slot) (t : State) : runEvent (.delay q s) t = exec (.delay q s) t := rfl

theorem runEvent_delayExpiry (q : QueueRef) (s : State) : runEvent (.delayExpiry q) s = exec (.delayExpiry q) s := rfl

theorem runEvent_ctxnew (q : QueueRef) (s : Slot) (t : State) : runEvent (.ctxnew q s) t = exec (.ctxnew q s) t := rfl

theorem runEvent_ctxend (q : QueueRef) (s : Slot) (t : State) : runEvent (.ctxend q s) t = exec (.ctxend q s) t := rfl

theorem runEvent_intr (q : QueueRef) (s : Slot) (t : State) : runEvent (.intr q s) t = exec (.intr q s) t := rfl

theorem runEvent_qstop (q : QueueRef) (s : Slot) (t : State) : runEvent (.qstop q s) t = exec (.qstop q s) t := rfl

theorem runEvent_predDecrement (part tcb : Nat) (failed : Bool) (s : State) :
    runEvent (.predDecrement part tcb failed) s = exec (.predDecrement part tcb failed) s := rfl

theorem runEvent_cardAdmission (part die : Nat) (card : BitVec 128) (s : State) :
    runEvent (.cardAdmission part die card) s = exec (.cardAdmission part die card) s := rfl

theorem runEvent_cardRepush (part prio : Nat) (card : CardPush) (s : State) :
    runEvent (.cardRepush part prio card) s = exec (.cardRepush part prio card) s := rfl

theorem runEvent_chunkDispatch (part die : Nat) (s : State) :
    runEvent (.chunkDispatch part die) s = exec (.chunkDispatch part die) s := rfl

theorem runEvent_taskRetire (part tcb : Nat) (s : State) :
    runEvent (.taskRetire part tcb) s = exec (.taskRetire part tcb) s := rfl

theorem runEvent_periodBoundary (part : Nat) (s : State) :
    runEvent (.periodBoundary part) s = exec (.periodBoundary part) s := rfl

theorem runEvent_preemptionRequest (part ctx : Nat) (s : State) :
    runEvent (.preemptionRequest part ctx) s = exec (.preemptionRequest part ctx) s := rfl

theorem runEvent_preemptHalt (m : MRef) (s : State) : runEvent (.preemptHalt m) s = exec (.preemptHalt m) s := rfl

theorem runEvent_save (m : MRef) (s : State) : runEvent (.save m) s = exec (.save m) s := rfl

theorem runEvent_restore (m : MRef) (core : Nat) (s : State) :
    runEvent (.restore m core) s = exec (.restore m core) s := rfl

theorem runEvent_escalation (m : MRef) (s : State) : runEvent (.escalation m) s = exec (.escalation m) s := rfl

theorem runEvent_resume (m : MRef) (e : ResumeEdit) (s : State) : runEvent (.resume m e) s = exec (.resume m e) s := rfl

theorem runEvent_endTheIteration (m : MRef) (s : State) :
    runEvent (.endTheIteration m) s = exec (.endTheIteration m) s := rfl

theorem runEvent_endTheContext (part ctx : Nat) (s : State) :
    runEvent (.endTheContext part ctx) s = exec (.endTheContext part ctx) s := rfl

theorem runEvent_dieFence (die : Nat) (s : State) : runEvent (.dieFence die) s = exec (.dieFence die) s := rfl

theorem runEvent_partitionChange (part dies : Nat) (key : BitVec 32) (s : State) :
    runEvent (.partitionChange part dies key) s = exec (.partitionChange part dies key) s := rfl

theorem runEvent_uncorrectableError (e : EccSite) (s : State) :
    runEvent (.uncorrectableError e) s = exec (.uncorrectableError e) s := rfl

theorem runEvent_fabcfgWrite (ag : RegAgent) (v : Word) (s : State) :
    runEvent (.fabcfgWrite ag v) s = exec (.fabcfgWrite ag v) s := rfl

theorem runEvent_portTraining (port : Nat) (lanes : Bool) (rowsM1 colsM1 : Nat) (peer : DevRef) (s : State) :
    runEvent (.portTraining port lanes rowsM1 colsM1 peer) s = exec (.portTraining port lanes rowsM1 colsM1 peer) s := rfl

theorem runEvent_linkReplayFailure (port : Nat) (s : State) :
    runEvent (.linkReplayFailure port) s = exec (.linkReplayFailure port) s := rfl

theorem runEvent_rd (p : Packet) (s : State) : runEvent (.rd p) s = exec (.rd p) s := rfl

theorem runEvent_wr (p : Packet) (s : State) : runEvent (.wr p) s = exec (.wr p) s := rfl

theorem runEvent_atom (p : Packet) (s : State) : runEvent (.atom p) s = exec (.atom p) s := rfl

theorem runEvent_arrive (p : Packet) (s : State) : runEvent (.arrive p) s = exec (.arrive p) s := rfl

theorem runEvent_qop (p : Packet) (s : State) : runEvent (.qop p) s = exec (.qop p) s := rfl

theorem runEvent_obj (p : Packet) (s : State) : runEvent (.obj p) s = exec (.obj p) s := rfl

theorem runEvent_rsp (p : Packet) (s : State) : runEvent (.rsp p) s = exec (.rsp p) s := rfl

theorem runEvent_openConn (p : Packet) (s : State) : runEvent (.openConn p) s = exec (.openConn p) s := rfl

theorem runEvent_openack (p : Packet) (s : State) : runEvent (.openack p) s = exec (.openack p) s := rfl

theorem runEvent_close (p : Packet) (s : State) : runEvent (.close p) s = exec (.close p) s := rfl

theorem runEvent_ackOnly (p : Packet) (s : State) : runEvent (.ackOnly p) s = exec (.ackOnly p) s := rfl

theorem runEvent_ackIdleTimeout (c : ConnRef) (s : State) :
    runEvent (.ackIdleTimeout c) s = exec (.ackIdleTimeout c) s := rfl

theorem runEvent_retransmitTimeout (c : ConnRef) (seq : Nat) (s : State) :
    runEvent (.retransmitTimeout c seq) s = exec (.retransmitTimeout c seq) s := rfl

theorem runEvent_teardown (c : ConnRef) (s : State) : runEvent (.teardown c) s = exec (.teardown c) s := rfl

theorem runEvent_fillingIdleTimeout (c : ConnRef) (s : State) :
    runEvent (.fillingIdleTimeout c) s = exec (.fillingIdleTimeout c) s := rfl

theorem runEvent_arrivalResend (c : ConnRef) (seq : Nat) (s : State) :
    runEvent (.arrivalResend c seq) s = exec (.arrivalResend c seq) s := rfl

theorem runEvent_routerWaitExpiry (p : Packet) (s : State) :
    runEvent (.routerWaitExpiry p) s = exec (.routerWaitExpiry p) s := rfl

theorem runEvent_rudBucket (b : Bucket) (s : State) : runEvent (.rudBucket b) s = exec (.rudBucket b) s := rfl

theorem runEvent_rudiPartial (c : CmdRef) (shard : Nat) (ps : ShardAnswer) (s : State) :
    runEvent (.rudiPartial c shard ps) s = exec (.rudiPartial c shard ps) s := rfl

theorem runEvent_uecDeliveryFailure (c : CmdRef) (s : State) :
    runEvent (.uecDeliveryFailure c) s = exec (.uecDeliveryFailure c) s := rfl

theorem runEvent_claim (ag : RegAgent) (s : State) : runEvent (.claim ag) s = exec (.claim ag) s := rfl

theorem runEvent_renew (ag : RegAgent) (s : State) : runEvent (.renew ag) s = exec (.renew ag) s := rfl

theorem runEvent_handover (ag : RegAgent) (succ : BitVec 2) (s : State) :
    runEvent (.handover ag succ) s = exec (.handover ag succ) s := rfl

theorem runEvent_leaseExpiry (s : State) : runEvent .leaseExpiry s = exec .leaseExpiry s := rfl

theorem runEvent_powerUp (s : State) : runEvent .powerUp s = exec .powerUp s := rfl

theorem runEvent_clearingComplete (s : State) : runEvent .clearingComplete s = exec .clearingComplete s := rfl

theorem runEvent_bootctlGo (ag : RegAgent) (s : State) : runEvent (.bootctlGo ag) s = exec (.bootctlGo ag) s := rfl

theorem runEvent_verificationComplete (s : State) :
    runEvent .verificationComplete s = exec .verificationComplete s := rfl

theorem runEvent_devrst (ag : RegAgent) (v : Word) (s : State) :
    runEvent (.devrst ag v) s = exec (.devrst ag v) s := rfl

theorem runEvent_attgo (ag : RegAgent) (s : State) : runEvent (.attgo ag) s = exec (.attgo ag) s := rfl

theorem runEvent_attestationReport (s : State) : runEvent .attestationReport s = exec .attestationReport s := rfl

theorem runEvent_powerWindow (watts : Nat) (s : State) :
    runEvent (.powerWindow watts) s = exec (.powerWindow watts) s := rfl

theorem runEvent_limitReached (watts amps temp : Nat) (s : State) :
    runEvent (.limitReached watts amps temp) s = exec (.limitReached watts amps temp) s := rfl

theorem runEvent_thermalTrip (temp : Nat) (s : State) :
    runEvent (.thermalTrip temp) s = exec (.thermalTrip temp) s := rfl

theorem runEvent_powerDown (s : State) : runEvent .powerDown s = exec .powerDown s := rfl

theorem runEvent_refresh (stack pc : Nat) (s : State) :
    runEvent (.refresh stack pc) s = exec (.refresh stack pc) s := rfl

theorem runEvent_ageRefresh (part : Nat) (s : State) : runEvent (.ageRefresh part) s = exec (.ageRefresh part) s := rfl

theorem runEvent_pcieLinkTraining (port gen : Nat) (x16 : Bool) (s : State) :
    runEvent (.pcieLinkTraining port gen x16) s = exec (.pcieLinkTraining port gen x16) s := rfl

theorem runEvent_apertureWrite (ag : RegAgent) (boot : Bool) (offset : Nat) (bytes : List Byte) (s : State) :
    runEvent (.apertureWrite ag boot offset bytes) s = exec (.apertureWrite ag boot offset bytes) s := rfl

theorem runEvent_packetForward (p : Packet) (port : Nat) (s : State) :
    runEvent (.packetForward p port) s = exec (.packetForward p port) s := rfl

theorem runEvent_junctionHold (op : QOp) (s : State) : runEvent (.junctionHold op) s = exec (.junctionHold op) s := rfl

end Sys2Proof.Machine
end

