-- ==== Sys2Proof/Laws/Memory.lean ====
section
/-!
SUPPORT. Memory as a canonical list: every operation keeps the form, a read after a write gives the value written, and a
write leaves every other address alone.
-/

namespace Sys2Proof.Machine

/-! ### The canonical form -/

theorem memWfFrom_mono {lo hi : Nat} (h : lo ≤ hi) : ∀ {m : List Host.Cell}, memWfFrom hi m = true → memWfFrom lo m = true
  | [], _ => rfl
  | (k, v) :: r, hw => by
    simp only [memWfFrom, Bool.and_eq_true, decide_eq_true_eq] at hw ⊢
    exact ⟨⟨le_trans h hw.1.1, hw.1.2⟩, hw.2⟩

/-- An address below the form's bound reads zero. -/
theorem memGet_below : ∀ {m : List Host.Cell} {lo a : Nat}, memWfFrom lo m = true → a < lo → memGet m a = 0
  | [], _, _, _, _ => rfl
  | (k, v) :: r, lo, a, hw, ha => by
    simp only [memWfFrom, Bool.and_eq_true, decide_eq_true_eq] at hw
    have h1 : k ≠ a := by omega
    have h2 : a < k := by omega
    simp [memGet, h1, h2]

theorem memSet_wfFrom : ∀ (m : List Host.Cell) (lo a : Nat) (b : Byte), memWfFrom lo m = true → lo ≤ a →
    memWfFrom lo (memSet m a b) = true
  | [], lo, a, b, _, h => by
    by_cases hb : b = 0#8 <;> simp [memSet, memWfFrom, hb, h]
  | (k, v) :: r, lo, a, b, hw, h => by
    have hw' := hw
    simp only [memWfFrom, Bool.and_eq_true, decide_eq_true_eq] at hw
    obtain ⟨⟨h1, h2⟩, h3⟩ := hw
    by_cases hk : k = a
    · by_cases hb : b = 0#8
      · simpa [memSet, hk, hb] using memWfFrom_mono (by omega) h3
      · have : memSet ((k, v) :: r) a b = (a, b) :: r := by simp [memSet, hk, hb]
        subst hk
        rw [this, memWfFrom, h3]
        simp [h, hb]
    · by_cases ha : a < k
      · by_cases hb : b = 0#8
        · simpa [memSet, hk, ha, hb] using hw'
        · have : memSet ((k, v) :: r) a b = (a, b) :: (k, v) :: r := by simp [memSet, hk, ha, hb]
          rw [this]
          simp only [memWfFrom, Bool.and_eq_true, decide_eq_true_eq]
          exact ⟨⟨h, by simpa using hb⟩, ⟨by omega, h2⟩, h3⟩
      · simp only [memSet, hk, ha, if_false, memWfFrom, Bool.and_eq_true, decide_eq_true_eq]
        exact ⟨⟨h1, h2⟩, memSet_wfFrom r (k + 1) a b h3 (by omega)⟩

/-- A byte written keeps the canonical form. -/
theorem memSet_wf {m : List Host.Cell} (a : Nat) (b : Byte) (h : Memory.wf m = true) :
    Memory.wf (memSet m a b) = true :=
  memSet_wfFrom m 0 a b h (Nat.zero_le a)

/-- Bytes written keep it. -/
theorem memSets_wf : ∀ (bs : List Byte) {m : List Host.Cell} (a : Nat), Memory.wf m = true →
    Memory.wf (memSets m a bs) = true
  | [], _, _, h => h
  | b :: bs, _, a, h => memSets_wf bs (a + 1) (memSet_wf a b h)

theorem memWfFrom_filter (p : Host.Cell → Bool) : ∀ {m : List Host.Cell} {lo : Nat}, memWfFrom lo m = true →
    memWfFrom lo (m.filter p) = true
  | [], _, _ => rfl
  | (k, v) :: r, lo, hw => by
    simp only [memWfFrom, Bool.and_eq_true, decide_eq_true_eq] at hw
    by_cases hp : p (k, v) = true
    · simp only [List.filter, hp, memWfFrom, Bool.and_eq_true, decide_eq_true_eq]
      exact ⟨hw.1, memWfFrom_filter p hw.2⟩
    · simp only [List.filter, hp]
      exact memWfFrom_mono (by omega) (memWfFrom_filter p hw.2)

/-- Clearing a range keeps it. -/
theorem memClear_wf {m : List Host.Cell} (a n : Nat) (h : Memory.wf m = true) : Memory.wf (memClear m a n) = true :=
  memWfFrom_filter _ h

/-- So does a store at the homes. -/
theorem Mach.put_wf {M : Mach} (a : Nat) (bs : List Byte) (h : Memory.wf M.mem = true) :
    Memory.wf (M.put a bs).mem = true :=
  memSets_wf bs a h

/-- So does a store over several pieces. -/
theorem homeWrite_wf : ∀ (ps : List (Nat × Nat)) {M : Mach} (bs : List Byte), Memory.wf M.mem = true →
    Memory.wf (homeWrite M ps bs).mem = true
  | [], _, _, h => h
  | (pa, n) :: ps, _, bs, h => homeWrite_wf ps (bs.drop n) (Mach.put_wf pa (bs.take n) h)

/-! ### Reading and writing -/

theorem memGet_memSet_from : ∀ (m : List Host.Cell) (lo a : Nat) (b : Byte) (x : Nat), memWfFrom lo m = true →
    memGet (memSet m a b) x = if x = a then b else memGet m x
  | [], _, a, b, x, _ => by
    by_cases hb : b = 0#8
    · simp [memSet, memGet, hb]
    · by_cases hx : x = a
      · subst hx; simp [memSet, memGet, hb]
      · have hx' : a ≠ x := fun h => hx h.symm
        simp [memSet, memGet, hb, hx, hx']
  | (k, v) :: r, lo, a, b, x, hw => by
    simp only [memWfFrom, Bool.and_eq_true, decide_eq_true_eq] at hw
    obtain ⟨_, h3⟩ := hw
    by_cases hk : k = a
    · subst hk
      by_cases hb : b = 0#8
      · by_cases hx : x = k
        · subst hx
          simp [memSet, hb, memGet_below h3 (Nat.lt_succ_self x)]
        · have hx' : k ≠ x := fun h => hx h.symm
          by_cases hlt : x < k
          · simp [memSet, hb, hx, hx', memGet, hlt, memGet_below h3 (by omega : x < k + 1)]
          · simp [memSet, hb, hx, hx', memGet, hlt]
      · by_cases hx : x = k
        · subst hx; simp [memSet, hb, memGet]
        · have hx' : k ≠ x := fun h => hx h.symm
          simp [memSet, hb, hx, hx', memGet]
    · by_cases ha : a < k
      · by_cases hb : b = 0#8
        · by_cases hx : x = a
          · subst hx; simp [memSet, hk, ha, hb, memGet]
          · simp [memSet, hk, ha, hb, hx]
        · by_cases hx : x = a
          · subst hx; simp [memSet, hk, ha, hb, memGet]
          · have hx' : a ≠ x := fun h => hx h.symm
            by_cases hlt : x < a
            · have h1 : k ≠ x := by omega
              have h2 : x < k := by omega
              simp [memSet, hk, ha, hb, memGet, hx, hx', hlt, h1, h2]
            · simp [memSet, hk, ha, hb, memGet, hx, hx', hlt]
      · have ih := memGet_memSet_from r (k + 1) a b x h3
        by_cases hx : x = a
        · subst hx
          simp [memSet, hk, ha, memGet, ih]
        · simp only [memSet, hk, ha, if_false, memGet, ih, hx]

/-- A byte read after a byte written: the value written there, and what stood anywhere else. -/
theorem memGet_memSet {m : List Host.Cell} (h : Memory.wf m = true) (a : Nat) (b : Byte) (x : Nat) :
    memGet (memSet m a b) x = if x = a then b else memGet m x :=
  memGet_memSet_from m 0 a b x h

/-- A byte read after bytes written. -/
theorem memGet_memSets : ∀ (bs : List Byte) {m : List Host.Cell} (a x : Nat), Memory.wf m = true →
    memGet (memSets m a bs) x = if a ≤ x ∧ x < a + bs.length then bs.getD (x - a) 0 else memGet m x
  | [], m, a, x, _ => by simp [memSets]
  | b :: bs, m, a, x, h => by
    rw [memSets, memGet_memSets bs (a + 1) x (memSet_wf a b h), memGet_memSet h]
    by_cases h1 : x = a
    · subst h1; simp
    · by_cases h2 : a + 1 ≤ x ∧ x < a + 1 + bs.length
      · have h3 : a ≤ x ∧ x < a + (b :: bs).length := by simp; omega
        have h4 : x - a = (x - (a + 1)) + 1 := by omega
        rw [if_pos h2, if_pos h3, h4]; simp
      · have h3 : ¬ (a ≤ x ∧ x < a + (b :: bs).length) := by simp; omega
        rw [if_neg h2, if_neg h3, if_neg h1]

theorem memGets_length (m : List Host.Cell) : ∀ (n a : Nat), (memGets m a n).length = n
  | 0, _ => rfl
  | n + 1, a => by simp [memGets, memGets_length m n]

theorem memGets_getD (m : List Host.Cell) : ∀ (n a i : Nat), i < n → (memGets m a n).getD i 0 = memGet m (a + i)
  | 0, _, _, h => by omega
  | n + 1, a, 0, _ => by simp [memGets]
  | n + 1, a, i + 1, h => by
    have := memGets_getD m n (a + 1) i (by omega)
    simp only [memGets, List.getD_cons_succ, this]
    congr 1; omega

/-- Reading back the bytes just written. -/
theorem Mach.get_put {M : Mach} (h : Memory.wf M.mem = true) (a : Nat) (bs : List Byte) :
    (M.put a bs).get a bs.length = bs := by
  refine List.ext_getElem (by simp [Mach.get, memGets_length]) fun i h1 h2 => ?_
  have hg := memGets_getD (M.put a bs).mem bs.length a i h2
  simp only [Mach.put, memGet_memSets bs a (a + i) h] at hg
  have : a ≤ a + i ∧ a + i < a + bs.length := by omega
  rw [if_pos this, Nat.add_sub_cancel_left, List.getD_eq_getElem _ _ h2] at hg
  rw [← hg, List.getD_eq_getElem]
  rfl

/-- A store leaves every byte outside it as it was. -/
theorem Mach.get_put_outside {M : Mach} (h : Memory.wf M.mem = true) (a : Nat) (bs : List Byte) (x : Nat)
    (hx : x < a ∨ a + bs.length ≤ x) : memGet (M.put a bs).mem x = memGet M.mem x := by
  rw [Mach.put, memGet_memSets bs a x h, if_neg (by omega)]

end Sys2Proof.Machine
end

