-- ==== Sys2Proof/Laws/PerInstr.lean ====
section
/-!
SUPPORT. Decoding what the encoder writes, one lemma for each constructor of `Instr`. A device event has no word and is
never well formed.
-/

set_option linter.unusedSimpArgs false

namespace Sys2Proof.Laws.RoundTrip

/-- Every word the encoder writes for a well-formed instruction, with any IDLE, decodes to that instruction. -/
def Statement (i : Instr) : Prop := ∀ idle : BitVec 10, i.wf = true → decode (encode idle i) = .ok i

/-- A decision left on one bit of a word takes the branch that the bit takes. -/
theorem bit_cases {α : Type} (b : Bool) {x y z : α} (ht : b = true → x = z) (hf : b = false → y = z) :
    Decidable.rec (motive := fun _ => α) (fun _ => y) (fun _ => x) (instDecidableEqBool b true) = z := by
  cases b
  · exact hf rfl
  · exact ht rfl

theorem nop : Statement (.nop) := by
  intro idle h
  refine decode_encode idle rfl rfl (by simp) ?_ h
  conv_lhs => whnf
  try simp (disch := omega) only [extract_above, extract_below, getLsbD_above, getLsbD_below, AtomArgs.fn, readAtom, QArgs.ofFn, QArgs.fn7, VArgs3.fmt, VArgs2.fmt, VArgs1.fmt, VRed.fmt]
  try simp

theorem go : Statement (.go) := by
  intro idle h
  refine decode_encode idle rfl rfl (by simp) ?_ h
  conv_lhs => whnf
  try simp (disch := omega) only [extract_above, extract_below, getLsbD_above, getLsbD_below, AtomArgs.fn, readAtom, QArgs.ofFn, QArgs.fn7, VArgs3.fmt, VArgs2.fmt, VArgs1.fmt, VRed.fmt]
  try simp

theorem halt : Statement (.halt) := by
  intro idle h
  refine decode_encode idle rfl rfl (by simp) ?_ h
  conv_lhs => whnf
  try simp (disch := omega) only [extract_above, extract_below, getLsbD_above, getLsbD_below, AtomArgs.fn, readAtom, QArgs.ofFn, QArgs.fn7, VArgs3.fmt, VArgs2.fmt, VArgs1.fmt, VRed.fmt]
  try simp

theorem trap (x : Src) : Statement (.trap x) := by
  intro idle h
  refine decode_encode idle rfl rfl (by simp) ?_ h
  conv_lhs => whnf
  try simp (disch := omega) only [extract_above, extract_below, getLsbD_above, getLsbD_below, AtomArgs.fn, readAtom, QArgs.ofFn, QArgs.fn7, VArgs3.fmt, VArgs2.fmt, VArgs1.fmt, VRed.fmt]
  try simp

theorem eret : Statement (.eret) := by
  intro idle h
  refine decode_encode idle rfl rfl (by simp) ?_ h
  conv_lhs => whnf
  try simp (disch := omega) only [extract_above, extract_below, getLsbD_above, getLsbD_below, AtomArgs.fn, readAtom, QArgs.ofFn, QArgs.fn7, VArgs3.fmt, VArgs2.fmt, VArgs1.fmt, VRed.fmt]
  try simp

theorem csrr (d : Dst) (n : Csr) : Statement (.csrr d n) := by
  intro idle h
  refine decode_encode idle rfl rfl (by simp) ?_ h
  conv_lhs => whnf
  try simp (disch := omega) only [extract_above, extract_below, getLsbD_above, getLsbD_below, AtomArgs.fn, readAtom, QArgs.ofFn, QArgs.fn7, VArgs3.fmt, VArgs2.fmt, VArgs1.fmt, VRed.fmt]
  try simp

theorem csrw (n : Csr) (x : Reg) : Statement (.csrw n x) := by
  intro idle h
  refine decode_encode idle rfl rfl (by simp) ?_ h
  conv_lhs => whnf
  try simp (disch := omega) only [extract_above, extract_below, getLsbD_above, getLsbD_below, AtomArgs.fn, readAtom, QArgs.ofFn, QArgs.fn7, VArgs3.fmt, VArgs2.fmt, VArgs1.fmt, VRed.fmt]
  try simp

theorem idem : Statement (.idem) := by
  intro idle h
  refine decode_encode idle rfl rfl (by simp) ?_ h
  conv_lhs => whnf
  try simp (disch := omega) only [extract_above, extract_below, getLsbD_above, getLsbD_below, AtomArgs.fn, readAtom, QArgs.ofFn, QArgs.fn7, VArgs3.fmt, VArgs2.fmt, VArgs1.fmt, VRed.fmt]
  try simp

theorem idemEnd : Statement (.idemEnd) := by
  intro idle h
  refine decode_encode idle rfl rfl (by simp) ?_ h
  conv_lhs => whnf
  try simp (disch := omega) only [extract_above, extract_below, getLsbD_above, getLsbD_below, AtomArgs.fn, readAtom, QArgs.ofFn, QArgs.fn7, VArgs3.fmt, VArgs2.fmt, VArgs1.fmt, VRed.fmt]
  try simp

theorem brk (n : BitVec 16) : Statement (.brk n) := by
  intro idle h
  refine decode_encode idle rfl rfl (by simp) ?_ h
  conv_lhs => whnf
  try simp (disch := omega) only [extract_above, extract_below, getLsbD_above, getLsbD_below, AtomArgs.fn, readAtom, QArgs.ofFn, QArgs.fn7, VArgs3.fmt, VArgs2.fmt, VArgs1.fmt, VRed.fmt]
  try simp

theorem done : Statement (.done) := by
  intro idle h
  refine decode_encode idle rfl rfl (by simp) ?_ h
  conv_lhs => whnf
  try simp (disch := omega) only [extract_above, extract_below, getLsbD_above, getLsbD_below, AtomArgs.fn, readAtom, QArgs.ofFn, QArgs.fn7, VArgs3.fmt, VArgs2.fmt, VArgs1.fmt, VRed.fmt]
  try simp

theorem add (d : Dst) (x y : Src) : Statement (.add d x y) := by
  intro idle h
  refine decode_encode idle rfl rfl (by simp) ?_ h
  conv_lhs => whnf
  try simp (disch := omega) only [extract_above, extract_below, getLsbD_above, getLsbD_below, AtomArgs.fn, readAtom, QArgs.ofFn, QArgs.fn7, VArgs3.fmt, VArgs2.fmt, VArgs1.fmt, VRed.fmt]
  simp [Src.ofCode_right x y h]

theorem sub (d : Dst) (x y : Src) : Statement (.sub d x y) := by
  intro idle h
  refine decode_encode idle rfl rfl (by simp) ?_ h
  conv_lhs => whnf
  try simp (disch := omega) only [extract_above, extract_below, getLsbD_above, getLsbD_below, AtomArgs.fn, readAtom, QArgs.ofFn, QArgs.fn7, VArgs3.fmt, VArgs2.fmt, VArgs1.fmt, VRed.fmt]
  simp [Src.ofCode_right x y h]

theorem mul (d : Dst) (x y : Src) : Statement (.mul d x y) := by
  intro idle h
  refine decode_encode idle rfl rfl (by simp) ?_ h
  conv_lhs => whnf
  try simp (disch := omega) only [extract_above, extract_below, getLsbD_above, getLsbD_below, AtomArgs.fn, readAtom, QArgs.ofFn, QArgs.fn7, VArgs3.fmt, VArgs2.fmt, VArgs1.fmt, VRed.fmt]
  simp [Src.ofCode_right x y h]

theorem mulh (d : Dst) (x y : Src) : Statement (.mulh d x y) := by
  intro idle h
  refine decode_encode idle rfl rfl (by simp) ?_ h
  conv_lhs => whnf
  try simp (disch := omega) only [extract_above, extract_below, getLsbD_above, getLsbD_below, AtomArgs.fn, readAtom, QArgs.ofFn, QArgs.fn7, VArgs3.fmt, VArgs2.fmt, VArgs1.fmt, VRed.fmt]
  simp [Src.ofCode_right x y h]

theorem mulhu (d : Dst) (x y : Src) : Statement (.mulhu d x y) := by
  intro idle h
  refine decode_encode idle rfl rfl (by simp) ?_ h
  conv_lhs => whnf
  try simp (disch := omega) only [extract_above, extract_below, getLsbD_above, getLsbD_below, AtomArgs.fn, readAtom, QArgs.ofFn, QArgs.fn7, VArgs3.fmt, VArgs2.fmt, VArgs1.fmt, VRed.fmt]
  simp [Src.ofCode_right x y h]

theorem div (d : Dst) (x y : Src) : Statement (.div d x y) := by
  intro idle h
  refine decode_encode idle rfl rfl (by simp) ?_ h
  conv_lhs => whnf
  try simp (disch := omega) only [extract_above, extract_below, getLsbD_above, getLsbD_below, AtomArgs.fn, readAtom, QArgs.ofFn, QArgs.fn7, VArgs3.fmt, VArgs2.fmt, VArgs1.fmt, VRed.fmt]
  simp [Src.ofCode_right x y h]

theorem divu (d : Dst) (x y : Src) : Statement (.divu d x y) := by
  intro idle h
  refine decode_encode idle rfl rfl (by simp) ?_ h
  conv_lhs => whnf
  try simp (disch := omega) only [extract_above, extract_below, getLsbD_above, getLsbD_below, AtomArgs.fn, readAtom, QArgs.ofFn, QArgs.fn7, VArgs3.fmt, VArgs2.fmt, VArgs1.fmt, VRed.fmt]
  simp [Src.ofCode_right x y h]

theorem rem (d : Dst) (x y : Src) : Statement (.rem d x y) := by
  intro idle h
  refine decode_encode idle rfl rfl (by simp) ?_ h
  conv_lhs => whnf
  try simp (disch := omega) only [extract_above, extract_below, getLsbD_above, getLsbD_below, AtomArgs.fn, readAtom, QArgs.ofFn, QArgs.fn7, VArgs3.fmt, VArgs2.fmt, VArgs1.fmt, VRed.fmt]
  simp [Src.ofCode_right x y h]

theorem remu (d : Dst) (x y : Src) : Statement (.remu d x y) := by
  intro idle h
  refine decode_encode idle rfl rfl (by simp) ?_ h
  conv_lhs => whnf
  try simp (disch := omega) only [extract_above, extract_below, getLsbD_above, getLsbD_below, AtomArgs.fn, readAtom, QArgs.ofFn, QArgs.fn7, VArgs3.fmt, VArgs2.fmt, VArgs1.fmt, VRed.fmt]
  simp [Src.ofCode_right x y h]

theorem and (d : Dst) (x y : Src) : Statement (.and d x y) := by
  intro idle h
  refine decode_encode idle rfl rfl (by simp) ?_ h
  conv_lhs => whnf
  try simp (disch := omega) only [extract_above, extract_below, getLsbD_above, getLsbD_below, AtomArgs.fn, readAtom, QArgs.ofFn, QArgs.fn7, VArgs3.fmt, VArgs2.fmt, VArgs1.fmt, VRed.fmt]
  simp [Src.ofCode_right x y h]

theorem or (d : Dst) (x y : Src) : Statement (.or d x y) := by
  intro idle h
  refine decode_encode idle rfl rfl (by simp) ?_ h
  conv_lhs => whnf
  try simp (disch := omega) only [extract_above, extract_below, getLsbD_above, getLsbD_below, AtomArgs.fn, readAtom, QArgs.ofFn, QArgs.fn7, VArgs3.fmt, VArgs2.fmt, VArgs1.fmt, VRed.fmt]
  simp [Src.ofCode_right x y h]

theorem xor (d : Dst) (x y : Src) : Statement (.xor d x y) := by
  intro idle h
  refine decode_encode idle rfl rfl (by simp) ?_ h
  conv_lhs => whnf
  try simp (disch := omega) only [extract_above, extract_below, getLsbD_above, getLsbD_below, AtomArgs.fn, readAtom, QArgs.ofFn, QArgs.fn7, VArgs3.fmt, VArgs2.fmt, VArgs1.fmt, VRed.fmt]
  simp [Src.ofCode_right x y h]

theorem shl (d : Dst) (x y : Src) : Statement (.shl d x y) := by
  intro idle h
  refine decode_encode idle rfl rfl (by simp) ?_ h
  conv_lhs => whnf
  try simp (disch := omega) only [extract_above, extract_below, getLsbD_above, getLsbD_below, AtomArgs.fn, readAtom, QArgs.ofFn, QArgs.fn7, VArgs3.fmt, VArgs2.fmt, VArgs1.fmt, VRed.fmt]
  simp [Src.ofCode_right x y h]

theorem shr (d : Dst) (x y : Src) : Statement (.shr d x y) := by
  intro idle h
  refine decode_encode idle rfl rfl (by simp) ?_ h
  conv_lhs => whnf
  try simp (disch := omega) only [extract_above, extract_below, getLsbD_above, getLsbD_below, AtomArgs.fn, readAtom, QArgs.ofFn, QArgs.fn7, VArgs3.fmt, VArgs2.fmt, VArgs1.fmt, VRed.fmt]
  simp [Src.ofCode_right x y h]

theorem sar (d : Dst) (x y : Src) : Statement (.sar d x y) := by
  intro idle h
  refine decode_encode idle rfl rfl (by simp) ?_ h
  conv_lhs => whnf
  try simp (disch := omega) only [extract_above, extract_below, getLsbD_above, getLsbD_below, AtomArgs.fn, readAtom, QArgs.ofFn, QArgs.fn7, VArgs3.fmt, VArgs2.fmt, VArgs1.fmt, VRed.fmt]
  simp [Src.ofCode_right x y h]

theorem min (d : Dst) (x y : Src) : Statement (.min d x y) := by
  intro idle h
  refine decode_encode idle rfl rfl (by simp) ?_ h
  conv_lhs => whnf
  try simp (disch := omega) only [extract_above, extract_below, getLsbD_above, getLsbD_below, AtomArgs.fn, readAtom, QArgs.ofFn, QArgs.fn7, VArgs3.fmt, VArgs2.fmt, VArgs1.fmt, VRed.fmt]
  simp [Src.ofCode_right x y h]

theorem max (d : Dst) (x y : Src) : Statement (.max d x y) := by
  intro idle h
  refine decode_encode idle rfl rfl (by simp) ?_ h
  conv_lhs => whnf
  try simp (disch := omega) only [extract_above, extract_below, getLsbD_above, getLsbD_below, AtomArgs.fn, readAtom, QArgs.ofFn, QArgs.fn7, VArgs3.fmt, VArgs2.fmt, VArgs1.fmt, VRed.fmt]
  simp [Src.ofCode_right x y h]

theorem minu (d : Dst) (x y : Src) : Statement (.minu d x y) := by
  intro idle h
  refine decode_encode idle rfl rfl (by simp) ?_ h
  conv_lhs => whnf
  try simp (disch := omega) only [extract_above, extract_below, getLsbD_above, getLsbD_below, AtomArgs.fn, readAtom, QArgs.ofFn, QArgs.fn7, VArgs3.fmt, VArgs2.fmt, VArgs1.fmt, VRed.fmt]
  simp [Src.ofCode_right x y h]

theorem maxu (d : Dst) (x y : Src) : Statement (.maxu d x y) := by
  intro idle h
  refine decode_encode idle rfl rfl (by simp) ?_ h
  conv_lhs => whnf
  try simp (disch := omega) only [extract_above, extract_below, getLsbD_above, getLsbD_below, AtomArgs.fn, readAtom, QArgs.ofFn, QArgs.fn7, VArgs3.fmt, VArgs2.fmt, VArgs1.fmt, VRed.fmt]
  simp [Src.ofCode_right x y h]

theorem slt (d : Dst) (x y : Src) : Statement (.slt d x y) := by
  intro idle h
  refine decode_encode idle rfl rfl (by simp) ?_ h
  conv_lhs => whnf
  try simp (disch := omega) only [extract_above, extract_below, getLsbD_above, getLsbD_below, AtomArgs.fn, readAtom, QArgs.ofFn, QArgs.fn7, VArgs3.fmt, VArgs2.fmt, VArgs1.fmt, VRed.fmt]
  simp [Src.ofCode_right x y h]

theorem sltu (d : Dst) (x y : Src) : Statement (.sltu d x y) := by
  intro idle h
  refine decode_encode idle rfl rfl (by simp) ?_ h
  conv_lhs => whnf
  try simp (disch := omega) only [extract_above, extract_below, getLsbD_above, getLsbD_below, AtomArgs.fn, readAtom, QArgs.ofFn, QArgs.fn7, VArgs3.fmt, VArgs2.fmt, VArgs1.fmt, VRed.fmt]
  simp [Src.ofCode_right x y h]

theorem seq (d : Dst) (x y : Src) : Statement (.seq d x y) := by
  intro idle h
  refine decode_encode idle rfl rfl (by simp) ?_ h
  conv_lhs => whnf
  try simp (disch := omega) only [extract_above, extract_below, getLsbD_above, getLsbD_below, AtomArgs.fn, readAtom, QArgs.ofFn, QArgs.fn7, VArgs3.fmt, VArgs2.fmt, VArgs1.fmt, VRed.fmt]
  simp [Src.ofCode_right x y h]

theorem sel (d : Dst) (c : BitVec 5) (x y : Src) : Statement (.sel d c x y) := by
  intro idle h
  refine decode_encode idle rfl rfl (by simp) ?_ h
  conv_lhs => whnf
  try simp (disch := omega) only [extract_above, extract_below, getLsbD_above, getLsbD_below, AtomArgs.fn, readAtom, QArgs.ofFn, QArgs.fn7, VArgs3.fmt, VArgs2.fmt, VArgs1.fmt, VRed.fmt]
  simp [Src.ofCode_right x y h]

theorem li (d : Dst) (v : BitVec 32) : Statement (.li d v) := by
  intro idle h
  refine decode_encode idle rfl rfl (by simp) ?_ h
  conv_lhs => whnf
  try simp (disch := omega) only [extract_above, extract_below, getLsbD_above, getLsbD_below, AtomArgs.fn, readAtom, QArgs.ofFn, QArgs.fn7, VArgs3.fmt, VArgs2.fmt, VArgs1.fmt, VRed.fmt]
  try simp

theorem lih (d : Dst) (v : BitVec 32) : Statement (.lih d v) := by
  intro idle h
  refine decode_encode idle rfl rfl (by simp) ?_ h
  conv_lhs => whnf
  try simp (disch := omega) only [extract_above, extract_below, getLsbD_above, getLsbD_below, AtomArgs.fn, readAtom, QArgs.ofFn, QArgs.fn7, VArgs3.fmt, VArgs2.fmt, VArgs1.fmt, VRed.fmt]
  try simp

theorem clz (d : Dst) (x : Src) : Statement (.clz d x) := by
  intro idle h
  refine decode_encode idle rfl rfl (by simp) ?_ h
  conv_lhs => whnf
  try simp (disch := omega) only [extract_above, extract_below, getLsbD_above, getLsbD_below, AtomArgs.fn, readAtom, QArgs.ofFn, QArgs.fn7, VArgs3.fmt, VArgs2.fmt, VArgs1.fmt, VRed.fmt]
  try simp

theorem popc (d : Dst) (x : Src) : Statement (.popc d x) := by
  intro idle h
  refine decode_encode idle rfl rfl (by simp) ?_ h
  conv_lhs => whnf
  try simp (disch := omega) only [extract_above, extract_below, getLsbD_above, getLsbD_below, AtomArgs.fn, readAtom, QArgs.ofFn, QArgs.fn7, VArgs3.fmt, VArgs2.fmt, VArgs1.fmt, VRed.fmt]
  try simp

theorem bext (d : Dst) (x : Reg) (p : BitVec 6) (n : BitVec 7) : Statement (.bext d x p n) := by
  intro idle h
  refine decode_encode idle rfl rfl (by simp) ?_ h
  conv_lhs => whnf
  try simp (disch := omega) only [extract_above, extract_below, getLsbD_above, getLsbD_below, AtomArgs.fn, readAtom, QArgs.ofFn, QArgs.fn7, VArgs3.fmt, VArgs2.fmt, VArgs1.fmt, VRed.fmt]
  try simp

theorem bextS (d : Dst) (x : Reg) (p : BitVec 6) (n : BitVec 7) : Statement (.bextS d x p n) := by
  intro idle h
  refine decode_encode idle rfl rfl (by simp) ?_ h
  conv_lhs => whnf
  try simp (disch := omega) only [extract_above, extract_below, getLsbD_above, getLsbD_below, AtomArgs.fn, readAtom, QArgs.ofFn, QArgs.fn7, VArgs3.fmt, VArgs2.fmt, VArgs1.fmt, VRed.fmt]
  try simp

theorem bins (d : Dst) (x : Reg) (p : BitVec 6) (n : BitVec 7) : Statement (.bins d x p n) := by
  intro idle h
  refine decode_encode idle rfl rfl (by simp) ?_ h
  conv_lhs => whnf
  try simp (disch := omega) only [extract_above, extract_below, getLsbD_above, getLsbD_below, AtomArgs.fn, readAtom, QArgs.ofFn, QArgs.fn7, VArgs3.fmt, VArgs2.fmt, VArgs1.fmt, VRed.fmt]
  try simp

theorem madd (d : Dst) (x y : Src) (c : BitVec 5) : Statement (.madd d x y c) := by
  intro idle h
  refine decode_encode idle rfl rfl (by simp) ?_ h
  conv_lhs => whnf
  try simp (disch := omega) only [extract_above, extract_below, getLsbD_above, getLsbD_below, AtomArgs.fn, readAtom, QArgs.ofFn, QArgs.fn7, VArgs3.fmt, VArgs2.fmt, VArgs1.fmt, VRed.fmt]
  simp [Src.ofCode_right x y h]

theorem fopAdd (d : Dst) (x y : Src) (rtz : Bool) : Statement (.fopAdd d x y rtz) := by
  intro idle h
  refine decode_encode idle rfl rfl (by simp) ?_ h
  conv_lhs => whnf
  try simp (disch := omega) only [extract_above, extract_below, getLsbD_above, getLsbD_below, AtomArgs.fn, readAtom, QArgs.ofFn, QArgs.fn7, VArgs3.fmt, VArgs2.fmt, VArgs1.fmt, VRed.fmt]
  simp [Src.ofCode_right x y h]

theorem fopSub (d : Dst) (x y : Src) (rtz : Bool) : Statement (.fopSub d x y rtz) := by
  intro idle h
  refine decode_encode idle rfl rfl (by simp) ?_ h
  conv_lhs => whnf
  try simp (disch := omega) only [extract_above, extract_below, getLsbD_above, getLsbD_below, AtomArgs.fn, readAtom, QArgs.ofFn, QArgs.fn7, VArgs3.fmt, VArgs2.fmt, VArgs1.fmt, VRed.fmt]
  simp [Src.ofCode_right x y h]

theorem fopMul (d : Dst) (x y : Src) (rtz : Bool) : Statement (.fopMul d x y rtz) := by
  intro idle h
  refine decode_encode idle rfl rfl (by simp) ?_ h
  conv_lhs => whnf
  try simp (disch := omega) only [extract_above, extract_below, getLsbD_above, getLsbD_below, AtomArgs.fn, readAtom, QArgs.ofFn, QArgs.fn7, VArgs3.fmt, VArgs2.fmt, VArgs1.fmt, VRed.fmt]
  simp [Src.ofCode_right x y h]

theorem fopMin (d : Dst) (x y : Src) : Statement (.fopMin d x y) := by
  intro idle h
  refine decode_encode idle rfl rfl (by simp) ?_ h
  conv_lhs => whnf
  try simp (disch := omega) only [extract_above, extract_below, getLsbD_above, getLsbD_below, AtomArgs.fn, readAtom, QArgs.ofFn, QArgs.fn7, VArgs3.fmt, VArgs2.fmt, VArgs1.fmt, VRed.fmt]
  simp [Src.ofCode_right x y h]

theorem fopMax (d : Dst) (x y : Src) : Statement (.fopMax d x y) := by
  intro idle h
  refine decode_encode idle rfl rfl (by simp) ?_ h
  conv_lhs => whnf
  try simp (disch := omega) only [extract_above, extract_below, getLsbD_above, getLsbD_below, AtomArgs.fn, readAtom, QArgs.ofFn, QArgs.fn7, VArgs3.fmt, VArgs2.fmt, VArgs1.fmt, VRed.fmt]
  simp [Src.ofCode_right x y h]

theorem fopEq (d : Dst) (x y : Src) : Statement (.fopEq d x y) := by
  intro idle h
  refine decode_encode idle rfl rfl (by simp) ?_ h
  conv_lhs => whnf
  try simp (disch := omega) only [extract_above, extract_below, getLsbD_above, getLsbD_below, AtomArgs.fn, readAtom, QArgs.ofFn, QArgs.fn7, VArgs3.fmt, VArgs2.fmt, VArgs1.fmt, VRed.fmt]
  simp [Src.ofCode_right x y h]

theorem fopLt (d : Dst) (x y : Src) : Statement (.fopLt d x y) := by
  intro idle h
  refine decode_encode idle rfl rfl (by simp) ?_ h
  conv_lhs => whnf
  try simp (disch := omega) only [extract_above, extract_below, getLsbD_above, getLsbD_below, AtomArgs.fn, readAtom, QArgs.ofFn, QArgs.fn7, VArgs3.fmt, VArgs2.fmt, VArgs1.fmt, VRed.fmt]
  simp [Src.ofCode_right x y h]

theorem fopLe (d : Dst) (x y : Src) : Statement (.fopLe d x y) := by
  intro idle h
  refine decode_encode idle rfl rfl (by simp) ?_ h
  conv_lhs => whnf
  try simp (disch := omega) only [extract_above, extract_below, getLsbD_above, getLsbD_below, AtomArgs.fn, readAtom, QArgs.ofFn, QArgs.fn7, VArgs3.fmt, VArgs2.fmt, VArgs1.fmt, VRed.fmt]
  simp [Src.ofCode_right x y h]

theorem cvtsfIf (d : Dst) (x : Src) (rtz : Bool) : Statement (.cvtsfIf d x rtz) := by
  intro idle h
  refine decode_encode idle rfl rfl (by simp) ?_ h
  conv_lhs => whnf
  try simp (disch := omega) only [extract_above, extract_below, getLsbD_above, getLsbD_below, AtomArgs.fn, readAtom, QArgs.ofFn, QArgs.fn7, VArgs3.fmt, VArgs2.fmt, VArgs1.fmt, VRed.fmt]
  try simp

theorem cvtsfFi (d : Dst) (x : Src) (rtz : Bool) : Statement (.cvtsfFi d x rtz) := by
  intro idle h
  refine decode_encode idle rfl rfl (by simp) ?_ h
  conv_lhs => whnf
  try simp (disch := omega) only [extract_above, extract_below, getLsbD_above, getLsbD_below, AtomArgs.fn, readAtom, QArgs.ofFn, QArgs.fn7, VArgs3.fmt, VArgs2.fmt, VArgs1.fmt, VRed.fmt]
  try simp

theorem bc (c : Cond) (x y : Reg) (off : BitVec 24) : Statement (.bc c x y off) := by
  intro idle h
  refine decode_encode idle rfl rfl (by simp) ?_ h
  conv_lhs => whnf
  try simp (disch := omega) only [extract_above, extract_below, getLsbD_above, getLsbD_below, AtomArgs.fn, readAtom, QArgs.ofFn, QArgs.fn7, VArgs3.fmt, VArgs2.fmt, VArgs1.fmt, VRed.fmt]
  try simp

theorem j (off : BitVec 24) : Statement (.j off) := by
  intro idle h
  refine decode_encode idle rfl rfl (by simp) ?_ h
  conv_lhs => whnf
  try simp (disch := omega) only [extract_above, extract_below, getLsbD_above, getLsbD_below, AtomArgs.fn, readAtom, QArgs.ofFn, QArgs.fn7, VArgs3.fmt, VArgs2.fmt, VArgs1.fmt, VRed.fmt]
  try simp

theorem jr (x : Reg) (off : BitVec 24) : Statement (.jr x off) := by
  intro idle h
  refine decode_encode idle rfl rfl (by simp) ?_ h
  conv_lhs => whnf
  try simp (disch := omega) only [extract_above, extract_below, getLsbD_above, getLsbD_below, AtomArgs.fn, readAtom, QArgs.ofFn, QArgs.fn7, VArgs3.fmt, VArgs2.fmt, VArgs1.fmt, VRed.fmt]
  try simp

theorem call (d : Dst) (off : BitVec 24) : Statement (.call d off) := by
  intro idle h
  refine decode_encode idle rfl rfl (by simp) ?_ h
  conv_lhs => whnf
  try simp (disch := omega) only [extract_above, extract_below, getLsbD_above, getLsbD_below, AtomArgs.fn, readAtom, QArgs.ofFn, QArgs.fn7, VArgs3.fmt, VArgs2.fmt, VArgs1.fmt, VRed.fmt]
  try simp

theorem ret (x : Reg) : Statement (.ret x) := by
  intro idle h
  refine decode_encode idle rfl rfl (by simp) ?_ h
  conv_lhs => whnf
  try simp (disch := omega) only [extract_above, extract_below, getLsbD_above, getLsbD_below, AtomArgs.fn, readAtom, QArgs.ofFn, QArgs.fn7, VArgs3.fmt, VArgs2.fmt, VArgs1.fmt, VRed.fmt]
  try simp

theorem loop (k : Bool) (x : Reg) (off : BitVec 24) : Statement (.loop k x off) := by
  intro idle h
  refine decode_encode idle rfl rfl (by simp) ?_ h
  conv_lhs => whnf
  try simp (disch := omega) only [extract_above, extract_below, getLsbD_above, getLsbD_below, AtomArgs.fn, readAtom, QArgs.ofFn, QArgs.fn7, VArgs3.fmt, VArgs2.fmt, VArgs1.fmt, VRed.fmt]
  try simp

theorem lpbrk (k : Bool) : Statement (.lpbrk k) := by
  intro idle h
  refine decode_encode idle rfl rfl (by simp) ?_ h
  conv_lhs => whnf
  try simp (disch := omega) only [extract_above, extract_below, getLsbD_above, getLsbD_below, AtomArgs.fn, readAtom, QArgs.ofFn, QArgs.fn7, VArgs3.fmt, VArgs2.fmt, VArgs1.fmt, VRed.fmt]
  try simp

theorem ld (d : Dst) (b : Reg) (slot : BitVec 5) (arr : BitVec 10) (sz : Size) (sx na : Bool) (off : BitVec 9) : Statement (.ld d b slot arr sz sx na off) := by
  intro idle h
  refine decode_encode idle rfl rfl (by simp) ?_ h
  conv_lhs => whnf
  try simp (disch := omega) only [extract_above, extract_below, getLsbD_above, getLsbD_below, AtomArgs.fn, readAtom, QArgs.ofFn, QArgs.fn7, VArgs3.fmt, VArgs2.fmt, VArgs1.fmt, VRed.fmt]
  try simp

theorem st (v : Reg) (b : Reg) (sz : Size) (off : BitVec 9) : Statement (.st v b sz off) := by
  intro idle h
  refine decode_encode idle rfl rfl (by simp) ?_ h
  conv_lhs => whnf
  try simp (disch := omega) only [extract_above, extract_below, getLsbD_above, getLsbD_below, AtomArgs.fn, readAtom, QArgs.ofFn, QArgs.fn7, VArgs3.fmt, VArgs2.fmt, VArgs1.fmt, VRed.fmt]
  try simp

theorem pref (b : Reg) (sz : Size) (off : BitVec 9) : Statement (.pref b sz off) := by
  intro idle h
  refine decode_encode idle rfl rfl (by simp) ?_ h
  conv_lhs => whnf
  try simp (disch := omega) only [extract_above, extract_below, getLsbD_above, getLsbD_below, AtomArgs.fn, readAtom, QArgs.ofFn, QArgs.fn7, VArgs3.fmt, VArgs2.fmt, VArgs1.fmt, VRed.fmt]
  try simp

theorem cflush (sc : Scope) (b : Reg) (sz : Size) (off : BitVec 9) : Statement (.cflush sc b sz off) := by
  intro idle h
  refine decode_encode idle rfl rfl (by simp) ?_ h
  conv_lhs => whnf
  try simp (disch := omega) only [extract_above, extract_below, getLsbD_above, getLsbD_below, AtomArgs.fn, readAtom, QArgs.ofFn, QArgs.fn7, VArgs3.fmt, VArgs2.fmt, VArgs1.fmt, VRed.fmt]
  try simp

theorem cinv (sc : Scope) (b : Reg) (sz : Size) (off : BitVec 9) : Statement (.cinv sc b sz off) := by
  intro idle h
  refine decode_encode idle rfl rfl (by simp) ?_ h
  conv_lhs => whnf
  try simp (disch := omega) only [extract_above, extract_below, getLsbD_above, getLsbD_below, AtomArgs.fn, readAtom, QArgs.ofFn, QArgs.fn7, VArgs3.fmt, VArgs2.fmt, VArgs1.fmt, VRed.fmt]
  try simp

theorem strel (sc : Scope) (v b : Reg) (sz : Size) (off : BitVec 9) : Statement (.strel sc v b sz off) := by
  intro idle h
  refine decode_encode idle rfl rfl (by simp) ?_ h
  conv_lhs => whnf
  try simp (disch := omega) only [extract_above, extract_below, getLsbD_above, getLsbD_below, AtomArgs.fn, readAtom, QArgs.ofFn, QArgs.fn7, VArgs3.fmt, VArgs2.fmt, VArgs1.fmt, VRed.fmt]
  try simp

theorem ldacq (sc : Scope) (d : Dst) (b : Reg) (slot : BitVec 5) (sz : Size) (off : BitVec 9) : Statement (.ldacq sc d b slot sz off) := by
  intro idle h
  refine decode_encode idle rfl rfl (by simp) ?_ h
  conv_lhs => whnf
  try simp (disch := omega) only [extract_above, extract_below, getLsbD_above, getLsbD_below, AtomArgs.fn, readAtom, QArgs.ofFn, QArgs.fn7, VArgs3.fmt, VArgs2.fmt, VArgs1.fmt, VRed.fmt]
  try simp

theorem aadd (a : AtomArgs) : Statement (.aadd a) := by
  intro idle h
  refine decode_encode idle rfl rfl (by simp) ?_ h
  conv_lhs => whnf
  try simp (disch := omega) only [extract_above, extract_below, getLsbD_above, getLsbD_below, AtomArgs.fn, readAtom, QArgs.ofFn, QArgs.fn7, VArgs3.fmt, VArgs2.fmt, VArgs1.fmt, VRed.fmt]
  try simp

theorem aand (a : AtomArgs) : Statement (.aand a) := by
  intro idle h
  refine decode_encode idle rfl rfl (by simp) ?_ h
  conv_lhs => whnf
  try simp (disch := omega) only [extract_above, extract_below, getLsbD_above, getLsbD_below, AtomArgs.fn, readAtom, QArgs.ofFn, QArgs.fn7, VArgs3.fmt, VArgs2.fmt, VArgs1.fmt, VRed.fmt]
  try simp

theorem aor (a : AtomArgs) : Statement (.aor a) := by
  intro idle h
  refine decode_encode idle rfl rfl (by simp) ?_ h
  conv_lhs => whnf
  try simp (disch := omega) only [extract_above, extract_below, getLsbD_above, getLsbD_below, AtomArgs.fn, readAtom, QArgs.ofFn, QArgs.fn7, VArgs3.fmt, VArgs2.fmt, VArgs1.fmt, VRed.fmt]
  try simp

theorem axor (a : AtomArgs) : Statement (.axor a) := by
  intro idle h
  refine decode_encode idle rfl rfl (by simp) ?_ h
  conv_lhs => whnf
  try simp (disch := omega) only [extract_above, extract_below, getLsbD_above, getLsbD_below, AtomArgs.fn, readAtom, QArgs.ofFn, QArgs.fn7, VArgs3.fmt, VArgs2.fmt, VArgs1.fmt, VRed.fmt]
  try simp

theorem amin (a : AtomArgs) : Statement (.amin a) := by
  intro idle h
  refine decode_encode idle rfl rfl (by simp) ?_ h
  conv_lhs => whnf
  try simp (disch := omega) only [extract_above, extract_below, getLsbD_above, getLsbD_below, AtomArgs.fn, readAtom, QArgs.ofFn, QArgs.fn7, VArgs3.fmt, VArgs2.fmt, VArgs1.fmt, VRed.fmt]
  try simp

theorem amax (a : AtomArgs) : Statement (.amax a) := by
  intro idle h
  refine decode_encode idle rfl rfl (by simp) ?_ h
  conv_lhs => whnf
  try simp (disch := omega) only [extract_above, extract_below, getLsbD_above, getLsbD_below, AtomArgs.fn, readAtom, QArgs.ofFn, QArgs.fn7, VArgs3.fmt, VArgs2.fmt, VArgs1.fmt, VRed.fmt]
  try simp

theorem aminu (a : AtomArgs) : Statement (.aminu a) := by
  intro idle h
  refine decode_encode idle rfl rfl (by simp) ?_ h
  conv_lhs => whnf
  try simp (disch := omega) only [extract_above, extract_below, getLsbD_above, getLsbD_below, AtomArgs.fn, readAtom, QArgs.ofFn, QArgs.fn7, VArgs3.fmt, VArgs2.fmt, VArgs1.fmt, VRed.fmt]
  try simp

theorem amaxu (a : AtomArgs) : Statement (.amaxu a) := by
  intro idle h
  refine decode_encode idle rfl rfl (by simp) ?_ h
  conv_lhs => whnf
  try simp (disch := omega) only [extract_above, extract_below, getLsbD_above, getLsbD_below, AtomArgs.fn, readAtom, QArgs.ofFn, QArgs.fn7, VArgs3.fmt, VArgs2.fmt, VArgs1.fmt, VRed.fmt]
  try simp

theorem axchg (a : AtomArgs) : Statement (.axchg a) := by
  intro idle h
  refine decode_encode idle rfl rfl (by simp) ?_ h
  conv_lhs => whnf
  try simp (disch := omega) only [extract_above, extract_below, getLsbD_above, getLsbD_below, AtomArgs.fn, readAtom, QArgs.ofFn, QArgs.fn7, VArgs3.fmt, VArgs2.fmt, VArgs1.fmt, VRed.fmt]
  try simp

theorem acas (a : AtomArgs) (c : Reg) : Statement (.acas a c) := by
  intro idle h
  refine decode_encode idle rfl rfl (by simp) ?_ h
  conv_lhs => whnf
  try simp (disch := omega) only [extract_above, extract_below, getLsbD_above, getLsbD_below, AtomArgs.fn, readAtom, QArgs.ofFn, QArgs.fn7, VArgs3.fmt, VArgs2.fmt, VArgs1.fmt, VRed.fmt]
  try simp

theorem afadd (a : AtomArgs) : Statement (.afadd a) := by
  intro idle h
  refine decode_encode idle rfl rfl (by simp) ?_ h
  conv_lhs => whnf
  try simp (disch := omega) only [extract_above, extract_below, getLsbD_above, getLsbD_below, AtomArgs.fn, readAtom, QArgs.ofFn, QArgs.fn7, VArgs3.fmt, VArgs2.fmt, VArgs1.fmt, VRed.fmt]
  try simp

theorem scadd (d : FileReg) (b idx src : Reg) (et : ScType) (rlen : BitVec 10) : Statement (.scadd d b idx src et rlen) := by
  intro idle h
  refine decode_encode idle rfl rfl (by simp) ?_ h
  conv_lhs => whnf
  try simp (disch := omega) only [extract_above, extract_below, getLsbD_above, getLsbD_below, AtomArgs.fn, readAtom, QArgs.ofFn, QArgs.fn7, VArgs3.fmt, VArgs2.fmt, VArgs1.fmt, VRed.fmt]
  try simp

theorem acqGe (d : Dst) (o : Reg) (sc : Scope) (n : BitVec 5) : Statement (.acqGe d o sc n) := by
  intro idle h
  refine decode_encode idle rfl rfl (by simp) ?_ h
  conv_lhs => whnf
  try simp (disch := omega) only [extract_above, extract_below, getLsbD_above, getLsbD_below, AtomArgs.fn, readAtom, QArgs.ofFn, QArgs.fn7, VArgs3.fmt, VArgs2.fmt, VArgs1.fmt, VRed.fmt]
  try simp

theorem acqNw (d : Dst) (o : Reg) (sc : Scope) : Statement (.acqNw d o sc) := by
  intro idle h
  refine decode_encode idle rfl rfl (by simp) ?_ h
  conv_lhs => whnf
  try simp (disch := omega) only [extract_above, extract_below, getLsbD_above, getLsbD_below, AtomArgs.fn, readAtom, QArgs.ofFn, QArgs.fn7, VArgs3.fmt, VArgs2.fmt, VArgs1.fmt, VRed.fmt]
  try simp

theorem acqX (d : Dst) (o : Reg) (sc : Scope) : Statement (.acqX d o sc) := by
  intro idle h
  refine decode_encode idle rfl rfl (by simp) ?_ h
  conv_lhs => whnf
  try simp (disch := omega) only [extract_above, extract_below, getLsbD_above, getLsbD_below, AtomArgs.fn, readAtom, QArgs.ofFn, QArgs.fn7, VArgs3.fmt, VArgs2.fmt, VArgs1.fmt, VRed.fmt]
  try simp

theorem rel (d : Dst) (o : Reg) (sc : Scope) : Statement (.rel d o sc) := by
  intro idle h
  refine decode_encode idle rfl rfl (by simp) ?_ h
  conv_lhs => whnf
  try simp (disch := omega) only [extract_above, extract_below, getLsbD_above, getLsbD_below, AtomArgs.fn, readAtom, QArgs.ofFn, QArgs.fn7, VArgs3.fmt, VArgs2.fmt, VArgs1.fmt, VRed.fmt]
  try simp

theorem fence (sc : Scope) : Statement (.fence sc) := by
  intro idle h
  refine decode_encode idle rfl rfl (by simp) ?_ h
  conv_lhs => whnf
  try simp (disch := omega) only [extract_above, extract_below, getLsbD_above, getLsbD_below, AtomArgs.fn, readAtom, QArgs.ofFn, QArgs.fn7, VArgs3.fmt, VArgs2.fmt, VArgs1.fmt, VRed.fmt]
  try simp

theorem waitcGe (q : BitVec 3) (x : Reg) : Statement (.waitcGe q x) := by
  intro idle h
  refine decode_encode idle rfl rfl (by simp) ?_ h
  show (do let _ ← Scope.ofCode Scope.stream.code; if BitVec.getLsbD _ 3 then return Instr.waitcLe (BitVec.extractLsb' 0 3 _) (← Reg.ofCode _) else return Instr.waitcGe (BitVec.extractLsb' 0 3 _) (← Reg.ofCode _)) = _
  try simp (disch := omega) only [extract_above, extract_below, getLsbD_above, getLsbD_below, AtomArgs.fn, readAtom, QArgs.ofFn, QArgs.fn7, VArgs3.fmt, VArgs2.fmt, VArgs1.fmt, VRed.fmt]
  try simp

theorem waitcLe (q : BitVec 3) (x : Reg) : Statement (.waitcLe q x) := by
  intro idle h
  refine decode_encode idle rfl rfl (by simp) ?_ h
  show (do let _ ← Scope.ofCode Scope.stream.code; if BitVec.getLsbD _ 3 then return Instr.waitcLe (BitVec.extractLsb' 0 3 _) (← Reg.ofCode _) else return Instr.waitcGe (BitVec.extractLsb' 0 3 _) (← Reg.ofCode _)) = _
  try simp (disch := omega) only [extract_above, extract_below, getLsbD_above, getLsbD_below, AtomArgs.fn, readAtom, QArgs.ofFn, QArgs.fn7, VArgs3.fmt, VArgs2.fmt, VArgs1.fmt, VRed.fmt]
  try simp

theorem tlwait (tc : BitVec 2) (x : Reg) : Statement (.tlwait tc x) := by
  intro idle h
  refine decode_encode idle rfl rfl (by simp) ?_ h
  conv_lhs => whnf
  try simp (disch := omega) only [extract_above, extract_below, getLsbD_above, getLsbD_below, AtomArgs.fn, readAtom, QArgs.ofFn, QArgs.fn7, VArgs3.fmt, VArgs2.fmt, VArgs1.fmt, VRed.fmt]
  try simp

theorem tlsig (d : Dst) (tc : BitVec 2) (sc : Scope) : Statement (.tlsig d tc sc) := by
  intro idle h
  refine decode_encode idle rfl rfl (by simp) ?_ h
  conv_lhs => whnf
  try simp (disch := omega) only [extract_above, extract_below, getLsbD_above, getLsbD_below, AtomArgs.fn, readAtom, QArgs.ofFn, QArgs.fn7, VArgs3.fmt, VArgs2.fmt, VArgs1.fmt, VRed.fmt]
  try simp

theorem bar (sc : Scope) (mask : BitVec 4) : Statement (.bar sc mask) := by
  intro idle h
  refine decode_encode idle rfl rfl (by simp) ?_ h
  conv_lhs => whnf
  try simp (disch := omega) only [extract_above, extract_below, getLsbD_above, getLsbD_below, AtomArgs.fn, readAtom, QArgs.ofFn, QArgs.fn7, VArgs3.fmt, VArgs2.fmt, VArgs1.fmt, VRed.fmt]
  try simp

theorem mbw (mb : BitVec 3) (x : Reg) : Statement (.mbw mb x) := by
  intro idle h
  refine decode_encode idle rfl rfl (by simp) ?_ h
  conv_lhs => whnf
  try simp (disch := omega) only [extract_above, extract_below, getLsbD_above, getLsbD_below, AtomArgs.fn, readAtom, QArgs.ofFn, QArgs.fn7, VArgs3.fmt, VArgs2.fmt, VArgs1.fmt, VRed.fmt]
  try simp

theorem mbr (d : Dst) (mb : BitVec 3) : Statement (.mbr d mb) := by
  intro idle h
  refine decode_encode idle rfl rfl (by simp) ?_ h
  conv_lhs => whnf
  try simp (disch := omega) only [extract_above, extract_below, getLsbD_above, getLsbD_below, AtomArgs.fn, readAtom, QArgs.ofFn, QArgs.fn7, VArgs3.fmt, VArgs2.fmt, VArgs1.fmt, VRed.fmt]
  try simp

theorem tagarm (x y : Reg) (ct : CType) (mulm1 : BitVec 6) : Statement (.tagarm x y ct mulm1) := by
  intro idle h
  refine decode_encode idle rfl rfl (by simp) ?_ h
  conv_lhs => whnf
  try simp (disch := omega) only [extract_above, extract_below, getLsbD_above, getLsbD_below, AtomArgs.fn, readAtom, QArgs.ofFn, QArgs.fn7, VArgs3.fmt, VArgs2.fmt, VArgs1.fmt, VRed.fmt]
  try simp

theorem tagsetFull (x : Reg) : Statement (.tagsetFull x) := by
  intro idle h
  refine decode_encode idle rfl rfl (by simp) ?_ h
  conv_lhs => whnf
  try simp (disch := omega) only [extract_above, extract_below, getLsbD_above, getLsbD_below, AtomArgs.fn, readAtom, QArgs.ofFn, QArgs.fn7, VArgs3.fmt, VArgs2.fmt, VArgs1.fmt, VRed.fmt]
  try simp

theorem tagsetPoison (x : Reg) : Statement (.tagsetPoison x) := by
  intro idle h
  refine decode_encode idle rfl rfl (by simp) ?_ h
  conv_lhs => whnf
  try simp (disch := omega) only [extract_above, extract_below, getLsbD_above, getLsbD_below, AtomArgs.fn, readAtom, QArgs.ofFn, QArgs.fn7, VArgs3.fmt, VArgs2.fmt, VArgs1.fmt, VRed.fmt]
  try simp

theorem tagclr (x : Reg) : Statement (.tagclr x) := by
  intro idle h
  refine decode_encode idle rfl rfl (by simp) ?_ h
  conv_lhs => whnf
  try simp (disch := omega) only [extract_above, extract_below, getLsbD_above, getLsbD_below, AtomArgs.fn, readAtom, QArgs.ofFn, QArgs.fn7, VArgs3.fmt, VArgs2.fmt, VArgs1.fmt, VRed.fmt]
  try simp

theorem tagwtNw (d : Dst) (y : Reg) : Statement (.tagwtNw d y) := by
  intro idle h
  refine decode_encode idle rfl rfl (by simp) ?_ h
  conv_lhs => whnf
  try simp (disch := omega) only [extract_above, extract_below, getLsbD_above, getLsbD_below, AtomArgs.fn, readAtom, QArgs.ofFn, QArgs.fn7, VArgs3.fmt, VArgs2.fmt, VArgs1.fmt, VRed.fmt]
  try simp

theorem tagwtFull (d : Dst) (y : Reg) : Statement (.tagwtFull d y) := by
  intro idle h
  refine decode_encode idle rfl rfl (by simp) ?_ h
  conv_lhs => whnf
  try simp (disch := omega) only [extract_above, extract_below, getLsbD_above, getLsbD_below, AtomArgs.fn, readAtom, QArgs.ofFn, QArgs.fn7, VArgs3.fmt, VArgs2.fmt, VArgs1.fmt, VRed.fmt]
  try simp

theorem tagwtEmpty (d : Dst) (y : Reg) : Statement (.tagwtEmpty d y) := by
  intro idle h
  refine decode_encode idle rfl rfl (by simp) ?_ h
  conv_lhs => whnf
  try simp (disch := omega) only [extract_above, extract_below, getLsbD_above, getLsbD_below, AtomArgs.fn, readAtom, QArgs.ofFn, QArgs.fn7, VArgs3.fmt, VArgs2.fmt, VArgs1.fmt, VRed.fmt]
  try simp

theorem xfence (sc : Scope) : Statement (.xfence sc) := by
  intro idle h
  refine decode_encode idle rfl rfl (by simp) ?_ h
  conv_lhs => whnf
  try simp (disch := omega) only [extract_above, extract_below, getLsbD_above, getLsbD_below, AtomArgs.fn, readAtom, QArgs.ofFn, QArgs.fn7, VArgs3.fmt, VArgs2.fmt, VArgs1.fmt, VRed.fmt]
  try simp

theorem push (d : Dst) (o lo hi : Reg) (q : QArgs) : Statement (.push d o lo hi q) := by
  intro idle h
  refine decode_encode idle rfl rfl (by simp) ?_ h
  conv_lhs => whnf
  try simp (disch := omega) only [extract_above, extract_below, getLsbD_above, getLsbD_below, AtomArgs.fn, readAtom, QArgs.ofFn, QArgs.fn7, VArgs3.fmt, VArgs2.fmt, VArgs1.fmt, VRed.fmt]
  try simp

theorem popN (d : Dst) (o : Reg) (lo hi : Dst) (q : QArgs) : Statement (.popN d o lo hi q) := by
  intro idle h
  refine decode_encode idle rfl rfl (by simp) ?_ h
  conv_lhs => whnf
  try simp (disch := omega) only [extract_above, extract_below, getLsbD_above, getLsbD_below, AtomArgs.fn, readAtom, QArgs.ofFn, QArgs.fn7, VArgs3.fmt, VArgs2.fmt, VArgs1.fmt, VRed.fmt]
  try simp

theorem popW (d : Dst) (o : Reg) (lo hi : Dst) (q : QArgs) : Statement (.popW d o lo hi q) := by
  intro idle h
  refine decode_encode idle rfl rfl (by simp) ?_ h
  conv_lhs => whnf
  try simp (disch := omega) only [extract_above, extract_below, getLsbD_above, getLsbD_below, AtomArgs.fn, readAtom, QArgs.ofFn, QArgs.fn7, VArgs3.fmt, VArgs2.fmt, VArgs1.fmt, VRed.fmt]
  try simp

theorem qoctlEn (d : Dst) (o : Reg) : Statement (.qoctlEn d o) := by
  intro idle h
  refine decode_encode idle rfl rfl (by simp) ?_ h
  conv_lhs => whnf
  try simp (disch := omega) only [extract_above, extract_below, getLsbD_above, getLsbD_below, AtomArgs.fn, readAtom, QArgs.ofFn, QArgs.fn7, VArgs3.fmt, VArgs2.fmt, VArgs1.fmt, VRed.fmt]
  try simp

theorem qoctlDis (d : Dst) (o : Reg) : Statement (.qoctlDis d o) := by
  intro idle h
  refine decode_encode idle rfl rfl (by simp) ?_ h
  conv_lhs => whnf
  try simp (disch := omega) only [extract_above, extract_below, getLsbD_above, getLsbD_below, AtomArgs.fn, readAtom, QArgs.ofFn, QArgs.fn7, VArgs3.fmt, VArgs2.fmt, VArgs1.fmt, VRed.fmt]
  try simp

theorem qoctlCnt (d : Dst) (o : Reg) : Statement (.qoctlCnt d o) := by
  intro idle h
  refine decode_encode idle rfl rfl (by simp) ?_ h
  conv_lhs => whnf
  try simp (disch := omega) only [extract_above, extract_below, getLsbD_above, getLsbD_below, AtomArgs.fn, readAtom, QArgs.ofFn, QArgs.fn7, VArgs3.fmt, VArgs2.fmt, VArgs1.fmt, VRed.fmt]
  try simp

theorem hld (d : Dst) (x b : Reg) (slot : BitVec 5) (sz : Size) (arr : BitVec 10) : Statement (.hld d x b slot sz arr) := by
  intro idle h
  refine decode_encode idle rfl rfl (by simp) ?_ h
  conv_lhs => whnf
  try simp (disch := omega) only [extract_above, extract_below, getLsbD_above, getLsbD_below, AtomArgs.fn, readAtom, QArgs.ofFn, QArgs.fn7, VArgs3.fmt, VArgs2.fmt, VArgs1.fmt, VRed.fmt]
  try simp

theorem hldQ (q : BitVec 3) (x b n : Reg) : Statement (.hldQ q x b n) := by
  intro idle h
  refine decode_encode idle rfl rfl (by simp) ?_ h
  conv_lhs => whnf
  try simp (disch := omega) only [extract_above, extract_below, getLsbD_above, getLsbD_below, AtomArgs.fn, readAtom, QArgs.ofFn, QArgs.fn7, VArgs3.fmt, VArgs2.fmt, VArgs1.fmt, VRed.fmt]
  try simp

theorem hpub (x : Reg) : Statement (.hpub x) := by
  intro idle h
  refine decode_encode idle rfl rfl (by simp) ?_ h
  conv_lhs => whnf
  try simp (disch := omega) only [extract_above, extract_below, getLsbD_above, getLsbD_below, AtomArgs.fn, readAtom, QArgs.ofFn, QArgs.fn7, VArgs3.fmt, VArgs2.fmt, VArgs1.fmt, VRed.fmt]
  try simp

theorem hwait (x : Reg) : Statement (.hwait x) := by
  intro idle h
  refine decode_encode idle rfl rfl (by simp) ?_ h
  conv_lhs => whnf
  try simp (disch := omega) only [extract_above, extract_below, getLsbD_above, getLsbD_below, AtomArgs.fn, readAtom, QArgs.ofFn, QArgs.fn7, VArgs3.fmt, VArgs2.fmt, VArgs1.fmt, VRed.fmt]
  try simp

theorem hwaitAll (x : Reg) : Statement (.hwaitAll x) := by
  intro idle h
  refine decode_encode idle rfl rfl (by simp) ?_ h
  conv_lhs => whnf
  try simp (disch := omega) only [extract_above, extract_below, getLsbD_above, getLsbD_below, AtomArgs.fn, readAtom, QArgs.ofFn, QArgs.fn7, VArgs3.fmt, VArgs2.fmt, VArgs1.fmt, VRed.fmt]
  try simp

theorem gridctlJoin (x : Reg) : Statement (.gridctlJoin x) := by
  intro idle h
  refine decode_encode idle rfl rfl (by simp) ?_ h
  conv_lhs => whnf
  try simp (disch := omega) only [extract_above, extract_below, getLsbD_above, getLsbD_below, AtomArgs.fn, readAtom, QArgs.ofFn, QArgs.fn7, VArgs3.fmt, VArgs2.fmt, VArgs1.fmt, VRed.fmt]
  try simp

theorem gridctlLeave (x : Reg) : Statement (.gridctlLeave x) := by
  intro idle h
  refine decode_encode idle rfl rfl (by simp) ?_ h
  conv_lhs => whnf
  try simp (disch := omega) only [extract_above, extract_below, getLsbD_above, getLsbD_below, AtomArgs.fn, readAtom, QArgs.ofFn, QArgs.fn7, VArgs3.fmt, VArgs2.fmt, VArgs1.fmt, VRed.fmt]
  try simp

theorem gridctlStat (d : Dst) (x : Reg) : Statement (.gridctlStat d x) := by
  intro idle h
  refine decode_encode idle rfl rfl (by simp) ?_ h
  conv_lhs => whnf
  try simp (disch := omega) only [extract_above, extract_below, getLsbD_above, getLsbD_below, AtomArgs.fn, readAtom, QArgs.ofFn, QArgs.fn7, VArgs3.fmt, VArgs2.fmt, VArgs1.fmt, VRed.fmt]
  try simp

theorem gridctlStatMs (d : Dst) (x j : Reg) : Statement (.gridctlStatMs d x j) := by
  intro idle h
  refine decode_encode idle rfl rfl (by simp) ?_ h
  conv_lhs => whnf
  try simp (disch := omega) only [extract_above, extract_below, getLsbD_above, getLsbD_below, AtomArgs.fn, readAtom, QArgs.ofFn, QArgs.fn7, VArgs3.fmt, VArgs2.fmt, VArgs1.fmt, VRed.fmt]
  try simp

theorem qld (q : BitVec 3) (b stride n : Reg) : Statement (.qld q b stride n) := by
  intro idle h
  refine decode_encode idle rfl rfl (by simp) ?_ h
  conv_lhs => whnf
  try simp (disch := omega) only [extract_above, extract_below, getLsbD_above, getLsbD_below, AtomArgs.fn, readAtom, QArgs.ofFn, QArgs.fn7, VArgs3.fmt, VArgs2.fmt, VArgs1.fmt, VRed.fmt]
  try simp

theorem qldx (q : BitVec 3) (b stride list n : Reg) : Statement (.qldx q b stride list n) := by
  intro idle h
  refine decode_encode idle rfl rfl (by simp) ?_ h
  conv_lhs => whnf
  try simp (disch := omega) only [extract_above, extract_below, getLsbD_above, getLsbD_below, AtomArgs.fn, readAtom, QArgs.ofFn, QArgs.fn7, VArgs3.fmt, VArgs2.fmt, VArgs1.fmt, VRed.fmt]
  try simp

theorem tget (tc : BitVec 2) (d : Dst) (src g n : Reg) : Statement (.tget tc d src g n) := by
  intro idle h
  refine decode_encode idle rfl rfl (by simp) ?_ h
  conv_lhs => whnf
  try simp (disch := omega) only [extract_above, extract_below, getLsbD_above, getLsbD_below, AtomArgs.fn, readAtom, QArgs.ofFn, QArgs.fn7, VArgs3.fmt, VArgs2.fmt, VArgs1.fmt, VRed.fmt]
  try simp

theorem tsend (sc : Scope) (kind : CType) (taddr g n : Reg) (ck cx : Bool) : Statement (.tsend sc kind taddr g n ck cx) := by
  intro idle h
  refine decode_encode idle rfl rfl (by simp) ?_ h
  conv_lhs => whnf
  try simp (disch := omega) only [extract_above, extract_below, getLsbD_above, getLsbD_below, AtomArgs.fn, readAtom, QArgs.ofFn, QArgs.fn7, VArgs3.fmt, VArgs2.fmt, VArgs1.fmt, VRed.fmt]
  try simp

theorem tsto (d r n stride : Reg) (ck cx : Bool) : Statement (.tsto d r n stride ck cx) := by
  intro idle h
  refine decode_encode idle rfl rfl (by simp) ?_ h
  conv_lhs => whnf
  try simp (disch := omega) only [extract_above, extract_below, getLsbD_above, getLsbD_below, AtomArgs.fn, readAtom, QArgs.ofFn, QArgs.fn7, VArgs3.fmt, VArgs2.fmt, VArgs1.fmt, VRed.fmt]
  try simp

theorem bld (tc : BitVec 2) (d : Dst) (src geom cstride : Reg) : Statement (.bld tc d src geom cstride) := by
  intro idle h
  refine decode_encode idle rfl rfl (by simp) ?_ h
  conv_lhs => whnf
  try simp (disch := omega) only [extract_above, extract_below, getLsbD_above, getLsbD_below, AtomArgs.fn, readAtom, QArgs.ofFn, QArgs.fn7, VArgs3.fmt, VArgs2.fmt, VArgs1.fmt, VRed.fmt]
  try simp

theorem qflush (q : BitVec 3) : Statement (.qflush q) := by
  intro idle h
  refine decode_encode idle rfl rfl (by simp) ?_ h
  conv_lhs => whnf
  try simp (disch := omega) only [extract_above, extract_below, getLsbD_above, getLsbD_below, AtomArgs.fn, readAtom, QArgs.ofFn, QArgs.fn7, VArgs3.fmt, VArgs2.fmt, VArgs1.fmt, VRed.fmt]
  try simp

theorem cpseq (lv : BitVec 3) (n : Count) : Statement (.cpseq lv n) := by
  intro idle h
  cases n
  all_goals
    refine decode_encode idle rfl rfl (by first | exact readVec_body .. | exact readEng_body .. | simp) ?_ h
    show (if BitVec.getLsbD _ 13 then return Instr.cpseqClr else if BitVec.getLsbD _ 3 then return Instr.cpseq (BitVec.extractLsb' 0 3 _) (.hl (BitVec.extractLsb' 4 4 _)) else return Instr.cpseq (BitVec.extractLsb' 0 3 _) (.reg (← Reg.ofCode _))) = _
    try simp (disch := omega) only [extract_above, extract_below, getLsbD_above, getLsbD_below, AtomArgs.fn, readAtom, QArgs.ofFn, QArgs.fn7, VArgs3.fmt, VArgs2.fmt, VArgs1.fmt, VRed.fmt]
    try simp

theorem cpseqClr : Statement (.cpseqClr) := by
  intro idle h
  refine decode_encode idle rfl rfl (by simp) ?_ h
  conv_lhs => whnf
  try simp (disch := omega) only [extract_above, extract_below, getLsbD_above, getLsbD_below, AtomArgs.fn, readAtom, QArgs.ofFn, QArgs.fn7, VArgs3.fmt, VArgs2.fmt, VArgs1.fmt, VRed.fmt]
  try simp

theorem cpsrcBase (x : Reg) : Statement (.cpsrcBase x) := by
  intro idle h
  refine decode_encode idle rfl rfl (by simp) ?_ h
  conv_lhs => whnf
  try simp (disch := omega) only [extract_above, extract_below, getLsbD_above, getLsbD_below, AtomArgs.fn, readAtom, QArgs.ofFn, QArgs.fn7, VArgs3.fmt, VArgs2.fmt, VArgs1.fmt, VRed.fmt]
  try simp

theorem cpsrcStride (lv : BitVec 3) (x : Reg) : Statement (.cpsrcStride lv x) := by
  intro idle h
  refine decode_encode idle rfl rfl (by simp) ?_ h
  conv_lhs => whnf
  try simp (disch := omega) only [extract_above, extract_below, getLsbD_above, getLsbD_below, AtomArgs.fn, readAtom, QArgs.ofFn, QArgs.fn7, VArgs3.fmt, VArgs2.fmt, VArgs1.fmt, VRed.fmt]
  try simp

theorem cpsrcWin (lv : BitVec 3) (x y : Reg) : Statement (.cpsrcWin lv x y) := by
  intro idle h
  refine decode_encode idle rfl rfl (by simp) ?_ h
  conv_lhs => whnf
  try simp (disch := omega) only [extract_above, extract_below, getLsbD_above, getLsbD_below, AtomArgs.fn, readAtom, QArgs.ofFn, QArgs.fn7, VArgs3.fmt, VArgs2.fmt, VArgs1.fmt, VRed.fmt]
  try simp

theorem cpdstBase (x : Reg) : Statement (.cpdstBase x) := by
  intro idle h
  refine decode_encode idle rfl rfl (by simp) ?_ h
  conv_lhs => whnf
  try simp (disch := omega) only [extract_above, extract_below, getLsbD_above, getLsbD_below, AtomArgs.fn, readAtom, QArgs.ofFn, QArgs.fn7, VArgs3.fmt, VArgs2.fmt, VArgs1.fmt, VRed.fmt]
  try simp

theorem cpdstBaseTile (x : Reg) : Statement (.cpdstBaseTile x) := by
  intro idle h
  refine decode_encode idle rfl rfl (by simp) ?_ h
  conv_lhs => whnf
  try simp (disch := omega) only [extract_above, extract_below, getLsbD_above, getLsbD_below, AtomArgs.fn, readAtom, QArgs.ofFn, QArgs.fn7, VArgs3.fmt, VArgs2.fmt, VArgs1.fmt, VRed.fmt]
  try simp

theorem cpdstStride (lv : BitVec 3) (x : Reg) : Statement (.cpdstStride lv x) := by
  intro idle h
  refine decode_encode idle rfl rfl (by simp) ?_ h
  conv_lhs => whnf
  try simp (disch := omega) only [extract_above, extract_below, getLsbD_above, getLsbD_below, AtomArgs.fn, readAtom, QArgs.ofFn, QArgs.fn7, VArgs3.fmt, VArgs2.fmt, VArgs1.fmt, VRed.fmt]
  try simp

theorem cpdstWin (lv : BitVec 3) (x y : Reg) : Statement (.cpdstWin lv x y) := by
  intro idle h
  refine decode_encode idle rfl rfl (by simp) ?_ h
  conv_lhs => whnf
  try simp (disch := omega) only [extract_above, extract_below, getLsbD_above, getLsbD_below, AtomArgs.fn, readAtom, QArgs.ofFn, QArgs.fn7, VArgs3.fmt, VArgs2.fmt, VArgs1.fmt, VRed.fmt]
  try simp

theorem cpidx (lv : BitVec 3) (list nrow : Reg) : Statement (.cpidx lv list nrow) := by
  intro idle h
  refine decode_encode idle rfl rfl (by simp) ?_ h
  show (if BitVec.getLsbD _ 3 then return Instr.cpidxOff else return Instr.cpidx (BitVec.extractLsb' 0 3 _) (← Reg.ofCode _) (← Reg.ofCode _)) = _
  try simp (disch := omega) only [extract_above, extract_below, getLsbD_above, getLsbD_below, AtomArgs.fn, readAtom, QArgs.ofFn, QArgs.fn7, VArgs3.fmt, VArgs2.fmt, VArgs1.fmt, VRed.fmt]
  try simp

theorem cpidxOff : Statement (.cpidxOff) := by
  intro idle h
  refine decode_encode idle rfl rfl (by simp) ?_ h
  conv_lhs => whnf
  try simp (disch := omega) only [extract_above, extract_below, getLsbD_above, getLsbD_below, AtomArgs.fn, readAtom, QArgs.ofFn, QArgs.fn7, VArgs3.fmt, VArgs2.fmt, VArgs1.fmt, VRed.fmt]
  try simp

theorem cpswz (x : Reg) : Statement (.cpswz x) := by
  intro idle h
  refine decode_encode idle rfl rfl (by simp) ?_ h
  conv_lhs => whnf
  try simp (disch := omega) only [extract_above, extract_below, getLsbD_above, getLsbD_below, AtomArgs.fn, readAtom, QArgs.ofFn, QArgs.fn7, VArgs3.fmt, VArgs2.fmt, VArgs1.fmt, VRed.fmt]
  try simp

theorem cpgo (d : Dst) (tc : BitVec 2) (esz : BitVec 3) (sc : Scope) : Statement (.cpgo d tc esz sc) := by
  intro idle h
  refine decode_encode idle rfl rfl (by simp) ?_ h
  conv_lhs => whnf
  try simp (disch := omega) only [extract_above, extract_below, getLsbD_above, getLsbD_below, AtomArgs.fn, readAtom, QArgs.ofFn, QArgs.fn7, VArgs3.fmt, VArgs2.fmt, VArgs1.fmt, VRed.fmt]
  try simp

theorem cpstat (d : Dst) (tc : BitVec 2) (x : Reg) : Statement (.cpstat d tc x) := by
  intro idle h
  refine decode_encode idle rfl rfl (by simp) ?_ h
  conv_lhs => whnf
  try simp (disch := omega) only [extract_above, extract_below, getLsbD_above, getLsbD_below, AtomArgs.fn, readAtom, QArgs.ofFn, QArgs.fn7, VArgs3.fmt, VArgs2.fmt, VArgs1.fmt, VRed.fmt]
  try simp

theorem lookup (mode : Pool) (nf : Bool) (d : Dst) (h : BitVec 4) (tc : BitVec 2) (list args taddr : Reg) : Statement (.lookup mode nf d h tc list args taddr) := by
  intro idle h
  refine decode_encode idle rfl rfl (by simp) ?_ h
  conv_lhs => whnf
  try simp (disch := omega) only [extract_above, extract_below, getLsbD_above, getLsbD_below, AtomArgs.fn, readAtom, QArgs.ofFn, QArgs.fn7, VArgs3.fmt, VArgs2.fmt, VArgs1.fmt, VRed.fmt]
  try simp

theorem lkstat (d : Dst) (tc : BitVec 2) (x : Reg) : Statement (.lkstat d tc x) := by
  intro idle h
  refine decode_encode idle rfl rfl (by simp) ?_ h
  conv_lhs => whnf
  try simp (disch := omega) only [extract_above, extract_below, getLsbD_above, getLsbD_below, AtomArgs.fn, readAtom, QArgs.ofFn, QArgs.fn7, VArgs3.fmt, VArgs2.fmt, VArgs1.fmt, VRed.fmt]
  try simp

theorem update (nf : Bool) (d : Dst) (h : BitVec 4) (tc : BitVec 2) (list grad n : Reg) : Statement (.update nf d h tc list grad n) := by
  intro idle h
  refine decode_encode idle rfl rfl (by simp) ?_ h
  conv_lhs => whnf
  try simp (disch := omega) only [extract_above, extract_below, getLsbD_above, getLsbD_below, AtomArgs.fn, readAtom, QArgs.ofFn, QArgs.fn7, VArgs3.fmt, VArgs2.fmt, VArgs1.fmt, VRed.fmt]
  try simp

theorem replayAcc (d : Dst) (h : BitVec 4) (tc : BitVec 2) (r0 nr : Reg) : Statement (.replayAcc d h tc r0 nr) := by
  intro idle h
  refine decode_encode idle rfl rfl (by simp) ?_ h
  conv_lhs => whnf
  try simp (disch := omega) only [extract_above, extract_below, getLsbD_above, getLsbD_below, AtomArgs.fn, readAtom, QArgs.ofFn, QArgs.fn7, VArgs3.fmt, VArgs2.fmt, VArgs1.fmt, VRed.fmt]
  try simp

theorem replaySgd (d : Dst) (h : BitVec 4) (tc : BitVec 2) (r0 nr : Reg) : Statement (.replaySgd d h tc r0 nr) := by
  intro idle h
  refine decode_encode idle rfl rfl (by simp) ?_ h
  conv_lhs => whnf
  try simp (disch := omega) only [extract_above, extract_below, getLsbD_above, getLsbD_below, AtomArgs.fn, readAtom, QArgs.ofFn, QArgs.fn7, VArgs3.fmt, VArgs2.fmt, VArgs1.fmt, VRed.fmt]
  try simp

theorem replayAdag (d : Dst) (h : BitVec 4) (tc : BitVec 2) (r0 nr : Reg) : Statement (.replayAdag d h tc r0 nr) := by
  intro idle h
  refine decode_encode idle rfl rfl (by simp) ?_ h
  conv_lhs => whnf
  try simp (disch := omega) only [extract_above, extract_below, getLsbD_above, getLsbD_below, AtomArgs.fn, readAtom, QArgs.ofFn, QArgs.fn7, VArgs3.fmt, VArgs2.fmt, VArgs1.fmt, VRed.fmt]
  try simp

theorem skctlWr (g : BitVec 4) (x : Reg) : Statement (.skctlWr g x) := by
  intro idle h
  refine decode_encode idle rfl rfl (by simp) ?_ h
  conv_lhs => whnf
  try simp (disch := omega) only [extract_above, extract_below, getLsbD_above, getLsbD_below, AtomArgs.fn, readAtom, QArgs.ofFn, QArgs.fn7, VArgs3.fmt, VArgs2.fmt, VArgs1.fmt, VRed.fmt]
  try simp

theorem skctlRd (d : Dst) (g : BitVec 4) : Statement (.skctlRd d g) := by
  intro idle h
  refine decode_encode idle rfl rfl (by simp) ?_ h
  conv_lhs => whnf
  try simp (disch := omega) only [extract_above, extract_below, getLsbD_above, getLsbD_below, AtomArgs.fn, readAtom, QArgs.ofFn, QArgs.fn7, VArgs3.fmt, VArgs2.fmt, VArgs1.fmt, VRed.fmt]
  try simp

theorem skctlEst (d : Dst) (h : BitVec 4) (x : Reg) : Statement (.skctlEst d h x) := by
  intro idle h
  refine decode_encode idle rfl rfl (by simp) ?_ h
  conv_lhs => whnf
  try simp (disch := omega) only [extract_above, extract_below, getLsbD_above, getLsbD_below, AtomArgs.fn, readAtom, QArgs.ofFn, QArgs.fn7, VArgs3.fmt, VArgs2.fmt, VArgs1.fmt, VRed.fmt]
  try simp

theorem hrctlFlush (d : Dst) (h : BitVec 4) (tc : BitVec 2) : Statement (.hrctlFlush d h tc) := by
  intro idle h
  refine decode_encode idle rfl rfl (by simp) ?_ h
  conv_lhs => whnf
  try simp (disch := omega) only [extract_above, extract_below, getLsbD_above, getLsbD_below, AtomArgs.fn, readAtom, QArgs.ofFn, QArgs.fn7, VArgs3.fmt, VArgs2.fmt, VArgs1.fmt, VRed.fmt]
  try simp

theorem hrctlDetach (d : Dst) (h : BitVec 4) (tc : BitVec 2) : Statement (.hrctlDetach d h tc) := by
  intro idle h
  refine decode_encode idle rfl rfl (by simp) ?_ h
  conv_lhs => whnf
  try simp (disch := omega) only [extract_above, extract_below, getLsbD_above, getLsbD_below, AtomArgs.fn, readAtom, QArgs.ofFn, QArgs.fn7, VArgs3.fmt, VArgs2.fmt, VArgs1.fmt, VRed.fmt]
  try simp

theorem a2a (mode : Pool) (nf : Bool) (d : Dst) (tc : BitVec 2) (rec taddr : Reg) : Statement (.a2a mode nf d tc rec taddr) := by
  intro idle h
  refine decode_encode idle rfl rfl (by simp) ?_ h
  conv_lhs => whnf
  try simp (disch := omega) only [extract_above, extract_below, getLsbD_above, getLsbD_below, AtomArgs.fn, readAtom, QArgs.ofFn, QArgs.fn7, VArgs3.fmt, VArgs2.fmt, VArgs1.fmt, VRed.fmt]
  try simp

theorem vadd (v : VArgs3) : Statement (.vadd v) := by
  intro idle h
  refine decode_encode idle rfl rfl (by first | exact readVec_body .. | exact readEng_body .. | simp) ?_ h
  conv_lhs => whnf
  try simp (disch := omega) only [extract_above, extract_below, getLsbD_above, getLsbD_below, AtomArgs.fn, readAtom, QArgs.ofFn, QArgs.fn7, VArgs3.fmt, VArgs2.fmt, VArgs1.fmt, VRed.fmt]
  try simp

theorem vsub (v : VArgs3) : Statement (.vsub v) := by
  intro idle h
  refine decode_encode idle rfl rfl (by first | exact readVec_body .. | exact readEng_body .. | simp) ?_ h
  conv_lhs => whnf
  try simp (disch := omega) only [extract_above, extract_below, getLsbD_above, getLsbD_below, AtomArgs.fn, readAtom, QArgs.ofFn, QArgs.fn7, VArgs3.fmt, VArgs2.fmt, VArgs1.fmt, VRed.fmt]
  try simp

theorem vmul (v : VArgs3) : Statement (.vmul v) := by
  intro idle h
  refine decode_encode idle rfl rfl (by first | exact readVec_body .. | exact readEng_body .. | simp) ?_ h
  conv_lhs => whnf
  try simp (disch := omega) only [extract_above, extract_below, getLsbD_above, getLsbD_below, AtomArgs.fn, readAtom, QArgs.ofFn, QArgs.fn7, VArgs3.fmt, VArgs2.fmt, VArgs1.fmt, VRed.fmt]
  try simp

theorem vfma (v : VArgs3) : Statement (.vfma v) := by
  intro idle h
  refine decode_encode idle rfl rfl (by first | exact readVec_body .. | exact readEng_body .. | simp) ?_ h
  conv_lhs => whnf
  try simp (disch := omega) only [extract_above, extract_below, getLsbD_above, getLsbD_below, AtomArgs.fn, readAtom, QArgs.ofFn, QArgs.fn7, VArgs3.fmt, VArgs2.fmt, VArgs1.fmt, VRed.fmt]
  try simp

theorem vmin (v : VArgs3) : Statement (.vmin v) := by
  intro idle h
  refine decode_encode idle rfl rfl (by first | exact readVec_body .. | exact readEng_body .. | simp) ?_ h
  conv_lhs => whnf
  try simp (disch := omega) only [extract_above, extract_below, getLsbD_above, getLsbD_below, AtomArgs.fn, readAtom, QArgs.ofFn, QArgs.fn7, VArgs3.fmt, VArgs2.fmt, VArgs1.fmt, VRed.fmt]
  try simp

theorem vmax (v : VArgs3) : Statement (.vmax v) := by
  intro idle h
  refine decode_encode idle rfl rfl (by first | exact readVec_body .. | exact readEng_body .. | simp) ?_ h
  conv_lhs => whnf
  try simp (disch := omega) only [extract_above, extract_below, getLsbD_above, getLsbD_below, AtomArgs.fn, readAtom, QArgs.ofFn, QArgs.fn7, VArgs3.fmt, VArgs2.fmt, VArgs1.fmt, VRed.fmt]
  try simp

theorem vabs (v : VArgs2) : Statement (.vabs v) := by
  intro idle h
  refine decode_encode idle rfl rfl (by first | exact readVec_body .. | exact readEng_body .. | simp) ?_ h
  conv_lhs => whnf
  try simp (disch := omega) only [extract_above, extract_below, getLsbD_above, getLsbD_below, AtomArgs.fn, readAtom, QArgs.ofFn, QArgs.fn7, VArgs3.fmt, VArgs2.fmt, VArgs1.fmt, VRed.fmt]
  try simp

theorem vneg (v : VArgs2) : Statement (.vneg v) := by
  intro idle h
  refine decode_encode idle rfl rfl (by first | exact readVec_body .. | exact readEng_body .. | simp) ?_ h
  conv_lhs => whnf
  try simp (disch := omega) only [extract_above, extract_below, getLsbD_above, getLsbD_below, AtomArgs.fn, readAtom, QArgs.ofFn, QArgs.fn7, VArgs3.fmt, VArgs2.fmt, VArgs1.fmt, VRed.fmt]
  try simp

theorem vand (v : VArgs3) : Statement (.vand v) := by
  intro idle h
  refine decode_encode idle rfl rfl (by first | exact readVec_body .. | exact readEng_body .. | simp) ?_ h
  conv_lhs => whnf
  try simp (disch := omega) only [extract_above, extract_below, getLsbD_above, getLsbD_below, AtomArgs.fn, readAtom, QArgs.ofFn, QArgs.fn7, VArgs3.fmt, VArgs2.fmt, VArgs1.fmt, VRed.fmt]
  try simp

theorem vor (v : VArgs3) : Statement (.vor v) := by
  intro idle h
  refine decode_encode idle rfl rfl (by first | exact readVec_body .. | exact readEng_body .. | simp) ?_ h
  conv_lhs => whnf
  try simp (disch := omega) only [extract_above, extract_below, getLsbD_above, getLsbD_below, AtomArgs.fn, readAtom, QArgs.ofFn, QArgs.fn7, VArgs3.fmt, VArgs2.fmt, VArgs1.fmt, VRed.fmt]
  try simp

theorem vxor (v : VArgs3) : Statement (.vxor v) := by
  intro idle h
  refine decode_encode idle rfl rfl (by first | exact readVec_body .. | exact readEng_body .. | simp) ?_ h
  conv_lhs => whnf
  try simp (disch := omega) only [extract_above, extract_below, getLsbD_above, getLsbD_below, AtomArgs.fn, readAtom, QArgs.ofFn, QArgs.fn7, VArgs3.fmt, VArgs2.fmt, VArgs1.fmt, VRed.fmt]
  try simp

theorem vnot (v : VArgs2) : Statement (.vnot v) := by
  intro idle h
  refine decode_encode idle rfl rfl (by first | exact readVec_body .. | exact readEng_body .. | simp) ?_ h
  conv_lhs => whnf
  try simp (disch := omega) only [extract_above, extract_below, getLsbD_above, getLsbD_below, AtomArgs.fn, readAtom, QArgs.ofFn, QArgs.fn7, VArgs3.fmt, VArgs2.fmt, VArgs1.fmt, VRed.fmt]
  try simp

theorem vshl (v : VArgs3) : Statement (.vshl v) := by
  intro idle h
  refine decode_encode idle rfl rfl (by first | exact readVec_body .. | exact readEng_body .. | simp) ?_ h
  conv_lhs => whnf
  try simp (disch := omega) only [extract_above, extract_below, getLsbD_above, getLsbD_below, AtomArgs.fn, readAtom, QArgs.ofFn, QArgs.fn7, VArgs3.fmt, VArgs2.fmt, VArgs1.fmt, VRed.fmt]
  try simp

theorem vshr (v : VArgs3) : Statement (.vshr v) := by
  intro idle h
  refine decode_encode idle rfl rfl (by first | exact readVec_body .. | exact readEng_body .. | simp) ?_ h
  conv_lhs => whnf
  try simp (disch := omega) only [extract_above, extract_below, getLsbD_above, getLsbD_below, AtomArgs.fn, readAtom, QArgs.ofFn, QArgs.fn7, VArgs3.fmt, VArgs2.fmt, VArgs1.fmt, VRed.fmt]
  try simp

theorem vsar (v : VArgs3) : Statement (.vsar v) := by
  intro idle h
  refine decode_encode idle rfl rfl (by first | exact readVec_body .. | exact readEng_body .. | simp) ?_ h
  conv_lhs => whnf
  try simp (disch := omega) only [extract_above, extract_below, getLsbD_above, getLsbD_below, AtomArgs.fn, readAtom, QArgs.ofFn, QArgs.fn7, VArgs3.fmt, VArgs2.fmt, VArgs1.fmt, VRed.fmt]
  try simp

theorem vcmp (v : VArgs3) : Statement (.vcmp v) := by
  intro idle h
  refine decode_encode idle rfl rfl (by first | exact readVec_body .. | exact readEng_body .. | simp) ?_ h
  conv_lhs => whnf
  try simp (disch := omega) only [extract_above, extract_below, getLsbD_above, getLsbD_below, AtomArgs.fn, readAtom, QArgs.ofFn, QArgs.fn7, VArgs3.fmt, VArgs2.fmt, VArgs1.fmt, VRed.fmt]
  try simp

theorem vsel (v : VArgs3) : Statement (.vsel v) := by
  intro idle h
  refine decode_encode idle rfl rfl (by first | exact readVec_body .. | exact readEng_body .. | simp) ?_ h
  conv_lhs => whnf
  try simp (disch := omega) only [extract_above, extract_below, getLsbD_above, getLsbD_below, AtomArgs.fn, readAtom, QArgs.ofFn, QArgs.fn7, VArgs3.fmt, VArgs2.fmt, VArgs1.fmt, VRed.fmt]
  try simp

theorem vcvt (v : VArgs2) (src : VType) (rtz : Bool) : Statement (.vcvt v src rtz) := by
  intro idle h
  refine decode_encode idle rfl rfl (by first | exact readVec_body .. | exact readEng_body .. | simp) ?_ h
  conv_lhs => whnf
  try simp (disch := omega) only [extract_above, extract_below, getLsbD_above, getLsbD_below, AtomArgs.fn, readAtom, QArgs.ofFn, QArgs.fn7, VArgs3.fmt, VArgs2.fmt, VArgs1.fmt, VRed.fmt]
  try simp

theorem vqnt (v : VArgs2) (src : VType) (rtz : Bool) (scale : Reg) : Statement (.vqnt v src rtz scale) := by
  intro idle h
  refine decode_encode idle rfl rfl (by first | exact readVec_body .. | exact readEng_body .. | simp) ?_ h
  conv_lhs => whnf
  try simp (disch := omega) only [extract_above, extract_below, getLsbD_above, getLsbD_below, AtomArgs.fn, readAtom, QArgs.ofFn, QArgs.fn7, VArgs3.fmt, VArgs2.fmt, VArgs1.fmt, VRed.fmt]
  try simp

theorem vdqn (v : VArgs2) (src : VType) (rtz : Bool) (scale : Reg) : Statement (.vdqn v src rtz scale) := by
  intro idle h
  refine decode_encode idle rfl rfl (by first | exact readVec_body .. | exact readEng_body .. | simp) ?_ h
  conv_lhs => whnf
  try simp (disch := omega) only [extract_above, extract_below, getLsbD_above, getLsbD_below, AtomArgs.fn, readAtom, QArgs.ofFn, QArgs.fn7, VArgs3.fmt, VArgs2.fmt, VArgs1.fmt, VRed.fmt]
  try simp

theorem vrsum (v : VRed) : Statement (.vrsum v) := by
  intro idle h
  refine decode_encode idle rfl rfl (by first | exact readVec_body .. | exact readEng_body .. | simp) ?_ h
  conv_lhs => whnf
  try simp (disch := omega) only [extract_above, extract_below, getLsbD_above, getLsbD_below, AtomArgs.fn, readAtom, QArgs.ofFn, QArgs.fn7, VArgs3.fmt, VArgs2.fmt, VArgs1.fmt, VRed.fmt]
  try simp

theorem vrmax (v : VRed) : Statement (.vrmax v) := by
  intro idle h
  refine decode_encode idle rfl rfl (by first | exact readVec_body .. | exact readEng_body .. | simp) ?_ h
  conv_lhs => whnf
  try simp (disch := omega) only [extract_above, extract_below, getLsbD_above, getLsbD_below, AtomArgs.fn, readAtom, QArgs.ofFn, QArgs.fn7, VArgs3.fmt, VArgs2.fmt, VArgs1.fmt, VRed.fmt]
  try simp

theorem vrmin (v : VRed) : Statement (.vrmin v) := by
  intro idle h
  refine decode_encode idle rfl rfl (by first | exact readVec_body .. | exact readEng_body .. | simp) ?_ h
  conv_lhs => whnf
  try simp (disch := omega) only [extract_above, extract_below, getLsbD_above, getLsbD_below, AtomArgs.fn, readAtom, QArgs.ofFn, QArgs.fn7, VArgs3.fmt, VArgs2.fmt, VArgs1.fmt, VRed.fmt]
  try simp

theorem vdot (v : VRed) (y : BitVec 12) : Statement (.vdot v y) := by
  intro idle h
  refine decode_encode idle rfl rfl (by first | exact readVec_body .. | exact readEng_body .. | simp) ?_ h
  conv_lhs => whnf
  try simp (disch := omega) only [extract_above, extract_below, getLsbD_above, getLsbD_below, AtomArgs.fn, readAtom, QArgs.ofFn, QArgs.fn7, VArgs3.fmt, VArgs2.fmt, VArgs1.fmt, VRed.fmt]
  try simp

theorem vexp2 (v : VArgs2) : Statement (.vexp2 v) := by
  intro idle h
  refine decode_encode idle rfl rfl (by first | exact readVec_body .. | exact readEng_body .. | simp) ?_ h
  conv_lhs => whnf
  try simp (disch := omega) only [extract_above, extract_below, getLsbD_above, getLsbD_below, AtomArgs.fn, readAtom, QArgs.ofFn, QArgs.fn7, VArgs3.fmt, VArgs2.fmt, VArgs1.fmt, VRed.fmt]
  try simp

theorem vlog2 (v : VArgs2) : Statement (.vlog2 v) := by
  intro idle h
  refine decode_encode idle rfl rfl (by first | exact readVec_body .. | exact readEng_body .. | simp) ?_ h
  conv_lhs => whnf
  try simp (disch := omega) only [extract_above, extract_below, getLsbD_above, getLsbD_below, AtomArgs.fn, readAtom, QArgs.ofFn, QArgs.fn7, VArgs3.fmt, VArgs2.fmt, VArgs1.fmt, VRed.fmt]
  try simp

theorem vrcp (v : VArgs2) : Statement (.vrcp v) := by
  intro idle h
  refine decode_encode idle rfl rfl (by first | exact readVec_body .. | exact readEng_body .. | simp) ?_ h
  conv_lhs => whnf
  try simp (disch := omega) only [extract_above, extract_below, getLsbD_above, getLsbD_below, AtomArgs.fn, readAtom, QArgs.ofFn, QArgs.fn7, VArgs3.fmt, VArgs2.fmt, VArgs1.fmt, VRed.fmt]
  try simp

theorem vrsq (v : VArgs2) : Statement (.vrsq v) := by
  intro idle h
  refine decode_encode idle rfl rfl (by first | exact readVec_body .. | exact readEng_body .. | simp) ?_ h
  conv_lhs => whnf
  try simp (disch := omega) only [extract_above, extract_below, getLsbD_above, getLsbD_below, AtomArgs.fn, readAtom, QArgs.ofFn, QArgs.fn7, VArgs3.fmt, VArgs2.fmt, VArgs1.fmt, VRed.fmt]
  try simp

theorem vact (v : VArgs2) (table : BitVec 6) : Statement (.vact v table) := by
  intro idle h
  refine decode_encode idle rfl rfl (by first | exact readVec_body .. | exact readEng_body .. | simp) ?_ h
  conv_lhs => whnf
  try simp (disch := omega) only [extract_above, extract_below, getLsbD_above, getLsbD_below, AtomArgs.fn, readAtom, QArgs.ofFn, QArgs.fn7, VArgs3.fmt, VArgs2.fmt, VArgs1.fmt, VRed.fmt]
  try simp

theorem vbcst (v : VArgs1) (s : Reg) : Statement (.vbcst v s) := by
  intro idle h
  refine decode_encode idle rfl rfl (by first | exact readVec_body .. | exact readEng_body .. | simp) ?_ h
  conv_lhs => whnf
  try simp (disch := omega) only [extract_above, extract_below, getLsbD_above, getLsbD_below, AtomArgs.fn, readAtom, QArgs.ofFn, QArgs.fn7, VArgs3.fmt, VArgs2.fmt, VArgs1.fmt, VRed.fmt]
  try simp

theorem vperm (v : VArgs3) : Statement (.vperm v) := by
  intro idle h
  refine decode_encode idle rfl rfl (by first | exact readVec_body .. | exact readEng_body .. | simp) ?_ h
  conv_lhs => whnf
  try simp (disch := omega) only [extract_above, extract_below, getLsbD_above, getLsbD_below, AtomArgs.fn, readAtom, QArgs.ofFn, QArgs.fn7, VArgs3.fmt, VArgs2.fmt, VArgs1.fmt, VRed.fmt]
  try simp

theorem vshufRot (v : VArgs2) (amount : BitVec 7) : Statement (.vshufRot v amount) := by
  intro idle h
  refine decode_encode idle rfl rfl (by first | exact readVec_body .. | exact readEng_body .. | simp) ?_ h
  conv_lhs => whnf
  try simp (disch := omega) only [extract_above, extract_below, getLsbD_above, getLsbD_below, AtomArgs.fn, readAtom, QArgs.ofFn, QArgs.fn7, VArgs3.fmt, VArgs2.fmt, VArgs1.fmt, VRed.fmt]
  try simp

theorem vshufRev (v : VArgs2) : Statement (.vshufRev v) := by
  intro idle h
  refine decode_encode idle rfl rfl (by first | exact readVec_body .. | exact readEng_body .. | simp) ?_ h
  conv_lhs => whnf
  try simp (disch := omega) only [extract_above, extract_below, getLsbD_above, getLsbD_below, AtomArgs.fn, readAtom, QArgs.ofFn, QArgs.fn7, VArgs3.fmt, VArgs2.fmt, VArgs1.fmt, VRed.fmt]
  try simp

theorem vshufUnzip (v : VArgs2) : Statement (.vshufUnzip v) := by
  intro idle h
  refine decode_encode idle rfl rfl (by first | exact readVec_body .. | exact readEng_body .. | simp) ?_ h
  conv_lhs => whnf
  try simp (disch := omega) only [extract_above, extract_below, getLsbD_above, getLsbD_below, AtomArgs.fn, readAtom, QArgs.ofFn, QArgs.fn7, VArgs3.fmt, VArgs2.fmt, VArgs1.fmt, VRed.fmt]
  try simp

theorem vshufZip (v : VArgs2) : Statement (.vshufZip v) := by
  intro idle h
  refine decode_encode idle rfl rfl (by first | exact readVec_body .. | exact readEng_body .. | simp) ?_ h
  conv_lhs => whnf
  try simp (disch := omega) only [extract_above, extract_below, getLsbD_above, getLsbD_below, AtomArgs.fn, readAtom, QArgs.ofFn, QArgs.fn7, VArgs3.fmt, VArgs2.fmt, VArgs1.fmt, VRed.fmt]
  try simp

theorem vmovsIns (d : BitVec 12) (e : BitVec 7) (s : Reg) (ty : VType) : Statement (.vmovsIns d e s ty) := by
  intro idle h
  refine decode_encode idle rfl rfl (by simp) ?_ h
  conv_lhs => whnf
  refine bit_cases _ (fun hb => ?_) fun _ => ?_
  · exact absurd hb (by simp (disch := omega) only [getLsbD_above, getLsbD_below]; decide)
  · simp (disch := omega) only [extract_above, extract_below, VArgs3.fmt, VArgs2.fmt, VArgs1.fmt]
    simp

theorem vmovsExt (d : Dst) (x : BitVec 12) (e : BitVec 7) (ty : VType) (ck cx : Bool) : Statement (.vmovsExt d x e ty ck cx) := by
  intro idle h
  refine decode_encode idle rfl rfl (by simp) ?_ h
  conv_lhs => whnf
  refine bit_cases _ (fun _ => ?_) fun hb => ?_
  · simp (disch := omega) only [extract_above, extract_below, VArgs3.fmt, VArgs2.fmt, VArgs1.fmt]
    simp
    cases ck <;> cases cx <;> decide
  · exact absurd hb (by simp (disch := omega) only [getLsbD_above, getLsbD_below]; decide)

theorem vclmp (v : VArgs3) : Statement (.vclmp v) := by
  intro idle h
  refine decode_encode idle rfl rfl (by first | exact readVec_body .. | exact readEng_body .. | simp) ?_ h
  conv_lhs => whnf
  try simp (disch := omega) only [extract_above, extract_below, getLsbD_above, getLsbD_below, AtomArgs.fn, readAtom, QArgs.ofFn, QArgs.fn7, VArgs3.fmt, VArgs2.fmt, VArgs1.fmt, VRed.fmt]
  try simp

theorem vscan (v : VArgs2) : Statement (.vscan v) := by
  intro idle h
  refine decode_encode idle rfl rfl (by first | exact readVec_body .. | exact readEng_body .. | simp) ?_ h
  conv_lhs => whnf
  try simp (disch := omega) only [extract_above, extract_below, getLsbD_above, getLsbD_below, AtomArgs.fn, readAtom, QArgs.ofFn, QArgs.fn7, VArgs3.fmt, VArgs2.fmt, VArgs1.fmt, VRed.fmt]
  try simp

theorem vpop (d : BitVec 12) (run : BitVec 3) (q : BitVec 3) : Statement (.vpop d run q) := by
  intro idle h
  refine decode_encode idle rfl rfl (by first | exact readVec_body .. | exact readEng_body .. | simp) ?_ h
  conv_lhs => whnf
  try simp (disch := omega) only [extract_above, extract_below, getLsbD_above, getLsbD_below, AtomArgs.fn, readAtom, QArgs.ofFn, QArgs.fn7, VArgs3.fmt, VArgs2.fmt, VArgs1.fmt, VRed.fmt]
  try simp

theorem vmask (v : VArgs1) (s : Reg) : Statement (.vmask v s) := by
  intro idle h
  refine decode_encode idle rfl rfl (by first | exact readVec_body .. | exact readEng_body .. | simp) ?_ h
  conv_lhs => whnf
  try simp (disch := omega) only [extract_above, extract_below, getLsbD_above, getLsbD_below, AtomArgs.fn, readAtom, QArgs.ofFn, QArgs.fn7, VArgs3.fmt, VArgs2.fmt, VArgs1.fmt, VRed.fmt]
  try simp

theorem vzero (d : BitVec 12) (run : BitVec 3) : Statement (.vzero d run) := by
  intro idle h
  refine decode_encode idle rfl rfl (by first | exact readVec_body .. | exact readEng_body .. | simp) ?_ h
  conv_lhs => whnf
  try simp (disch := omega) only [extract_above, extract_below, getLsbD_above, getLsbD_below, AtomArgs.fn, readAtom, QArgs.ofFn, QArgs.fn7, VArgs3.fmt, VArgs2.fmt, VArgs1.fmt, VRed.fmt]
  try simp

theorem vidx (v : VArgs1) (s : Reg) : Statement (.vidx v s) := by
  intro idle h
  refine decode_encode idle rfl rfl (by first | exact readVec_body .. | exact readEng_body .. | simp) ?_ h
  conv_lhs => whnf
  try simp (disch := omega) only [extract_above, extract_below, getLsbD_above, getLsbD_below, AtomArgs.fn, readAtom, QArgs.ofFn, QArgs.fn7, VArgs3.fmt, VArgs2.fmt, VArgs1.fmt, VRed.fmt]
  try simp

theorem vsprs (v : VArgs3) : Statement (.vsprs v) := by
  intro idle h
  refine decode_encode idle rfl rfl (by first | exact readVec_body .. | exact readEng_body .. | simp) ?_ h
  conv_lhs => whnf
  try simp (disch := omega) only [extract_above, extract_below, getLsbD_above, getLsbD_below, AtomArgs.fn, readAtom, QArgs.ofFn, QArgs.fn7, VArgs3.fmt, VArgs2.fmt, VArgs1.fmt, VRed.fmt]
  try simp

theorem vscale (v : VArgs3) : Statement (.vscale v) := by
  intro idle h
  refine decode_encode idle rfl rfl (by first | exact readVec_body .. | exact readEng_body .. | simp) ?_ h
  conv_lhs => whnf
  try simp (disch := omega) only [extract_above, extract_below, getLsbD_above, getLsbD_below, AtomArgs.fn, readAtom, QArgs.ofFn, QArgs.fn7, VArgs3.fmt, VArgs2.fmt, VArgs1.fmt, VRed.fmt]
  try simp

theorem xnest (lv : BitVec 3) (k : Bool) (n : Count) (sa sb sov : Reg) : Statement (.xnest lv k n sa sb sov) := by
  intro idle h
  cases n
  all_goals
    refine decode_encode idle rfl rfl (by simp) ?_ h
    conv_lhs => whnf
    refine bit_cases _ (fun hb => ?_) fun _ => ?_
    · exact absurd hb (by simp (disch := omega) only [getLsbD_above, getLsbD_below]; decide)
    · simp (disch := omega) only [extract_above, extract_below, getLsbD_above, getLsbD_below]
      simp

theorem xnestClr : Statement (.xnestClr) := by
  intro idle h
  refine decode_encode idle rfl rfl (by simp) ?_ h
  conv_lhs => whnf
  try simp (disch := omega) only [extract_above, extract_below, getLsbD_above, getLsbD_below, AtomArgs.fn, readAtom, QArgs.ofFn, QArgs.fn7, VArgs3.fmt, VArgs2.fmt, VArgs1.fmt, VRed.fmt]
  try simp

theorem xlrRd (d : Dst) (hl : BitVec 4) : Statement (.xlrRd d hl) := by
  intro idle h
  refine decode_encode idle rfl rfl (by simp) ?_ h
  conv_lhs => whnf
  try simp (disch := omega) only [extract_above, extract_below, getLsbD_above, getLsbD_below, AtomArgs.fn, readAtom, QArgs.ofFn, QArgs.fn7, VArgs3.fmt, VArgs2.fmt, VArgs1.fmt, VRed.fmt]
  try simp

theorem xlrWr (hl : BitVec 4) (x : Reg) : Statement (.xlrWr hl x) := by
  intro idle h
  refine decode_encode idle rfl rfl (by simp) ?_ h
  conv_lhs => whnf
  try simp (disch := omega) only [extract_above, extract_below, getLsbD_above, getLsbD_below, AtomArgs.fn, readAtom, QArgs.ofFn, QArgs.fn7, VArgs3.fmt, VArgs2.fmt, VArgs1.fmt, VRed.fmt]
  try simp

theorem xlrPos (d : Dst) : Statement (.xlrPos d) := by
  intro idle h
  refine decode_encode idle rfl rfl (by simp) ?_ h
  conv_lhs => whnf
  try simp (disch := omega) only [extract_above, extract_below, getLsbD_above, getLsbD_below, AtomArgs.fn, readAtom, QArgs.ofFn, QArgs.fn7, VArgs3.fmt, VArgs2.fmt, VArgs1.fmt, VRed.fmt]
  try simp

theorem xopsA (x : Reg) : Statement (.xopsA x) := by
  intro idle h
  refine decode_encode idle rfl rfl (by simp) ?_ h
  conv_lhs => whnf
  try simp (disch := omega) only [extract_above, extract_below, getLsbD_above, getLsbD_below, AtomArgs.fn, readAtom, QArgs.ofFn, QArgs.fn7, VArgs3.fmt, VArgs2.fmt, VArgs1.fmt, VRed.fmt]
  try simp

theorem xopsB (x : Reg) : Statement (.xopsB x) := by
  intro idle h
  refine decode_encode idle rfl rfl (by simp) ?_ h
  conv_lhs => whnf
  try simp (disch := omega) only [extract_above, extract_below, getLsbD_above, getLsbD_below, AtomArgs.fn, readAtom, QArgs.ofFn, QArgs.fn7, VArgs3.fmt, VArgs2.fmt, VArgs1.fmt, VRed.fmt]
  try simp

theorem xpost (x : Reg) : Statement (.xpost x) := by
  intro idle h
  refine decode_encode idle rfl rfl (by simp) ?_ h
  conv_lhs => whnf
  try simp (disch := omega) only [extract_above, extract_below, getLsbD_above, getLsbD_below, AtomArgs.fn, readAtom, QArgs.ofFn, QArgs.fn7, VArgs3.fmt, VArgs2.fmt, VArgs1.fmt, VRed.fmt]
  try simp

theorem xspm (x : Reg) : Statement (.xspm x) := by
  intro idle h
  refine decode_encode idle rfl rfl (by simp) ?_ h
  conv_lhs => whnf
  try simp (disch := omega) only [extract_above, extract_below, getLsbD_above, getLsbD_below, AtomArgs.fn, readAtom, QArgs.ofFn, QArgs.fn7, VArgs3.fmt, VArgs2.fmt, VArgs1.fmt, VRed.fmt]
  try simp

theorem xmask (x : Reg) : Statement (.xmask x) := by
  intro idle h
  refine decode_encode idle rfl rfl (by simp) ?_ h
  conv_lhs => whnf
  try simp (disch := omega) only [extract_above, extract_below, getLsbD_above, getLsbD_below, AtomArgs.fn, readAtom, QArgs.ofFn, QArgs.fn7, VArgs3.fmt, VArgs2.fmt, VArgs1.fmt, VRed.fmt]
  try simp

theorem xgo (acc : BitVec 2) (cont out : Bool) (stg : Stages) (msk : Bool) : Statement (.xgo acc cont out stg msk) := by
  intro idle h
  refine decode_encode idle rfl rfl (by simp) ?_ h
  conv_lhs => whnf
  try simp (disch := omega) only [extract_above, extract_below, getLsbD_above, getLsbD_below, AtomArgs.fn, readAtom, QArgs.ofFn, QArgs.fn7, VArgs3.fmt, VArgs2.fmt, VArgs1.fmt, VRed.fmt]
  try simp

theorem xwait : Statement (.xwait) := by
  intro idle h
  refine decode_encode idle rfl rfl (by simp) ?_ h
  conv_lhs => whnf
  try simp (disch := omega) only [extract_above, extract_below, getLsbD_above, getLsbD_below, AtomArgs.fn, readAtom, QArgs.ofFn, QArgs.fn7, VArgs3.fmt, VArgs2.fmt, VArgs1.fmt, VRed.fmt]
  try simp

theorem xaccClr (acc : BitVec 2) : Statement (.xaccClr acc) := by
  intro idle h
  refine decode_encode idle rfl rfl (by simp) ?_ h
  conv_lhs => whnf
  try simp (disch := omega) only [extract_above, extract_below, getLsbD_above, getLsbD_below, AtomArgs.fn, readAtom, QArgs.ofFn, QArgs.fn7, VArgs3.fmt, VArgs2.fmt, VArgs1.fmt, VRed.fmt]
  try simp

theorem xaccSt (acc : BitVec 2) (t : Reg) : Statement (.xaccSt acc t) := by
  intro idle h
  refine decode_encode idle rfl rfl (by simp) ?_ h
  conv_lhs => whnf
  try simp (disch := omega) only [extract_above, extract_below, getLsbD_above, getLsbD_below, AtomArgs.fn, readAtom, QArgs.ofFn, QArgs.fn7, VArgs3.fmt, VArgs2.fmt, VArgs1.fmt, VRed.fmt]
  try simp

theorem xaccLd (acc : BitVec 2) (t : Reg) (ck cx : Bool) : Statement (.xaccLd acc t ck cx) := by
  intro idle h
  refine decode_encode idle rfl rfl (by simp) ?_ h
  conv_lhs => whnf
  try simp (disch := omega) only [extract_above, extract_below, getLsbD_above, getLsbD_below, AtomArgs.fn, readAtom, QArgs.ofFn, QArgs.fn7, VArgs3.fmt, VArgs2.fmt, VArgs1.fmt, VRed.fmt]
  try simp

theorem xaccLdp (acc : BitVec 2) (t : Reg) (ck cx : Bool) : Statement (.xaccLdp acc t ck cx) := by
  intro idle h
  refine decode_encode idle rfl rfl (by simp) ?_ h
  conv_lhs => whnf
  try simp (disch := omega) only [extract_above, extract_below, getLsbD_above, getLsbD_below, AtomArgs.fn, readAtom, QArgs.ofFn, QArgs.fn7, VArgs3.fmt, VArgs2.fmt, VArgs1.fmt, VRed.fmt]
  try simp

theorem xaccAdd (acc src : BitVec 2) : Statement (.xaccAdd acc src) := by
  intro idle h
  refine decode_encode idle rfl rfl (by simp) ?_ h
  conv_lhs => whnf
  try simp (disch := omega) only [extract_above, extract_below, getLsbD_above, getLsbD_below, AtomArgs.fn, readAtom, QArgs.ofFn, QArgs.fn7, VArgs3.fmt, VArgs2.fmt, VArgs1.fmt, VRed.fmt]
  try simp

theorem xaccPost (acc : BitVec 2) (stg : Stages) : Statement (.xaccPost acc stg) := by
  intro idle h
  refine decode_encode idle rfl rfl (by simp) ?_ h
  conv_lhs => whnf
  try simp (disch := omega) only [extract_above, extract_below, getLsbD_above, getLsbD_below, AtomArgs.fn, readAtom, QArgs.ofFn, QArgs.fn7, VArgs3.fmt, VArgs2.fmt, VArgs1.fmt, VRed.fmt]
  try simp

theorem sealTensor (d : Dst) (h : BitVec 4) (x : Reg) : Statement (.sealTensor d h x) := by
  intro idle h
  refine decode_encode idle rfl rfl (by simp) ?_ h
  conv_lhs => whnf
  try simp (disch := omega) only [extract_above, extract_below, getLsbD_above, getLsbD_below, AtomArgs.fn, readAtom, QArgs.ofFn, QArgs.fn7, VArgs3.fmt, VArgs2.fmt, VArgs1.fmt, VRed.fmt]
  try simp

theorem sealTable (d : Dst) (h : BitVec 4) (x : Reg) : Statement (.sealTable d h x) := by
  intro idle h
  refine decode_encode idle rfl rfl (by simp) ?_ h
  conv_lhs => whnf
  try simp (disch := omega) only [extract_above, extract_below, getLsbD_above, getLsbD_below, AtomArgs.fn, readAtom, QArgs.ofFn, QArgs.fn7, VArgs3.fmt, VArgs2.fmt, VArgs1.fmt, VRed.fmt]
  try simp

theorem sealGrid (d : Dst) (h : BitVec 4) (x : Reg) : Statement (.sealGrid d h x) := by
  intro idle h
  refine decode_encode idle rfl rfl (by simp) ?_ h
  conv_lhs => whnf
  try simp (disch := omega) only [extract_above, extract_below, getLsbD_above, getLsbD_below, AtomArgs.fn, readAtom, QArgs.ofFn, QArgs.fn7, VArgs3.fmt, VArgs2.fmt, VArgs1.fmt, VRed.fmt]
  try simp

theorem unsealHandle (h : BitVec 4) : Statement (.unsealHandle h) := by
  intro idle h
  refine decode_encode idle rfl rfl (by simp) ?_ h
  conv_lhs => whnf
  try simp (disch := omega) only [extract_above, extract_below, getLsbD_above, getLsbD_below, AtomArgs.fn, readAtom, QArgs.ofFn, QArgs.fn7, VArgs3.fmt, VArgs2.fmt, VArgs1.fmt, VRed.fmt]
  try simp

theorem hmov (d : Dst) (hd hs : BitVec 4) : Statement (.hmov d hd hs) := by
  intro idle h
  refine decode_encode idle rfl rfl (by simp) ?_ h
  conv_lhs => whnf
  refine bit_cases _ (fun hb => ?_) fun _ => ?_
  · exact absurd hb (by simp (disch := omega) only [getLsbD_above, getLsbD_below]; decide)
  · simp (disch := omega) only [extract_above, extract_below, getLsbD_above, getLsbD_below]
    simp

theorem hmovMem (d : Dst) (hd hs : BitVec 4) (x : Reg) : Statement (.hmovMem d hd hs x) := by
  intro idle h
  refine decode_encode idle rfl rfl (by simp) ?_ h
  conv_lhs => whnf
  refine bit_cases _ (fun _ => ?_) fun hb => ?_
  · simp (disch := omega) only [extract_above, extract_below, getLsbD_above, getLsbD_below]
    simp
  · exact absurd hb (by simp (disch := omega) only [getLsbD_above, getLsbD_below]; decide)

theorem dataLanding (m : MRef) (slot : Nat) : Statement (.dataLanding m slot) := fun _ h => by cases h

theorem untimedResultLanding (m : MRef) (st : Strm) : Statement (.untimedResultLanding m st) := fun _ h => by cases h

theorem storeBufferDrain (m : MRef) (st : Strm) : Statement (.storeBufferDrain m st) := fun _ h => by cases h

theorem fetchMissFill (m : MRef) (st : Strm) : Statement (.fetchMissFill m st) := fun _ h => by cases h

theorem vectorUnitFree (m : MRef) : Statement (.vectorUnitFree m) := fun _ h => by cases h

theorem walkComplete (part die block : Nat) : Statement (.walkComplete part die block) := fun _ h => by cases h

theorem tagCheckSatisfied (m : MRef) (st : Strm) : Statement (.tagCheckSatisfied m st) := fun _ h => by cases h

theorem arrival (a : Arrival) : Statement (.arrival a) := fun _ h => by cases h

theorem arrivalRetry (a : Arrival) : Statement (.arrivalRetry a) := fun _ h => by cases h

theorem abortEvent (m : MRef) (tile : Nat) : Statement (.abortEvent m tile) := fun _ h => by cases h

theorem closingNotice (m : MRef) (rank epoch : Nat) : Statement (.closingNotice m rank epoch) := fun _ h => by cases h

theorem rollback (m : MRef) (rank epoch : Nat) : Statement (.rollback m rank epoch) := fun _ h => by cases h

theorem mailboxWake (m : MRef) (st : Strm) : Statement (.mailboxWake m st) := fun _ h => by cases h

theorem barrierEpisodeComplete (m : MRef) (sc : Scope) : Statement (.barrierEpisodeComplete m sc) := fun _ h => by cases h

theorem acqHomeRetest (m : MRef) (st : Strm) : Statement (.acqHomeRetest m st) := fun _ h => by cases h

theorem acqWithdrawal (m : MRef) (st : Strm) : Statement (.acqWithdrawal m st) := fun _ h => by cases h

theorem queueHomeService (op : QOp) : Statement (.queueHomeService op) := fun _ h => by cases h

theorem junctionPair (held arriving : QOp) : Statement (.junctionPair held arriving) := fun _ h => by cases h

theorem holdExpiry (id : Nat) : Statement (.holdExpiry id) := fun _ h => by cases h

theorem parkedPopTimeout (id : Nat) : Statement (.parkedPopTimeout id) := fun _ h => by cases h

theorem vergeWriteStart (v : VergeRef) : Statement (.vergeWriteStart v) := fun _ h => by cases h

theorem vergeWriteComplete (v : VergeRef) : Statement (.vergeWriteComplete v) := fun _ h => by cases h

theorem progressReport (v : VergeRef) (region : Nat) : Statement (.progressReport v region) := fun _ h => by cases h

theorem hpubWaitEnd (m : MRef) (st : Strm) : Statement (.hpubWaitEnd m st) := fun _ h => by cases h

theorem haloTimeout (m : MRef) (st : Strm) : Statement (.haloTimeout m st) := fun _ h => by cases h

theorem waitTimeout (m : MRef) (st : Strm) : Statement (.waitTimeout m st) := fun _ h => by cases h

theorem decay (part chiplet group : Nat) : Statement (.decay part chiplet group) := fun _ h => by cases h

theorem fillComplete (part chiplet set way : Nat) : Statement (.fillComplete part chiplet set way) := fun _ h => by cases h

theorem writeBackComplete (part chiplet set way : Nat) : Statement (.writeBackComplete part chiplet set way) := fun _ h => by cases h

theorem modeSwitch (stack : Nat) (compute : Bool) : Statement (.modeSwitch stack compute) := fun _ h => by cases h

theorem modeSwitchComplete (stack : Nat) : Statement (.modeSwitchComplete stack) := fun _ h => by cases h

theorem lookupBag (c : CmdRef) (bag : Nat) : Statement (.lookupBag c bag) := fun _ h => by cases h

theorem binAppend (c : CmdRef) (pair : Nat) : Statement (.binAppend c pair) := fun _ h => by cases h

theorem replayRegion (c : CmdRef) (region : Nat) : Statement (.replayRegion c region) := fun _ h => by cases h

theorem bucketReceive (b : Bucket) : Statement (.bucketReceive b) := fun _ h => by cases h

theorem a2aCombination (c : CmdRef) : Statement (.a2aCombination c) := fun _ h => by cases h

theorem copyElement (c : CmdRef) : Statement (.copyElement c) := fun _ h => by cases h

theorem commandCompletion (c : CmdRef) : Statement (.commandCompletion c) := fun _ h => by cases h

theorem kStep (m : MRef) : Statement (.kStep m) := fun _ h => by cases h

theorem ptrootWrite (ag : RegAgent) (part : Nat) (v : Word) : Statement (.ptrootWrite ag part v) := fun _ h => by cases h

theorem tlbinvAll (ag : RegAgent) (part : Nat) (v : Word) : Statement (.tlbinvAll ag part v) := fun _ h => by cases h

theorem tlbinvPage (ag : RegAgent) (part : Nat) (v : Word) : Statement (.tlbinvPage ag part v) := fun _ h => by cases h

theorem tlbinvComplete (part : Nat) : Statement (.tlbinvComplete part) := fun _ h => by cases h

theorem expctlLoad (ag : RegAgent) (part : Nat) (v : Word) : Statement (.expctlLoad ag part v) := fun _ h => by cases h

theorem hrcfgWrite (ag : RegAgent) (part : Nat) (v : Word) : Statement (.hrcfgWrite ag part v) := fun _ h => by cases h

theorem rgnctlLoad (ag : RegAgent) (part : Nat) (v : Word) : Statement (.rgnctlLoad ag part v) := fun _ h => by cases h

theorem registerWrite (ag : RegAgent) (r : RegAddr) (v : Word) : Statement (.registerWrite ag r v) := fun _ h => by cases h

theorem hqdb (ag : RegAgent) (part : Nat) (v : Word) : Statement (.hqdb ag part v) := fun _ h => by cases h

theorem cmdNop (q : QueueRef) (s : Slot) : Statement (.cmdNop q s) := fun _ h => by cases h

theorem launch (q : QueueRef) (s : Slot) : Statement (.launch q s) := fun _ h => by cases h

theorem launchi (q : QueueRef) (s : Slot) : Statement (.launchi q s) := fun _ h => by cases h

theorem cmdLoop (q : QueueRef) (s : Slot) : Statement (.cmdLoop q s) := fun _ h => by cases h

theorem cmdIf (q : QueueRef) (s : Slot) : Statement (.cmdIf q s) := fun _ h => by cases h

theorem jump (q : QueueRef) (s : Slot) : Statement (.jump q s) := fun _ h => by cases h

theorem wait (q : QueueRef) (s : Slot) : Statement (.wait q s) := fun _ h => by cases h

theorem signal (q : QueueRef) (s : Slot) : Statement (.signal q s) := fun _ h => by cases h

theorem sigadd (q : QueueRef) (s : Slot) : Statement (.sigadd q s) := fun _ h => by cases h

theorem write (q : QueueRef) (s : Slot) : Statement (.write q s) := fun _ h => by cases h

theorem cmdFence (q : QueueRef) (s : Slot) : Statement (.cmdFence q s) := fun _ h => by cases h

theorem delay (q : QueueRef) (s : Slot) : Statement (.delay q s) := fun _ h => by cases h

theorem delayExpiry (q : QueueRef) : Statement (.delayExpiry q) := fun _ h => by cases h

theorem ctxnew (q : QueueRef) (s : Slot) : Statement (.ctxnew q s) := fun _ h => by cases h

theorem ctxend (q : QueueRef) (s : Slot) : Statement (.ctxend q s) := fun _ h => by cases h

theorem intr (q : QueueRef) (s : Slot) : Statement (.intr q s) := fun _ h => by cases h

theorem qstop (q : QueueRef) (s : Slot) : Statement (.qstop q s) := fun _ h => by cases h

theorem predDecrement (part tcb : Nat) (failed : Bool) : Statement (.predDecrement part tcb failed) := fun _ h => by cases h

theorem cardAdmission (part die : Nat) (card : BitVec 128) : Statement (.cardAdmission part die card) := fun _ h => by cases h

theorem cardRepush (part prio : Nat) (card : CardPush) : Statement (.cardRepush part prio card) := fun _ h => by cases h

theorem chunkDispatch (part die : Nat) : Statement (.chunkDispatch part die) := fun _ h => by cases h

theorem taskRetire (part tcb : Nat) : Statement (.taskRetire part tcb) := fun _ h => by cases h

theorem periodBoundary (part : Nat) : Statement (.periodBoundary part) := fun _ h => by cases h

theorem preemptionRequest (part ctx : Nat) : Statement (.preemptionRequest part ctx) := fun _ h => by cases h

theorem preemptHalt (m : MRef) : Statement (.preemptHalt m) := fun _ h => by cases h

theorem save (m : MRef) : Statement (.save m) := fun _ h => by cases h

theorem restore (m : MRef) (core : Nat) : Statement (.restore m core) := fun _ h => by cases h

theorem escalation (m : MRef) : Statement (.escalation m) := fun _ h => by cases h

theorem resume (m : MRef) (e : ResumeEdit) : Statement (.resume m e) := fun _ h => by cases h

theorem endTheIteration (m : MRef) : Statement (.endTheIteration m) := fun _ h => by cases h

theorem endTheContext (part ctx : Nat) : Statement (.endTheContext part ctx) := fun _ h => by cases h

theorem dieFence (die : Nat) : Statement (.dieFence die) := fun _ h => by cases h

theorem partitionChange (part dies : Nat) (key : BitVec 32) : Statement (.partitionChange part dies key) := fun _ h => by cases h

theorem uncorrectableError (e : EccSite) : Statement (.uncorrectableError e) := fun _ h => by cases h

theorem fabcfgWrite (ag : RegAgent) (v : Word) : Statement (.fabcfgWrite ag v) := fun _ h => by cases h

theorem portTraining (port : Nat) (lanes : Bool) (rowsM1 colsM1 : Nat) (peer : DevRef) : Statement (.portTraining port lanes rowsM1 colsM1 peer) := fun _ h => by cases h

theorem linkReplayFailure (port : Nat) : Statement (.linkReplayFailure port) := fun _ h => by cases h

theorem rd (p : Packet) : Statement (.rd p) := fun _ h => by cases h

theorem wr (p : Packet) : Statement (.wr p) := fun _ h => by cases h

theorem atom (p : Packet) : Statement (.atom p) := fun _ h => by cases h

theorem arrive (p : Packet) : Statement (.arrive p) := fun _ h => by cases h

theorem qop (p : Packet) : Statement (.qop p) := fun _ h => by cases h

theorem obj (p : Packet) : Statement (.obj p) := fun _ h => by cases h

theorem rsp (p : Packet) : Statement (.rsp p) := fun _ h => by cases h

theorem openConn (p : Packet) : Statement (.openConn p) := fun _ h => by cases h

theorem openack (p : Packet) : Statement (.openack p) := fun _ h => by cases h

theorem close (p : Packet) : Statement (.close p) := fun _ h => by cases h

theorem ackOnly (p : Packet) : Statement (.ackOnly p) := fun _ h => by cases h

theorem ackIdleTimeout (c : ConnRef) : Statement (.ackIdleTimeout c) := fun _ h => by cases h

theorem retransmitTimeout (c : ConnRef) (seq : Nat) : Statement (.retransmitTimeout c seq) := fun _ h => by cases h

theorem teardown (c : ConnRef) : Statement (.teardown c) := fun _ h => by cases h

theorem fillingIdleTimeout (c : ConnRef) : Statement (.fillingIdleTimeout c) := fun _ h => by cases h

theorem arrivalResend (c : ConnRef) (seq : Nat) : Statement (.arrivalResend c seq) := fun _ h => by cases h

theorem routerWaitExpiry (p : Packet) : Statement (.routerWaitExpiry p) := fun _ h => by cases h

theorem rudBucket (b : Bucket) : Statement (.rudBucket b) := fun _ h => by cases h

theorem rudiPartial (c : CmdRef) (shard : Nat) (ps : ShardAnswer) : Statement (.rudiPartial c shard ps) := fun _ h => by cases h

theorem uecDeliveryFailure (c : CmdRef) : Statement (.uecDeliveryFailure c) := fun _ h => by cases h

theorem claim (ag : RegAgent) : Statement (.claim ag) := fun _ h => by cases h

theorem renew (ag : RegAgent) : Statement (.renew ag) := fun _ h => by cases h

theorem handover (ag : RegAgent) (succ : BitVec 2) : Statement (.handover ag succ) := fun _ h => by cases h

theorem leaseExpiry : Statement (.leaseExpiry ) := fun _ h => by cases h

theorem powerUp : Statement (.powerUp ) := fun _ h => by cases h

theorem clearingComplete : Statement (.clearingComplete ) := fun _ h => by cases h

theorem bootctlGo (ag : RegAgent) : Statement (.bootctlGo ag) := fun _ h => by cases h

theorem verificationComplete : Statement (.verificationComplete ) := fun _ h => by cases h

theorem devrst (ag : RegAgent) (v : Word) : Statement (.devrst ag v) := fun _ h => by cases h

theorem attgo (ag : RegAgent) : Statement (.attgo ag) := fun _ h => by cases h

theorem attestationReport : Statement (.attestationReport ) := fun _ h => by cases h

theorem powerWindow (watts : Nat) : Statement (.powerWindow watts) := fun _ h => by cases h

theorem limitReached (watts amps temp : Nat) : Statement (.limitReached watts amps temp) := fun _ h => by cases h

theorem thermalTrip (temp : Nat) : Statement (.thermalTrip temp) := fun _ h => by cases h

theorem powerDown : Statement (.powerDown ) := fun _ h => by cases h

theorem refresh (stack pc : Nat) : Statement (.refresh stack pc) := fun _ h => by cases h

theorem ageRefresh (part : Nat) : Statement (.ageRefresh part) := fun _ h => by cases h

theorem pcieLinkTraining (port gen : Nat) (x16 : Bool) : Statement (.pcieLinkTraining port gen x16) := fun _ h => by cases h

theorem apertureWrite (ag : RegAgent) (boot : Bool) (offset : Nat) (bytes : List Byte) : Statement (.apertureWrite ag boot offset bytes) := fun _ h => by cases h

theorem packetForward (p : Packet) (port : Nat) : Statement (.packetForward p port) := fun _ h => by cases h

theorem junctionHold (op : QOp) : Statement (.junctionHold op) := fun _ h => by cases h

end Sys2Proof.Laws.RoundTrip
end

