-- ==== Sys2Proof/Laws/State.lean ====
section
/-!
SUPPORT. Reading a field after an update: one lemma for each field an update leaves alone, and for each it changes.
-/

namespace Sys2Proof.Machine

/-! ### `Mach.updMember` -/

@[simp] theorem Mach.updMember_wclk (M : Mach) (r : MRef) (f : Member → Member) : (M.updMember r f).wclk = M.wclk := rfl
@[simp] theorem Mach.updMember_mem (M : Mach) (r : MRef) (f : Member → Member) : (M.updMember r f).mem = M.mem := rfl
@[simp] theorem Mach.updMember_poison (M : Mach) (r : MRef) (f : Member → Member) : (M.updMember r f).poison = M.poison := rfl
@[simp] theorem Mach.updMember_parts (M : Mach) (r : MRef) (f : Member → Member) : (M.updMember r f).parts = M.parts := rfl
@[simp] theorem Mach.updMember_cores (M : Mach) (r : MRef) (f : Member → Member) : (M.updMember r f).cores = M.cores := rfl
@[simp] theorem Mach.updMember_dieTlb (M : Mach) (r : MRef) (f : Member → Member) : (M.updMember r f).dieTlb = M.dieTlb := rfl
@[simp] theorem Mach.updMember_walks (M : Mach) (r : MRef) (f : Member → Member) : (M.updMember r f).walks = M.walks := rfl
@[simp] theorem Mach.updMember_walkCache (M : Mach) (r : MRef) (f : Member → Member) : (M.updMember r f).walkCache = M.walkCache := rfl
@[simp] theorem Mach.updMember_liveDies (M : Mach) (r : MRef) (f : Member → Member) : (M.updMember r f).liveDies = M.liveDies := rfl
@[simp] theorem Mach.updMember_chiplets (M : Mach) (r : MRef) (f : Member → Member) : (M.updMember r f).chiplets = M.chiplets := rfl
@[simp] theorem Mach.updMember_hbm (M : Mach) (r : MRef) (f : Member → Member) : (M.updMember r f).hbm = M.hbm := rfl
@[simp] theorem Mach.updMember_bars (M : Mach) (r : MRef) (f : Member → Member) : (M.updMember r f).bars = M.bars := rfl
@[simp] theorem Mach.updMember_bgroups (M : Mach) (r : MRef) (f : Member → Member) : (M.updMember r f).bgroups = M.bgroups := rfl
@[simp] theorem Mach.updMember_held (M : Mach) (r : MRef) (f : Member → Member) : (M.updMember r f).held = M.held := rfl
@[simp] theorem Mach.updMember_parked (M : Mach) (r : MRef) (f : Member → Member) : (M.updMember r f).parked = M.parked := rfl
@[simp] theorem Mach.updMember_fabcfg (M : Mach) (r : MRef) (f : Member → Member) : (M.updMember r f).fabcfg = M.fabcfg := rfl
@[simp] theorem Mach.updMember_portup (M : Mach) (r : MRef) (f : Member → Member) : (M.updMember r f).portup = M.portup := rfl
@[simp] theorem Mach.updMember_trained (M : Mach) (r : MRef) (f : Member → Member) : (M.updMember r f).trained = M.trained := rfl
@[simp] theorem Mach.updMember_conns (M : Mach) (r : MRef) (f : Member → Member) : (M.updMember r f).conns = M.conns := rfl
@[simp] theorem Mach.updMember_fetched (M : Mach) (r : MRef) (f : Member → Member) : (M.updMember r f).fetched = M.fetched := rfl
@[simp] theorem Mach.updMember_transit (M : Mach) (r : MRef) (f : Member → Member) : (M.updMember r f).transit = M.transit := rfl
@[simp] theorem Mach.updMember_sent (M : Mach) (r : MRef) (f : Member → Member) : (M.updMember r f).sent = M.sent := rfl
@[simp] theorem Mach.updMember_ueSent (M : Mach) (r : MRef) (f : Member → Member) : (M.updMember r f).ueSent = M.ueSent := rfl
@[simp] theorem Mach.updMember_ueBack (M : Mach) (r : MRef) (f : Member → Member) : (M.updMember r f).ueBack = M.ueBack := rfl
@[simp] theorem Mach.updMember_ueHeld (M : Mach) (r : MRef) (f : Member → Member) : (M.updMember r f).ueHeld = M.ueHeld := rfl
@[simp] theorem Mach.updMember_injTurn (M : Mach) (r : MRef) (f : Member → Member) : (M.updMember r f).injTurn = M.injTurn := rfl
@[simp] theorem Mach.updMember_msix (M : Mach) (r : MRef) (f : Member → Member) : (M.updMember r f).msix = M.msix := rfl
@[simp] theorem Mach.updMember_devlog (M : Mach) (r : MRef) (f : Member → Member) : (M.updMember r f).devlog = M.devlog := rfl
@[simp] theorem Mach.updMember_pending (M : Mach) (r : MRef) (f : Member → Member) : (M.updMember r f).pending = M.pending := rfl
@[simp] theorem Mach.updMember_agenda (M : Mach) (r : MRef) (f : Member → Member) : (M.updMember r f).agenda = M.agenda := rfl
@[simp] theorem Mach.updMember_cur (M : Mach) (r : MRef) (f : Member → Member) : (M.updMember r f).cur = M.cur := rfl
@[simp] theorem Mach.updMember_free (M : Mach) (r : MRef) (f : Member → Member) : (M.updMember r f).free = M.free := rfl
@[simp] theorem Mach.updMember_nextId (M : Mach) (r : MRef) (f : Member → Member) : (M.updMember r f).nextId = M.nextId := rfl
@[simp] theorem Mach.updMember_cpTurn (M : Mach) (r : MRef) (f : Member → Member) : (M.updMember r f).cpTurn = M.cpTurn := rfl

/-! ### `Mach.putMember` -/

@[simp] theorem Mach.putMember_wclk (M : Mach) (m : Member) : (M.putMember m).wclk = M.wclk := rfl
@[simp] theorem Mach.putMember_mem (M : Mach) (m : Member) : (M.putMember m).mem = M.mem := rfl
@[simp] theorem Mach.putMember_poison (M : Mach) (m : Member) : (M.putMember m).poison = M.poison := rfl
@[simp] theorem Mach.putMember_parts (M : Mach) (m : Member) : (M.putMember m).parts = M.parts := rfl
@[simp] theorem Mach.putMember_cores (M : Mach) (m : Member) : (M.putMember m).cores = M.cores := rfl
@[simp] theorem Mach.putMember_dieTlb (M : Mach) (m : Member) : (M.putMember m).dieTlb = M.dieTlb := rfl
@[simp] theorem Mach.putMember_walks (M : Mach) (m : Member) : (M.putMember m).walks = M.walks := rfl
@[simp] theorem Mach.putMember_walkCache (M : Mach) (m : Member) : (M.putMember m).walkCache = M.walkCache := rfl
@[simp] theorem Mach.putMember_liveDies (M : Mach) (m : Member) : (M.putMember m).liveDies = M.liveDies := rfl
@[simp] theorem Mach.putMember_chiplets (M : Mach) (m : Member) : (M.putMember m).chiplets = M.chiplets := rfl
@[simp] theorem Mach.putMember_hbm (M : Mach) (m : Member) : (M.putMember m).hbm = M.hbm := rfl
@[simp] theorem Mach.putMember_bars (M : Mach) (m : Member) : (M.putMember m).bars = M.bars := rfl
@[simp] theorem Mach.putMember_bgroups (M : Mach) (m : Member) : (M.putMember m).bgroups = M.bgroups := rfl
@[simp] theorem Mach.putMember_held (M : Mach) (m : Member) : (M.putMember m).held = M.held := rfl
@[simp] theorem Mach.putMember_parked (M : Mach) (m : Member) : (M.putMember m).parked = M.parked := rfl
@[simp] theorem Mach.putMember_fabcfg (M : Mach) (m : Member) : (M.putMember m).fabcfg = M.fabcfg := rfl
@[simp] theorem Mach.putMember_portup (M : Mach) (m : Member) : (M.putMember m).portup = M.portup := rfl
@[simp] theorem Mach.putMember_trained (M : Mach) (m : Member) : (M.putMember m).trained = M.trained := rfl
@[simp] theorem Mach.putMember_conns (M : Mach) (m : Member) : (M.putMember m).conns = M.conns := rfl
@[simp] theorem Mach.putMember_fetched (M : Mach) (m : Member) : (M.putMember m).fetched = M.fetched := rfl
@[simp] theorem Mach.putMember_transit (M : Mach) (m : Member) : (M.putMember m).transit = M.transit := rfl
@[simp] theorem Mach.putMember_sent (M : Mach) (m : Member) : (M.putMember m).sent = M.sent := rfl
@[simp] theorem Mach.putMember_ueSent (M : Mach) (m : Member) : (M.putMember m).ueSent = M.ueSent := rfl
@[simp] theorem Mach.putMember_ueBack (M : Mach) (m : Member) : (M.putMember m).ueBack = M.ueBack := rfl
@[simp] theorem Mach.putMember_ueHeld (M : Mach) (m : Member) : (M.putMember m).ueHeld = M.ueHeld := rfl
@[simp] theorem Mach.putMember_injTurn (M : Mach) (m : Member) : (M.putMember m).injTurn = M.injTurn := rfl
@[simp] theorem Mach.putMember_msix (M : Mach) (m : Member) : (M.putMember m).msix = M.msix := rfl
@[simp] theorem Mach.putMember_devlog (M : Mach) (m : Member) : (M.putMember m).devlog = M.devlog := rfl
@[simp] theorem Mach.putMember_pending (M : Mach) (m : Member) : (M.putMember m).pending = M.pending := rfl
@[simp] theorem Mach.putMember_agenda (M : Mach) (m : Member) : (M.putMember m).agenda = M.agenda := rfl
@[simp] theorem Mach.putMember_cur (M : Mach) (m : Member) : (M.putMember m).cur = M.cur := rfl
@[simp] theorem Mach.putMember_free (M : Mach) (m : Member) : (M.putMember m).free = M.free := rfl
@[simp] theorem Mach.putMember_nextId (M : Mach) (m : Member) : (M.putMember m).nextId = M.nextId := rfl
@[simp] theorem Mach.putMember_cpTurn (M : Mach) (m : Member) : (M.putMember m).cpTurn = M.cpTurn := rfl

/-! ### `Mach.updPart` -/

@[simp] theorem Mach.updPart_wclk (M : Mach) (id : Nat) (f : Part → Part) : (M.updPart id f).wclk = M.wclk := rfl
@[simp] theorem Mach.updPart_mem (M : Mach) (id : Nat) (f : Part → Part) : (M.updPart id f).mem = M.mem := rfl
@[simp] theorem Mach.updPart_poison (M : Mach) (id : Nat) (f : Part → Part) : (M.updPart id f).poison = M.poison := rfl
@[simp] theorem Mach.updPart_members (M : Mach) (id : Nat) (f : Part → Part) : (M.updPart id f).members = M.members := rfl
@[simp] theorem Mach.updPart_cores (M : Mach) (id : Nat) (f : Part → Part) : (M.updPart id f).cores = M.cores := rfl
@[simp] theorem Mach.updPart_dieTlb (M : Mach) (id : Nat) (f : Part → Part) : (M.updPart id f).dieTlb = M.dieTlb := rfl
@[simp] theorem Mach.updPart_walks (M : Mach) (id : Nat) (f : Part → Part) : (M.updPart id f).walks = M.walks := rfl
@[simp] theorem Mach.updPart_walkCache (M : Mach) (id : Nat) (f : Part → Part) : (M.updPart id f).walkCache = M.walkCache := rfl
@[simp] theorem Mach.updPart_liveDies (M : Mach) (id : Nat) (f : Part → Part) : (M.updPart id f).liveDies = M.liveDies := rfl
@[simp] theorem Mach.updPart_chiplets (M : Mach) (id : Nat) (f : Part → Part) : (M.updPart id f).chiplets = M.chiplets := rfl
@[simp] theorem Mach.updPart_hbm (M : Mach) (id : Nat) (f : Part → Part) : (M.updPart id f).hbm = M.hbm := rfl
@[simp] theorem Mach.updPart_bars (M : Mach) (id : Nat) (f : Part → Part) : (M.updPart id f).bars = M.bars := rfl
@[simp] theorem Mach.updPart_bgroups (M : Mach) (id : Nat) (f : Part → Part) : (M.updPart id f).bgroups = M.bgroups := rfl
@[simp] theorem Mach.updPart_held (M : Mach) (id : Nat) (f : Part → Part) : (M.updPart id f).held = M.held := rfl
@[simp] theorem Mach.updPart_parked (M : Mach) (id : Nat) (f : Part → Part) : (M.updPart id f).parked = M.parked := rfl
@[simp] theorem Mach.updPart_fabcfg (M : Mach) (id : Nat) (f : Part → Part) : (M.updPart id f).fabcfg = M.fabcfg := rfl
@[simp] theorem Mach.updPart_portup (M : Mach) (id : Nat) (f : Part → Part) : (M.updPart id f).portup = M.portup := rfl
@[simp] theorem Mach.updPart_trained (M : Mach) (id : Nat) (f : Part → Part) : (M.updPart id f).trained = M.trained := rfl
@[simp] theorem Mach.updPart_conns (M : Mach) (id : Nat) (f : Part → Part) : (M.updPart id f).conns = M.conns := rfl
@[simp] theorem Mach.updPart_fetched (M : Mach) (id : Nat) (f : Part → Part) : (M.updPart id f).fetched = M.fetched := rfl
@[simp] theorem Mach.updPart_transit (M : Mach) (id : Nat) (f : Part → Part) : (M.updPart id f).transit = M.transit := rfl
@[simp] theorem Mach.updPart_sent (M : Mach) (id : Nat) (f : Part → Part) : (M.updPart id f).sent = M.sent := rfl
@[simp] theorem Mach.updPart_ueSent (M : Mach) (id : Nat) (f : Part → Part) : (M.updPart id f).ueSent = M.ueSent := rfl
@[simp] theorem Mach.updPart_ueBack (M : Mach) (id : Nat) (f : Part → Part) : (M.updPart id f).ueBack = M.ueBack := rfl
@[simp] theorem Mach.updPart_ueHeld (M : Mach) (id : Nat) (f : Part → Part) : (M.updPart id f).ueHeld = M.ueHeld := rfl
@[simp] theorem Mach.updPart_injTurn (M : Mach) (id : Nat) (f : Part → Part) : (M.updPart id f).injTurn = M.injTurn := rfl
@[simp] theorem Mach.updPart_msix (M : Mach) (id : Nat) (f : Part → Part) : (M.updPart id f).msix = M.msix := rfl
@[simp] theorem Mach.updPart_devlog (M : Mach) (id : Nat) (f : Part → Part) : (M.updPart id f).devlog = M.devlog := rfl
@[simp] theorem Mach.updPart_pending (M : Mach) (id : Nat) (f : Part → Part) : (M.updPart id f).pending = M.pending := rfl
@[simp] theorem Mach.updPart_agenda (M : Mach) (id : Nat) (f : Part → Part) : (M.updPart id f).agenda = M.agenda := rfl
@[simp] theorem Mach.updPart_cur (M : Mach) (id : Nat) (f : Part → Part) : (M.updPart id f).cur = M.cur := rfl
@[simp] theorem Mach.updPart_free (M : Mach) (id : Nat) (f : Part → Part) : (M.updPart id f).free = M.free := rfl
@[simp] theorem Mach.updPart_nextId (M : Mach) (id : Nat) (f : Part → Part) : (M.updPart id f).nextId = M.nextId := rfl
@[simp] theorem Mach.updPart_cpTurn (M : Mach) (id : Nat) (f : Part → Part) : (M.updPart id f).cpTurn = M.cpTurn := rfl

/-! ### `Mach.put` -/

@[simp] theorem Mach.put_wclk (M : Mach) (a : Nat) (bs : List Byte) : (M.put a bs).wclk = M.wclk := rfl
@[simp] theorem Mach.put_poison (M : Mach) (a : Nat) (bs : List Byte) : (M.put a bs).poison = M.poison := rfl
@[simp] theorem Mach.put_parts (M : Mach) (a : Nat) (bs : List Byte) : (M.put a bs).parts = M.parts := rfl
@[simp] theorem Mach.put_members (M : Mach) (a : Nat) (bs : List Byte) : (M.put a bs).members = M.members := rfl
@[simp] theorem Mach.put_cores (M : Mach) (a : Nat) (bs : List Byte) : (M.put a bs).cores = M.cores := rfl
@[simp] theorem Mach.put_dieTlb (M : Mach) (a : Nat) (bs : List Byte) : (M.put a bs).dieTlb = M.dieTlb := rfl
@[simp] theorem Mach.put_walks (M : Mach) (a : Nat) (bs : List Byte) : (M.put a bs).walks = M.walks := rfl
@[simp] theorem Mach.put_walkCache (M : Mach) (a : Nat) (bs : List Byte) : (M.put a bs).walkCache = M.walkCache := rfl
@[simp] theorem Mach.put_liveDies (M : Mach) (a : Nat) (bs : List Byte) : (M.put a bs).liveDies = M.liveDies := rfl
@[simp] theorem Mach.put_chiplets (M : Mach) (a : Nat) (bs : List Byte) : (M.put a bs).chiplets = M.chiplets := rfl
@[simp] theorem Mach.put_hbm (M : Mach) (a : Nat) (bs : List Byte) : (M.put a bs).hbm = M.hbm := rfl
@[simp] theorem Mach.put_bars (M : Mach) (a : Nat) (bs : List Byte) : (M.put a bs).bars = M.bars := rfl
@[simp] theorem Mach.put_bgroups (M : Mach) (a : Nat) (bs : List Byte) : (M.put a bs).bgroups = M.bgroups := rfl
@[simp] theorem Mach.put_held (M : Mach) (a : Nat) (bs : List Byte) : (M.put a bs).held = M.held := rfl
@[simp] theorem Mach.put_parked (M : Mach) (a : Nat) (bs : List Byte) : (M.put a bs).parked = M.parked := rfl
@[simp] theorem Mach.put_fabcfg (M : Mach) (a : Nat) (bs : List Byte) : (M.put a bs).fabcfg = M.fabcfg := rfl
@[simp] theorem Mach.put_portup (M : Mach) (a : Nat) (bs : List Byte) : (M.put a bs).portup = M.portup := rfl
@[simp] theorem Mach.put_trained (M : Mach) (a : Nat) (bs : List Byte) : (M.put a bs).trained = M.trained := rfl
@[simp] theorem Mach.put_conns (M : Mach) (a : Nat) (bs : List Byte) : (M.put a bs).conns = M.conns := rfl
@[simp] theorem Mach.put_fetched (M : Mach) (a : Nat) (bs : List Byte) : (M.put a bs).fetched = M.fetched := rfl
@[simp] theorem Mach.put_transit (M : Mach) (a : Nat) (bs : List Byte) : (M.put a bs).transit = M.transit := rfl
@[simp] theorem Mach.put_sent (M : Mach) (a : Nat) (bs : List Byte) : (M.put a bs).sent = M.sent := rfl
@[simp] theorem Mach.put_ueSent (M : Mach) (a : Nat) (bs : List Byte) : (M.put a bs).ueSent = M.ueSent := rfl
@[simp] theorem Mach.put_ueBack (M : Mach) (a : Nat) (bs : List Byte) : (M.put a bs).ueBack = M.ueBack := rfl
@[simp] theorem Mach.put_ueHeld (M : Mach) (a : Nat) (bs : List Byte) : (M.put a bs).ueHeld = M.ueHeld := rfl
@[simp] theorem Mach.put_injTurn (M : Mach) (a : Nat) (bs : List Byte) : (M.put a bs).injTurn = M.injTurn := rfl
@[simp] theorem Mach.put_msix (M : Mach) (a : Nat) (bs : List Byte) : (M.put a bs).msix = M.msix := rfl
@[simp] theorem Mach.put_devlog (M : Mach) (a : Nat) (bs : List Byte) : (M.put a bs).devlog = M.devlog := rfl
@[simp] theorem Mach.put_pending (M : Mach) (a : Nat) (bs : List Byte) : (M.put a bs).pending = M.pending := rfl
@[simp] theorem Mach.put_agenda (M : Mach) (a : Nat) (bs : List Byte) : (M.put a bs).agenda = M.agenda := rfl
@[simp] theorem Mach.put_cur (M : Mach) (a : Nat) (bs : List Byte) : (M.put a bs).cur = M.cur := rfl
@[simp] theorem Mach.put_free (M : Mach) (a : Nat) (bs : List Byte) : (M.put a bs).free = M.free := rfl
@[simp] theorem Mach.put_nextId (M : Mach) (a : Nat) (bs : List Byte) : (M.put a bs).nextId = M.nextId := rfl
@[simp] theorem Mach.put_cpTurn (M : Mach) (a : Nat) (bs : List Byte) : (M.put a bs).cpTurn = M.cpTurn := rfl

/-! ### `Mach.raise` -/

@[simp] theorem Mach.raise_wclk (M : Mach) (d : Nat) (e : Event) : (M.raise d e).wclk = M.wclk := rfl
@[simp] theorem Mach.raise_mem (M : Mach) (d : Nat) (e : Event) : (M.raise d e).mem = M.mem := rfl
@[simp] theorem Mach.raise_poison (M : Mach) (d : Nat) (e : Event) : (M.raise d e).poison = M.poison := rfl
@[simp] theorem Mach.raise_parts (M : Mach) (d : Nat) (e : Event) : (M.raise d e).parts = M.parts := rfl
@[simp] theorem Mach.raise_members (M : Mach) (d : Nat) (e : Event) : (M.raise d e).members = M.members := rfl
@[simp] theorem Mach.raise_cores (M : Mach) (d : Nat) (e : Event) : (M.raise d e).cores = M.cores := rfl
@[simp] theorem Mach.raise_dieTlb (M : Mach) (d : Nat) (e : Event) : (M.raise d e).dieTlb = M.dieTlb := rfl
@[simp] theorem Mach.raise_walks (M : Mach) (d : Nat) (e : Event) : (M.raise d e).walks = M.walks := rfl
@[simp] theorem Mach.raise_walkCache (M : Mach) (d : Nat) (e : Event) : (M.raise d e).walkCache = M.walkCache := rfl
@[simp] theorem Mach.raise_liveDies (M : Mach) (d : Nat) (e : Event) : (M.raise d e).liveDies = M.liveDies := rfl
@[simp] theorem Mach.raise_chiplets (M : Mach) (d : Nat) (e : Event) : (M.raise d e).chiplets = M.chiplets := rfl
@[simp] theorem Mach.raise_hbm (M : Mach) (d : Nat) (e : Event) : (M.raise d e).hbm = M.hbm := rfl
@[simp] theorem Mach.raise_bars (M : Mach) (d : Nat) (e : Event) : (M.raise d e).bars = M.bars := rfl
@[simp] theorem Mach.raise_bgroups (M : Mach) (d : Nat) (e : Event) : (M.raise d e).bgroups = M.bgroups := rfl
@[simp] theorem Mach.raise_held (M : Mach) (d : Nat) (e : Event) : (M.raise d e).held = M.held := rfl
@[simp] theorem Mach.raise_parked (M : Mach) (d : Nat) (e : Event) : (M.raise d e).parked = M.parked := rfl
@[simp] theorem Mach.raise_fabcfg (M : Mach) (d : Nat) (e : Event) : (M.raise d e).fabcfg = M.fabcfg := rfl
@[simp] theorem Mach.raise_portup (M : Mach) (d : Nat) (e : Event) : (M.raise d e).portup = M.portup := rfl
@[simp] theorem Mach.raise_trained (M : Mach) (d : Nat) (e : Event) : (M.raise d e).trained = M.trained := rfl
@[simp] theorem Mach.raise_conns (M : Mach) (d : Nat) (e : Event) : (M.raise d e).conns = M.conns := rfl
@[simp] theorem Mach.raise_fetched (M : Mach) (d : Nat) (e : Event) : (M.raise d e).fetched = M.fetched := rfl
@[simp] theorem Mach.raise_transit (M : Mach) (d : Nat) (e : Event) : (M.raise d e).transit = M.transit := rfl
@[simp] theorem Mach.raise_sent (M : Mach) (d : Nat) (e : Event) : (M.raise d e).sent = M.sent := rfl
@[simp] theorem Mach.raise_ueSent (M : Mach) (d : Nat) (e : Event) : (M.raise d e).ueSent = M.ueSent := rfl
@[simp] theorem Mach.raise_ueBack (M : Mach) (d : Nat) (e : Event) : (M.raise d e).ueBack = M.ueBack := rfl
@[simp] theorem Mach.raise_ueHeld (M : Mach) (d : Nat) (e : Event) : (M.raise d e).ueHeld = M.ueHeld := rfl
@[simp] theorem Mach.raise_injTurn (M : Mach) (d : Nat) (e : Event) : (M.raise d e).injTurn = M.injTurn := rfl
@[simp] theorem Mach.raise_msix (M : Mach) (d : Nat) (e : Event) : (M.raise d e).msix = M.msix := rfl
@[simp] theorem Mach.raise_devlog (M : Mach) (d : Nat) (e : Event) : (M.raise d e).devlog = M.devlog := rfl
@[simp] theorem Mach.raise_agenda (M : Mach) (d : Nat) (e : Event) : (M.raise d e).agenda = M.agenda := rfl
@[simp] theorem Mach.raise_cur (M : Mach) (d : Nat) (e : Event) : (M.raise d e).cur = M.cur := rfl
@[simp] theorem Mach.raise_free (M : Mach) (d : Nat) (e : Event) : (M.raise d e).free = M.free := rfl
@[simp] theorem Mach.raise_nextId (M : Mach) (d : Nat) (e : Event) : (M.raise d e).nextId = M.nextId := rfl
@[simp] theorem Mach.raise_cpTurn (M : Mach) (d : Nat) (e : Event) : (M.raise d e).cpTurn = M.cpTurn := rfl

/-! ### `Mach.logDev` -/

@[simp] theorem Mach.logDev_wclk (M : Mach) (u v : Nat) : (M.logDev u v).wclk = M.wclk := rfl
@[simp] theorem Mach.logDev_mem (M : Mach) (u v : Nat) : (M.logDev u v).mem = M.mem := rfl
@[simp] theorem Mach.logDev_poison (M : Mach) (u v : Nat) : (M.logDev u v).poison = M.poison := rfl
@[simp] theorem Mach.logDev_parts (M : Mach) (u v : Nat) : (M.logDev u v).parts = M.parts := rfl
@[simp] theorem Mach.logDev_members (M : Mach) (u v : Nat) : (M.logDev u v).members = M.members := rfl
@[simp] theorem Mach.logDev_cores (M : Mach) (u v : Nat) : (M.logDev u v).cores = M.cores := rfl
@[simp] theorem Mach.logDev_dieTlb (M : Mach) (u v : Nat) : (M.logDev u v).dieTlb = M.dieTlb := rfl
@[simp] theorem Mach.logDev_walks (M : Mach) (u v : Nat) : (M.logDev u v).walks = M.walks := rfl
@[simp] theorem Mach.logDev_walkCache (M : Mach) (u v : Nat) : (M.logDev u v).walkCache = M.walkCache := rfl
@[simp] theorem Mach.logDev_liveDies (M : Mach) (u v : Nat) : (M.logDev u v).liveDies = M.liveDies := rfl
@[simp] theorem Mach.logDev_chiplets (M : Mach) (u v : Nat) : (M.logDev u v).chiplets = M.chiplets := rfl
@[simp] theorem Mach.logDev_hbm (M : Mach) (u v : Nat) : (M.logDev u v).hbm = M.hbm := rfl
@[simp] theorem Mach.logDev_bars (M : Mach) (u v : Nat) : (M.logDev u v).bars = M.bars := rfl
@[simp] theorem Mach.logDev_bgroups (M : Mach) (u v : Nat) : (M.logDev u v).bgroups = M.bgroups := rfl
@[simp] theorem Mach.logDev_held (M : Mach) (u v : Nat) : (M.logDev u v).held = M.held := rfl
@[simp] theorem Mach.logDev_parked (M : Mach) (u v : Nat) : (M.logDev u v).parked = M.parked := rfl
@[simp] theorem Mach.logDev_fabcfg (M : Mach) (u v : Nat) : (M.logDev u v).fabcfg = M.fabcfg := rfl
@[simp] theorem Mach.logDev_portup (M : Mach) (u v : Nat) : (M.logDev u v).portup = M.portup := rfl
@[simp] theorem Mach.logDev_trained (M : Mach) (u v : Nat) : (M.logDev u v).trained = M.trained := rfl
@[simp] theorem Mach.logDev_conns (M : Mach) (u v : Nat) : (M.logDev u v).conns = M.conns := rfl
@[simp] theorem Mach.logDev_fetched (M : Mach) (u v : Nat) : (M.logDev u v).fetched = M.fetched := rfl
@[simp] theorem Mach.logDev_transit (M : Mach) (u v : Nat) : (M.logDev u v).transit = M.transit := rfl
@[simp] theorem Mach.logDev_sent (M : Mach) (u v : Nat) : (M.logDev u v).sent = M.sent := rfl
@[simp] theorem Mach.logDev_ueSent (M : Mach) (u v : Nat) : (M.logDev u v).ueSent = M.ueSent := rfl
@[simp] theorem Mach.logDev_ueBack (M : Mach) (u v : Nat) : (M.logDev u v).ueBack = M.ueBack := rfl
@[simp] theorem Mach.logDev_ueHeld (M : Mach) (u v : Nat) : (M.logDev u v).ueHeld = M.ueHeld := rfl
@[simp] theorem Mach.logDev_injTurn (M : Mach) (u v : Nat) : (M.logDev u v).injTurn = M.injTurn := rfl
@[simp] theorem Mach.logDev_msix (M : Mach) (u v : Nat) : (M.logDev u v).msix = M.msix := rfl
@[simp] theorem Mach.logDev_pending (M : Mach) (u v : Nat) : (M.logDev u v).pending = M.pending := rfl
@[simp] theorem Mach.logDev_agenda (M : Mach) (u v : Nat) : (M.logDev u v).agenda = M.agenda := rfl
@[simp] theorem Mach.logDev_cur (M : Mach) (u v : Nat) : (M.logDev u v).cur = M.cur := rfl
@[simp] theorem Mach.logDev_free (M : Mach) (u v : Nat) : (M.logDev u v).free = M.free := rfl
@[simp] theorem Mach.logDev_nextId (M : Mach) (u v : Nat) : (M.logDev u v).nextId = M.nextId := rfl
@[simp] theorem Mach.logDev_cpTurn (M : Mach) (u v : Nat) : (M.logDev u v).cpTurn = M.cpTurn := rfl

/-! ### `Mach.setCore` -/

@[simp] theorem Mach.setCore_wclk (M : Mach) (r : CoreRec) : (M.setCore r).wclk = M.wclk := rfl
@[simp] theorem Mach.setCore_mem (M : Mach) (r : CoreRec) : (M.setCore r).mem = M.mem := rfl
@[simp] theorem Mach.setCore_poison (M : Mach) (r : CoreRec) : (M.setCore r).poison = M.poison := rfl
@[simp] theorem Mach.setCore_parts (M : Mach) (r : CoreRec) : (M.setCore r).parts = M.parts := rfl
@[simp] theorem Mach.setCore_members (M : Mach) (r : CoreRec) : (M.setCore r).members = M.members := rfl
@[simp] theorem Mach.setCore_dieTlb (M : Mach) (r : CoreRec) : (M.setCore r).dieTlb = M.dieTlb := rfl
@[simp] theorem Mach.setCore_walks (M : Mach) (r : CoreRec) : (M.setCore r).walks = M.walks := rfl
@[simp] theorem Mach.setCore_walkCache (M : Mach) (r : CoreRec) : (M.setCore r).walkCache = M.walkCache := rfl
@[simp] theorem Mach.setCore_liveDies (M : Mach) (r : CoreRec) : (M.setCore r).liveDies = M.liveDies := rfl
@[simp] theorem Mach.setCore_chiplets (M : Mach) (r : CoreRec) : (M.setCore r).chiplets = M.chiplets := rfl
@[simp] theorem Mach.setCore_hbm (M : Mach) (r : CoreRec) : (M.setCore r).hbm = M.hbm := rfl
@[simp] theorem Mach.setCore_bars (M : Mach) (r : CoreRec) : (M.setCore r).bars = M.bars := rfl
@[simp] theorem Mach.setCore_bgroups (M : Mach) (r : CoreRec) : (M.setCore r).bgroups = M.bgroups := rfl
@[simp] theorem Mach.setCore_held (M : Mach) (r : CoreRec) : (M.setCore r).held = M.held := rfl
@[simp] theorem Mach.setCore_parked (M : Mach) (r : CoreRec) : (M.setCore r).parked = M.parked := rfl
@[simp] theorem Mach.setCore_fabcfg (M : Mach) (r : CoreRec) : (M.setCore r).fabcfg = M.fabcfg := rfl
@[simp] theorem Mach.setCore_portup (M : Mach) (r : CoreRec) : (M.setCore r).portup = M.portup := rfl
@[simp] theorem Mach.setCore_trained (M : Mach) (r : CoreRec) : (M.setCore r).trained = M.trained := rfl
@[simp] theorem Mach.setCore_conns (M : Mach) (r : CoreRec) : (M.setCore r).conns = M.conns := rfl
@[simp] theorem Mach.setCore_fetched (M : Mach) (r : CoreRec) : (M.setCore r).fetched = M.fetched := rfl
@[simp] theorem Mach.setCore_transit (M : Mach) (r : CoreRec) : (M.setCore r).transit = M.transit := rfl
@[simp] theorem Mach.setCore_sent (M : Mach) (r : CoreRec) : (M.setCore r).sent = M.sent := rfl
@[simp] theorem Mach.setCore_ueSent (M : Mach) (r : CoreRec) : (M.setCore r).ueSent = M.ueSent := rfl
@[simp] theorem Mach.setCore_ueBack (M : Mach) (r : CoreRec) : (M.setCore r).ueBack = M.ueBack := rfl
@[simp] theorem Mach.setCore_ueHeld (M : Mach) (r : CoreRec) : (M.setCore r).ueHeld = M.ueHeld := rfl
@[simp] theorem Mach.setCore_injTurn (M : Mach) (r : CoreRec) : (M.setCore r).injTurn = M.injTurn := rfl
@[simp] theorem Mach.setCore_msix (M : Mach) (r : CoreRec) : (M.setCore r).msix = M.msix := rfl
@[simp] theorem Mach.setCore_devlog (M : Mach) (r : CoreRec) : (M.setCore r).devlog = M.devlog := rfl
@[simp] theorem Mach.setCore_pending (M : Mach) (r : CoreRec) : (M.setCore r).pending = M.pending := rfl
@[simp] theorem Mach.setCore_agenda (M : Mach) (r : CoreRec) : (M.setCore r).agenda = M.agenda := rfl
@[simp] theorem Mach.setCore_cur (M : Mach) (r : CoreRec) : (M.setCore r).cur = M.cur := rfl
@[simp] theorem Mach.setCore_free (M : Mach) (r : CoreRec) : (M.setCore r).free = M.free := rfl
@[simp] theorem Mach.setCore_nextId (M : Mach) (r : CoreRec) : (M.setCore r).nextId = M.nextId := rfl
@[simp] theorem Mach.setCore_cpTurn (M : Mach) (r : CoreRec) : (M.setCore r).cpTurn = M.cpTurn := rfl

@[simp] theorem Mach.raise_pending (M : Mach) (d : Nat) (e : Event) :
    (M.raise d e).pending = M.pending ++ [⟨e, M.wclk + d⟩] := rfl

@[simp] theorem Mach.logDev_devlog (M : Mach) (u v : Nat) : (M.logDev u v).devlog = M.devlog ++ [⟨u, v⟩] := rfl

@[simp] theorem Mach.put_mem (M : Mach) (a : Nat) (bs : List Byte) : (M.put a bs).mem = memSets M.mem a bs := rfl

/-! ### Streams of a member -/

@[simp] theorem Member.str_setStr (m : Member) (st : Strm) (s : Stream) : (m.setStr st s).str st = s := by
  cases st <;> rfl

theorem Member.str_setStr_ne (m : Member) (p q : Strm) (s : Stream) (h : q ≠ p) : (m.setStr p s).str q = m.str q := by
  cases p <;> cases q <;> first | rfl | exact absurd rfl h

@[simp] theorem Member.str_updStr (m : Member) (st : Strm) (f : Stream → Stream) :
    (m.updStr st f).str st = f (m.str st) := by
  simp [Member.updStr]

theorem Member.str_updStr_ne (m : Member) (p q : Strm) (f : Stream → Stream) (h : q ≠ p) :
    (m.updStr p f).str q = m.str q :=
  Member.str_setStr_ne m p q _ h

@[simp] theorem Member.setStr_ref (m : Member) (st : Strm) (s : Stream) : (m.setStr st s).ref = m.ref := by cases st <;> rfl
@[simp] theorem Member.setStr_place (m : Member) (st : Strm) (s : Stream) : (m.setStr st s).place = m.place := by cases st <;> rfl
@[simp] theorem Member.setStr_home (m : Member) (st : Strm) (s : Stream) : (m.setStr st s).home = m.home := by cases st <;> rfl
@[simp] theorem Member.setStr_nmem (m : Member) (st : Strm) (s : Stream) : (m.setStr st s).nmem = m.nmem := by cases st <;> rfl
@[simp] theorem Member.setStr_size (m : Member) (st : Strm) (s : Stream) : (m.setStr st s).size = m.size := by cases st <;> rfl
@[simp] theorem Member.setStr_entry (m : Member) (st : Strm) (s : Stream) : (m.setStr st s).entry = m.entry := by cases st <;> rfl
@[simp] theorem Member.setStr_cycle (m : Member) (st : Strm) (s : Stream) : (m.setStr st s).cycle = m.cycle := by cases st <;> rfl
@[simp] theorem Member.setStr_skew (m : Member) (st : Strm) (s : Stream) : (m.setStr st s).skew = m.skew := by cases st <;> rfl
@[simp] theorem Member.setStr_freeze (m : Member) (st : Strm) (s : Stream) : (m.setStr st s).freeze = m.freeze := by cases st <;> rfl
@[simp] theorem Member.setStr_tvec (m : Member) (st : Strm) (s : Stream) : (m.setStr st s).tvec = m.tvec := by cases st <;> rfl
@[simp] theorem Member.setStr_tcause (m : Member) (st : Strm) (s : Stream) : (m.setStr st s).tcause = m.tcause := by cases st <;> rfl
@[simp] theorem Member.setStr_tstrm (m : Member) (st : Strm) (s : Stream) : (m.setStr st s).tstrm = m.tstrm := by cases st <;> rfl
@[simp] theorem Member.setStr_tepc (m : Member) (st : Strm) (s : Stream) : (m.setStr st s).tepc = m.tepc := by cases st <;> rfl
@[simp] theorem Member.setStr_tval (m : Member) (st : Strm) (s : Stream) : (m.setStr st s).tval = m.tval := by cases st <;> rfl
@[simp] theorem Member.setStr_tscr (m : Member) (st : Strm) (s : Stream) : (m.setStr st s).tscr = m.tscr := by cases st <;> rfl
@[simp] theorem Member.setStr_tsave (m : Member) (st : Strm) (s : Stream) : (m.setStr st s).tsave = m.tsave := by cases st <;> rfl
@[simp] theorem Member.setStr_handler (m : Member) (st : Strm) (s : Stream) : (m.setStr st s).handler = m.handler := by cases st <;> rfl
@[simp] theorem Member.setStr_raised (m : Member) (st : Strm) (s : Stream) : (m.setStr st s).raised = m.raised := by cases st <;> rfl
@[simp] theorem Member.setStr_taking (m : Member) (st : Strm) (s : Stream) : (m.setStr st s).taking = m.taking := by cases st <;> rfl
@[simp] theorem Member.setStr_owed (m : Member) (st : Strm) (s : Stream) : (m.setStr st s).owed = m.owed := by cases st <;> rfl
@[simp] theorem Member.setStr_escalated (m : Member) (st : Strm) (s : Stream) : (m.setStr st s).escalated = m.escalated := by cases st <;> rfl
@[simp] theorem Member.setStr_preempt (m : Member) (st : Strm) (s : Stream) : (m.setStr st s).preempt = m.preempt := by cases st <;> rfl
@[simp] theorem Member.setStr_task (m : Member) (st : Strm) (s : Stream) : (m.setStr st s).task = m.task := by cases st <;> rfl
@[simp] theorem Member.setStr_tiles (m : Member) (st : Strm) (s : Stream) : (m.setStr st s).tiles = m.tiles := by cases st <;> rfl
@[simp] theorem Member.setStr_arrq (m : Member) (st : Strm) (s : Stream) : (m.setStr st s).arrq = m.arrq := by cases st <;> rfl
@[simp] theorem Member.setStr_journal (m : Member) (st : Strm) (s : Stream) : (m.setStr st s).journal = m.journal := by cases st <;> rfl
@[simp] theorem Member.setStr_floors (m : Member) (st : Strm) (s : Stream) : (m.setStr st s).floors = m.floors := by cases st <;> rfl
@[simp] theorem Member.setStr_epoch (m : Member) (st : Strm) (s : Stream) : (m.setStr st s).epoch = m.epoch := by cases st <;> rfl
@[simp] theorem Member.setStr_region (m : Member) (st : Strm) (s : Stream) : (m.setStr st s).region = m.region := by cases st <;> rfl
@[simp] theorem Member.setStr_queues (m : Member) (st : Strm) (s : Stream) : (m.setStr st s).queues = m.queues := by cases st <;> rfl
@[simp] theorem Member.setStr_mbs (m : Member) (st : Strm) (s : Stream) : (m.setStr st s).mbs = m.mbs := by cases st <;> rfl
@[simp] theorem Member.setStr_slots (m : Member) (st : Strm) (s : Stream) : (m.setStr st s).slots = m.slots := by cases st <;> rfl
@[simp] theorem Member.setStr_handles (m : Member) (st : Strm) (s : Stream) : (m.setStr st s).handles = m.handles := by cases st <;> rfl
@[simp] theorem Member.setStr_hl (m : Member) (st : Strm) (s : Stream) : (m.setStr st s).hl = m.hl := by cases st <;> rfl
@[simp] theorem Member.setStr_tc (m : Member) (st : Strm) (s : Stream) : (m.setStr st s).tc = m.tc := by cases st <;> rfl
@[simp] theorem Member.setStr_cmds (m : Member) (st : Strm) (s : Stream) : (m.setStr st s).cmds = m.cmds := by cases st <;> rfl
@[simp] theorem Member.setStr_tsends (m : Member) (st : Strm) (s : Stream) : (m.setStr st s).tsends = m.tsends := by cases st <;> rfl
@[simp] theorem Member.setStr_copy (m : Member) (st : Strm) (s : Stream) : (m.setStr st s).copy = m.copy := by cases st <;> rfl
@[simp] theorem Member.setStr_acc (m : Member) (st : Strm) (s : Stream) : (m.setStr st s).acc = m.acc := by cases st <;> rfl
@[simp] theorem Member.setStr_shadow (m : Member) (st : Strm) (s : Stream) : (m.setStr st s).shadow = m.shadow := by cases st <;> rfl
@[simp] theorem Member.setStr_nest (m : Member) (st : Strm) (s : Stream) : (m.setStr st s).nest = m.nest := by cases st <;> rfl
@[simp] theorem Member.setStr_lastPos (m : Member) (st : Strm) (s : Stream) : (m.setStr st s).lastPos = m.lastPos := by cases st <;> rfl
@[simp] theorem Member.setStr_joined (m : Member) (st : Strm) (s : Stream) : (m.setStr st s).joined = m.joined := by cases st <;> rfl
@[simp] theorem Member.setStr_verges (m : Member) (st : Strm) (s : Stream) : (m.setStr st s).verges = m.verges := by cases st <;> rfl
@[simp] theorem Member.setStr_reports (m : Member) (st : Strm) (s : Stream) : (m.setStr st s).reports = m.reports := by cases st <;> rfl
@[simp] theorem Member.setStr_vbusy (m : Member) (st : Strm) (s : Stream) : (m.setStr st s).vbusy = m.vbusy := by cases st <;> rfl
@[simp] theorem Member.setStr_nextId (m : Member) (st : Strm) (s : Stream) : (m.setStr st s).nextId = m.nextId := by cases st <;> rfl

@[simp] theorem Member.updStr_ref (m : Member) (st : Strm) (f : Stream → Stream) : (m.updStr st f).ref = m.ref := by cases st <;> rfl
@[simp] theorem Member.updStr_place (m : Member) (st : Strm) (f : Stream → Stream) : (m.updStr st f).place = m.place := by cases st <;> rfl
@[simp] theorem Member.updStr_home (m : Member) (st : Strm) (f : Stream → Stream) : (m.updStr st f).home = m.home := by cases st <;> rfl
@[simp] theorem Member.updStr_nmem (m : Member) (st : Strm) (f : Stream → Stream) : (m.updStr st f).nmem = m.nmem := by cases st <;> rfl
@[simp] theorem Member.updStr_size (m : Member) (st : Strm) (f : Stream → Stream) : (m.updStr st f).size = m.size := by cases st <;> rfl
@[simp] theorem Member.updStr_entry (m : Member) (st : Strm) (f : Stream → Stream) : (m.updStr st f).entry = m.entry := by cases st <;> rfl
@[simp] theorem Member.updStr_cycle (m : Member) (st : Strm) (f : Stream → Stream) : (m.updStr st f).cycle = m.cycle := by cases st <;> rfl
@[simp] theorem Member.updStr_skew (m : Member) (st : Strm) (f : Stream → Stream) : (m.updStr st f).skew = m.skew := by cases st <;> rfl
@[simp] theorem Member.updStr_freeze (m : Member) (st : Strm) (f : Stream → Stream) : (m.updStr st f).freeze = m.freeze := by cases st <;> rfl
@[simp] theorem Member.updStr_tvec (m : Member) (st : Strm) (f : Stream → Stream) : (m.updStr st f).tvec = m.tvec := by cases st <;> rfl
@[simp] theorem Member.updStr_tcause (m : Member) (st : Strm) (f : Stream → Stream) : (m.updStr st f).tcause = m.tcause := by cases st <;> rfl
@[simp] theorem Member.updStr_tstrm (m : Member) (st : Strm) (f : Stream → Stream) : (m.updStr st f).tstrm = m.tstrm := by cases st <;> rfl
@[simp] theorem Member.updStr_tepc (m : Member) (st : Strm) (f : Stream → Stream) : (m.updStr st f).tepc = m.tepc := by cases st <;> rfl
@[simp] theorem Member.updStr_tval (m : Member) (st : Strm) (f : Stream → Stream) : (m.updStr st f).tval = m.tval := by cases st <;> rfl
@[simp] theorem Member.updStr_tscr (m : Member) (st : Strm) (f : Stream → Stream) : (m.updStr st f).tscr = m.tscr := by cases st <;> rfl
@[simp] theorem Member.updStr_tsave (m : Member) (st : Strm) (f : Stream → Stream) : (m.updStr st f).tsave = m.tsave := by cases st <;> rfl
@[simp] theorem Member.updStr_handler (m : Member) (st : Strm) (f : Stream → Stream) : (m.updStr st f).handler = m.handler := by cases st <;> rfl
@[simp] theorem Member.updStr_raised (m : Member) (st : Strm) (f : Stream → Stream) : (m.updStr st f).raised = m.raised := by cases st <;> rfl
@[simp] theorem Member.updStr_taking (m : Member) (st : Strm) (f : Stream → Stream) : (m.updStr st f).taking = m.taking := by cases st <;> rfl
@[simp] theorem Member.updStr_owed (m : Member) (st : Strm) (f : Stream → Stream) : (m.updStr st f).owed = m.owed := by cases st <;> rfl
@[simp] theorem Member.updStr_escalated (m : Member) (st : Strm) (f : Stream → Stream) : (m.updStr st f).escalated = m.escalated := by cases st <;> rfl
@[simp] theorem Member.updStr_preempt (m : Member) (st : Strm) (f : Stream → Stream) : (m.updStr st f).preempt = m.preempt := by cases st <;> rfl
@[simp] theorem Member.updStr_task (m : Member) (st : Strm) (f : Stream → Stream) : (m.updStr st f).task = m.task := by cases st <;> rfl
@[simp] theorem Member.updStr_tiles (m : Member) (st : Strm) (f : Stream → Stream) : (m.updStr st f).tiles = m.tiles := by cases st <;> rfl
@[simp] theorem Member.updStr_arrq (m : Member) (st : Strm) (f : Stream → Stream) : (m.updStr st f).arrq = m.arrq := by cases st <;> rfl
@[simp] theorem Member.updStr_journal (m : Member) (st : Strm) (f : Stream → Stream) : (m.updStr st f).journal = m.journal := by cases st <;> rfl
@[simp] theorem Member.updStr_floors (m : Member) (st : Strm) (f : Stream → Stream) : (m.updStr st f).floors = m.floors := by cases st <;> rfl
@[simp] theorem Member.updStr_epoch (m : Member) (st : Strm) (f : Stream → Stream) : (m.updStr st f).epoch = m.epoch := by cases st <;> rfl
@[simp] theorem Member.updStr_region (m : Member) (st : Strm) (f : Stream → Stream) : (m.updStr st f).region = m.region := by cases st <;> rfl
@[simp] theorem Member.updStr_queues (m : Member) (st : Strm) (f : Stream → Stream) : (m.updStr st f).queues = m.queues := by cases st <;> rfl
@[simp] theorem Member.updStr_mbs (m : Member) (st : Strm) (f : Stream → Stream) : (m.updStr st f).mbs = m.mbs := by cases st <;> rfl
@[simp] theorem Member.updStr_slots (m : Member) (st : Strm) (f : Stream → Stream) : (m.updStr st f).slots = m.slots := by cases st <;> rfl
@[simp] theorem Member.updStr_handles (m : Member) (st : Strm) (f : Stream → Stream) : (m.updStr st f).handles = m.handles := by cases st <;> rfl
@[simp] theorem Member.updStr_hl (m : Member) (st : Strm) (f : Stream → Stream) : (m.updStr st f).hl = m.hl := by cases st <;> rfl
@[simp] theorem Member.updStr_tc (m : Member) (st : Strm) (f : Stream → Stream) : (m.updStr st f).tc = m.tc := by cases st <;> rfl
@[simp] theorem Member.updStr_cmds (m : Member) (st : Strm) (f : Stream → Stream) : (m.updStr st f).cmds = m.cmds := by cases st <;> rfl
@[simp] theorem Member.updStr_tsends (m : Member) (st : Strm) (f : Stream → Stream) : (m.updStr st f).tsends = m.tsends := by cases st <;> rfl
@[simp] theorem Member.updStr_copy (m : Member) (st : Strm) (f : Stream → Stream) : (m.updStr st f).copy = m.copy := by cases st <;> rfl
@[simp] theorem Member.updStr_acc (m : Member) (st : Strm) (f : Stream → Stream) : (m.updStr st f).acc = m.acc := by cases st <;> rfl
@[simp] theorem Member.updStr_shadow (m : Member) (st : Strm) (f : Stream → Stream) : (m.updStr st f).shadow = m.shadow := by cases st <;> rfl
@[simp] theorem Member.updStr_nest (m : Member) (st : Strm) (f : Stream → Stream) : (m.updStr st f).nest = m.nest := by cases st <;> rfl
@[simp] theorem Member.updStr_lastPos (m : Member) (st : Strm) (f : Stream → Stream) : (m.updStr st f).lastPos = m.lastPos := by cases st <;> rfl
@[simp] theorem Member.updStr_joined (m : Member) (st : Strm) (f : Stream → Stream) : (m.updStr st f).joined = m.joined := by cases st <;> rfl
@[simp] theorem Member.updStr_verges (m : Member) (st : Strm) (f : Stream → Stream) : (m.updStr st f).verges = m.verges := by cases st <;> rfl
@[simp] theorem Member.updStr_reports (m : Member) (st : Strm) (f : Stream → Stream) : (m.updStr st f).reports = m.reports := by cases st <;> rfl
@[simp] theorem Member.updStr_vbusy (m : Member) (st : Strm) (f : Stream → Stream) : (m.updStr st f).vbusy = m.vbusy := by cases st <;> rfl
@[simp] theorem Member.updStr_nextId (m : Member) (st : Strm) (f : Stream → Stream) : (m.updStr st f).nextId = m.nextId := by cases st <;> rfl

/-! ### `Stream.write` and `Stream.issued` -/

@[simp] theorem Stream.write_lat (s : Stream) (d : Dst) (v : Word) : (s.write d v).lat = s.lat := by
  unfold Stream.write; split <;> (try split) <;> rfl
@[simp] theorem Stream.write_pc (s : Stream) (d : Dst) (v : Word) : (s.write d v).pc = s.pc := by
  unfold Stream.write; split <;> (try split) <;> rfl
@[simp] theorem Stream.write_running (s : Stream) (d : Dst) (v : Word) : (s.write d v).running = s.running := by
  unfold Stream.write; split <;> (try split) <;> rfl
@[simp] theorem Stream.write_last (s : Stream) (d : Dst) (v : Word) : (s.write d v).last = s.last := by
  unfold Stream.write; split <;> (try split) <;> rfl
@[simp] theorem Stream.write_floor (s : Stream) (d : Dst) (v : Word) : (s.write d v).floor = s.floor := by
  unfold Stream.write; split <;> (try split) <;> rfl
@[simp] theorem Stream.write_inflight (s : Stream) (d : Dst) (v : Word) : (s.write d v).inflight = s.inflight := by
  unfold Stream.write; split <;> (try split) <;> rfl
@[simp] theorem Stream.write_wait (s : Stream) (d : Dst) (v : Word) : (s.write d v).wait = s.wait := by
  unfold Stream.write; split <;> (try split) <;> rfl
@[simp] theorem Stream.write_untimed (s : Stream) (d : Dst) (v : Word) : (s.write d v).untimed = s.untimed := by
  unfold Stream.write; split <;> (try split) <;> rfl
@[simp] theorem Stream.write_lps0 (s : Stream) (d : Dst) (v : Word) : (s.write d v).lps0 = s.lps0 := by
  unfold Stream.write; split <;> (try split) <;> rfl
@[simp] theorem Stream.write_lpe0 (s : Stream) (d : Dst) (v : Word) : (s.write d v).lpe0 = s.lpe0 := by
  unfold Stream.write; split <;> (try split) <;> rfl
@[simp] theorem Stream.write_lpc0 (s : Stream) (d : Dst) (v : Word) : (s.write d v).lpc0 = s.lpc0 := by
  unfold Stream.write; split <;> (try split) <;> rfl
@[simp] theorem Stream.write_lps1 (s : Stream) (d : Dst) (v : Word) : (s.write d v).lps1 = s.lps1 := by
  unfold Stream.write; split <;> (try split) <;> rfl
@[simp] theorem Stream.write_lpe1 (s : Stream) (d : Dst) (v : Word) : (s.write d v).lpe1 = s.lpe1 := by
  unfold Stream.write; split <;> (try split) <;> rfl
@[simp] theorem Stream.write_lpc1 (s : Stream) (d : Dst) (v : Word) : (s.write d v).lpc1 = s.lpc1 := by
  unfold Stream.write; split <;> (try split) <;> rfl
@[simp] theorem Stream.write_vwin (s : Stream) (d : Dst) (v : Word) : (s.write d v).vwin = s.vwin := by
  unfold Stream.write; split <;> (try split) <;> rfl
@[simp] theorem Stream.write_nissue (s : Stream) (d : Dst) (v : Word) : (s.write d v).nissue = s.nissue := by
  unfold Stream.write; split <;> (try split) <;> rfl
@[simp] theorem Stream.write_nstall (s : Stream) (d : Dst) (v : Word) : (s.write d v).nstall = s.nstall := by
  unfold Stream.write; split <;> (try split) <;> rfl
@[simp] theorem Stream.write_sb (s : Stream) (d : Dst) (v : Word) : (s.write d v).sb = s.sb := by
  unfold Stream.write; split <;> (try split) <;> rfl
@[simp] theorem Stream.write_entering (s : Stream) (d : Dst) (v : Word) : (s.write d v).entering = s.entering := by
  unfold Stream.write; split <;> (try split) <;> rfl
@[simp] theorem Stream.write_imprecise (s : Stream) (d : Dst) (v : Word) : (s.write d v).imprecise = s.imprecise := by
  unfold Stream.write; split <;> (try split) <;> rfl
@[simp] theorem Stream.write_status (s : Stream) (d : Dst) (v : Word) : (s.write d v).status = s.status := by
  unfold Stream.write; split <;> (try split) <;> rfl

@[simp] theorem Stream.issued_s (s : Stream) (t w : Nat) : (s.issued t w).s = s.s := rfl
@[simp] theorem Stream.issued_o (s : Stream) (t w : Nat) : (s.issued t w).o = s.o := rfl
@[simp] theorem Stream.issued_lat (s : Stream) (t w : Nat) : (s.issued t w).lat = s.lat := rfl
@[simp] theorem Stream.issued_pc (s : Stream) (t w : Nat) : (s.issued t w).pc = s.pc := rfl
@[simp] theorem Stream.issued_running (s : Stream) (t w : Nat) : (s.issued t w).running = s.running := rfl
@[simp] theorem Stream.issued_inflight (s : Stream) (t w : Nat) : (s.issued t w).inflight = s.inflight := rfl
@[simp] theorem Stream.issued_untimed (s : Stream) (t w : Nat) : (s.issued t w).untimed = s.untimed := rfl
@[simp] theorem Stream.issued_lps0 (s : Stream) (t w : Nat) : (s.issued t w).lps0 = s.lps0 := rfl
@[simp] theorem Stream.issued_lpe0 (s : Stream) (t w : Nat) : (s.issued t w).lpe0 = s.lpe0 := rfl
@[simp] theorem Stream.issued_lpc0 (s : Stream) (t w : Nat) : (s.issued t w).lpc0 = s.lpc0 := rfl
@[simp] theorem Stream.issued_lps1 (s : Stream) (t w : Nat) : (s.issued t w).lps1 = s.lps1 := rfl
@[simp] theorem Stream.issued_lpe1 (s : Stream) (t w : Nat) : (s.issued t w).lpe1 = s.lpe1 := rfl
@[simp] theorem Stream.issued_lpc1 (s : Stream) (t w : Nat) : (s.issued t w).lpc1 = s.lpc1 := rfl
@[simp] theorem Stream.issued_vwin (s : Stream) (t w : Nat) : (s.issued t w).vwin = s.vwin := rfl
@[simp] theorem Stream.issued_sb (s : Stream) (t w : Nat) : (s.issued t w).sb = s.sb := rfl
@[simp] theorem Stream.issued_entering (s : Stream) (t w : Nat) : (s.issued t w).entering = s.entering := rfl
@[simp] theorem Stream.issued_imprecise (s : Stream) (t w : Nat) : (s.issued t w).imprecise = s.imprecise := rfl
@[simp] theorem Stream.issued_status (s : Stream) (t w : Nat) : (s.issued t w).status = s.status := rfl

@[simp] theorem Stream.issued_last (s : Stream) (t w : Nat) : (s.issued t w).last = t := rfl

@[simp] theorem Stream.issued_floor (s : Stream) (t w : Nat) : (s.issued t w).floor = t + 1 := rfl

@[simp] theorem Stream.issued_nissue (s : Stream) (t w : Nat) : (s.issued t w).nissue = s.nissue + 1 := rfl

@[simp] theorem Stream.issued_nstall (s : Stream) (t w : Nat) : (s.issued t w).nstall = s.nstall + w := rfl

@[simp] theorem Stream.issued_wait (s : Stream) (t w : Nat) : (s.issued t w).wait = none := rfl

end Sys2Proof.Machine
end

