-- ==== Sys2Proof/Laws/Words.lean ====
section
/-!
SUPPORT. What issuing a word can do, said once: `word`, `finish`, `endCycle`, and members read back after an update.
-/

namespace Sys2Proof.Machine

/-! ### Members read back -/

theorem find_updIf {α : Type} (t : α → Bool) (f : α → α) (hf : ∀ x, t x = true → t (f x) = true) :
    ∀ l : List α, (updIf t f l).find? t = (l.find? t).map f
  | [] => rfl
  | x :: xs => by
    by_cases h : t x = true
    · simp [updIf, h, hf x h]
    · simpa [updIf, h] using find_updIf t f hf xs

theorem find_updIf_other {α : Type} (t u : α → Bool) (f : α → α) (h : ∀ x, t x = true → u x = false ∧ u (f x) = false) :
    ∀ l : List α, (updIf t f l).find? u = l.find? u
  | [] => rfl
  | x :: xs => by
    have ih := find_updIf_other t u f h xs
    by_cases ht : t x = true
    · simpa [updIf, ht, (h x ht).1, (h x ht).2] using ih
    · cases hu : u x
      · simpa [updIf, ht, hu] using ih
      · simp [updIf, ht, hu]

/-- A changed member reads back changed. -/
theorem Mach.member_updMember (M : Mach) (r : MRef) (f : Member → Member) (hf : ∀ x, x.ref = r → (f x).ref = r) :
    (M.updMember r f).member r = (M.member r).map f :=
  find_updIf _ f (fun x h => by simpa using hf x (by simpa using h)) M.members

/-- Every other member is as it was. -/
theorem Mach.member_updMember_ne (M : Mach) (r q : MRef) (f : Member → Member) (hf : ∀ x, x.ref = r → (f x).ref = r)
    (h : q ≠ r) : (M.updMember r f).member q = M.member q :=
  find_updIf_other _ _ f
    (fun x hx => by
      have hr : x.ref = r := by simpa using hx
      have hq : ¬ r = q := fun e => h e.symm
      simp [hr, hf x hr, hq])
    M.members

/-- The member found has the name looked for. -/
theorem Mach.member_ref {M : Mach} {r : MRef} {m : Member} (h : M.member r = some m) : m.ref = r := by
  simpa using List.find?_some h

/-- A member put back reads back. -/
theorem Mach.member_putMember {M : Mach} {r : MRef} {m x : Member} (h : M.member r = some m) (hx : x.ref = r) :
    (M.putMember x).member r = some x := by
  subst hx
  exact (find_updIf (fun y : Member => y.ref == x.ref) (fun _ => x) (fun _ _ => by simp) M.members).trans
    (congrArg (Option.map fun _ => x) h)

/-! ### The context of an issue -/

@[simp] theorem Cur.ctx_st (k : Cur) (M : Mach) (m : Member) : (k.ctx M m).st = k.st := rfl

@[simp] theorem Cur.ctx_pc (k : Cur) (M : Mach) (m : Member) : (k.ctx M m).pc = k.pc := rfl

@[simp] theorem Cur.ctx_raw (k : Cur) (M : Mach) (m : Member) : (k.ctx M m).raw = k.raw := rfl

@[simp] theorem Cur.ctx_ref (k : Cur) (M : Mach) (m : Member) : (k.ctx M m).mem.ref = m.ref := rfl

/-- The member issuing a word is the one named. -/
theorem Mach.issuer_member {M : Mach} {k : Cur} {m : Member} (h : M.issuer = some (k, m)) :
    M.cur = some k ∧ M.member k.m = some m := by
  unfold Mach.issuer at h
  split at h
  · cases h
  · next q hq =>
    cases hm : M.member q.m with
    | none => simp [hm] at h
    | some x =>
      simp only [hm, Option.map_some, Option.some.injEq, Prod.mk.injEq] at h
      obtain ⟨rfl, rfl⟩ := h
      exact ⟨hq, hm⟩

/-! ### Settling leaves what it does not name -/

@[simp] theorem Member.settle_ref (m : Member) (t : Nat) : (m.settle t).ref = m.ref := rfl

@[simp] theorem Member.settle_raised (m : Member) (t : Nat) : (m.settle t).raised = m.raised := rfl

@[simp] theorem Member.settle_handler (m : Member) (t : Nat) : (m.settle t).handler = m.handler := rfl

@[simp] theorem Member.settle_region (m : Member) (t : Nat) : (m.settle t).region = m.region := rfl

@[simp] theorem Member.settle_tiles (m : Member) (t : Nat) : (m.settle t).tiles = m.tiles := rfl

theorem Member.settle_str (m : Member) (t : Nat) (st : Strm) : (m.settle t).str st = (m.str st).settle t := by
  cases st <;> rfl

/-! ### `word` and `wordOut` -/

/-- A word that a stream issues always leads to a next state: the end its result says. -/
theorem word_next {i : Instr} {f : Ctx → Res} {s : State} {k : Cur} {m : Member} (h : s.m.issuer = some (k, m)) :
    word i f s =
      .next { s with m := finish (k.ctx s.m m) (if i.validOn k.st then f (k.ctx s.m m) else .trap (illInstr k.raw)) } := by
  simp [word, h]

/-- On a stream that may issue it. -/
theorem word_valid {i : Instr} {f : Ctx → Res} {s : State} {k : Cur} {m : Member} (h : s.m.issuer = some (k, m))
    (hv : i.validOn k.st = true) : word i f s = .next { s with m := finish (k.ctx s.m m) (f (k.ctx s.m m)) } := by
  simp [word, h, hv]

/-- A word of no region, on a stream that may issue it and outside a region. -/
theorem wordOut_valid {i : Instr} {f : Ctx → Res} {s : State} {k : Cur} {m : Member} (h : s.m.issuer = some (k, m))
    (hv : i.validOn k.st = true) (hr : (k.ctx s.m m).inRegion = false) :
    wordOut i f s = .next { s with m := finish (k.ctx s.m m) (f (k.ctx s.m m)) } := by
  simp [wordOut, word_valid h hv, hr]

/-- Without a word being issued there is only the fault. -/
theorem word_none {i : Instr} {f : Ctx → Res} {s : State} (h : s.m.issuer = none) : word i f s = .fault .noIssuer := by
  simp [word, h]

/-- A word never changes the host side. -/
theorem word_host {i : Instr} {f : Ctx → Res} {s t : State} (h : word i f s = .next t) : t.host = s.host := by
  unfold word at h
  split at h
  · cases h
  · cases h; rfl

/-- So for a word of no region. -/
theorem wordOut_host {i : Instr} {f : Ctx → Res} {s t : State} (h : wordOut i f s = .next t) : t.host = s.host :=
  word_host h

/-- A word that is issued goes on. -/
theorem word_goesOn {i : Instr} {f : Ctx → Res} {s : State} (h : s.m.issuer.isSome = true) :
    ∃ t, word i f s = .next t := by
  obtain ⟨⟨k, m⟩, hk⟩ := Option.isSome_iff_exists.mp h
  exact ⟨_, word_next hk⟩

/-- So for a word of no region. -/
theorem wordOut_goesOn {i : Instr} {f : Ctx → Res} {s : State} (h : s.m.issuer.isSome = true) :
    ∃ t, wordOut i f s = .next t :=
  word_goesOn h

/-- A meaning that changes everything but the host side. -/
theorem lift_host {s t : State} {f : Mach → Mach} (h : s.lift f = .next t) : t.host = s.host ∧ t.m = f s.m := by
  cases h; exact ⟨rfl, rfl⟩

/-! ### The end of an issue -/

/-- No trap of the cycle waits to be taken: the end of the cycle changes nothing (R158). -/
theorem endCycle_quiet {M : Mach} {r : MRef} {t : Nat} (h : ∀ m, M.member r = some m → m.raised = []) :
    endCycle M r t = M := by
  unfold endCycle
  cases hm : M.member r with
  | none => rfl
  | some m => simp [h m hm, chooseTrap, leastBy]

/-- One trap raised, and no other stream still issues in the cycle: it is taken (R158), with what it takes (R31, R455). -/
theorem endCycle_take {M : Mach} {r : MRef} {t : Nat} {m : Member} {st : Strm} {i : TrapInfo}
    (hm : M.member r = some m) (hc : chooseTrap m.raised = some (st, i)) (hi : Strm.all.any (issuesAt M m t) = false) :
    endCycle M r t =
      (if m.taking.any fun x => x.1 == st then wakeSignals (takeTrap M (m.takeFor st) st i t) m
       else takeTrap M (m.takeFor st) st i t) := by
  simp [endCycle, hm, hc, hi]

/-- A trap that takes nothing with it changes the member only by its entry. -/
theorem endCycle_take_plain {M : Mach} {r : MRef} {t : Nat} {m : Member} {st : Strm} {i : TrapInfo}
    (hm : M.member r = some m) (hc : chooseTrap m.raised = some (st, i)) (hi : Strm.all.any (issuesAt M m t) = false)
    (ht : m.taking = []) : endCycle M r t = takeTrap M m st i t := by
  simp [endCycle_take hm hc hi, Member.takeFor, ht]

/-- Another stream still issues in the cycle: the trap waits for its end (R158). -/
theorem endCycle_later {M : Mach} {r : MRef} {t : Nat} {m : Member} (hm : M.member r = some m)
    (hi : Strm.all.any (issuesAt M m t) = true) : endCycle M r t = M := by
  cases hc : chooseTrap m.raised <;> simp [endCycle, hm, hc, hi]

/-- A word that waits for no result of its stream keeps its wait. -/
theorem Wait.seen_nil (w : Wait) : w.seen [] = w := by
  cases w with
  | mk k c since tried turn limit granted => cases granted <;> rfl

/-- A stream with nothing in flight is settled already. -/
theorem str_settle_idle {s : Stream} (t : Nat) (h : s.inflight = []) : s.settle t = s := by
  cases s
  simp only at h
  subst h
  simp [Stream.settle, Wait.seen_nil, Option.map_id']

end Sys2Proof.Machine
end

