-- ==== Sys2Proof/Tests/Slice0.lean ====
section
/-!
SUPPORT. Tests: words written out from the encoding tables of the spec, ill-formed terms, single steps whose results the
spec states, and for each statement states that meet its hypotheses.
-/

namespace Sys2Proof.Tests

set_option Elab.async false

open Sys2Proof.Machine

/-! ### Words laid out from the formats of R169 -/

/-- Format S3: OP [53:46], D [45:38], X [37:30], Y [29:22], FN [21:16], IMM16. -/
def s3 (op d x y fn imm : Nat) : Word := BitVec.ofNat 64 (op * 2 ^ 46 + d * 2 ^ 38 + x * 2 ^ 30 + y * 2 ^ 22 + fn * 2 ^ 16 + imm)

/-- Format BR: OP, COND [45:40], X [39:32], Y [31:24], OFF24. -/
def br (op cond x y off : Nat) : Word := BitVec.ofNat 64 (op * 2 ^ 46 + cond * 2 ^ 40 + x * 2 ^ 32 + y * 2 ^ 24 + off)

/-- Format MEM: OP, V [45:38], BASE [37:30], SLOT [29:25], ARR [24:15], SIZE [14:12], OSC [11:9], OFF9. -/
def me (op v b slot arr size osc off : Nat) : Word :=
  BitVec.ofNat 64
    (op * 2 ^ 46 + v * 2 ^ 38 + b * 2 ^ 30 + slot * 2 ^ 25 + arr * 2 ^ 15 + size * 2 ^ 12 + osc * 2 ^ 9 + off)

/-- Format VEC: OP, D [45:34], X [33:22], Y [21:10], TYPE [9:7], RUN [6:4], MOD. -/
def ve (op d x y ty run md : Nat) : Word :=
  BitVec.ofNat 64 (op * 2 ^ 46 + d * 2 ^ 34 + x * 2 ^ 22 + y * 2 ^ 10 + ty * 2 ^ 7 + run * 2 ^ 4 + md)

/-- Format ENG: OP, OPA [45:38], OPB [37:30], OPC [29:22], OPD [21:14], FN14. -/
def en (op a b c d fn : Nat) : Word := BitVec.ofNat 64 (op * 2 ^ 46 + a * 2 ^ 38 + b * 2 ^ 30 + c * 2 ^ 22 + d * 2 ^ 14 + fn)

/-- Format SYN: OP, X [45:38], Y [37:30], SCOPE [29:27], FN27. -/
def sy (op x y sc fn : Nat) : Word := BitVec.ofNat 64 (op * 2 ^ 46 + x * 2 ^ 38 + y * 2 ^ 30 + sc * 2 ^ 27 + fn)

/-- System words, the table above R220. -/
theorem test_decode_system :
    decode (s3 0x01 0 0 0 0 0) = .ok .go ∧ decode (s3 0x03 0 0xC1 0 0 7) = .ok (.trap (.imm 7)) ∧
      decode (s3 0x06 0 2 0 0 0x20) = .ok (.csrw .tvec (.s 2)) ∧ decode (s3 0x07 0 0 0 1 0) = .ok .idemEnd ∧
      decode (s3 0x08 0 0 0 0 0x1234) = .ok (.brk 0x1234) := by decide +kernel

/-- Scalar words, R180's worked encodings and R233 to R237. -/
theorem test_decode_scalar :
    decode 0x00040100F040FFFB = .ok (.add (.s 4) (.reg (.s 3)) (.imm 0xFFFB)) ∧
      decode 0x00840140E0000000 = .ok (.add (.s 5) (.reg (.s 3)) (.reg .lat)) ∧
      decode (s3 0x26 1 2 3 4 0) = .ok (.sel (.s 1) 4 (.reg (.s 2)) (.reg (.s 3))) ∧
      decode (s3 0x2B 1 2 0 1 (8 + 4 * 64)) = .ok (.bextS (.s 1) (.s 2) 8 4) ∧
      decode (s3 0x2E 0x41 2 3 9 0) = .ok (.fopSub (.o 1) (.reg (.s 2)) (.reg (.s 3)) true) ∧
      decode (s3 0x2F 1 2 0 3 0) = .ok (.cvtsfFi (.s 1) (.reg (.s 2)) true) := by decide +kernel

/-- Control words (R238 to R241). -/
theorem test_decode_control :
    decode 0x000C400000FFFFFE = .ok (.j 0xFFFFFE) ∧ decode (br 0x33 0 1 0 2) = .ok (.call (.s 1) 2) ∧
      decode (br 0x36 1 0 0 0) = .ok (.lpbrk true) ∧ decode (br 0x30 5 3 0xC0 1) = .ok (.bc .geu (.s 3) .zero 1) := by
  decide +kernel

/-- Scalar memory words (R242). -/
theorem test_decode_memory :
    decode 0x0010024086143000 = .ok (.ld (.s 9) (.s 2) 3 40 .b8 false false 0) ∧
      decode (me 0x40 9 2 3 40 2 3 0x1FF) = .ok (.ld (.s 9) (.s 2) 3 40 .b4 true true 0x1FF) ∧
      decode (me 0x41 4 2 0 0 4 0 1) = .ok (.st (.s 4) (.s 2) .b16 1) ∧
      decode (me 0x44 0 2 0 0 0 5 0) = .ok (.cinv .pod (.s 2) .b1 0) ∧
      decode (me 0x46 1 2 31 0 3 4 0) = .ok (.ldacq .pkg (.s 1) (.s 2) 31 .b8 0) := by decide +kernel

/-- Atomics (R252, R257). -/
theorem test_decode_atomics :
    decode (en 0x50 1 2 3 0 0x100) = .ok (.aadd ⟨.s 1, .s 2, .s 3, .rlx, true⟩) ∧
      decode (en 0x59 1 2 3 4 (5 * 2 ^ 11 + 3 * 2 ^ 9)) = .ok (.acas ⟨.s 1, .s 2, .s 3, .ar .pod, false⟩ (.s 4)) ∧
      decode (en 0x5B 1 2 3 4 (2 * 2 ^ 12 + 1023)) = .ok (.scadd (.s 1) (.s 2) (.s 3) (.s 4) .rn3 1023) := by
  decide +kernel

/-- Synchronisation and tag words (R258). -/
theorem test_decode_sync :
    decode (sy 0x60 1 2 5 (7 * 4)) = .ok (.acqGe (.s 1) (.s 2) .pod 7) ∧
      decode (sy 0x60 1 2 4 2) = .ok (.acqX (.s 1) (.s 2) .pkg) ∧ decode (sy 0x63 1 0 0 (3 + 8)) = .ok (.waitcLe 3 (.s 1)) ∧
      decode (sy 0x66 0 0 1 0xF) = .ok (.bar .core 15) ∧ decode (sy 0x68 1 0 0 7) = .ok (.mbr (.s 1) 7) ∧
      decode (sy 0x69 1 2 0 (2 * 64 + 5)) = .ok (.tagarm (.s 1) (.s 2) .rn3 5) ∧
      decode (sy 0x6C 1 2 0 2) = .ok (.tagwtEmpty (.s 1) (.s 2)) := by decide +kernel

/-- Access and copy words (R325 to R342). -/
theorem test_decode_access :
    decode (en 0x80 1 2 3 0 5) = .ok (.qld 5 (.s 1) (.s 2) (.s 3)) ∧
      decode (en 0x82 1 2 3 4 3) = .ok (.tget 3 (.s 1) (.s 2) (.s 3) (.s 4)) ∧
      decode (en 0x83 1 2 3 0 (5 * 2 ^ 11 + 2 * 2 ^ 9 + 2 ^ 8)) =
        .ok (.tsend .pod .rn3 (.s 1) (.s 2) (.s 3) true false) ∧
      decode (en 0x95 1 0 0 0 (4 * 32 + 3 * 4 + 2)) = .ok (.cpgo (.s 1) 2 3 .pkg) ∧
      decode (en 0x96 1 2 0 0 3) = .ok (.cpstat (.s 1) 3 (.s 2)) := by decide +kernel

/-- Embedding words (R351). -/
theorem test_decode_embedding :
    decode (en 0xA0 1 2 3 4 (2 ^ 8 + 3 * 64 + 2 * 16 + 9)) = .ok (.lookup .max true (.s 1) 9 2 (.s 2) (.s 3) (.s 4)) ∧
      decode (en 0xA3 1 2 3 0 (2 * 64 + 9)) = .ok (.replayAdag (.s 1) 9 0 (.s 2) (.s 3)) ∧
      decode (en 0xA4 0 2 0 0 5) = .ok (.skctlWr 5 (.s 2)) ∧
      decode (en 0xA5 1 0 0 0 (64 + 3 * 16 + 2)) = .ok (.hrctlDetach (.s 1) 2 3) := by decide +kernel

/-- Vector words (R174, R272, R273). -/
theorem test_decode_vector :
    decode 0x002C031060062218 = .ok (.vadd ⟨0x0C4, 0x180, 0x188, .fp32, 1, ⟨true, false, false, false⟩⟩) ∧
      decode (ve 0xC1 1 2 (4 * 2 ^ 9 + 2 ^ 8) 0 7 1) = .ok (.vcvt ⟨1, 2, .i8, 7, ⟨false, false, false, true⟩⟩ .fp32 true) ∧
      decode (ve 0xCD 1 0 0x42 3 0 0) = .ok (.vbcst ⟨1, .bf16, 0, ⟨false, false, false, false⟩⟩ (.o 2)) ∧
      decode (ve 0xD3 1 0 6 0 1 0) = .ok (.vpop 1 1 6) := by decide +kernel

/-- Matrix, seal and handle words (R290 to R299). -/
theorem test_decode_matrix :
    decode (en 0xE0 1 2 3 4 (8 + 5)) = .ok (.xnest 5 true (.reg (.s 1)) (.s 2) (.s 3) (.s 4)) ∧
      decode (en 0xE6 0 0 0 0 (2 ^ 8 + 1 * 16 + 8 + 4 + 3)) = .ok (.xgo 3 true true ⟨true, false, false, false⟩ true) ∧
      decode (en 0xE9 1 2 0 0 (2 * 16 + 15)) = .ok (.sealGrid (.s 1) 15 (.s 2)) ∧
      decode (en 0xEB 1 2 0 0 (2 ^ 8 + 4 * 16 + 3)) = .ok (.hmovMem (.s 1) 3 4 (.s 2)) := by decide +kernel

/-- Queue and grid words (R343, R345 to R347): CLASS, SCOPE and DISC of PUSH stand in FN14. -/
theorem test_decode_queue_and_grid :
    decode (en 0x75 0 2 0 0 0) = .ok (.hpub (.s 2)) ∧ decode (en 0x74 1 2 3 (3 * 8 + 3) (40 * 16)) =
      .ok (.hld (.s 1) (.s 2) (.s 3) 3 .b8 40) := by decide +kernel

/-- Bits that must be zero, reserved specifiers, scopes, types and fields decode to nothing (R178, R179). -/
theorem test_decode_reserved :
    decode (s3 0x00 0 0 0 0 1) = .error .reservedEncoding ∧ decode (s3 0x10 0x20 0 0 0 0) = .error .reservedEncoding ∧
      decode (s3 0x10 0x80 0 0 0 0) = .error .reservedEncoding ∧ decode (sy 0x62 0 0 6 0) = .error .reservedEncoding ∧
      decode (me 0x40 0 0 0 0 5 0 0) = .error .reservedEncoding ∧ decode (br 0x30 6 0 0 0) = .error .reservedEncoding ∧
      decode (br 0x31 0 0xC1 0 0) = .error .reservedEncoding ∧ decode (s3 0x0A 0 0 0 0 0) = .error .reservedOpcode ∧
      decode 0xFFFFFFFFFFFFFFFF = .error .reservedOpcode := by decide +kernel

/-! ### Ill-formed terms, one for each check -/

theorem test_wf_two_immediates : Instr.wf (.add (.s 1) (.imm 1) (.imm 2)) = false := by decide
theorem test_wf_odd_pair_loaded : Instr.wf (.ld (.s 3) (.s 2) 0 0 .b16 false false 0) = false := by decide
theorem test_wf_sign_extended_full_width : Instr.wf (.ld (.s 2) (.s 2) 0 0 .b8 true false 0) = false := by decide
theorem test_wf_odd_pair_stored : Instr.wf (.st (.o 3) (.s 2) .b16 0) = false := by decide
theorem test_wf_wide_release : Instr.wf (.strel .pkg (.s 2) (.s 2) .b16 0) = false := by decide
theorem test_wf_wide_acquire : Instr.wf (.ldacq .pkg (.s 2) (.s 2) 0 .b16 0) = false := by decide
theorem test_wf_empty_field : Instr.wf (.bext (.s 1) (.s 2) 0 0) = false := by decide
theorem test_wf_field_past_the_word : Instr.wf (.bins (.s 1) (.s 2) 60 5) = false := by decide
theorem test_wf_level_six : Instr.wf (.cpseq 6 (.hl 0)) = false ∧ Instr.wf (.xnest 7 true (.hl 0) .zero .zero .zero) = false := by
  decide
theorem test_wf_loop_backwards : Instr.wf (.loop false (.s 1) 0) = false ∧ Instr.wf (.loop true (.s 1) 0x800000) = false := by
  decide
theorem test_wf_wide_float_add : Instr.wf (.afadd ⟨.s 1, .s 2, .s 3, .rlx, true⟩) = false := by decide
theorem test_wf_empty_row : Instr.wf (.scadd (.s 1) (.s 2) (.s 3) (.s 4) .i32 0) = false := by decide
theorem test_wf_mask_beyond_the_core : Instr.wf (.bar .die 1) = false := by decide
theorem test_wf_plain_with_senders : Instr.wf (.tagarm (.s 1) (.s 2) .plain 1) = false := by decide
theorem test_wf_type_not_taken : Instr.wf (.vadd ⟨0, 0, 0, .fp8e4, 0, ⟨false, false, false, false⟩⟩) = false := by decide
theorem test_wf_saturating_float : Instr.wf (.vadd ⟨0, 0, 0, .fp32, 0, ⟨false, false, false, true⟩⟩) = false := by decide
theorem test_wf_saturating_minimum : Instr.wf (.vmin ⟨0, 0, 0, .i8, 0, ⟨false, false, false, true⟩⟩) = false := by decide
theorem test_wf_unary_consuming_y : Instr.wf (.vabs ⟨0, 0, .i8, 0, ⟨false, false, true, false⟩⟩) = false := by decide
theorem test_wf_checked_without_source : Instr.wf (.vidx ⟨0, .i8, 0, ⟨true, false, false, false⟩⟩ (.s 1)) = false := by decide
theorem test_wf_reduction_consuming_y : Instr.wf (.vrsum ⟨0, .s 1, 0, .i8, 0, ⟨false, false, true, false⟩⟩) = false := by decide
theorem test_wf_converting_to_itself : Instr.wf (.vcvt ⟨0, 0, .i8, 0, ⟨false, false, false, false⟩⟩ .i8 false) = false := by decide
theorem test_wf_residue_from_bf16 : Instr.wf (.vcvt ⟨0, 0, .rn3, 0, ⟨false, false, false, false⟩⟩ .bf16 false) = false := by decide
theorem test_wf_quantising_to_i32 : Instr.wf (.vqnt ⟨0, 0, .i32, 0, ⟨false, false, false, false⟩⟩ .fp32 false (.s 1)) = false := by
  decide
theorem test_wf_dequantising_to_i8 : Instr.wf (.vdqn ⟨0, 0, .i8, 0, ⟨false, false, false, false⟩⟩ .i16 false (.s 1)) = false := by
  decide
theorem test_wf_element_past_the_row : Instr.wf (.vmovsIns 0 16 (.s 1) .rn3) = false := by decide
theorem test_wf_sparse_odd_rows : Instr.wf (.vsprs ⟨0, 0, 0, .i8, 0, ⟨false, false, false, false⟩⟩) = false := by decide
theorem test_wf_stages_without_out : Instr.wf (.xgo 0 false false ⟨true, false, false, false⟩ false) = false := by decide
theorem test_wf_events_are_no_words : Instr.wf (.save ⟨0, 0, 0⟩) = false ∧ Instr.wf .powerUp = false := by decide

/-! ### States that meet the hypotheses of the statements -/

/-- The member of the tests: rank 0 of context 0 of partition 0, on core 0, one stream running at 0x10000. -/
def r0 : MRef := ⟨0, 0, 0⟩

/-- A page at PVA `base` that translates to physical address `pa`, readable, writable and executable. -/
def page (base pa : Nat) : TlbEntry := ⟨0, base, 16, .local pa false, true, true, true, 4, 0⟩

/-- A page at PVA `base` of partition 1 of the device at row 1, column 2. -/
def farPage (base : Nat) : TlbEntry := ⟨0, base, 16, .remote ⟨1, 2⟩ 1 0x50000, true, true, false, 4, 0⟩

/-- Pages: 0x10000, 0x20000 and 0x30000 in HBM, 0x40000 remote, 0x50000 read-only, 0x60000 not mapped. -/
def tlb0 : List TlbEntry :=
  [page 0x10000 0x10000, page 0x20000 0x20000, page 0x30000 0x30000, farPage 0x40000,
    { page 0x50000 0x50000 with w := false }]

/-- The partition of the tests: all eight dies, key 77, one context. -/
def p0 : Part := { Part.fresh 0 8 77 with ctxs := [loadContext] }

/-- The machine in which stream `st` of a member made by `f` issues a word; `g` changes the rest. -/
def rigM (f : Member → Member) (g : Mach → Mach) (st : Strm) : Mach :=
  g
    { Mach.reset with
      pending := []
      parts := [p0]
      members := [f (loadMember st 0)]
      cores := [⟨0, tlb0, []⟩]
      dieTlb := [(0, tlb0)]
      cur := some ⟨r0, st, 0x1000000, 0⟩ }

/-- The state with that machine, on a device that has booted. -/
def rig (f : Member → Member) (g : Mach → Mach) (st : Strm) : State :=
  { host := { HostSide.reset with boot := .ready, owner := some .port0, lease := 1000 }, m := rigM f g st }

/-- Registers of a stream of the member. -/
def regs (st : Strm) (l : List (Nat × Word)) (m : Member) : Member :=
  m.updStr st fun q => { q with s := Vector.ofFn fun j => (aGet l j.val).getD 0 }

/-- The word is being issued on a stream that may issue it, outside a region and with no trap of the cycle waiting, and
`P` holds of its context. -/
def meets (i : Instr) (s : State) (P : Ctx → Bool) : Bool :=
  match s.m.issuer with
  | some (k, m) => i.validOn k.st && i.wf && m.region.isNone && m.raised.isEmpty && P (k.ctx s.m m)
  | none => false

/-- What `meets` says, in the terms of the statements. -/
theorem meets_issues (i : Instr) (s : State) (P : Ctx → Bool) (h : meets i s P = true) :
    ∃ k m, Issues i s k m ∧ NoRegion k m ∧ m.raised = [] ∧ P (k.ctx s.m m) = true := by
  unfold meets at h
  split at h
  · next k m hk =>
    simp only [Bool.and_eq_true, Option.isNone_iff_eq_none, List.isEmpty_iff] at h
    exact ⟨k, m, ⟨hk, h.1.1.1.1, h.1.1.1.2⟩, fun _ => h.1.1.2, h.1.2, h.2⟩
  · cases h

/-- A state that issues its word by the agenda, with the word's instruction (`StepRunsTheDecodedWord`). -/
def issuesNext (s : State) (i : Instr) : Bool :=
  match s.m.agenda with
  | .issue r st :: rest =>
    let G : Mach := { grantAll s.m with agenda := rest }
    match G.member r with
    | some m =>
      match attemptAt G m st with
      | some t =>
        let M := { G with wclk := max s.m.wclk (t + m.skew) }
        m.turn G st t &&
        match fetch M m (m.str st).pc with
        | .ok raw => fetchHit M m (m.str st).pc && m.reporting st == none && decode raw == .ok i
        | .error _ => false
      | none => false
    | none => false
  | _ => false

theorem witness_agenda_issues : issuesNext (State.reset.withFetchWord 64 0x00040100F040FFFB)
    (.add (.s 4) (.reg (.s 3)) (.imm 0xFFFB)) = true := by decide +kernel

/-- The same with no agenda: the issue is the earliest move (`StepRunsTheDecodedWord`, second clause). -/
theorem witness_earliest_issues :
    let s0 := State.reset.withFetchWord 64 0x00040100F040FFFB
    let M := grantAll { s0.m with agenda := [], pending := [] }
    nowEvent M = none ∧ nextInTime M = some (1, 2, .issue r0 .c) ∧
      (M.member r0).any (fun m => m.mayIssue .c && m.reporting .c == none && fetchHit M m (m.str .c).pc) = true ∧
      (M.member r0).any (fun m => (fetch M m (m.str .c).pc).toOption == some 0x00040100F040FFFB#64) = true := by
  decide +kernel

theorem witness_event_runs : (State.reset.withFetchWord 64 0).m.agenda ≠ [] ∧
    ({ State.reset.m with agenda := [.event .clearingComplete] } : Mach).agenda = .event .clearingComplete :: [] := by
  decide +kernel

theorem witness_words_run : (∃ t, exec .nop (rig id id .c) = .next t) ∧ IsWord .nop := ⟨⟨_, rfl⟩, by unfold IsWord; decide⟩

theorem witness_sound : State.reset.host.Sound :=
  ⟨by decide, by decide, by decide, by decide, ⟨by decide, by decide⟩, by decide, by decide⟩

theorem witness_sound_step : ∃ t, step State.reset = .next t := ⟨_, rfl⟩

theorem witness_encoding : Instr.wf (.bext (.s 1) (.s 2) 60 4) = true ∧
    (decode (encode 1023 (.bext (.s 1) (.s 2) 60 4))).toOption = some (.bext (.s 1) (.s 2) 60 4) := by decide +kernel

/-- A word of all ones is no instruction, and GO stands on a stream that may not issue it. -/
theorem witness_illegal_words :
    (let s := State.reset.withFetchWord 64 0xFFFFFFFFFFFFFFFF
    s.m.agenda = [.issue r0 .c] ∧ (s.m.member r0).any (fun m => (fetch { s.m with agenda := [] } m (m.str .c).pc).toOption
      == some 0xFFFFFFFFFFFFFFFF#64 && fetchHit { s.m with agenda := [] } m (m.str .c).pc) = true) ∧
    (rig id id .a).m.issuer.isSome = true ∧ Instr.validOn .go .a = false ∧ IsWord .go :=
  ⟨by decide +kernel, by decide +kernel, by decide, by unfold IsWord; decide⟩

/-! ### Issue, landing, traps, addresses -/

theorem witness_issued : (rigM id id .c).member r0 = some (loadMember .c 0) ∧ (loadMember .c 0).raised = [] := by
  decide +kernel

/-- The last word of both levels, at the end of a pass and of the last pass, and a word of neither. -/
theorem test_loops :
    let q (n0 n1 : Word) : Stream := { (loadMember .c 0).c with lps0 := 8, lpe0 := 32, lpc0 := n0, lps1 := 16, lpe1 := 32, lpc1 := n1 }
    ((q 3 2).advance 32 false).pc = 16 ∧ ((q 3 2).advance 32 false).lpc1 = 1 ∧ ((q 3 2).advance 32 false).lpc0 = 3 ∧
      ((q 3 1).advance 32 false).pc = 8 ∧ ((q 3 1).advance 32 false).lpc1 = 0 ∧ ((q 3 1).advance 32 false).lpc0 = 2 ∧
      ((q 1 0).advance 32 false).pc = 40 ∧ ((q 1 0).advance 32 false).lpc0 = 0 ∧ ((q 3 2).advance 24 false).pc = 32 ∧
      ((q 3 2).advance 32 true).pc = 40 := by decide +kernel

/-- R150's two cases: the later landing stands whatever the order of issue, and of one cycle the later issue. -/
theorem witness_landings :
    let f : InFlight := ⟨10, 4, [(.s 1, 5)], false, none⟩
    let g : InFlight := ⟨12, 3, [(.s 1, 6)], false, none⟩
    let h : InFlight := ⟨10, 5, [(.s 1, 7)], false, none⟩
    (f.writes = [(.s 1, 5)] ∧ f.slot = none ∧ f.latched = false ∧ f.due < g.due ∧ f.due = h.due ∧ f.iss < h.iss) ∧
      (({ (loadMember .c 0).c with inflight := [g, f] } : Stream).settle 13).main 1 = 6 ∧
      (({ (loadMember .c 0).c with inflight := [h, f] } : Stream).settle 11).main 1 = 7 := by decide +kernel

/-- A trap taken by a handler, one escalated as a system trap, one in a handler and one without. -/
theorem witness_traps :
    let m : Member := { loadMember .c 0 with tvec := 0x20000 }
    let i : TrapInfo := ⟨0x10, false, 5, 0, [], true⟩
    (i.system = false ∧ m.handler = none ∧ m.tvec ≠ 0) ∧ (loadMember .c 0).tvec = 0 ∧
      ({ i with system := true } : TrapInfo).system = true := by decide +kernel

theorem witness_trap_order :
    chooseTrap [(.x, ⟨0x21, true, 0, 0, [], false⟩), (.c, ⟨0x10, false, 0, 0, [], true⟩), (.v, ⟨0x21, true, 0, 0, [], false⟩)] =
      some (.v, ⟨0x21, true, 0, 0, [], false⟩) := by decide +kernel

/-- Translations of each kind, and none above bit 55 or without the bit. -/
theorem witness_translations :
    let M := rigM id id .c
    let got (k : AKind) (a : Word) : Bool := (xlate M (some 0) 0 0 k a).isOk
    got .read 0x50000 = true ∧ got .write 0x50000 = false ∧ got .write 0x2FFFF = true ∧ got .atomic 0x10000 = true ∧
      got .fetch 0x10000 = true ∧ got .read 0x0100000000010000 = false := by decide +kernel

/-- A table of levels W0 to W4 at 0x100000 that maps PVA 0x10000 to HBM, for a walk. -/
def tables (M : Mach) : Mach :=
  let entry (M : Mach) (a f : Nat) : Mach := M.put a (leBytes 8 f)
  let M := entry M 0x100000 (0x102000 + 1)
  let M := entry M 0x102000 (0x104000 + 1)
  let M := entry M 0x104000 (0x106000 + 1)
  let M := entry M 0x106000 (0x108000 + 1)
  entry M 0x108010 (0x30000 + 2 + 4)

theorem witness_walk :
    let M := tables (rigM id id .c)
    (walk M 0 { p0 with ptroot := 0x100001 } 0x10000).isOk = true ∧
      (walk M 0 { p0 with ptroot := 0x100001 } 0x1000000).isOk = false := by decide +kernel

theorem witness_admission :
    let e : ExportEntry := ⟨0x10000, 2, false, false, true, true⟩
    let M := rigM id (fun M => M.updPart 0 fun p => { p with exports := [e] }) .c
    let M := { M with dieTlb := [(0, tlb0)] }
    (admission M 0 1 77 .w .write 0x2FFF8 8).isOk = true ∧ (admission M 0 1 77 .w .write 0x2FFFC 8).isOk = false ∧
      (admission M 0 1 77 .a .atomic 0x10000 8).isOk = false ∧ (admission M 0 1 76 .w .write 0x10000 8).isOk = false := by
  decide +kernel

/-! ### Scalar and control words -/

/-- Two registers 7 and -2 in streams of any kind. -/
def two (st : Strm) : State := rig (regs st [(1, 7), (2, 0xFFFFFFFFFFFFFFFE), (3, 0), (9, 0x100000000)]) id st

theorem witness_integer_words :
    ([.add (.s 3) (.reg (.s 1)) (.reg (.s 2)), .sub (.s 3) (.reg (.s 1)) (.imm 5), .mul (.s 3) (.reg (.s 1)) (.reg (.s 2)),
        .mulh (.s 3) (.reg (.s 1)) (.reg (.s 2)), .mulhu (.s 3) (.reg (.s 1)) (.reg (.s 2)),
        .and (.s 3) (.reg (.s 1)) (.reg (.s 2)), .or (.s 3) (.reg (.s 1)) (.reg (.s 2)),
        .xor (.s 3) (.reg (.s 1)) (.reg (.s 2)), .shl (.s 3) (.reg (.s 1)) (.imm 63), .shr (.s 3) (.reg (.s 2)) (.imm 64),
        .sar (.s 3) (.reg (.s 2)) (.imm 1), .min (.s 3) (.reg (.s 1)) (.reg (.s 2)), .max (.s 0) (.reg (.s 1)) (.reg (.s 2)),
        .minu (.o 3) (.reg (.s 1)) (.reg (.s 2)), .maxu .none (.reg (.s 1)) (.reg (.s 2)),
        .slt (.s 3) (.reg (.s 1)) (.reg (.s 2)), .sltu (.s 3) (.reg (.s 1)) (.reg (.s 2)),
        .seq (.s 3) (.reg (.s 1)) (.reg (.s 1)), .sel (.s 3) 1 (.reg (.s 1)) (.reg (.s 2)), .li (.s 3) 0x80000000,
        .lih (.s 1) 1, .clz (.s 3) (.reg .zero), .popc (.s 3) (.reg (.s 2)), .bext (.s 3) (.s 2) 0 64,
        .bextS (.s 3) (.s 2) 63 1, .bins (.s 1) (.s 2) 60 4, .madd (.s 3) (.reg (.s 1)) (.reg (.s 2)) 1] : List Instr).all
      (fun i => meets i (two .c) fun c => (integerResult i c).isSome) = true := by decide +kernel

theorem witness_divisions :
    ([.div (.s 3) (.reg (.s 1)) (.reg (.s 3)), .divu (.s 3) (.reg (.s 1)) (.reg (.s 2)),
        .rem (.s 3) (.reg (.s 2)) (.imm 0xFFFF), .remu (.s 3) (.reg (.s 1)) (.reg (.s 3))] : List Instr).all
      (fun i => meets i (two .v) fun c => (divisionResult i c).isSome) = true := by decide +kernel

theorem witness_float_words :
    ([.fopAdd (.s 3) (.reg (.s 1)) (.reg (.s 2)) false, .fopSub (.s 3) (.reg (.s 1)) (.reg (.s 2)) true,
        .fopMul (.s 3) (.reg (.s 1)) (.reg (.s 2)) true, .fopMin (.s 3) (.reg (.s 1)) (.reg (.s 2)),
        .fopMax (.s 3) (.reg (.s 1)) (.reg (.s 2)), .fopEq (.s 3) (.reg (.s 1)) (.reg (.s 1)),
        .fopLt (.s 3) (.reg (.s 1)) (.reg (.s 2)), .fopLe (.s 3) (.reg (.s 1)) (.reg (.s 2)),
        .cvtsfIf (.s 3) (.reg (.s 2)) true, .cvtsfFi (.s 3) (.reg (.s 1)) false] : List Instr).all
      (fun i => meets i (two .x) fun c => (floatResult i c).isSome) = true := by decide +kernel

/-- Branches taken and not taken for each condition at equal operands, and the transfers. -/
theorem witness_branches :
    (meets (.bc .lt (.s 2) (.s 1) 4) (two .a) fun c => decide ((c.reg (.s 2)).toInt < (c.reg (.s 1)).toInt)) = true ∧
      (meets (.bc .ltu (.s 2) (.s 1) 4) (two .a) fun c => !decide ((c.reg (.s 2)).toNat < (c.reg (.s 1)).toNat)) = true ∧
      (meets (.bc .ge (.s 1) (.s 1) 4) (two .a) fun c => decide ((c.reg (.s 1)).toInt ≤ (c.reg (.s 1)).toInt)) = true ∧
      ([.j 1, .jr (.s 1) 0xFFFFFF, .call (.s 1) 2, .ret (.s 1)] : List Instr).all
        (fun i => meets i (two .a) fun _ => true) = true := by decide +kernel

/-- LOOP with 2^32, 0 and 7 passes; LPBRK of an active and an inactive level. -/
theorem witness_loop_words :
    (meets (.loop true (.s 9) 3) (two .c) fun c => decide (2 ^ 32 ≤ (c.reg (.s 9)).toNat)) = true ∧
      (meets (.loop false (.s 3) 3) (two .c) fun c => c.reg (.s 3) == 0) = true ∧
      (meets (.loop true (.s 1) 3) (two .c) fun c => decide (0 < (c.reg (.s 1)).toNat)) = true ∧
      (meets (.lpbrk false) (two .c) fun c => c.s.lpc0 == 0) = true ∧
      (meets (.lpbrk true) (rig (fun m => m.updStr .c fun q => { q with lpc1 := 1 }) id .c) fun c => c.s.lpc1 != 0) = true := by
  decide +kernel

/-- GO with a stream running and with none; HALT on each stream; TRAP, BRK and ERET in and out of a handler. -/
theorem witness_system_words :
    (meets .nop (two .x) fun _ => true) = true ∧
      (meets .go (rig (fun m => m.updStr .v fun q => { q with running := true }) id .c) fun c => c.mem.v.running) = true ∧
      (meets .go (two .c) fun c => !c.mem.a.running && !c.mem.v.running && !c.mem.x.running && c.mem.handler.isNone) = true ∧
      ([.c, .a, .v, .x] : List Strm).all (fun st => meets .halt (two st) fun c => c.st == st) = true ∧
      (meets (.trap (.imm 3)) (two .a) fun _ => true) = true ∧ (meets (.brk 9) (two .v) fun _ => true) = true ∧
      (meets .eret (two .c) fun c => c.mem.handler.isNone) = true ∧
      (meets .eret
        (rig (fun m => { m with handler := some ⟨0, .v, ⟨[], 1⟩, ⟨[], 2⟩, ⟨[], 3⟩, ⟨[], 4⟩, 0x10008, true, 0, 1, none, none, []⟩ }) id .c)
        fun c => c.mem.handler.isSome) = true := by decide +kernel

/-- TRAP in an open region of A. -/
theorem witness_trap_in_region :
    let m := (loadMember .a 0)
    let g : Region := ⟨0, [0, 0, 0, 0], [0, 0, 0, 0], [], 1, [], [], 0⟩
    let s := rig (fun m => { m with region := some g }) id .a
    (s.m.issuer.map (·.1)) = some ⟨r0, .a, 0x1000000, 0⟩ ∧ Instr.validOn (.trap (.imm 3)) .a = true ∧
      ({ m with region := some g } : Member).region ≠ none := by decide +kernel

theorem witness_csr_words :
    ([.csrr (.s 1) .ctxinfo, .csrr (.s 1) .tval, .csrw .lpc1 (.s 2), .csrw .spcfg (.s 1), .csrw .tscr (.s 2)] : List Instr).all
      (fun i => meets i (two .c) fun _ => true) = true := by decide +kernel

theorem witness_regions_and_done :
    (meets .idem (two .a) fun _ => true) = true ∧ (meets .idemEnd (two .a) fun c => c.mem.region.isNone) = true ∧
      (meets .done (two .c) fun c => c.mem.quiet && (c.waitFaults (fun _ => true) (fun _ => true) Strm.all).isNone
        && taskScope c.M c.mem != .pod) = true ∧
      (meets .done (rig (fun m => { m with tsends := 1 }) id .c) fun c => c.mem.tsends != 0) = true ∧
      (meets .done
        (rig (fun m => m.updStr .v fun q => { q with imprecise := [⟨0x07, 0x40000, 0, .v, none, none, 1, true, 7, 0, 0, 1⟩] }) id .c) fun c =>
          c.mem.quiet &&
            (({ c with M := acquire (closeRegion c.M c.mem.ref) c.mem.ref .pkg } : Ctx).waitFaults (fun _ => true) (fun _ => true)
              Strm.all).isSome) = true ∧
      (meets .done
        (rig (fun m => { m with handler := some ⟨0, .v, ⟨[], 1⟩, ⟨[], 2⟩, ⟨[], 3⟩, ⟨[], 4⟩, 0x10008, true, 0, 1, none, none, []⟩ }) id .c)
        fun c => c.mem.handler.isSome) = true := by decide +kernel

/-! ### Memory words -/

/-- A translated span that begins in memory here with nothing poisoned, one that begins on another device, and a fault. -/
def spanHere (r : Except XFault (Mach × List (Target × Nat))) : Bool :=
  match r with
  | .ok (M, (.local pa, n) :: ts) => (spanPoison M ((.local pa, n) :: ts)).isNone
  | _ => false

def spanFar (r : Except XFault (Mach × List (Target × Nat))) : Bool :=
  match r with
  | .ok (_, (.remote _ _ _, _) :: _) => true
  | _ => false

def spanPoisoned (r : Except XFault (Mach × List (Target × Nat))) : Bool :=
  match r with
  | .ok (M, ts) => (spanPoison M ts).isSome
  | _ => false

def spanFault (r : Except XFault (Mach × List (Target × Nat))) : Bool := !r.isOk

/-- Register s1 holds `a`, s2 holds `v`, s3 holds `w`, s4 holds `z`. -/
def at4 (a v w z : Word) (g : Mach → Mach) (st : Strm) : State := rig (regs st [(1, a), (2, v), (3, w), (4, z)]) g st

/-- The last bytes of a page, a remote page, an unmapped one, and a poisoned block. -/
theorem witness_loads :
    let i (arr : BitVec 10) : Instr := .ld (.s 9) (.s 1) 31 arr .b8 false false 0
    (meets (i 1) (at4 0x2FFF8 0 0 0 id .a) fun c => c.mem.slotFree 31 && spanHere (c.span .read 0x2FFF8 8)) = true ∧
      (meets (i 0) (at4 0x40000 0 0 0 id .a) fun c => spanFar (c.span .read 0x40000 8)) = true ∧
      (meets (i 0) (at4 0x60000 0 0 0 id .c) fun c => spanFault (c.span .read 0x60000 8)) = true ∧
      (meets (i 0) (at4 0x20000 0 0 0 (fun M => { M with poison := [0x20000 / 64] }) .c) fun c =>
        spanPoisoned (c.span .read 0x20000 8)) = true ∧
      (meets (i 0) (rig (fun m => m.setSlot 31 ⟨.pending, 0, .c, .none, none, .b8, false, 0, 0, 0⟩) id .c) fun c =>
        !c.mem.slotFree 31) = true := by decide +kernel

theorem witness_load_bytes :
    let q : Stream := { (loadMember .c 0).c with sb := [⟨0x20000, [1, 2], none⟩, ⟨0x20001, [3], none⟩] }
    loadByte (rigM id id .c) q 0 0x20001 = 3 ∧ loadByte (rigM id id .c) q 0 0x20000 = 1 ∧
      loadByte (rigM id (fun M => M.setCore ⟨0, tlb0, [⟨0x20000 / 64, List.replicate 64 7, BitVec.allOnes 64, 0⟩]⟩) .c) q 0 0x20002 = 7 ∧
      loadByte (rigM id (fun M => M.put 0x20003 [9]) .c) q 0 0x20003 = 9 := by decide +kernel

theorem witness_stores :
    let i : Instr := .st (.s 2) (.s 1) .b8 0
    let full : List SbEntry := List.replicate 8 ⟨0x20000, [1], none⟩
    (meets i (at4 0x2FFF8 5 0 0 id .a) fun c => spanHere (c.span .write 0x2FFF8 8)) = true ∧
      (meets i (at4 0x50000 5 0 0 id .a) fun c => spanFault (c.span .write 0x50000 8)) = true ∧
      (meets i (rig (fun m => (regs .a [(1, 0x20000)] m).updStr .a fun q => { q with sb := full }) id .a) fun c =>
        c.s.sb.length == 8 && spanHere (c.span .write 0x20000 8)) = true ∧
      (rigM id id .a).member r0 = some (loadMember .a 0) ∧ 0x2003F % 64 + 1 ≤ 64 := by decide +kernel

/-- A store whose bytes the L1 may hold, and one to the core's own window. -/
theorem witness_drains :
    let m (pa : Nat) : Member := (loadMember .c 0).updStr .c fun q => { q with sb := [⟨pa, [1, 2], none⟩] }
    (rigM (fun _ => m 0x20000) id .c).member r0 = some (m 0x20000) ∧ (m 0x20000).place = .core 0 ∧
      cacheable (m 0x20000) 0 0x20000 = true ∧ cacheable (m 0) 0 0x040000000000 = false ∧
      checkedWindow 0 0x20000 = false ∧ checkedWindow 1 0x040000000000 = true ∧
      cacheable { m 0x20000 with size := 4 } 0 0x20000 = false ∧
      ((rigM id (fun M => M.updStack 0 fun x => { x with switching := some true }) .c).switchingAt 0x20000).isSome = true ∧
      (rigM id id .c).switchingAt 0x20000 = none ∧
      (let S := rigM id (fun M => M.updStack 0 fun x => { x with switching := some true }) .c
       switchingStacks S (fun _ _ => true) [(.local 0x20000, 8)] = [0] ∧
         switchingStacks S (fun _ _ => false) [(.local 0x20000, 8)] = []) ∧
      windowOk (rigM id id .c) 0x040000000000 = true := by decide +kernel

theorem witness_line_words :
    (meets (.pref (.s 1) .b1 0) (at4 0x60000 0 0 0 id .c) fun _ => true) = true ∧
      (meets (.cflush .core (.s 1) .b1 0) (at4 0x20000 0 0 0 id .c) fun c => spanHere (c.span .read 0x20000 1)) = true ∧
      (meets (.cinv .pod (.s 1) .b1 0) (at4 0x20000 0 0 0 id .c) fun c => spanHere (c.span .read 0x20000 1)) = true ∧
      (meets (.cinv .pkg (.s 1) .b1 0) (at4 0x40000 0 0 0 id .c) fun c => spanFar (c.span .read 0x40000 1)) = true ∧
      (meets (.strel .pkg (.s 2) (.s 1) .b8 0) (at4 0x2FFF8 1 0 0 id .c) fun c =>
        c.default 0x2FFF8 8 && spanHere (c.span .write 0x2FFF8 8)) = true ∧
      (meets (.strel .pod (.s 2) (.s 1) .b8 0) (at4 0x40000 1 0 0 id .c) fun c =>
        c.s.imprecise.isEmpty && !outstanding c.M c.mem.ref c.st && spanFar (c.span .write 0x40000 8)) = true ∧
      (meets (.strel .pkg (.s 2) (.s 1) .b8 0) (at4 0x20004 1 0 0 id .c) fun c => c.reg (.s 1) == 0x20004) = true := by
  decide +kernel

/-- A region object whose VERSION word LDACQ reads. -/
def withRegion (M : Mach) : Mach := M.updPart 0 fun p => { p with regions := [⟨0x30000, 1, 0x20000⟩] }

theorem witness_acquiring_loads :
    let i : Instr := .ldacq .pkg (.s 9) (.s 1) 3 .b8 0
    (meets i (at4 0x20000 0 0 0 id .c) fun c =>
        c.mem.slotFree 3 && c.default 0x20000 8 && !c.versionWord 0x20000 && spanHere (c.span .read 0x20000 8)) = true ∧
      (meets i (at4 0x20000 0 0 0 withRegion .c) fun c => c.versionWord 0x20000 && spanHere (c.span .atomic 0x20000 8)
        && objWellFormed (c.M.word 0x20008).toNat) = true ∧
      (meets i (at4 0x20000 0 0 0 (fun M => (withRegion M).setWord 0x20008 2) .c) fun c =>
        c.versionWord 0x20000 && !objWellFormed (c.M.word 0x20008).toNat) = true ∧
      (meets i (at4 0x40000 0 0 0 (fun M => M.updPart 0 fun p => { p with regions := [⟨0x30000, 1, 0x40000⟩] }) .c) fun c =>
        c.versionWord 0x40000 && spanFar (c.span .atomic 0x40000 8)) = true ∧
      (meets i (at4 0x20000 0 0 0 (fun M => { M with poison := [0x20000 / 64] }) .c) fun c =>
        spanPoisoned (c.span .read 0x20000 8)) = true ∧
      (meets i (at4 0x40000 0 0 0 id .c) fun c => spanFar (c.span .read 0x40000 8)) = true ∧
      (meets i (at4 0x30000 0 0 0 withRegion .c) fun c => !c.default 0x30000 8) = true := by decide +kernel

theorem witness_atomics :
    ([.aadd ⟨.s 9, .s 1, .s 2, .rlx, true⟩, .aand ⟨.s 9, .s 1, .s 2, .acq .pkg, true⟩, .aor ⟨.s 9, .s 1, .s 2, .rel .die, true⟩,
        .axor ⟨.s 9, .s 1, .s 2, .ar .core, false⟩, .amin ⟨.s 9, .s 1, .s 2, .rlx, false⟩, .amax ⟨.s 9, .s 1, .s 2, .rlx, true⟩,
        .aminu ⟨.s 9, .s 1, .s 2, .rlx, true⟩, .amaxu ⟨.s 9, .s 1, .s 2, .rlx, true⟩, .axchg ⟨.s 9, .s 1, .s 2, .rlx, true⟩,
        .acas ⟨.s 9, .s 1, .s 2, .rlx, true⟩ (.s 3), .afadd ⟨.s 9, .s 1, .s 2, .rlx, false⟩] : List Instr).all
      (fun i => meets i (at4 0x2FFF8 1 2 0 id .a) fun c =>
        (atomOf i c).isSome && c.default 0x2FFF8 8 && spanHere (c.span .atomic 0x2FFF8 8)) = true ∧
      (meets (.aadd ⟨.s 9, .s 1, .s 2, .ar .pod, true⟩) (at4 0x40000 1 2 0 id .a) fun c =>
        c.s.imprecise.isEmpty && spanFar (c.span .atomic 0x40000 8)) = true ∧
      (meets (.aadd ⟨.s 9, .s 1, .s 2, .rlx, true⟩) (at4 0x50000 1 2 0 id .a) fun c =>
        spanFault (c.span .atomic 0x50000 8)) = true ∧
      (meets (.aadd ⟨.s 9, .s 1, .s 2, .rlx, true⟩) (at4 0x20004 1 2 0 id .a) fun c => c.reg (.s 1) == 0x20004) = true := by
  decide +kernel

theorem test_atomic_minimum :
    let H := homeAtom ((rigM id id .c).put 0x20000 [0xFF, 0xFF, 0xFF, 0xFF]) 0x20000 0x54 false 5 0
    H.2 = 0xFFFFFFFF ∧ leNat (H.1.get 0x20000 8) = 0xFFFFFFFF := by decide +kernel

/-- One row of 64 bytes: the list at 0x30000 names row 0, the source stands at 0x30040; a remote source; a misaligned list. -/
theorem witness_scatter_adds :
    let i : Instr := .scadd (.s 4) (.s 1) (.s 2) (.s 3) .i32 1
    let e (c : Ctx) : ScaddEnd :=
      scaddLoop c.mem c.st 0 (c.reg (.s 4)).toNat (toHomes c.M c.mem.ref c.st)
        ⟨c.reg (.s 1), c.reg (.s 2), c.reg (.s 3), .i32, 64, (c.reg (.s 4)).toNat, 0, 0⟩
    (meets i (at4 0x20000 0x30000 0x30040 1 id .a) fun c => (e c).stop.isNone && !(e c).asks) = true ∧
      (meets i (at4 0x20000 0x30000 0x40000 1 id .a) fun c => (e c).stop.isNone && (e c).asks) = true ∧
      (meets i (at4 0x60000 0x30000 0x30040 1 id .a) fun c => (e c).stop.isSome) = true ∧
      (meets i (at4 0x20000 0x30000 0x30040 1 (fun M => M.put 0x30000 [255, 255, 255, 255]) .a) fun c =>
        (e c).stop.isNone && (e c).run.pads == 1) = true ∧
      (scaddRead (rigM id (fun M => M.put 0x30000 [255, 255, 255, 255]) .a) (loadMember .a 0) .a 0x30000 0 4 matches
        .bytes _ [255, 255, 255, 255]) = true ∧
      (meets i (at4 0x20000 0x30002 0x30040 1 id .a) fun c => (c.reg (.s 2)).toNat % 4 != 0) = true := by decide +kernel

/-! ### Synchronisation, tags, queues -/

/-- An object at 0x20000 with the given version and second word. -/
def object (v w1 : Nat) (M : Mach) : Mach := (M.put 0x20000 (leBytes 8 v)).put 0x20008 (leBytes 8 w1)

theorem witness_acquires :
    let s (a n : Word) (g : Mach → Mach) : State := at4 a n 0 0 g .c
    let ge : Instr := .acqGe (.s 9) (.s 1) .pkg 2
    let ex : Instr := .acqX (.s 9) (.s 1) .pkg
    (meets ge (s 0x20000 7 (object 7 1)) fun c => spanHere (c.span .atomic 0x20000 16) && (c.M.word 0x20000).toNat == 7
        && (acqOf ge c).isSome && objWellFormed 1) = true ∧
      (meets ge (s 0x20000 8 (object 7 1)) fun c => decide ((c.M.word 0x20000).toNat < 8)) = true ∧
      (meets (.acqNw (.s 9) (.s 1) .pod) (s 0x20000 0 (object 7 1)) fun _ => true) = true ∧
      (meets ex (s 0x20000 0 (object 7 1)) fun c => (c.M.word 0x20008).toNat == 1) = true ∧
      (meets ex (s 0x20000 0 (object 7 0)) fun c => (c.M.word 0x20008).toNat == 0) = true ∧
      (meets ex (s 0x20000 0 (object 7 (2 ^ 63 + 1))) fun c => (c.M.word 0x20008).getLsbD 63) = true ∧
      (meets ex (s 0x40000 0 id) fun c => spanFar (c.span .atomic 0x40000 16)) = true ∧
      (meets ge (s 0 1 id) fun c => c.reg (.s 1) == 0) = true ∧
      (meets ge (s 0 0 id) fun c => c.reg (.s 1) == 0) = true ∧
      (meets ge (s 0x20010 0 id) fun c => (c.reg (.s 1)).toNat % 64 != 0) = true ∧
      (meets ge (s 0x20000 0 (object 7 2)) fun _ => !objWellFormed 2) = true ∧
      (meets ge (s 0x60000 0 id) fun c => spanFault (c.span .atomic 0x60000 16)) = true := by decide +kernel

theorem witness_releases :
    let s (a : Word) (g : Mach → Mach) : State := at4 a 0 0 0 g .c
    let i : Instr := .rel (.s 9) (.s 1) .pod
    let mine : Nat := holderBits (rigM id id .c) r0 .c
    (meets i (s 0x20000 (object 7 1)) fun c => c.s.imprecise.isEmpty && !outstanding c.M c.mem.ref c.st
        && spanHere (c.span .atomic 0x20000 16)) = true ∧
      (meets i (s 0x20000 (object 7 (2 ^ 63 + 1 + fld mine 26 35 <<< 26))) fun c =>
        decide (2 ^ 63 ≤ (c.M.word 0x20008).toNat) && fld (c.M.word 0x20008).toNat 26 35 == fld mine 26 35) = true ∧
      (meets i (s 0x20000 (object 7 (2 ^ 63 + 1 + (fld mine 26 35 + 1) <<< 26))) fun c =>
        fld (c.M.word 0x20008).toNat 26 35 != fld mine 26 35) = true ∧
      (meets i (s 0 id) fun _ => true) = true ∧ (meets i (s 0x40000 id) fun c => spanFar (c.span .atomic 0x40000 16)) = true := by
  decide +kernel

/-- A posted write of stream C that is not acknowledged. -/
def posted (M : Mach) : Mach :=
  let p : Packet := ⟨0x50000, 77, 1, 0, 1, 0, 0, ⟨0, 0⟩, 0, ⟨1, 2⟩, 1, 0, [], 0⟩
  { M with conns := [⟨⟨0, ⟨1, 2⟩, 1⟩, .open, 2, 1, 1, [⟨p, .store r0 .c 0x40000 1, 1⟩], [], [], [], [], [], [], 0⟩] }

theorem witness_outstanding :
    outstanding (posted (rigM id id .c)) r0 .c = true ∧
      ([.strel .pod (.s 2) (.s 1) .b8 0, .aadd ⟨.s 9, .s 1, .s 2, .rel .pod, true⟩, .rel (.s 9) (.s 1) .pod, .fence .pod,
        .xfence .pod, .tlsig (.s 9) 1 .pod, .bar .pod 0, .push (.s 9) (.s 1) (.s 2) (.s 3) ⟨.pod, 0, .bag⟩] : List Instr).all
        (fun i => meets i (at4 0x20000 0 0 0 posted .c) fun c =>
          outstanding (release c.M c.mem.ref c.st .pod) c.mem.ref c.st && c.s.imprecise.isEmpty) = true := by
  decide +kernel

/-- A command of the A stream at work. -/
def cmdOf (num : Nat) (run : CmdRun) : Cmd :=
  { ref := ⟨r0, 1, num⟩, st := .a, run := run, out := 0, engineDone := false, finished := false, oob := false, emptyBag := false,
    err := false, ovf := false, fault := false, nbad := 0, first := 0, pos := 0, spec := 0, deferred := [], epoch := none, sys := none }

theorem witness_fences :
    (meets (.fence .pod) (two .c) fun c => c.s.imprecise.isEmpty) = true ∧
      (meets (.xfence .core) (two .a) fun _ => true) = true ∧
      (meets (.fence .pod)
        (rig (fun m => m.updStr .c fun q => { q with imprecise := [⟨0x07, 0x40000, 0, .c, none, none, 1, true, 7, 0, 0, 1⟩] }) id .c) fun c =>
          !c.s.imprecise.isEmpty) = true ∧
      (meets (.tlsig (.s 9) 3 .pkg) (two .c) fun _ => true) = true := by decide +kernel

/-- A TLSIG .pod with a write posted before it and after it, and with a refusal of either. -/
theorem witness_signals :
    let q (num : Nat) : Cmd := { cmdOf 1 (.signal .pod num) with st := .c }
    let y : Member := (loadMember .c 0).updStr .c fun q => { q with imprecise := [⟨0x07, 0x40000, 0, .c, none, none, 1, true, 7, 0, 0, 1⟩] }
    let M := rigM id id .c
    signalDone (posted M) (loadMember .c 0) (q 0) .pod 0 = true ∧ signalDone (posted M) (loadMember .c 0) (q 1) .pod 1 = false ∧
      signalDone M y (q 0) .pod 0 = true ∧ signalDone M y (q 1) .pod 1 = false ∧ signalDone (posted M) y { q 1 with run := .signal .pkg 1 } .pkg 1 = true := by
  decide +kernel

/-- A queue with two rows, the second not landed: one is ready. -/
def tworows (m : Member) : Member :=
  { m with queues := m.queues.set 5 [⟨0, List.replicate 128 1, true⟩, ⟨1, List.replicate 128 2, false⟩] }

theorem witness_wait_words :
    let s (n : Word) : State := rig (fun m => tworows (regs .x [(1, n)] m)) id .x
    (meets (.waitcGe 5 (.s 1)) (s 1) fun c => decide (1 ≤ readyRows (c.mem.queue 5))) = true ∧
      (meets (.waitcGe 5 (.s 1)) (s 2) fun c => decide (readyRows (c.mem.queue 5) < 2)) = true ∧
      (meets (.waitcGe 5 (.s 1)) (s 33) fun c => decide (32 < (c.reg (.s 1)).toNat)) = true ∧
      (meets (.waitcLe 5 (.s 1)) (s 1) fun c => decide (readyRows (c.mem.queue 5) ≤ 1)) = true ∧
      (meets (.waitcLe 5 (.s 1)) (s 0) fun c => decide (0 < readyRows (c.mem.queue 5))) = true ∧
      (meets (.tlwait 3 (.s 1)) (s 0) fun c => timelineOk c.mem c.st 3 0
        && (c.waitFaults (fun q => q.coveredBy 3 0) (coversRefusal c.mem .x 3 0) [.x]).isNone) = true ∧
      (meets (.tlwait 3 (.s 1)) (s 1) fun c => !timelineOk c.mem c.st 3 1) = true := by decide +kernel

theorem witness_mailboxes :
    let full (m : Member) : Member := { m with mbs := m.mbs.set 7 (9, true) }
    (meets (.mbw 7 (.s 1)) (two .v) fun c => !c.mem.mbs[7].2 && !c.mustQueue (.mailboxEmpty 7)) = true ∧
      (meets (.mbw 7 (.s 1)) (rig full id .v) fun c => c.mem.mbs[7].2) = true ∧
      (meets (.mbr (.s 1) 7) (rig full id .v) fun c => c.mem.mbs[7].2 && !c.mustQueue (.mailboxFull 7)) = true ∧
      (meets (.mbr (.s 1) 7) (two .v) fun c => !c.mem.mbs[7].2) = true := by decide +kernel

/-- A barrier of the core: a first arrival, one let pass, one that waits already, another mask; a group that is none. -/
theorem witness_barriers :
    let i : Instr := .bar .core 5
    let key := barKey (rigM id id .c) (loadMember .c 0) .core
    let at_ (b : Bar) : State := rig id (fun M => { M with bars := [b] }) .c
    (meets (.bar .stream 0) (two .c) fun _ => true) = true ∧ (meets i (two .c) fun c => (barFind c.M .core key).isNone) = true ∧
      (meets i (at_ ⟨.core, key, 5, [], [(r0, .c)]⟩) fun c => (barFind c.M .core key).isSome) = true ∧
      (meets i (at_ ⟨.core, key, 5, [(r0, .c)], []⟩) fun c => (barFind c.M .core key).isSome) = true ∧
      (meets i (at_ ⟨.core, key, 7, [(r0, .v)], []⟩) fun c => (barFind c.M .core key).any fun b => b.mask != 5) = true ∧
      (meets (.bar .die 0) (two .c) fun c => c.st == .c) = true ∧ (meets (.bar .die 0) (two .a) fun c => c.st != .c) = true ∧
      (meets (.bar .pod 0) (two .c) fun c => groupOf c.M c.mem.ref == 0) = true := by decide +kernel

/-- Tile 3 with the given tag. -/
def tagged (t : Tag) (m : Member) : Member := m.setTile 3 { m.tile 3 with exp := 4, tag := t, cnt := 4 }

theorem witness_tag_words :
    let s (t : Tag) (v : Word) : State := rig (fun m => tagged t (regs .c [(1, v), (2, 128)] m)) id .c
    (loadMember .c 0).tilesN = 256 ∧
      (meets (.tagarm (.s 1) (.s 2) .i32 5) (s .empty 3) fun c => (c.mem.tile 3).tag == .empty) = true ∧
      (meets (.tagarm (.s 1) (.s 2) .i32 5) (s .full 3) fun c => (c.mem.tile 3).tag != .empty) = true ∧
      ([.tagsetFull (.s 1), .tagsetPoison (.s 1), .tagclr (.s 1), .tagwtNw (.s 9) (.s 1), .tagwtFull (.s 9) (.s 1),
          .tagwtEmpty (.s 9) (.s 1)] : List Instr).all (fun i =>
        (meets i (s .full 3) fun c => c.mem.readable 3) && (meets i (s .empty 3) fun c => !c.mem.readable 3) &&
          (meets i (s .poisoned 3) fun c => (c.mem.tile 3).tag == .poisoned) &&
          meets i (s .full 256) fun c => decide (c.mem.tilesN ≤ (c.reg (.s 1)).toNat)) = true := by decide +kernel

/-- A queue object at 0x20000: enabled bag of scope .pkg with sixteen entries stored at 0x30000, `n` of them in use. -/
def queueObject (disc n : Nat) (M : Mach) : Mach :=
  let w0 := disc + 4 * 2 ^ 1 + 4 * 2 ^ 24 + 2 ^ 63
  ((M.put 0x20000 (leBytes 8 w0)).put 0x20008 (leBytes 8 0x30000)).put 0x20010 (leBytes 8 n)

theorem witness_queue_words :
    ([.push (.s 9) (.s 1) (.s 2) (.s 3) ⟨.pkg, 0, .bag⟩, .popN (.s 9) (.s 1) (.s 2) (.s 3) ⟨.pkg, 0, .bag⟩,
        .popW (.s 9) (.s 1) (.s 2) (.s 3) ⟨.pkg, 7, .stack⟩] : List Instr).all (fun i =>
      (meets i (at4 0x20000 1 2 0 (queueObject 0 3) .a) fun c =>
          (queueOf i c).isSome && spanHere (c.span .queuePop 0x20000 64)) &&
        (meets i (at4 0x40000 1 2 0 id .a) fun c => spanFar (c.span .queuePop 0x40000 64)) &&
        meets i (at4 0x20020 1 2 0 id .a) fun c => (c.reg (.s 1)).toNat % 64 != 0) = true ∧
      ([.qoctlEn (.s 9) (.s 1), .qoctlDis (.s 9) (.s 1), .qoctlCnt (.s 9) (.s 1)] : List Instr).all (fun i =>
        (meets i (at4 0x20000 1 2 0 (queueObject 0 3) .a) fun c => spanHere (c.span .atomic 0x20000 64)
            && ((ctlOf i).any fun x => (homeCtl c.M 0 0x20000 0x20000 x.2.2).isOk || x.2.2 == .en)) &&
          meets i (at4 0x40000 1 2 0 id .a) fun c => spanFar (c.span .atomic 0x40000 64)) = true := by decide +kernel

/-! ### Grids -/

/-- Two owners of four cells of 64 bytes along one periodic dimension, depth 1, one halo cell on each side, scope .pkg,
owner table at 0x30000. -/
def grid0 : List Word :=
  [BitVec.ofNat 64 (4 * 2 ^ 6 + 4 * 2 ^ 9 + 2 ^ 24 + 4 * 2 ^ 27 + 2 ^ 32 + 2 ^ 38), 0, 8 + 2 ^ 32, 1 + 4 * 2 ^ 32, 1 + 2 ^ 32,
    1 + 64, 0x30000, 0]

/-- Both owners are this member; state blocks at 0x20000 and 0x21000, verge areas and spill areas behind them. -/
def owners (M : Mach) : Mach :=
  let entry (M : Mach) (k : Nat) : Mach :=
    M.put (0x30000 + 32 * k)
      (leBytes 8 0 ++ leBytes 8 (0x22000 + 0x1000 * k) ++ leBytes 8 (0x20000 + 0x1000 * k) ++ leBytes 8 (0x24000 + 0x1000 * k))
  entry (entry M 0) 1

/-- The member holds the grid in handle 2 and has joined as both owners. -/
def holder (m : Member) : Member :=
  { m with handles := m.handles.set 2 (some ⟨.grid, grid0, 0x31000⟩) }

def joiner (m : Member) : Member :=
  { holder m with joined := [⟨grid0, 0x31000, 0⟩, ⟨grid0, 0x31000, 1⟩] }

/-- A grid position of handle 2. -/
def gpos (reg own ms : Nat) : Word := BitVec.ofNat 64 (2 * 2 ^ 60 + reg * 2 ^ 55 + own * 2 ^ 43 + ms)

/-- The position, the owner's entry, the machine after reading it and the state block's place. -/
def ownerRead (c : Ctx) (x : Reg) : Option (GPos × List Word × Mach × Nat) :=
  match c.gridPos x with
  | some p =>
    if gOwners p.g ≤ p.own then none
    else
      match readEntry (toHomes c.M c.mem.ref c.st) c.mem c.tag none p.g p.own with
      | .entry N e =>
        let M := dropFetched N c.mem.ref c.tag
        match statePa M c.mem .engineWrite e, statePa M c.mem .read e with
        | .ok pa, .ok pb => if pa = pb then some (p, e, M, pa) else none
        | _, _ => none
      | _ => none
  | none => none

/-- The verdict on the milestones of regions at a position. -/
def verdict (c : Ctx) (x : Reg) (rs : List Nat) : Option MsState :=
  (ownerRead c x).map fun r =>
    (msVerdict r.2.2.1 (rs.map fun q => (r.2.2.2 + 0x100 + 4 * (27 * (r.1.ms % (gDepth r.1.g + 1)) + q), q)) r.1.ms).1

/-- A grid word at a position of a joined owner; `g` puts the milestones down. -/
def gridS (f : Member → Member) (w : Word) (g : Mach → Mach) (st : Strm) : State :=
  rig (fun m => f (regs st [(1, w), (2, 0), (3, 1)] m)) (fun M => g (owners M)) st

/-- Milestone word of region 12 in slot 3 mod 2 of owner 0. -/
def milestone (v : Nat) (M : Mach) : Mach := M.put (0x20000 + 0x100 + 4 * (27 * 1 + 12)) (leBytes 4 v)

theorem witness_grid_control :
    (meets (.gridctlJoin (.s 1)) (gridS holder (gpos 0 0 0) id .c) fun c =>
        (ownerRead c (.s 1)).any fun r => !c.mem.joinedAs r.1.g 0 && entHere r.2.2.1 c.mem r.2.1 && entMember r.2.1 == r0) = true ∧
      (meets (.gridctlLeave (.s 1)) (gridS joiner (gpos 0 1 0) id .c) fun c =>
        (c.gridPos (.s 1)).any fun p => c.mem.joinedAs p.g p.own) = true ∧
      (meets (.gridctlLeave (.s 1)) (gridS holder (gpos 0 1 0) id .c) fun c =>
        (c.gridPos (.s 1)).any fun p => !c.mem.joinedAs p.g p.own) = true ∧
      (meets (.gridctlStat (.s 9) (.s 1)) (gridS joiner (gpos 0 0 0) id .a) fun c =>
        (ownerRead c (.s 1)).any fun r => entHere r.2.2.1 c.mem r.2.1 && !r.2.2.1.poisoned r.2.2.2 4) = true ∧
      (meets (.gridctlStatMs (.s 9) (.s 1) (.s 3)) (gridS joiner (gpos 26 1 0) id .a) fun c =>
        (ownerRead c (.s 1)).any fun r => decide (1 ≤ gDepth r.1.g) && r.1.reg == 26) = true ∧
      (meets (.gridctlJoin (.s 1)) (gridS id (gpos 0 0 0) id .c) fun c => (c.gridPos (.s 1)).isNone) = true := by
  decide +kernel

theorem witness_halo_words :
    let on (i : Instr) (v : Nat) (w : Word) (st : Strm) (rs : List Nat) (z : MsState) : Bool :=
      meets i (gridS joiner w (milestone v) st) fun c => verdict c (.s 1) rs == some z
    (regionExists grid0 12 = true ∧ regionExists grid0 13 = false ∧
        (List.range 27).filter (fun r => decide (regionBytes grid0 r ≠ 0)) = [12, 14]) ∧
      on (.hwait (.s 1)) 3 (gpos 12 0 3) .v [12] .accept = true ∧
      on (.hwait (.s 1)) 0xFFFFFFFF (gpos 12 0 3) .v [12] .stall = true ∧
      on (.hwait (.s 1)) 4 (gpos 12 0 3) .v [12] .late = true ∧
      on (.hwaitAll (.s 1)) 0xFFFFFFFF (gpos 0 0 3) .x [12, 14] .stall = true ∧
      (meets (.hwaitAll (.s 1))
        (gridS joiner (gpos 0 0 3) (fun M => (milestone 3 M).put (0x20000 + 0x100 + 4 * (27 * 1 + 14)) [3, 0, 0, 0]) .x)
        fun c => verdict c (.s 1) [12, 14] == some .accept) = true ∧
      (meets (.hld (.s 9) (.s 1) (.s 2) 3 .b8 0) (gridS joiner (gpos 12 0 3) (milestone 3) .a) fun c =>
        verdict c (.s 1) [12] == some .accept &&
          (ownerRead c (.s 1)).any fun r => runOk r.1 0 8 8 && (vergeAt c.mem r.1 r.2.1 0 8).isOk) = true ∧
      (meets (.hldQ 4 (.s 1) (.s 2) (.s 3)) (gridS joiner (gpos 12 0 3) (milestone 3) .a) fun c =>
        verdict c (.s 1) [12] == some .accept &&
          (ownerRead c (.s 1)).any fun r => !runOk r.1 0 64 128) = true ∧
      (meets (.hwait (.s 1)) (gridS joiner (gpos 13 0 3) id .v) fun c => (ownerRead c (.s 1)).isSome) = true := by
  decide +kernel

/-- The grid with two cells of 64 bytes in each halo: HLD.q reads one row of 128 bytes. -/
def grid1 : List Word := grid0.set 5 (2 + 2 * 64)

theorem witness_halo_rows :
    let f (m : Member) : Member :=
      { m with handles := m.handles.set 2 (some ⟨.grid, grid1, 0x31000⟩), joined := [⟨grid1, 0x31000, 0⟩] }
    (meets (.hldQ 4 (.s 1) (.s 2) (.s 3)) (gridS f (gpos 12 0 3) (milestone 3) .a) fun c =>
        verdict c (.s 1) [12] == some .accept &&
          (ownerRead c (.s 1)).any fun r => runOk r.1 0 64 128 &&
            (match vergeAt c.mem r.1 r.2.1 0 128 with
              | .ok pva => (c.queueLoad r.2.2.1 4 1 [some (pva.toNat : Int)]).isOk
              | .error _ => false)) = true := by decide +kernel

/-- HPUB at the next position, at another, and with a receiver that has not published. -/
theorem witness_publishing :
    let state (v : Nat) (M : Mach) : Mach := M.put 0x20000 (leBytes 4 v)
    (meets (.hpub (.s 1)) (gridS joiner (gpos 0 0 0) (state 0xFFFFFFFF) .c) fun c =>
        (ownerRead c (.s 1)).any fun r => r.1.ms == msRank (r.2.2.1.word32 r.2.2.2) && (c.vergeRefusal r.1.g r.1.own).isNone
          && receivers r.1.g 0 == [(1, [12, 14])]) = true ∧
      (meets (.hpub (.s 1)) (gridS joiner (gpos 0 0 5) (state 0xFFFFFFFF) .c) fun c =>
        (ownerRead c (.s 1)).any fun r => r.1.ms != msRank (r.2.2.1.word32 r.2.2.2)) = true ∧
      (meets (.hpub (.s 1)) (gridS joiner (gpos 0 0 2) (fun M => (state 1 M).put (0x20000 + 0x600 + 4 * 12) (List.replicate 12 255)) .c)
        fun c => (ownerRead c (.s 1)).any fun r => r.1.ms == msRank (r.2.2.1.word32 r.2.2.2) &&
          decide (msRank (r.2.2.1.word32 (r.2.2.2 + 0x600 + 4 * (26 - 12))) < 1)) = true := by decide +kernel

/-! ### Commands, transfers, copies -/

theorem witness_commands : (rigM id id .a).member r0 = some (loadMember .a 0) := by decide +kernel

/-- Base, stride, count; a list; sixteen places left; a full queue; a misaligned base. -/
theorem witness_queue_loads :
    let full (m : Member) : Member :=
      { m with queues := m.queues.set 5 (List.replicate 32 ⟨0, List.replicate 128 1, true⟩) }
    let rows (c : Ctx) (n : Nat) : Bool := (c.rowSpans c.M ((List.range n).map fun j => some (0x20000 + 128 * (j : Int)))).isOk
    (meets (.qld 5 (.s 1) (.s 2) (.s 3)) (at4 0x20000 128 32 0 id .a) fun c => rows c 32 && (c.mem.queue 5).length == 0) = true ∧
      (meets (.qld 5 (.s 1) (.s 2) (.s 3)) (at4 0x20000 128 33 0 id .a) fun c => decide (32 < (c.reg (.s 3)).toNat)) = true ∧
      (meets (.qld 5 (.s 1) (.s 2) (.s 3)) (rig (fun m => full (regs .a [(1, 0x20000), (2, 128), (3, 1)] m)) id .a) fun c =>
        (c.mem.queue 5).length == 32) = true ∧
      (meets (.qld 5 (.s 1) (.s 2) (.s 3)) (at4 0x60000 128 1 0 id .a) fun c => !(c.rowSpans c.M [some 0x60000]).isOk) = true ∧
      (meets (.qldx 5 (.s 1) (.s 2) (.s 3) (.s 4)) (at4 0x20000 128 0x30000 1 id .a) fun c =>
        match c.readSpan 0x30000 4 with
        | .bytes M _ => (c.rowSpans (dropFetched M c.mem.ref c.tag) [some 0x20000]).isOk
        | _ => false) = true ∧
      (meets (.qldx 5 (.s 1) (.s 2) (.s 3) (.s 4)) (at4 0x20000 128 0x40000 1 id .a) fun c =>
        match c.readSpan 0x40000 4 with
        | .asking _ => true
        | _ => false) = true ∧
      (meets (.qflush 5) (rig full id .a) fun c => (c.mem.queue 5).length == 32) = true := by decide +kernel

/-- The last sectors and rows of a tile; tile 3 is full. -/
theorem witness_tile_transfers :
    let s (a v w z : Word) : State := rig (fun m => tagged .full (regs .a [(1, a), (2, v), (3, w), (4, z)] m)) id .a
    let taddr : Word := 3 * 2 ^ 16 + 127
    (meets (.tget 1 (.s 9) (.s 1) (.s 2) (.s 3)) (s 0x20000 0x1FE 2 0) fun c => (c.mem.sectorRun 0x1FE 2).isSome) = true ∧
      (meets (.tget 1 (.s 9) (.s 1) (.s 2) (.s 3)) (s 0x20000 0x1FF 2 0) fun c => (c.mem.sectorRun 0x1FF 2).isNone) = true ∧
      (meets (.bld 1 (.s 9) (.s 1) (.s 2) (.s 3)) (s 0x20000 (BitVec.ofNat 64 (127 + 16320 * 2 ^ 16 + 64 * 2 ^ 32)) 64 0)
        fun c => (c.reg (.s 1)).toNat % 64 == 0) = true ∧
      (meets (.tsend .pkg .plain (.s 1) (.s 2) (.s 3) true true) (s taddr 0x1FF 1 0) fun c =>
        (c.mem.sectorRun 0x1FF 1).isSome && taddrOk taddr && (c.sourceTile true true 3).isOk) = true ∧
      (meets (.tsend .pkg .plain (.s 1) (.s 2) (.s 3) true true) (s taddr 0x27F 1 0) fun c =>
        (c.mem.sectorRun 0x27F 1).isSome && !(c.sourceTile true true 4).isOk) = true ∧
      (meets (.tsto (.s 1) (.s 2) (.s 3) (.s 4) true true) (s 0x20000 (3 * 64 + 62) 2 128) fun c =>
        (c.mem.rowRun (3 * 64 + 62) 2).isSome && (c.sourceTile true true 3).isOk && (c.destSpans c.M [0x20000, 0x20080]).isOk) = true ∧
      (meets (.tsto (.s 1) (.s 2) (.s 3) (.s 4) true true) (s 0x50000 (3 * 64 + 62) 2 128) fun c =>
        !(c.destSpans c.M [0x50000, 0x50080]).isOk) = true := by decide +kernel

theorem witness_copy_words :
    let s (a v : Word) : State := at4 a v 0 0 id .a
    (meets (.cpseq 5 (.reg (.s 1))) (s 0x7FFFFFFF 0) fun c => (c.reg (.s 1)).toNat + 1 == 2 ^ 31) = true ∧
      (meets (.cpseq 5 (.hl 15)) (s 0 0) fun c => c.mem.hl[15] == 0) = true ∧
      (meets (.cpsrcWin 5 (.s 1) (.s 2)) (s 0xFFFFFFFF80000000 0xFFFFFFFF) fun c => (c.reg (.s 1)).toInt == -(2 ^ 31)) = true ∧
      (meets (.cpdstWin 5 (.s 1) (.s 2)) (s 0x80000000 0) fun c => (c.reg (.s 1)).toInt == 2 ^ 31) = true ∧
      (meets (.cpidx 0 (.s 1) (.s 2)) (s 0x20020 1) fun c => (c.reg (.s 1)).toNat % 32 == 0) = true ∧
      (meets (.cpidx 0 (.s 1) (.s 2)) (s 0x20010 1) fun c => (c.reg (.s 1)).toNat % 32 != 0) = true ∧
      (meets (.cpswz (.s 1)) (s 0 0) fun c => swzOk (c.reg (.s 1))) = true ∧
      (meets (.cpswz (.s 1)) (s 0x8000000000000000 0) fun c => !swzOk (c.reg (.s 1))) = true ∧
      ([.cpseqClr, .cpsrcBase (.s 1), .cpdstBase (.s 1), .cpdstBaseTile (.s 1), .cpsrcStride 5 (.s 1), .cpdstStride 0 (.s 1),
        .cpidxOff, .cpstat (.s 9) 3 (.s 1), .lkstat (.s 9) 3 (.s 1)] : List Instr).all (fun i => meets i (s 1 0) fun _ => true) = true := by
  decide +kernel

/-- A sequence of four 8-byte elements, in memory and to a tile; one with a scope and no tile; every engine taken. -/
def copies (dst : Word) (tile : Bool) (m : Member) : Member :=
  { m with
    copy :=
      { m.copy with
        lev := (m.copy.setLevel 0 fun _ => ⟨4, ⟨8, 0, 4⟩, ⟨8, 0, 4⟩⟩).lev
        srcBase := 0x20000
        dstBase := dst
        tile := tile } }

/-- A copy run of the member's shadow on engine `e`. -/
def copyRun (e : Option Nat) (dst : Word) (tile : Bool) : CopyRun :=
  { cfg := (copies dst tile (loadMember .a 0)).copy, esz := 3, sc := .stream, engine := e, sector := none, batch := none,
    undo := [], sent := [], tiles := [], come := false }

theorem witness_copy_launches :
    let i (sc : Scope) : Instr := .cpgo (.s 9) 1 3 sc
    let busy (m : Member) : Member :=
      { copies 0x30000 false m with cmds := (List.range 12).map fun e => cmdOf (e + 1) (.copy (copyRun (some e) 0x30000 false)) }
    (meets (i .stream) (rig (copies 0x30000 false) id .a) fun c =>
        !c.mem.copy.malformed 3 .stream && engineFree c.M c.mem.die == some 0) = true ∧
      (meets (i .pkg) (rig (copies (3 * 2 ^ 16) true) id .a) fun c => !c.mem.copy.malformed 3 .pkg && c.mem.copy.tile) = true ∧
      (meets (i .core) (rig (copies 0x30000 false) id .a) fun c => c.mem.copy.malformed 3 .core) = true ∧
      (meets (i .stream) (rig busy id .a) fun c => (engineFree c.M c.mem.die).isNone) = true := by decide +kernel

/-! ### Vector words -/

/-- A plain form, a checked form. -/
def plainM : VMod := ⟨false, false, false, false⟩
def checkM : VMod := ⟨true, true, false, false⟩

/-- The vector unit is free and every checked tile readable. -/
def vready (c : Ctx) (u : VUse) : Bool := decide (c.mem.vbusy ≤ c.t + c.mem.skew) && u.checked.all fun t => c.mem.readable t

/-- Runs at the last rows of tile 1, tile 3 full. -/
def vs (t : Tag) : State := rig (fun m => tagged t (regs .v [(1, 3), (2, 0x3F800000)] m)) id .v

theorem witness_row_addresses :
    meets .nop (vs .full) (fun c =>
        c.vrows 0x07F 1 == some (1, 63) && (c.vrows 0x07F 2).isNone && c.vrows 0x078 8 == some (1, 56)) = true ∧
      meets .nop (rig (fun m => m.updStr .v fun q => { q with vwin := 4 }) id .v) (fun c => (c.vrows 0 1).isNone) = true := by
  decide +kernel

theorem witness_element_words :
    let a (ty : VType) : VArgs3 := ⟨0, 0x078, 0x0C0, ty, 7, plainM⟩
    let u (ty : VType) : VArgs2 := ⟨0, 0x078, ty, 7, plainM⟩
    let z (ty : VType) : VArgs1 := ⟨0, ty, 7, plainM⟩
    ([.vadd (a .i8), .vsub (a .rn3), .vmul (a .fp32), .vfma (a .bf16), .vmin (a .i16), .vmax (a .i32), .vclmp (a .i8),
        .vand (a .fp8e4), .vor (a .rn3), .vxor (a .i8), .vshl (a .i8), .vshr (a .i16), .vsar (a .i32), .vcmp (a .fp32),
        .vsel (a .i8), .vscale (a .fp32)] : List Instr).all
      (fun i => meets i (vs .full) fun c => (elementOf i).any fun e =>
        (c.vrows e.1.d 8).isSome && (c.vrows e.1.x 8).isSome && (c.vrows e.1.y 8).isSome &&
          vready c ⟨[1, 3], some 1, some 3, e.1.m, 8⟩) = true ∧
      ([.vabs (u .i8), .vneg (u .fp32), .vnot (u .i8), .vexp2 (u .fp32), .vlog2 (u .bf16), .vrcp (u .fp32), .vrsq (u .bf16),
        .vscan (u .i32), .vshufRot (u .i8) 5, .vshufRev (u .i8), .vshufUnzip (u .i8), .vshufZip (u .i8)] : List Instr).all
        (fun i => meets i (vs .full) fun c => (runOf i).any fun e => (c.vrows e.1.d 8).isSome && (c.vrows e.1.x 8).isSome) = true ∧
      ([.vcvt ⟨0, 0x040, .i8, 1, plainM⟩ .fp32 true, .vqnt ⟨0, 0x040, .i8, 1, plainM⟩ .fp32 false (.s 2),
        .vdqn ⟨0, 0x040, .fp32, 1, plainM⟩ .i8 false (.s 2)] : List Instr).all
        (fun i => meets i (vs .full) fun c => (conversionOf i c).isSome) = true ∧
      ([.vbcst (z .i8) (.s 1), .vmask (z .i8) (.s 1), .vidx (z .fp32) (.s 1), .vzero 0 7] : List Instr).all
        (fun i => meets i (vs .full) fun c => (constantOf i c).isSome) = true := by decide +kernel

/-- A checked word with its tile empty, poisoned and full; the unit occupied; a run past row 63. -/
theorem witness_vector_holds :
    let i : Instr := .vabs ⟨0, 0x0C0, .i8, 0, checkM⟩
    let u : VUse := ⟨[3], some 3, none, checkM, 1⟩
    u.checked = [3] ∧ (meets i (vs .empty) fun c => !vready c u) = true ∧
      (meets i (vs .poisoned) fun c => (c.mem.tile 3).tag == .poisoned) = true ∧
      (meets i (vs .full) fun c => vready c u) = true ∧
      (meets i (rig (fun m => { tagged .full m with vbusy := 1000 }) id .v) fun c => decide (c.t + c.mem.skew < c.mem.vbusy)) = true ∧
      (meets (.vabs ⟨0x03F, 0x0C0, .i8, 1, checkM⟩) (vs .full) fun c => (c.vrows 0x03F 2).isNone) = true := by decide +kernel

theorem witness_reductions :
    let v (n : BitVec 4) : VRed := ⟨n, .s 5, 0x040, .i8, 1, plainM⟩
    ([.vrsum (v 1), .vdot (v 0) 0x0C0, .vrmax (v 1), .vrmin (v 0)] : List Instr).all (fun i =>
      meets i (vs .full) fun c => (reductionOf i).isSome && c.s.main 1 == 3) = true ∧
      (meets (.vrsum (v 2)) (vs .full) fun c => decide (256 < (c.s.main 2).toNat)) = true := by decide +kernel

theorem witness_moving_vector_words :
    let pop : State := rig (fun m => tworows m) id .v
    (meets (.vact ⟨0, 0x040, .fp32, 7, plainM⟩ 3) (vs .full) fun c => (c.vrows 0x0C0 1).isSome) = true ∧
      (meets (.vperm ⟨0, 0x040, 0x0C0, .i8, 7, plainM⟩) (vs .full) fun c => (c.vrows 0x0C0 8).isSome) = true ∧
      (meets (.vsprs ⟨0, 0x040, 0x0FF, .i8, 7, plainM⟩) (vs .full) fun c => (c.vrows 0x0FF 1).isSome) = true ∧
      (meets (.vmovsIns 0 15 (.s 1) .rn3) (vs .full) fun c => (c.vrows 0 1).isSome) = true ∧
      (meets (.vmovsExt (.s 5) 0 127 .i8 false false) (vs .full) fun c => (c.vrows 0 1).isSome) = true ∧
      (meets (.vpop 0x03F 0 5) pop fun c => decide (1 ≤ readyRows (c.mem.queue 5))) = true ∧
      (meets (.vpop 0 1 5) pop fun c => decide (readyRows (c.mem.queue 5) < 2)) = true := by decide +kernel

/-! ### Matrix words -/

/-- A live nest of set 1 with one K-step of INT8 operands from the B store and a queue. -/
def nest0 : Nest :=
  { cfg := { (loadMember .x 0).shadow with lev := [⟨1, true, 0, 0, 0, 0⟩] }, acc := 1, cont := false, out := false,
    stg := ⟨false, false, false, false⟩, msk := false, idx := [0, 0, 0, 0, 0, 0], committed := 0, spec := 0, held := [],
    rows := [], started := false, due := 0, fault := none }

theorem witness_matrix_words :
    let s (a v w z : Word) : State := at4 a v w z id .x
    (meets (.xnest 5 true (.reg (.s 1)) (.s 2) (.s 3) (.s 4)) (s 65535 1 2 0xFFFFFFFF80000000) fun c => (c.reg (.s 1)).toNat == 65535) = true ∧
      (meets (.xnest 0 true (.reg (.s 1)) (.s 2) (.s 3) (.s 4)) (s 65536 1 2 3) fun c => (c.reg (.s 1)).toNat == 65536) = true ∧
      (meets (.xnest 0 false (.hl 3) (.s 2) (.s 3) (.s 4)) (s 0 1 2 3) fun c => c.mem.hl[3] == 0) = true ∧
      (meets (.xopsA (.s 1)) (s (4 * 2 ^ 45 + 127 * 2 ^ 32) 0 0 0) fun c => wf (c.reg (.s 1)) 45 3 == 4) = true ∧
      (meets (.xopsA (.s 1)) (s (5 * 2 ^ 45) 0 0 0) fun c => wf (c.reg (.s 1)) 45 3 == 5) = true ∧
      (meets (.xopsB (.s 1)) (s (2 ^ 44 + 2 ^ 45) 0 0 0) fun c => (c.reg (.s 1)).getLsbD 44) = true ∧
      (meets (.xpost (.s 1)) (s (5 * 2 ^ 40) 0 0 0) fun c => wf (c.reg (.s 1)) 40 3 == 5) = true ∧
      (meets (.xspm (.s 1)) (s 0x10000 0 0 0) fun c => (c.reg (.s 1)).getLsbD 16) = true ∧
      ([.xnestClr, .xlrRd (.s 5) 15, .xlrWr 15 (.s 1), .xlrPos (.s 5)] : List Instr).all (fun i => meets i (s 1 0 0 0) fun _ => true) = true ∧
      (meets (.xmask (.s 1)) (at4 0x20000 0 0 0 (fun M => M.put 0x20000 [1]) .x) fun c =>
        match c.readSpan 0x20000 64 with
        | .bytes _ bs => maskOk (wordsOf 8 bs)
        | _ => false) = true ∧
      (meets (.xmask (.s 1)) (s 0x40000 0 0 0) fun c =>
        match c.readSpan 0x40000 64 with
        | .asking _ => true
        | _ => false) = true ∧
      (meets (.xmask (.s 1)) (s 0x20020 0 0 0) fun c => (c.reg (.s 1)).toNat % 64 != 0) = true := by decide +kernel

theorem witness_nests :
    let live (m : Member) : Member := { m with nest := some nest0 }
    let i (msk : Bool) : Instr := .xgo 1 false false ⟨false, false, false, false⟩ msk
    (meets (i false) (two .x) fun c => c.mem.nest.isNone && xgoOk c.mem 1 false false ⟨false, false, false, false⟩ false) = true ∧
      (meets (i true) (two .x) fun c => !xgoOk c.mem 1 false false ⟨false, false, false, false⟩ true) = true ∧
      (meets (i false) (rig live id .x) fun c => c.mem.nest.isSome) = true ∧
      (meets .xwait (two .x) fun c => c.mem.nest.isNone && !postPending c.M c.mem) = true ∧
      (meets .xwait (rig live id .x) fun c => c.mem.nest.isSome && c.accBusy [1]) = true := by decide +kernel

/-- Sets 0 exact, 1 scaled, 2 and 3 empty. -/
def sets (m : Member) : Member :=
  { m with acc := #v[⟨.exact, [[5]], [], false, none⟩, ⟨.scaled, [], [[0x3F800000]], true, none⟩, ⟨.empty, [], [], false, none⟩,
    ⟨.empty, [], [], false, none⟩] }

theorem witness_accumulator_words :
    let s (v : Word) : State := rig (fun m => sets (regs .x [(1, v)] m)) id .x
    let ok (i : Instr) (v : Word) (P : Ctx → Bool) : Bool := meets i (s v) fun c => !c.accBusy [0] && P c
    ok (.xaccClr 0) 0 (fun _ => true) = true ∧ ok (.xaccSt 0 (.s 1)) 240 (fun c => (c.mem.accSet 0).mode == .exact) = true ∧
      ok (.xaccSt 0 (.s 1)) 241 (fun c => decide (c.mem.tilesN < 241 + 16)) = true ∧
      ok (.xaccSt 1 (.s 1)) 248 (fun c => (c.mem.accSet 1).mode == .scaled) = true ∧
      ok (.xaccSt 2 (.s 1)) 0 (fun c => (c.mem.accSet 2).mode == .empty) = true ∧
      ok (.xaccLd 2 (.s 1) false false) 240 (fun _ => true) = true ∧
      ok (.xaccLd 2 (.s 1) true false) 0 (fun c => (c.tileCheck [0]).isSome) = true ∧
      ok (.xaccLdp 2 (.s 1) false false) 248 (fun _ => true) = true ∧ ok (.xaccAdd 2 0) 0 (fun _ => true) = true ∧
      ok (.xaccAdd 0 0) 0 (fun _ => true) = true ∧ ok (.xaccAdd 0 1) 0 (fun _ => true) = true ∧
      ok (.xaccAdd 1 1) 0 (fun _ => true) = true ∧ ok (.xaccAdd 0 3) 0 (fun _ => true) = true ∧
      ok (.xaccPost 2 ⟨false, false, false, false⟩) 0 (fun c => (c.mem.accSet 2).mode == .empty) = true ∧
      ok (.xaccPost 0 ⟨false, false, false, false⟩) 0 (fun c =>
        postOk c.mem c.mem.shadow.xp ⟨false, false, false, false⟩ .exact &&
          postRowsOk c.mem c.mem.shadow.xp ⟨false, false, false, false⟩ c.mem.shadow.mr c.mem.shadow.nc 0 0) = true := by
  decide +kernel

/-! ### Seal and embedding words -/

/-- A training table of four rows of sixteen FP32 elements with an accumulator, in chiplets 0 and 1 of a one-die partition. -/
def table0 : List Word :=
  [0x70000, 0x10000, 0x30000, 4,
    BitVec.ofNat 64 (15 + 6 * 2 ^ 16 + 7 * 2 ^ 24 + 4 * 2 ^ 28 + 5 * 2 ^ 32 + 5 * 2 ^ 48), 0x3F80000000000000 + 0x3F800000, 0, 0]

/-- A tensor of type 4, one dimension of eight elements at 0x20000, and the bytes of a record. -/
def recordBytes (r : List Word) : List Byte := r.flatMap fun w => leBytes 8 w.toNat

/-- The one-die partition, its table pages, and the record at 0x20000. -/
def oneDie (att : Bool) (r : List Word) (M : Mach) : Mach :=
  let cap (base pa : Nat) : TlbEntry := ⟨0, base, 16, .local pa true, true, true, false, 4, 0⟩
  { M.put 0x20000 (recordBytes r) with
    parts := [{ Part.fresh 0 1 77 with ctxs := [loadContext], attached := if att then [⟨table0, false⟩] else [] }]
    cores := [⟨0, cap 0x70000 0x10000000000 :: cap 0x80000 0x12000000000 :: tlb0, []⟩]
    dieTlb := [(0, cap 0x70000 0x10000000000 :: cap 0x80000 0x12000000000 :: tlb0)] }

/-- The words a read of 64 bytes gives. -/
def recordAt (c : Ctx) (p : Word) : List Word :=
  match c.readSpan p 64 with
  | .bytes _ bs => wordsOf 8 bs
  | _ => []

theorem witness_seal_words :
    let s (r : List Word) (st : Strm) : State := rig (regs st [(1, 0x20000), (2, 0)]) (oneDie false r) st
    let tensor : List Word := [0x20000, 0x41, 8, 0, 0, 0, 0, 0]
    let held (m : Member) : Member := holder (regs .x [(1, 0x20000), (2, 0), (3, 1)] m)
    (meets (.sealTensor (.s 9) 4 (.s 1)) (s tensor .x) fun c => (recordAt c 0x20000).length == 8) = true ∧
      (meets (.sealTable (.s 9) 4 (.s 1)) (s table0 .x) fun c =>
        (c.M.part 0).any fun p => sealTableCode c.M p c.mem.core c.mem.die (recordAt c 0x20000) == 0) = true ∧
      (meets (.sealTable (.s 9) 4 (.s 1)) (rig (regs .x [(1, 0x20000)]) (oneDie true table0) .x) fun c =>
        (c.M.part 0).any fun p => sealTableCode c.M p c.mem.core c.mem.die (recordAt c 0x20000) == 9) = true ∧
      (meets (.sealGrid (.s 9) 4 (.s 1)) (rig (regs .x [(1, 0x20000)]) (fun M => owners (M.put 0x20000 (recordBytes grid0))) .x)
        fun c => sealGridCode (recordAt c 0x20000) == 0 &&
          (match c.readOwners (recordAt c 0x20000) 2 0 c.M with
            | .entries N es => es.all entOk && es.all (entHere N c.mem)
            | _ => false)) = true ∧
      (meets (.sealTensor (.s 9) 2 (.s 1)) (rig held id .x) fun c => c.mem.handles[2].isSome) = true ∧
      (meets (.sealTensor (.s 9) 4 (.s 1)) (at4 0x60000 0 0 0 id .x) fun c =>
        match c.readSpan 0x60000 64 with
        | .fault f => f.code != 0x22 && f.code != 0x01
        | _ => false) = true ∧
      (meets (.unsealHandle 2) (rig held id .x) fun c => c.mem.handles[2].isSome && c.mem.joined.isEmpty) = true ∧
      (meets (.unsealHandle 2) (rig (fun m => joiner m) id .x) fun c => !c.mem.joined.isEmpty) = true ∧
      (meets (.unsealHandle 3) (rig held id .x) fun c => c.mem.handles[3].isNone) = true ∧
      (meets (.hmov (.s 9) 5 2) (rig held id .x) fun c => c.mem.handles[2].isSome && c.mem.handles[5].isNone) = true ∧
      (meets (.hmovMem (.s 9) 5 2 (.s 2)) (rig held id .x) fun c => (c.reg (.s 2)).toNat < c.mem.nmem) = true ∧
      (meets (.hmovMem (.s 9) 5 2 (.s 3)) (rig held id .x) fun c => c.mem.nmem ≤ (c.reg (.s 3)).toNat) = true := by
  decide +kernel

/-- The member holds the attached table in handle 3; s1 a list, s2 an argument block of one bag, s3 a tile address. -/
def embS (a v w : Word) (r : List Word) : State :=
  rig (fun m => { regs .a [(1, a), (2, v), (3, w)] m with handles := m.handles.set 3 (some ⟨.table, table0, 0x30000⟩) })
    (oneDie true r) .a

theorem witness_embedding_words :
    let block : List Word := [0x30000, 0, 0x30100, 1, 0, 0, 0, 0]
    let t3 (i : Instr) (a v w : Word) (P : Ctx → Bool) : Bool :=
      meets i (embS a v w block) fun c => (c.table 3).any (fun x => x.2 == table0) && P c
    t3 (.lookup .sum false (.s 9) 3 1 (.s 1) (.s 2) (.s 3)) 0x30000 0x20000 (3 * 2 ^ 16)
        (fun c => c.lookupTarget (3 * 2 ^ 16) && blockOk .sum (wordsOf 4 (recordBytes block))) = true ∧
      t3 (.lookup .wsum false (.s 9) 3 1 (.s 1) (.s 2) (.s 3)) 0x30000 0x20000 (3 * 2 ^ 16)
        (fun _ => !blockOk .wsum (wordsOf 4 (recordBytes block))) = true ∧
      t3 (.update true (.s 9) 3 1 (.s 1) (.s 2) (.s 3)) 0x30000 0x20000 65536 (fun c => tTrain table0 && decide (c.mem.ref.rank < tSources table0)) = true ∧
      t3 (.update true (.s 9) 3 1 (.s 1) (.s 2) (.s 3)) 0x30000 0x20000 65537 (fun _ => true) = true ∧
      ([.replayAcc (.s 9) 3 1 (.s 1) (.s 2), .replaySgd (.s 9) 3 1 (.s 1) (.s 2), .replayAdag (.s 9) 3 1 (.s 1) (.s 2)] : List Instr).all
        (fun i => t3 i 0 1 0 fun _ => tRegions table0 == 1 && tAdagrad table0) = true ∧
      t3 (.replayAcc (.s 9) 3 1 (.s 1) (.s 2)) 1 1 0 (fun _ => decide (tRegions table0 < 2)) = true ∧
      t3 (.skctlEst (.s 9) 3 (.s 1)) 3 0 0 (fun _ => tRows table0 == 4) = true ∧
      t3 (.skctlEst (.s 9) 3 (.s 1)) 4 0 0 (fun _ => tRows table0 == 4) = true ∧
      t3 (.hrctlFlush (.s 9) 3 1) 0 0 0 (fun _ => true) = true ∧ t3 (.hrctlDetach (.s 9) 3 1) 0 0 0 (fun _ => true) = true ∧
      (meets (.hrctlFlush (.s 9) 4 1) (embS 0 0 0 block) fun c => (c.table 4).isNone) = true ∧
      (meets (.skctlWr 15 (.s 1)) (embS 0xA0001 0 0 block) fun c => skcfgOk 0xA0001 && (c.M.part 0).isSome) = true ∧
      (meets (.skctlRd (.s 9) 15) (embS 0 0 0 block) fun _ => true) = true := by decide +kernel

/-- An exchange record at 0x20000 with its argument block at 0x20040. -/
theorem witness_exchanges :
    let r : List Word := [0x30000, 0x20040, 0x30000, 0x30000, 0x30000, 0, BitVec.ofNat 64 (2 ^ 16), 0]
    let s : State := embS 0x20000 0 (3 * 2 ^ 16) (r ++ [0x30000, 0, 0x30100, 1, 0, 0, 0, 0])
    (meets (.a2a .sum false (.s 9) 1 (.s 1) (.s 3)) s fun c =>
        c.lookupTarget (3 * 2 ^ 16) && exchangeOk (recordAt c 0x20000) && blockOk .sum ((recordAt c 0x20040).take 4)) = true ∧
      (meets (.a2a .sum false (.s 9) 1 (.s 1) (.s 3)) (embS 0x40000 0 (3 * 2 ^ 16) r) fun c =>
        match c.readSpan 0x40000 64 with
        | .asking _ => true
        | _ => false) = true := by decide +kernel

/-! ### Events of cores, tiles, queue objects -/

/-- A landing slot that waits for nothing but its landing. -/
def arrived (due : Option Nat) : LSlot := ⟨.pending, 0x1234, .c, .s 9, due, .b8, false, 0, 0x10000, 0⟩

/-- An untimed word of stream C that needs `a`. -/
def waiting (a : Answer) : Untimed :=
  { iss := 0, born := 0, last := 0, pc := 0x10000, raw := 0, lpc0 := 0, lpc1 := 0, writes := [(.s 9, 5)], needs := a, job := .nothing,
    acquire := some .pkg, slot := some 31, pva := 0, akind := 0, raddr := 0 }

theorem witness_landings_deliver :
    let with_ (a : Answer) (xs : List Imprecise) : Member :=
      ((loadMember .c 0).updStr .c fun q => { q with untimed := some (waiting a), imprecise := xs }).setSlot 31 (arrived none)
    let ok (m : Member) (P : Mach → Bool) : Bool :=
      let M := rigM (fun _ => m) id .c
      M.member r0 == some m && m.mayLand .c && P M
    (arrived (some 3)).state = .pending ∧ (arrived (some 3)).req = 0 ∧ (arrived none).due = none ∧
      ok (with_ .slot []) (fun _ => true) = true ∧ ok (with_ .ready []) (fun _ => true) = true ∧
      ok (with_ (.refused ⟨0x20, true, 0, 0, [], false⟩) []) (fun _ => true) = true ∧
      ok (with_ .acknowledged []) (fun M => !outstanding M r0 .c) = true ∧
      ok (with_ .acknowledged [⟨0x07, 0x40000, 0, .c, none, none, 1, true, 7, 0, 0, 1⟩]) (fun M => !outstanding M r0 .c) = true := by
  decide +kernel

/-- Owner 0's write of milestone `ms` to owner 1. -/
def verge (ms : Nat) (started spilled : Bool) : Verge :=
  ⟨⟨r0, 2, 0, 1, ms⟩, grid0, [(12, List.replicate 64 7)], spilled, false, started, [(12, 0), (14, 1)], .c, 1⟩

/-- Owner 0's report of milestone `ms` to the source of its region 12. -/
def report (ms : Nat) : Report := ⟨⟨r0, 2, 0, 1, ms⟩, 12, grid0, .c, 1⟩

/-- Answers that are in and not in: SCADD's rows, an HPUB whose cells have left its block, a leave whose writes are over. -/
theorem witness_answers :
    let row (code : Option Nat) : Fetch := ⟨r0, rowTag .c, ⟨1, 2⟩, 1, 0x40000, 64, code, [], none⟩
    let with_ (a : Answer) (vs : List Verge) (rs : List Report) : Member :=
      { (loadMember .c 0).updStr .c fun q => { q with untimed := some (waiting a) } with verges := vs, reports := rs }
    let ready (m : Member) (fs : List Fetch) (a : Answer) : Bool :=
      untimedReady (rigM (fun _ => m) (fun M => { M with fetched := fs }) .c) m .c (waiting a)
    let pub : Answer := .published grid0 0 1 4096
    let away : Answer := .vergeWrites grid0 0
    ready (with_ .rows [] []) [row (some 0)] .rows = true ∧ ready (with_ .rows [] []) [row none] .rows = false ∧
      ready (with_ pub [verge 1 false true, verge 1 true false] []) [] pub = true ∧
      ready (with_ pub [verge 1 false false] []) [] pub = false ∧
      ready (with_ away [] []) [] away = true ∧ ready (with_ away [verge 1 true true] []) [] away = false ∧
      ready (with_ away [] [report 1]) [] away = false ∧ (with_ away [] []).mayLand .c = true := by decide +kernel

/-- An ACQ at another device, its request there and not yet sent; past its limit. -/
theorem witness_far_waits :
    let o : Origin := .request r0 .c 4
    let m : Member := (loadMember .c 0).updStr .c fun q => { q with untimed := some (waiting (.acq 4 100 none)) }
    let M (asked : Bool) : Mach :=
      rigM (fun _ => m) (fun M => { M with wclk := 500, conns := [⟨⟨0, ⟨1, 2⟩, 1⟩, .open, 2, 1, 1, [], [], [], if asked then [(3, o)] else [], [], [], [], 0⟩] }) .c
    let seq (M : Mach) := M.conns.findSome? fun c => (c.asked.find? fun x => x.2 == o).map fun x => (c.ref, x.1)
    m.untimeds .c = [waiting (.acq 4 100 none)] ∧ (m.str .c).wait = none ∧ (waiting (.acq 4 100 none)).needs = .acq 4 100 none ∧
      seq (M true) = some (⟨0, ⟨1, 2⟩, 1⟩, 3) ∧ seq (M false) = none ∧ m.mayLand .c = true ∧ 0 + 100 ≤ m.now (M true) := by
  decide +kernel

/-- Stream C in a named wait that began in cycle 0. -/
def inWait (kind : WaitKind) (cond : WaitCond) (m : Member) : Member :=
  m.updStr .c fun q => { q with wait := some ⟨kind, cond, 0, 0, 0, 100, none, none⟩ }

theorem witness_core_events :
    let M := rigM id id .c
    let walk_ (l : List (Nat × Word)) : Walk := ⟨0, 0, 0x20000, l, .found (page 0x20000 0x20000)⟩
    let late : Mach := rigM (inWait .acq (.versionGe 0 0x20000 9)) (fun M => { M with wclk := 500 }) .c
    (xspan M (some 0) 0 0 .fetch 0x10000 8).isOk = true ∧
      (rigM (fun m => { m with freeze := .vector, vbusy := 0 }) id .v).member r0
        = some { loadMember .v 0 with freeze := .vector, vbusy := 0 } ∧
      ([walk_ [(0, 0x20000)]].find? fun x => x.part == 0 && x.die == 0 && x.block == 0x20000) = some (walk_ [(0, 0x20000)]) ∧
      (walk_ []).joined = [] ∧ (tlbFill { M with walks := [] } (some 0) 0 (page 0x20000 0x20000)).occupant 0 = some (loadMember .c 0) ∧
      (match paKind 0x20000 with
        | .sram _ _ => false
        | _ => !fenced M 0x20000 && windowOk M 0x20000) = true ∧
      ((xlate { M with walks := [] } (some 0) 0 0 .read 0x20000).toOption.any fun e => e.target 0x20000 == .local 0x20000) = true ∧
      ((late.member r0).any fun m => (m.str .c).wait.any fun w =>
        w.kind == .acq && w.watched && w.granted.isNone && m.freeze == .none && decide (w.since + w.limit ≤ m.now late)) = true := by
  decide +kernel

theorem witness_wakes :
    let m : Member := tworows (tagged .full { loadMember .c 0 with mbs := (loadMember .c 0).mbs.set 7 (9, true) })
    let M := (rigM id id .c).setWord 0x20000 7
    m.tagsSettled [3] = true ∧ (m.tile 4).tag = .empty ∧ m.mbs[0].2 = false ∧ m.mbs[7].2 = true ∧
      m.queues[5].length + 30 ≤ 32 ∧ 1 ≤ readyRows m.queues[5] ∧ readyRows m.queues[5] ≤ 1 ∧ 7 ≤ (M.word 0x20000).toNat ∧
      (M.word 0x20008).getLsbD 63 = false ∧ objWellFormed ((M.setWord 0x20008 2).word 0x20008).toNat = false ∧
      ({ M with poison := [0x20000 / 64] } : Mach).poisoned 0x20000 16 = true ∧ (M.part 0).map (·.defver) = some 0 ∧
      ((rigM (inWait .tag (.tagsFull [3])) id .c).member r0).any (fun m => (m.str .c).wait.isSome) = true := by decide +kernel

/-- A barrier of the core with both streams there; one of a barrier group with a context on another device. -/
theorem witness_episodes :
    let M := rigM id id .c
    let key := barKey M (loadMember .c 0) .core
    let b : Bar := ⟨.core, key, 5, [(r0, .c), (r0, .v)], []⟩
    let pod : Mach := { M with
      bgroups := [⟨9, 2, [(0, 0)], 0⟩], parts := [{ p0 with ctxs := [{ loadContext with bgrp := 9 }] }], bars := [⟨.pod, [9], 0, [(r0, .c)], []⟩] }
    barFind { M with bars := [b] } .core key = some b ∧ barComplete { M with bars := [b] } b = true ∧
      barKey pod (loadMember .c 0) .pod = [9] ∧ podComplete pod ⟨.pod, [9], 0, [(r0, .c)], []⟩ = true := by decide +kernel

/-- An arrival at tile `t` of the member, from epoch `e` of rank 1's region. -/
def arrivalAt (t e : Nat) : Arrival :=
  { dst := r0, tile := t, sector := 127, kind := .plain, poison := false, scope := .pkg, mask := BitVec.allOnes 64,
    data := List.replicate 64 7, region := some (1, e), sender := ⟨⟨0, 0, 1⟩, .a, none, true, 0, none, none, 0⟩ }

/-- Rank 1 of the context, whose region of epoch 4 is open. -/
def sender1 : Member :=
  { Member.fresh ⟨0, 0, 1⟩ 1 2 0 [] (.core 1) 0 with region := some ⟨0, [0, 0, 0, 0], [0, 0, 0, 0], [], 4, [], [], 0⟩, epoch := 4 }

theorem witness_arrivals :
    let m (t : Tag) (n : Nat) (f : Nat) : Member :=
      { tagged t (loadMember .c 0) with arrq := List.replicate n (arrivalAt 3 4), floors := [(1, f)] }
    let held : Member := { m .filling 0 0 with journal := [⟨3, 2, 9, 1, false, 1⟩] }
    let M := rigM id (fun M => { M with members := M.members ++ [sender1] }) .c
    M.member ⟨0, 0, 7⟩ = none ∧ (m .empty 0 0).tilesN ≤ 256 ∧ (m .empty 0 5).stale (arrivalAt 3 4) = true ∧
      (m .empty 0 4).stale (arrivalAt 3 4) = false ∧ ((m .full 63 0).tile 3).tag = .full ∧ (m .full 63 0).arrq.length < 64 ∧
      64 ≤ (m .full 64 0).arrq.length ∧ journalBusy M held (arrivalAt 3 4) = true ∧
      journalBusy M (m .filling 0 0) (arrivalAt 3 4) = false ∧ ((m .poisoned 0 0).tile 3).tag = .poisoned := by decide +kernel

theorem witness_rollback :
    let m : Member := { tagged .filling (loadMember .c 0) with journal := [⟨3, 1, 4, 1, false, 1⟩, ⟨4, 1, 5, 1, false, 1⟩] }
    let j : Journal := ⟨3, 1, 4, 1, false, 1⟩
    (rigM (fun _ => m) id .c).member r0 = some m ∧ (m.journal.filter fun j => j.rank == 1 && j.epoch == 4) = [j] ∧
      (m.tile j.tile).tag ≠ .poisoned := by decide +kernel

/-- An operation of the member's stream A on the object at 0x20000. -/
def qop (id : Nat) (f : QForm) (rt : List Nat) : QOp :=
  ⟨id, f, 0, 0x20000, 0, ⟨.pkg, 0, .bag⟩, .stream r0 .a, 400, 100, rt⟩

/-- The object with a retry window of `waits` times 1,024 cycles. -/
def popObject (disc n waits : Nat) (M : Mach) : Mach :=
  (queueObject disc n M).put 0x20000 (leBytes 8 (disc + 4 * 2 ^ 8 + 4 * 2 ^ 24 + waits * 2 ^ 32 + 2 ^ 63))

theorem witness_queue_homes :
    let t : List TlbEntry := tlb0
    let M (g : Mach → Mach) : Mach := rigM id (fun M => g { M with dieTlb := [(0, t)] }) .a
    let serves (g : Mach → Mach) (op : QOp) (k : AKind) : Bool :=
      match homeSpan (M g) 0 k op.pva 64 with
      | .ok pa =>
        let d := wordsOf 8 ((M g).get pa 64)
        !(M g).poisoned pa 64 && descFrame pa && opMatches op (recW d 0) && bitOf (recW d 0) 63
      | .error _ => false
    let entry (g : Mach → Mach) (n : Nat) : Bool := (entryAt (M g) (qop 1 .popN []) 0x30000 n).isOk
    serves (popObject 0 3 0) (qop 1 (.push 5) []) .queuePush = true ∧ serves (popObject 0 0 2) (qop 1 .popW []) .queuePop = true ∧
      (homeSpan (M id) 0 .queuePop 0x60000 64).isOk = false ∧ entry (popObject 0 16 0) 15 = true ∧
      descFrame 0x10000000000 = false ∧ opMatches { qop 1 .popN [] with args := ⟨.pkg, 0, .stack⟩ } (2 ^ 63 + 4 * 2 ^ 8) = false ∧
      parkedOn { M id with parked := [⟨qop 2 .popW [], 0, 2048⟩] } 0 0x20000 = [⟨qop 2 .popW [], 0, 2048⟩] := by decide +kernel

theorem witness_junctions :
    let M := rigM id id .a
    let h : Held := ⟨qop 1 .popW [0, 100], 0, 0, 100⟩
    let N : Mach := { M with held := [h], parked := [⟨qop 3 .popW [], 0, 0⟩] }
    (N.held.find? fun y => y.op.id == 1) = some h ∧ heldMatch N (qop 2 (.push 5) [0, 100]) 0 = some h ∧
      heldMatch N (qop 2 .popN [0, 100]) 0 = none ∧ min 100 (400 / 4) ≠ 0 ∧ heldCount N (qop 2 .popN [0, 100]) 0 < holdSlots 0 ∧
      (N.held.find? fun y => y.op == h.op && pairs y.op (qop 2 (.push 5) [0])) = some h ∧
      (N.parked.find? fun y => y.op.id == 3) = some ⟨qop 3 .popW [], 0, 0⟩ ∧ 0 ≤ N.wclk := by decide +kernel

/-! ### Verges, hot rows, stacks -/

theorem witness_verges :
    let m (v : Verge) (j : List Joined) : Member :=
      { holder (loadMember .c 0) with verges := [v], joined := j, reports := [report 1, report 2] }
    let M (m : Member) : Mach := rigM (fun _ => m) (fun M => { owners M with dieTlb := [(0, tlb0)] }) .c
    let entries (m : Member) (P : Mach → List Word → Nat → Bool) : Bool :=
      match readEntry (M m) m vergeTag none grid0 0 with
      | .entry N mine =>
        match readEntry N m vergeTag none grid0 1, statePa N m .engineRead mine with
        | .entry N e, .ok pa => P N e pa
        | _, _ => false
      | _ => false
    let one := m (verge 0 false false) [⟨grid0, 0x31000, 1⟩]
    let two := m (verge 2 false false) []
    let may (v : Verge) (N : Mach) (pa : Nat) : Bool :=
      v.regions.all fun p =>
        let n := msRank (N.word32 (pa + 0x600 + 4 * (26 - p.1)))
        n ≠ 0 && decide (v.ref.ms - gDepth v.grid ≤ n - 1)
    let published (N : Mach) (pa : Nat) : Mach := N.put (pa + 0x600 + 4 * 12) (leBytes 4 1 ++ leBytes 4 1 ++ leBytes 4 1)
    (M one).member r0 = some one ∧ gDepth grid0 = 1 ∧
      entries one (fun N e pa => mayStart N (verge 0 false false) grid0 pa && entJoined N e grid0 1) = true ∧
      entries (m (verge 0 false false) []) (fun N e pa => mayStart N (verge 0 false false) grid0 pa && !entJoined N e grid0 1) = true ∧
      entries two (fun N _ pa => !may (verge 2 false false) N pa && may (verge 2 false false) (published N pa) pa) = true ∧
      (verge 2 false false).regions ≠ [] ∧ spillBusy two (verge 2 false false) = false ∧
      spillBusy { two with verges := [verge 1 false true, verge 2 false false] } (verge 2 false false) = true ∧
      ([verge 0 true false].find? fun y => y.ref == (verge 0 true false).ref && y.started) = some (verge 0 true false) ∧
      entries one (fun N e _ =>
        (ownerWrite N one (.store r0 .c (w64 (entSbase e)) 1) e (entSbase e + 0x600 + 4 * 12) (leBytes 4 0)).isOk) = true := by
  decide +kernel

/-- The reports of one word go in the order of their publications; one to an owner not joined waits, one whose word
cannot be written is refused; a verge write whose own state block is on a far page is dropped. -/
theorem witness_reports :
    let m (j : List Joined) : Member := { holder (loadMember .c 0) with joined := j, reports := [report 1, report 2] }
    let far (k : Nat) (M : Mach) : Mach :=
      M.put (0x30000 + 32 * k) (leBytes 8 0 ++ leBytes 8 0x40000 ++ leBytes 8 0x40000 ++ leBytes 8 0x40000)
    let M (m : Member) (g : Mach → Mach) : Mach := rigM (fun _ => m) (fun M => g (owners M)) .c
    let entry (m : Member) (g : Mach → Mach) (o : Nat) (P : Mach → List Word → Bool) : Bool :=
      match readEntry (M m g) m vergeTag none grid0 o with
      | .entry N e => P N e
      | _ => false
    let both := m [⟨grid0, 0x31000, 0⟩, ⟨grid0, 0x31000, 1⟩]
    let sent (N : Mach) (e : List Word) : Bool :=
      (ownerWrite N both (.store r0 .c (w64 (entSbase e + 0x638)) 1) e (w64 (entSbase e + 0x638)).toNat (leBytes 4 1)).isOk
    both.reports.find? (report 1).alike = some (report 1) ∧ both.reports.find? (report 2).alike ≠ some (report 2) ∧
      (both.reports.find? fun y => y.ref == (report 2).ref && y.region == 12) = some (report 2) ∧
      entry both id 1 (fun N e => entJoined N e grid0 1 && sent N e) = true ∧
      entry (m []) id 1 (fun N e => !entJoined N e grid0 1) = true ∧
      entry both (far 1) 1 (fun N e => entJoined N e grid0 1 && !sent N e) = true ∧
      entry both (far 0) 0 (fun N e => !(statePa N both .engineRead e).isOk) = true := by
  decide +kernel

theorem witness_halo_waits :
    let M := (rigM id (fun M => owners M) .v)
    let ws : List (Nat × Nat) := [(0x20000 + 0x100 + 4 * (27 * 1 + 12), 12)]
    (msVerdict (milestone 3 M) ws 3).1 = .accept ∧ (msVerdict (milestone 0xFFFFFFFF M) ws 3) = (.stall, 12) ∧
      (∀ x ∈ [(0x20600, 1)], 1 ≤ msRank ((M.put 0x20600 (leBytes 4 0)).word32 x.1)) ∧
      (([(0x20600, 1)] : List (Nat × Nat)).find? fun y => msRank ((M.put 0x20600 [255, 255, 255, 255]).word32 y.1) < 1) =
        some (0x20600, 1) ∧
      (let m := { holder (loadMember .v 0) with verges := [verge 1 false false, verge 1 false true] }
       (m.unread grid0 0 1).head? = some (verge 1 false false) ∧ m.mayLand .v = true ∧ (m.str .v).wait = none ∧
         (m.unread grid0 0 2) = []) := by
  decide +kernel

/-- A way of chiplet 0 that holds row 2 of the attached table. -/
def way (st : DirState) (next : Option Nat) : DirEntry := ⟨0, 15, rowKey table0 2, st, next⟩

/-- The one-die partition with the hot-row cache enabled. -/
def cached (st : DirState) (next : Option Nat) (M : Mach) : Mach :=
  let M := oneDie true [] M
  { M with
    parts := M.parts.map fun p => { p with hrcfg := 0x00200004000000A1 }
    chiplets := M.chiplets.map fun c => if c.num = 0 then { c with dir := [way st next] } else c }

theorem witness_hot_rows :
    let M (st : DirState) (next : Option Nat) : Mach := rigM id (cached st next) .a
    let found (st : DirState) (next : Option Nat) (P : Mach → Part → List Word → Nat → Bool) : Bool :=
      match (M st next).part 0 with
      | none => false
      | some p =>
        (((M st next).chip 0).way 0 15 == some (way st next)) && p.owns 0 &&
          match keyRow p (way st next).key with
          | some (t, row) => P (M st next) p t row
          | none => false
    found .filling none (fun M p t row => (readRow (M.updChip 0 fun c => c.setWay 0 15 none) 0 p t row).isOk) = true ∧
      found .draining none (fun M p t row =>
        (msSpan M 0 p .engineWrite (rowDense t / 0x10000 + 2) (rowPva p t row) (rowDense t)).isOk) = true ∧
      found .draining (some 3) (fun _ _ t row => t == table0 && row == 2) = true := by decide +kernel

/-- Fills and write-backs of clean and of poisoned blocks, and with no translation; a group of either kind to decay. -/
theorem witness_hot_row_errors :
    let M (st : DirState) (g : Mach → Mach) : Mach := rigM id (fun M => g (cached st none M)) .a
    let lost (M : Mach) : Mach := { M with dieTlb := [] }
    let bad (pa : Nat) (M : Mach) : Mach := { M with poison := [pa / 64] }
    let fill (g : Mach → Mach) (P : Except XFault (Mach × List (Nat × Nat)) → Bool) : Bool :=
      let C := (M .filling g).updChip 0 fun c => c.setWay 0 15 none
      ((M .filling g).part 0).any fun p => P (rowPieces C p.id p table0 .engineRead 2)
    let drain (g : Mach → Mach) (P : Nat → Except XFault (Mach × List (Nat × Nat)) → Bool) : Bool :=
      ((M .draining g).part 0).any fun p =>
        P (slotPa p.hrcfg 0 0 15)
          (msSpan (M .draining g) p.id p .engineWrite (rowDense table0 / 0x10000 + 2) (rowPva p table0 2) (rowDense table0))
    let fetched (want : Bool) (r : Except XFault (Mach × List (Nat × Nat))) : Bool :=
      match r with
      | .ok (M, ps) => (homePoison M ps).isSome == want
      | .error _ => false
    let home : Nat :=
      match ((M .filling id).part 0).map fun p =>
          rowPieces ((M .filling id).updChip 0 fun c => c.setWay 0 15 none) p.id p table0 .engineRead 2 with
      | some (.ok (_, (pa, _) :: _)) => pa
      | _ => 0
    fill id (fetched false) = true ∧ fill (bad home) (fetched true) = true ∧ fill lost (fun r => !r.isOk) = true ∧
      drain id (fun slot r => match r with
        | .ok (M, _) => (homePoison M [(slot, rowDense table0)]).isNone
        | .error _ => false) = true ∧
      drain (bad (((M .draining id).part 0).elim 0 fun p => slotPa p.hrcfg 0 0 15)) (fun slot r => match r with
        | .ok (M, _) => (homePoison M [(slot, rowDense table0)]).isSome
        | .error _ => false) = true ∧
      drain lost (fun _ r => !r.isOk) = true ∧
      ((M .clean id).part 0).any (fun p => p.owns 0 && (p.attached.find? fun a => tId a.table = tId table0).isSome) = true := by
  decide +kernel

theorem witness_stacks :
    let M := rigM id (fun M => oneDie false [] M) .a
    let R : Mach := rigM (fun m => { m with cmds := [cmdOf 1 (.replay .acc table0 0 1)] }) (cached .clean none) .a
    let credit (n : Int) : Refresh := { ({ (R.stack 0) with refresh := [] }).refreshAt 3 0 with credit := n }
    (M.stack 15).switching = none ∧ (M.stack 15).compute = false ∧
      ((M.updStack 15 fun x => { x with switching := some true }).stack 15).switching = some true ∧
      stackNeeded R 0 = true ∧ stackNeeded R 1 = false ∧ stackNeeded M 0 = false ∧ (R.stack 0).compute = false ∧
      ((M.updStack 3 fun x => { x with compute := true }).stack 3).compute = true ∧
      ((R.updStack 0 fun x => { x with switching := some true, waiting := [(r0, 7)] }).stack 0).switching ≠ none ∧
      (credit 0).pc = 3 ∧ (∃ x ∈ M.hbm, x.num = 15 ∧ x.switching = none) ∧ anyMember M 0 = some r0 ∧ anyMember M 1 = none ∧
      anyMember (rigM (fun m => { m with place := .image }) id .a) 0 = some r0 ∧
      (R.part 0).any (fun p => match rowPieces R p.id p table0 .engineRead 2 with
        | .ok (_, ps) => ps.all fun q => decide (0 < q.2)
        | .error _ => false) = true ∧
      (partOfDie M 0).isSome = true ∧ M.member r0 = some (loadMember .a 0) ∧ tilePa M (loadMember .a 0) 511 0 = some (0x040000000000 + 511 * 8192) := by
  decide +kernel

/-! ### Commands at work -/

/-- A member with command 1 of counter 1 at work. -/
def busy (run : CmdRun) (m : Member) : Member := { m with cmds := [cmdOf 1 run] }

/-- What `LiveCmd` says of it. -/
def live (run : CmdRun) (g : Mach → Mach) : Bool :=
  let M := rigM (busy run) g .a
  (M.member r0).isSome && M.cmd ⟨r0, 1, 1⟩ == some (cmdOf 1 run) && (M.part 0).isSome

/-- A lookup of two bags of the attached table: offsets at 0x20000, positions at 0x20100. -/
def lookup2 (mode : Pool) : LookupRun :=
  { mode := mode, nf := false, list := 0x20100, nbag := 2, stat := 0x30000, wgt := 0x20200, off := 0x20000, part := 0, ctx := 0,
    member := 0, sect := 0, table := table0, bags := [], ended := [] }

/-- Offsets `a`, `b` and a list of the rows 0 to 3. -/
def bagMemory (a b : Nat) (M : Mach) : Mach :=
  ((oneDie true [] M).put 0x20000 (leBytes 4 a ++ leBytes 4 b)).put 0x20100 ((List.range 4).flatMap fun i => leBytes 8 i)

/-- What a read of an engine gives. -/
def bytesRead (r : ReadEnd) : Option (List Byte) :=
  match r with
  | .bytes _ bs => some bs
  | _ => none

theorem witness_bags :
    let at_ (a b : Nat) (k : LookupRun) (P : Mach → Member → Bool) : Bool :=
      let M := rigM (busy (.lookup k)) (bagMemory a b) .a
      live (.lookup k) (bagMemory a b) && (M.member r0).any fun m =>
        bytesRead (readAny M m (⟨r0, 1, 1⟩ : CmdRef).tag none .engineRead 0x20000 8) == some (leBytes 4 a ++ leBytes 4 b) && P M m
    at_ 2 1 (lookup2 .sum) (fun _ _ => true) = true ∧
      at_ 0 2 (lookup2 .wsum) (fun M m =>
        (bytesRead (readAny M m (⟨r0, 1, 1⟩ : CmdRef).tag none .engineRead 0x20100 16)).isSome &&
          (bytesRead (readAny M m (⟨r0, 1, 1⟩ : CmdRef).tag none .engineRead 0x20200 8)).isSome &&
          (M.part 0).any fun p => (poolAll M m.die p table0 .wsum [(0, 0x3F800000), (1, 0)]).fault.isNone) = true ∧
      at_ 0 0 (lookup2 .sum) (fun _ _ => true) = true ∧
      at_ 0 1 (lookup2 .sum) (fun M m => (M.part 0).any fun p =>
        (poolAll { M with dieTlb := [] } m.die p table0 .sum [(0, 0)]).fault.isSome) = true := by decide +kernel

theorem witness_updates :
    let run : CmdRun := .update false 0x20100 0x20400 2 table0 0
    let c := cmdOf 1 run
    let at_ (g : Mach → Mach) (P : Mach → Member → Part → Bool) : Bool :=
      let M := rigM (busy run) (fun M => g (bagMemory 0 0 M)) .a
      live run (fun M => g (bagMemory 0 0 M)) && (M.member r0).any fun m => (M.part 0).any fun p => P M m p
    let next (r : PairEnd) : Bool :=
      match r with
      | .next _ => true
      | .fault _ _ => false
    at_ id (fun M m p => next (appendPair M m c p false table0 0 2 (zeros 64))) = true ∧
      at_ id (fun M m p => next (appendPair M m c p false table0 1 4 (zeros 64))) = true ∧
      at_ id (fun M m p => !next (appendPair { M with dieTlb := [] } m c p false table0 0 2 (zeros 64))) = true ∧
      at_ id (fun M m _ => (bytesRead (readAny M m (⟨r0, 1, 1⟩ : CmdRef).tag none .engineRead 0x20400 64)).isSome) = true := by
  decide +kernel

theorem witness_replays :
    let run : CmdRun := .replay .acc table0 0 1
    let M (st : DirState) : Mach := rigM (busy run) (cached st none) .a
    live run (cached .clean none) = true ∧
      ((M .clean).part 0).any (fun p => regionStacks (M .clean) p table0 0 == [0]) = true ∧
      ((M .clean).stack 0).compute = false ∧
      ((M .filling).part 0).any (fun p => regionStacks (M .filling) p table0 0 == [] &&
        (match coalesce (M .filling) 0 p table0 0 with
          | .ok (L, tails, sums, _) =>
            (match regionRows 0 p table0 .acc sums L with
              | .ok (R, _) => (putHeads R 0 p table0 0 tails).isOk
              | .error _ => false) &&
            !(putHeads { L with dieTlb := [] } 0 p table0 0 tails).isOk
          | .error _ => false) &&
        !(coalesce { M .filling with dieTlb := [] } 0 p table0 0).isOk) = true ∧
      (let N (b : Bool) (w : Option Bool) := (M .clean).updStack 0 fun x => { x with compute := b, switching := w }
       ((N true none).part 0).any (fun p => regionStacks (N true none) p table0 0 == [0]) = true ∧
         ((N true none).stack 0).compute = true ∧ ((N true none).stack 0).switching = none ∧
         ((N false (some true)).stack 0).switching = some true) := by decide +kernel

/-- The exported table, a bucket for it, and the exchange it belongs to. -/
def exported : List Word := table0.set 4 (table0.getD 4 0 ||| 2 ^ 24)

def bucket0 (key tid : Nat) : Bucket :=
  ⟨⟨r0, 1, 1⟩, 0, ⟨0, 0⟩, 0, key, 0, tid, 16, .sum, [(1, 0, 0), (2, 0, 0)], none⟩

def exchange0 (ps : Option (List Partial)) : ExchangeRun :=
  { run := { lookup2 .sum with nbag := 1 }, dim := 16, record := [], formed := true, unsent := [], kinds := [0], shards := [(0, ps)] }

theorem witness_buckets :
    let M : Mach := rigM id (fun M =>
      { oneDie true [] M with parts := (oneDie true [] M).parts.map fun p => { p with attached := [⟨exported, false⟩] } }) .a
    let here (b : Bucket) (a : Attached) : Bool := tId a.table = b.tid && tExported a.table && tDim a.table = b.dim
    M.part 1 = none ∧ keyOk M 0 76 = false ∧ (bucket0 77 5).src = M.self ∧
      ((M.part 0).bind fun p => p.attached.find? (here (bucket0 77 5))) = some ⟨exported, false⟩ ∧
      ((M.part 0).bind fun p => p.attached.find? (here (bucket0 77 6))) = none ∧
      (M.part 0).any (fun p => (bucketPartials M p exported (bucket0 77 5) (bucketBags (bucket0 77 5))).2.isOk) = true ∧
      (M.part 0).any (fun p => !(bucketPartials { M with dieTlb := [] } p exported (bucket0 77 5) (bucketBags (bucket0 77 5))).2.isOk) = true ∧
      live (.exchange (exchange0 none)) id = true ∧ (exchange0 none).run.bags = [] ∧
      (∀ y ∈ (exchange0 (some [])).shards, y.2 ≠ none) := by decide +kernel

theorem witness_sequences :
    let k (e : Option Nat) (dst : Word) (tile : Bool) : CopyRun := copyRun e dst tile
    let M (run : CopyRun) (g : Mach → Mach) : Mach := rigM (busy (.copy run)) (fun M => g { M with dieTlb := [(0, tlb0)] }) .a
    let elem (run : CopyRun) (p : Nat) (P : ElemEnd → Bool) : Bool :=
      ((M run id).member r0).any fun m =>
        decide (p < run.cfg.total) && P (copyElem (M run id) m { cmdOf 1 (.copy run) with pos := p } run p)
    (loadMember .a 0).engines = true ∧ live (.copy (k none 0x30000 false)) id = true ∧
      (engineFree (M (k none 0x30000 false) id) 0).isSome = true ∧
      elem (k (some 0) 0x30000 false) 0 (fun r => match r with
        | .next _ => true
        | _ => false) = true ∧
      elem (k (some 0) 0x60000 false) 0 (fun r => match r with
        | .stop _ => true
        | _ => false) = true ∧
      elem { k (some 0) 0x30000 false with cfg := { (k (some 0) 0x30000 false).cfg with srcBase := 0x40000 } } 0 (fun r => match r with
        | .asking _ => true
        | _ => false) = true ∧
      elem { k (some 0) 0x30000 false with cfg := (((k (some 0) 0x30000 false).cfg).setLevel 0 fun _ => ⟨4, ⟨8, 0x7FFFFFFF, 1⟩, ⟨8, 0, 4⟩⟩) } 1
        (fun r => match r with
          | .ovf _ => true
          | _ => false) = true := by decide +kernel

/-- A nest under a mask that keeps no iteration of level `l`. -/
def rejected (l : Nat) : Nest :=
  { nest0 with msk := true, cfg := { nest0.cfg with mask := some [BitVec.ofNat 64 (l + 5 * 8), 100 * 2 ^ 32, 0, 0, 0, 0, 0, 0] } }

theorem witness_kSteps :
    let m (n : Nest) : Member := { loadMember .x 0 with nest := some n }
    (rigM (fun _ => m nest0) id .x).member r0 = some (m nest0) ∧ (m nest0).core.isSome = true ∧
      nestHeld (rigM (fun _ => m nest0) id .x) (m nest0) nest0 = false ∧
      (nest0.seekChain nest0.idx).isSome = true ∧ (nest0.seekStep nest0.idx).isSome = true ∧ nest0.fault = none ∧
      nestHeld (rigM (fun _ => m nest0) id .x) { m nest0 with freeze := .escalated } nest0 = true ∧ nest0.held = [] ∧
      (let far : Nest := { rejected 0 with out := true, cfg := { (rejected 0).cfg with xp := 0x7FFF } }
       (rejected 0).rowsOk (m (rejected 0)) nest0.idx = true ∧ far.rowsOk { m far with size := 4 } nest0.idx = false) ∧ (rejected 1).seekChain nest0.idx = none ∧
      (rejected 0).seekStep nest0.idx = none ∧ ((rejected 0).seekChain nest0.idx).isSome = true ∧
      ((rejected 0).mask.any maskOk && (rejected 1).mask.any maskOk) = true := by decide +kernel

/-! ### Registers, tables, command processors -/

/-- The partition as `f` makes it, its pages known to the die. -/
def partS (f : Part → Part) (g : Mach → Mach) : State :=
  rig id (fun M => g { M.updPart 0 f with dieTlb := [(0, tlb0)] }) .c

/-- What `Writes` asks: power, the partition, an agent that is admitted. -/
def writes (s : State) (ag : RegAgent) (P : Part → Bool) : Bool :=
  s.host.powered && s.host.admits s.m.wclk ag && (s.m.part 0).any P

theorem witness_register_writes :
    writes (partS id id) .port0 (fun p => !p.tlbinv.getLsbD 0 && !inHotRegion p p.hrcfg 0x100000) = true ∧
      writes (partS (fun p => { p with tlbinv := 1 }) id) .fw (fun p => p.tlbinv.getLsbD 0) = true ∧
      writes (partS id id) .mc (fun _ => true) = false ∧ (partS id id).host.admits (partS id id).m.wclk .port1 = false ∧
      ((1 : Word) &&& tlbinvMask = 1) ∧ (w64 (putFld 0x20001 62 2 1) &&& tlbinvMask = w64 (putFld 0x20001 62 2 1)) ∧
      (partS id id).m.part 7 = none := by decide +kernel

/-- A table base inside the hot-row region, or inside the one HRCFG is about to name; what an invalidation waits for, over
and not over; the second of two, and HRCFG's. -/
theorem witness_invalidations :
    let hot : Word := 0x00200004000000A1
    let v (M : Mach) (cfg : Option Word) : Inv := invNow M 0 cfg
    let op : QOp := ⟨3, .popW, 0, 0x20000, 0, ⟨.pkg, 0, .bag⟩, .stream r0 .a, 0, 0, []⟩
    let held (M : Mach) : Mach := { M with held := [⟨op, 0, 0, 100⟩], nextId := 4 }
    let waits (M : Mach) : Mach := M.updStack 2 fun x => { x with waiting := [(r0, 7)] }
    writes (partS (fun p => { p with hrcfg := hot }) id) .fw (fun p => p.hotBase (hrStart hot 0) && p.hrEn) = true ∧
      writes (partS (fun p => { p with invs := [⟨[], 0, [], some hot⟩] }) id) .fw (fun p => p.hotBase (hrStart hot 0) && !p.hrEn) = true ∧
      (v (partS id id).m none).passed (partS id id).m 0 = true ∧ (v (partS id posted).m none).passed (partS id posted).m 0 = false ∧
      (v (partS id posted).m none).marks.length = 1 ∧ (v (partS id held).m none).passed (partS id held).m 0 = false ∧
      (v (partS id waits).m none).passed (partS id waits).m 0 = false ∧
      hrChanges 0 hot = true ∧ hrChanges hot (hot &&& ~~~1#64) = true ∧
      (InvKind.page 0x20000).drops 0 (page 0x20000 0x20000) = true ∧ (InvKind.page 0x20000).drops 0 (page 0x30000 0x30000) = false := by
  decide +kernel

/-- EXPCTL with LOAD of two entries at 0x100000, RGNCTL with LOAD of the empty table at 0x200000, HRCFG of 2^10 sets from 64 MiB on. -/
theorem witness_table_loads :
    let e : Word := BitVec.ofNat 64 (0x100000 / 1024 * 1024 + 2 ^ 7 + 2)
    let r : Word := BitVec.ofNat 64 (0x200000 / 131072 * 131072 + 2 ^ 13)
    let h : Word := BitVec.ofNat 64 (2 * 2 ^ 52 + 2 ^ 16 + 10 * 2 ^ 4 + 1)
    let entries : Mach → Mach := fun M => M.put 0x100000 (leBytes 8 (2 * 2 ^ 24 + 2 ^ 7 + 2 ^ 3) ++ leBytes 8 0x10000)
    wf e 0 7 = 2 ∧ e &&& 0x00000FFFFFFFFCFF = e ∧ wf e 10 34 * 1024 = 0x100000 ∧
      ((partS id id).m.part 0).any (fun p => ownsHbm p 0x100000 1024) = true ∧
      (∀ x ∈ tableWords (entries (partS id id).m) 0x100000 2 2, exportBad (recW x 0) (recW x 1) = false) ∧
      r &&& 0x00000FFFFFFE3FFF = r ∧ wf r 17 27 * 131072 = 0x200000 ∧
      h &&& 0x01F0FFFF03FF01FF = h ∧ wf h 16 10 * 0x4000000 + hrSize h ≤ 0xC00000000 ∧
      ((partS id id).m.part 0).any (fun p => !p.hrEn && p.attached.isEmpty && !(tableBases p).any (inHotRegion p h)) = true ∧
      (0x03FF000000000001 : Word) &&& 0x03FF03FF03FF03FF = 0x03FF000000000001 ∧
      ((partS (fun p => { p with expdue := 5 }) id).m.part 0).any (fun p => (p.expctlAt 4).getLsbD 7 && !(p.expctlAt 5).getLsbD 7) = true ∧
      ((partS id id).m.part 0).any (fun p => p.rgnload.isNone && p.invs.isEmpty) = true ∧
      writes (partS (fun p => { p with rgnload := some (r, ⟨[], 0, [], none⟩) }) id) .port0 (fun p => p.rgnload.isSome) = true ∧
      r &&& ~~~(0x2000#64) &&& 0x00000FFFFFFE3FFF = r &&& ~~~(0x2000#64) ∧
      ((partS (fun p => { p with hrcfg := h }) id).m.part 0).any (fun p => p.hrEn && p.attached.isEmpty) = true := by decide +kernel

/-- A running queue 5 of the partition; its descriptor stands at 0x100000 + 160, its ring of sixteen slots at 0x20000. -/
def queueS (fs : List (QFrame × Nat)) (d : Option Nat) (g : Mach → Mach) : State :=
  partS (fun p => { p with hqctl := 0x100000 + 6, queues := [⟨5, 9, true, fs, [], d, 0, 2, false⟩] })
    fun M => g (((M.setWord 0x1000A0 (2 ^ 63 + 4 * 2 ^ 56 + 0x20000)).setWord 0x1000A8 2).setWord 0x1000B0 9)

/-- A slot of code 0 with flags, ARGL, ARGH and its words. -/
def slot0 (flags argl argh : Nat) (w1 w2 w3 : Word) : Slot := ⟨BitVec.ofNat 64 (flags * 2 ^ 8 + argl * 2 ^ 16 + argh * 2 ^ 48), w1, w2, w3⟩

/-- The queue runs its next command. -/
def runs (s : State) (P : Part → HQueue → Bool) : Bool :=
  match s.m.queue ⟨0, 5⟩ with
  | some (p, q) => q.running && q.delay.isNone && P p q
  | none => false

theorem witness_doorbells :
    let s := queueS [] none id
    writes s .port0 (fun p =>
      decide (5 < min 64 (wf p.hqctl 0 7)) && ownsHbm p (queueDesc p 5) 32 && (s.m.word (queueDesc p 5)).getLsbD 63 &&
        wf (s.m.word (queueDesc p 5 + 8)) 32 8 == 0 && wf (s.m.word (queueDesc p 5)) 56 5 == 4 &&
        wf (s.m.word (queueDesc p 5)) 0 56 % (32 * 2 ^ 4) == 0) = true ∧ wf 5 0 6 = 5 ∧ wf (5 : Word) 6 58 = 0 ∧
      2 ^ 4 < (19 + 2 ^ 32 - 2) % 2 ^ 32 ∧ ¬(2 ^ 4 < (18 + 2 ^ 32 - 2) % 2 ^ 32) ∧
      ((toHomes s.m r0 .c).part 0).isSome = true ∧ (s.m.queue ⟨0, 5⟩).isSome = true := by decide +kernel

theorem witness_queue_commands :
    let loops (n : Nat) : List (QFrame × Nat) := List.replicate n (.loop 3 2 1, 0)
    let v : Mach → Mach := fun M => M.setWord 0x30000 7
    let read (s : State) (a n : Nat) : Bool :=
      (bytesRead (devReadAny s.m 0 (cpRef 0 5) 0 none (w64 a) n)).isSome
    runs (queueS [] none id) (fun _ _ => true) = true ∧ slotOk (slot0 0 0 0 0 0 0) 0 false false 0 = true ∧
      slotOk (slot0 1 0 0 0 0 0) 0 false false 0 = false ∧ slotOk (slot0 0 (2 ^ 32 - 1) 1024 0 0 0) 0 true true 0 = true ∧
      runs (queueS (loops 4) none id) (fun _ q => loopDepth q.frames == 4) = true ∧
      runs (queueS (loops 3) none id) (fun _ q => decide (loopDepth q.frames < 4) && (jumpFrame q.frames).isNone) = true ∧
      runs (queueS [(.jump 0x20000 4, 2)] none id) (fun p q =>
        let i := slotIndex q.frames (queueHead (queueS [(.jump 0x20000 4, 2)] none id).m p 5)
        jumpFrame q.frames == some (0x20000, 4) && decide (i + 1 + 1 ≤ 4) && !decide (i + 1 + 2 ≤ 4)) = true ∧
      runs (queueS [] none id) (fun p q => tailCovers (queueS [] none id).m p q 6 && !tailCovers (queueS [] none id).m p q 7) = true ∧
      runs (queueS [(.jump 0x20000 4, 2)] none id) (fun p q => tailCovers (queueS [] none id).m p q 1024) = true ∧
      slotOk (slot0 3 9 0 0x30000 7 0xFF) 2 true false 3 = true ∧ read (queueS [] none v) 0x30000 8 = true ∧
      slotOk (slot0 0 65536 0 0x20020 0 0) 0 true false 1 = true ∧ slotOk (slot0 0 2047 0 0 0 0) 0 true false 0 = true ∧
      ((queueS [] (some 0) id).m.queue ⟨0, 5⟩).any (fun x => x.2.delay == some 0) = true := by decide +kernel

theorem witness_queue_signals :
    let s := queueS [] none fun M => M.setWord 0x30000 7
    let busyQ := partS (fun p => { p with queues := [⟨5, 9, true, [], [0x20000], none, 0, 2, false⟩] }) id
    slotOk (slot0 5 0 0 0x30000 7 0) 3 false false 2 = true ∧ (slot0 5 0 0 0x30000 7 0).flags = 5 ∧
      slotOk (slot0 0 1 0 0x30000 7 0) 3 false false 2 = false ∧ 6 ≤ (slot0 6 0 0 0 0 0).flags ∧
      runs s (fun p q => mayRelease s.m p q 5) = true ∧ runs busyQ (fun p q => !mayRelease busyQ.m p q 0) = true ∧
      bytesRead (devReadAny s.m 0 (cpRef 0 5) 0 none 0x30000 8) = some [7, 0, 0, 0, 0, 0, 0, 0] ∧
      (devStore s.m 0 (cpRef 0 5) 0x30000 (wBytes 7)).isOk = true ∧ (devStore s.m 0 (cpRef 0 5) 0x50000 (wBytes 7)).isOk = false ∧
      spanHere (devSpan s.m 0 .atomic 0x30000 8) = true ∧ spanFar (devSpan s.m 0 .atomic 0x40000 8) = true ∧
      (devSpan s.m 0 .atomic 0x60000 8).isOk = false ∧ runs s (fun p _ => inDefault p 0x30000 8) = true ∧
      runs (partS (fun p => { p with queues := [⟨5, 9, true, [], [], none, 0, 2, false⟩], regions := [⟨0x30000, 1, 0x20000⟩] }) id)
        (fun p _ => !inDefault p 0x30000 8) = true := by
  decide +kernel

theorem witness_far_add :
    let s := queueS [] none id
    let f (c : Option Nat) : Fetch := ⟨cpRef 0 5, 0, ⟨1, 2⟩, 1, 0x40000, 8, c, [], none⟩
    let got (fs : List Fetch) := ({ s.m with fetched := fs } : Mach).fetched.find? fun x =>
      x.who == cpRef 0 5 && x.tag == 0 && x.dev == ⟨1, 2⟩ && x.peer == 1 && x.addr == 0x40000
    got [] = none ∧ got [f none] = some (f none) ∧ got [f (some 0)] = some (f (some 0)) ∧
      got [f (some (0x21 + 1))] = some (f (some 0x22)) ∧ s.m.poisoned 0x30000 8 = false ∧
      ({ s.m with poison := [0x30000 / 64] } : Mach).poisoned 0x30000 8 = true := by decide +kernel

/-- A task of context 0 at 0x20000, in state `st` with `preds` predecessors, its loop nest of one dimension of three
iterations in chunks of two at 0x20200, its completion word at 0x30000, one successor at 0x20400. -/
def taskAt (st preds n : Nat) (M : Mach) : Mach :=
  let ws : List Nat := [preds + 1 * 2 ^ 16 + 3 * 2 ^ 20 + 4 * 2 ^ 24 + st * 2 ^ 40, 0x20200, 9, 1, 0x30000, 1, 0, 0, 0x20400]
  let nest : List Nat := [2 * 2 ^ 32, n + 2 ^ 32, 1 + 2 ^ 32, 1 + 2 ^ 32, 0, 0, 0, 0]
  (M.put 0x20000 (ws.flatMap fun w => leBytes 8 w)).put 0x20200 (nest.flatMap fun w => leBytes 8 w)

theorem witness_queue_tasks :
    let good (st preds : Nat) : Bool :=
      let s := queueS [] none (taskAt st preds 3)
      runs s fun p _ =>
        match tcbRead s.m 0 0x20000 with
        | some w =>
          match recRead s.m 0 8 (recW w 1) with
          | some nest => tcbState (recW w 0) == 0 && tcbOk s.m p.id w nest (countsOf nest 1)
          | none => false
        | none => false
    good 0 0 = true ∧ good 0 2 = true ∧ good 3 0 = false ∧ slotOk (slot0 0 0 0 0x20000 0 0) 0 false false 1 = true ∧
      slotOk (slot0 0 0 0 0x20000 0x30000 0) 0 false false 2 = true ∧
      (bytesRead (devReadAny (queueS [] none id).m 0 (cpRef 0 5) 0 none 0x30000 24)).isSome = true := by decide +kernel

/-- A launch record of two members of size 0 on quad 0: created as context 7, refused as context 0. -/
theorem witness_queue_contexts :
    let w : List Word := [0x10000, 0, 0, 0, 0, 2 ^ 40, 1, 0]
    let s := queueS [] none fun M => M.put 0x20000 (recordBytes w)
    runs s (fun p _ => !launchBad s.m p w && !(p.ctxs.any fun c => c.id == 7) && (p.ctxs.any fun c => c.id == 0)
        && groupId p (recW w 7) == 0 && !ctxBusy s.m p 0) = true ∧
      bytesRead (devReadAny s.m 0 (cpRef 0 5) 0 none 0x20000 64) = some (recordBytes w) ∧
      runs (queueS [] none fun M => (taskAt 1 1 3 M).updPart 0 fun p => { p with launched := [0x20000] })
        (fun p _ => ctxBusy (queueS [] none (taskAt 1 1 3)).m p 0) = true ∧
      slotOk (slot0 0 4095 0 0x20000 0 0) 0 true false 1 = true := by decide +kernel

/-! ### Tasks, contexts, partitions -/

/-- A state with a task's block of state `st`, `preds` predecessors and `n` iterations. -/
def taskS (st preds n : Nat) (f : Part → Part) : State := partS f (taskAt st preds n)

/-- The control word of the task's block. -/
def controlOf (s : State) : Nat := ((tcbRead s.m 0 0x20000).map fun r => recW r 0).getD 0

theorem witness_predecessors :
    let w (st preds : Nat) : Nat := controlOf (taskS st preds 3 id)
    (tcbRead (taskS 1 1 3 id).m 0 0x20000).isSome = true ∧ fld (w 0 0) 0 16 = 0 ∧
      (fld (w 1 1) 0 16 = 1 ∧ tcbState (w 1 1) = 1) ∧ 1 < fld (w 1 65535) 0 16 ∧ (fld (w 5 1) 0 16 = 1 ∧ tcbState (w 5 1) = 5) ∧
      tcbState (w 4 1) = 4 := by decide +kernel

/-- A card of the task, and one with a reserved bit. -/
def card0 : BitVec 128 := BitVec.ofNat 128 (0x20000 + 3 * 2 ^ 56)

/-- An active task with `claimed`, `retired` iterations, of a block read from memory. -/
def task0 (prio : Nat) (claimed : List (Nat × Nat × Nat)) (cursor retired : Nat) : Task :=
  let s := taskS 3 0 3 id
  { tcb := 0x20000, ctx := 0, prio := prio, ready := 0, age := 0, total := 3, chunk := 2, cursor := cursor, mirror := cursor,
    claimed := claimed, reissue := [], running := [], retired := retired, failed := none, counts := [3, 1, 1, 1, 1, 1],
    block := (tcbRead s.m 0 0x20000).getD [], nest := (recRead s.m 0 8 0x20200).getD [] }

theorem witness_cards :
    let admissible (s : State) : Bool :=
      (s.m.part 0).any fun p =>
        match tcbRead s.m 0 0x20000 with
        | some r =>
          match taskNest s.m p 0x20000 r with
          | some (nest, counts) =>
            let w := recW r 0
            tcbState w == 2 || (tcbState w == 0 && fld w 0 16 == 0 && tcbOk s.m 0 r nest counts)
          | none => false
        | none => false
    fld card0.toNat 0 56 = 0x20000 ∧ fld card0.toNat 59 5 = 0 ∧ fld card0.toNat 96 32 = 0 ∧
      fld (card0 ||| 2 ^ 59).toNat 59 5 ≠ 0 ∧ admissible (taskS 2 0 3 id) = true ∧ admissible (taskS 0 0 3 id) = true ∧
      admissible (taskS 4 0 3 id) = false ∧
      64 ≤ ({ p0 with tasks := List.replicate 64 (task0 3 [] 0 0) } : Part).tasks.length ∧
      tcbRead (taskS 2 0 3 id).m 0 0x60000 = none := by decide +kernel

theorem witness_dispatch :
    let s (t : Task) : State := taskS 3 0 3 fun p => { p with tasks := [t] }
    let ok (t : Task) (P : Mach → Part → List Task → Bool) : Bool :=
      ((s t).m.part 0).any fun p =>
        (s t).m.liveDies.contains 0 && p.owns 0 &&
          P (s t).m p (p.tasks.filter fun u => u.failed.isNone && !(permitted (s t).m p 0 u).isEmpty)
    ok (task0 3 [(0, 0, 2)] 1 0) (fun M p us => us.length == 1 && (us.any fun u => u.claimOf 0 == some (0, 2))
        && leastBy (fun u : Task => u.order M p) us == some (task0 3 [(0, 0, 2)] 1 0)) = true ∧
      ok (task0 3 [] 1 0) (fun _ _ us => us.all fun u => u.claimOf 0 == none && u.unclaimed) = true ∧
      ok (task0 3 [] 2 0) (fun _ _ us => us.all fun u => u.claimOf 0 == none && !u.unclaimed) = true := by decide +kernel

theorem witness_retirement :
    let s := taskS 3 0 3 fun p => { p with tasks := [task0 3 [] 2 3] }
    (activeTask s.m 0 0x20000).any (fun t => t.failed.isNone && decide (t.total ≤ t.retired)) = true ∧
      (tcbRead s.m 0 0x20000).isSome = true ∧ outstanding s.m (masterRef 0) .c = false ∧ (s.m.part 0).isSome = true := by
  decide +kernel

theorem witness_halts :
    let m : Member := { loadMember .c 0 with preempt := true }
    (rigM (fun _ => m) id .c).member r0 = some m ∧ m.preempt = true ∧ m.core.isSome = true ∧ m.raised = [] ∧
      m.handler = none ∧ m.freeze = .none ∧ m.region = none ∧ m.cmds = [] := by decide +kernel

theorem witness_switches :
    let m : Member := { loadMember .c 0 with freeze := .halted }
    let i : Member := { m with place := .image }
    let M (m : Member) : Mach := rigM (fun _ => m) id .c
    (M m).member r0 = some m ∧ m.place = .core 0 ∧ (∀ st, (m.str st).sb = []) ∧
      (∀ q ∈ (M m).members, q.ref ≠ r0 → q.place ≠ .core 0) ∧ (M i).member r0 = some i ∧ (M i).part 0 = some p0 ∧
      p0.owns (255 / 32) = true ∧ 255 / 32 ∈ (M i).liveDies ∧ (M i).occupant 255 = none ∧ stoppedCmd i = none ∧ i.owed = [] ∧ i.cmds = [] :=
  ⟨by decide +kernel, by decide, fun st => by cases st <;> decide, by decide +kernel, by decide +kernel, by decide +kernel,
    by decide +kernel, by decide +kernel, by decide +kernel, by decide +kernel, rfl, rfl⟩

theorem witness_escalations :
    let m : Member := { loadMember .c 0 with freeze := .escalated, escalated := some (.a, ⟨0x21, true, 0, 0, [], false⟩) }
    let n : Member := { loadMember .c 0 with task := some (0x20000, 2) }
    (rigM (fun _ => m) id .c).member r0 = some m ∧ m.escalated.isSome = true ∧ m.freeze = .escalated ∧ m.task = none ∧
      m.region = none ∧ (rigM (fun _ => n) id .c).member r0 = some n ∧ n.task = some (0x20000, 2) := by decide +kernel

theorem witness_partitions :
    let M := rigM id id .c
    let N : Mach := { M with members := [] }
    7 ∈ M.liveDies ∧ 9 ∉ M.liveDies ∧ p0.idle M = false ∧ N.part 0 = some p0 ∧ p0.idle N = true ∧
      Mach.reset.part 4 = none ∧ partShape Mach.reset 4 4 = true ∧ partShape Mach.reset 4 8 = false ∧
      partShape M 7 1 = false := by decide +kernel

/-! ### Packets, connections, ports -/

/-- The connection of partition 0 with partition 1 of device (1, 2), by `f`. -/
def conn0 : Conn := ⟨⟨0, ⟨1, 2⟩, 1⟩, .open, 5, 7, 7, [], [], [], [], [], [], [], 0⟩

/-- The device with that connection, the two exported pages of 0x10000 and the pages known to the die. -/
def portM (f : Conn → Conn) (g : Mach → Mach) : Mach :=
  rigM id (fun M => g
    { M.updPart 0 fun p => { p with exports := [⟨0x10000, 2, true, true, true, true⟩] } with
      dieTlb := [(0, tlb0)], conns := [f conn0] }) .c

/-- A packet of that connection's peer. -/
def packet0 (kind addr ks : Nat) (pl : List Byte) : Packet :=
  { addr := addr, key := 77, seq := 7, ack := 5, kind := kind, hops := 1, len := pl.length / 64, src := ⟨1, 2⟩, sprt := 1,
    dst := ⟨0, 0⟩, dprt := 0, kspec := BitVec.ofNat 32 ks, payload := pl, resvd := 0 }

/-- What `InTurn` says. -/
def inTurn (M : Mach) (p : Packet) : Bool :=
  decide (p.dst = M.self) && packetOk p &&
    (M.conn ⟨p.dprt, p.src, p.sprt⟩).any fun c =>
      !(p.kind == 7 && p.kspec.toNat % 16 == 3) && !(p.kind == 7 && p.kspec.toNat % 16 == 0 && p.seq == 0) &&
        c.state != .closed && rspFits c p && !packetHeld M p && p.seq == c.expect

theorem witness_requests :
    let M := portM id id
    let rd := packet0 0 0x2FFF8 8 []
    let wr := packet0 1 0x2003F 2 (zeros 128)
    let at_ := packet0 2 0x20000 (0x50 + 2 ^ 8) (zeros 64)
    let arr (t : Nat) := packet0 3 (127 + t * 2 ^ 16) (4 * 4) (zeros 128)
    inTurn M rd = true ∧ inTurn M wr = true ∧ inTurn M at_ = true ∧ inTurn M (arr 255) = true ∧
      (admission M 0 (packetPort rd) 77 .r .read 0x2FFF8 8).isOk = true ∧ (admission M 0 (packetPort rd) 77 .r .read 0x2FFFF 2).isOk = false ∧
      (match admission M 0 (packetPort rd) 77 .r .read 0x20000 8 with
        | .ok ps => (homePoison M ps).isNone && (homePoison { M with poison := [0x20000 / 64] } ps).isSome
        | .error _ => false) = true ∧
      (admission M 0 (packetPort wr) 77 .w .write 0x2003F 2).isOk = true ∧ (admission M 0 (packetPort wr) 76 .w .write 0x20000 2).isOk = false ∧
      (admission M 0 (packetPort at_) 77 .a .atomic 0x20000 8).isOk = true ∧ M.poisoned 0x20000 8 = false ∧
      keyOk M 0 77 = true ∧ keyOk M 0 76 = false ∧ (deliver M (packetArrival (cameBy (arr 255)) (arr 255))).2 = .taken ∧
      (deliver M (packetArrival (cameBy (arr 256)) (arr 256))).2 = .unknown ∧
      (deliver (M.updMember r0 fun m => { tagged .full m with arrq := List.replicate 64 (arrivalAt 3 4) }) (packetArrival (cameBy (arr 3)) (arr 3))).2 = .again := by
  decide +kernel

theorem witness_object_packets :
    let q (ks : Nat) := packet0 4 0x20000 ks (zeros 64)
    let o (ks n : Nat) := packet0 5 0x20000 ks (leBytes 8 n ++ zeros 56)
    let M (g : Mach → Mach) : Mach := portM id g
    inTurn (M id) (q (4 * 2 ^ 11)) = true ∧ inTurn (M id) (o 0 3) = true ∧
      (admission (M id) 0 (packetPort (q 0)) 77 .q .queuePush 0x20000 64).isOk = true ∧ (admission (M id) 0 (packetPort (q 0)) 77 .q .queuePop 0x2FFE0 64).isOk = false ∧
      (homeCtl (M (popObject 0 3 0)) 0 0x20000 0x20000 .cnt).isOk = true ∧
      (homeCtl (M fun M => M.put 0x20000 (leBytes 8 (2 ^ 1))) 0 0x20000 0x20000 .en).isOk = false ∧
      (match homeAcq (M (object 7 1)) 0x20000 0 (packetAcq (o 0 7)), homeAcq (M (object 7 1)) 0x20000 0 (packetAcq (o 0 8)),
          homeRel (M (object 7 2)) 0x20000 0 with
        | .version _ v, .waits, .trap _ => v == 7
        | _, _, _ => false) = true ∧ (∀ x ∈ conn0.serving, x.2 ≠ o 0 3) := by decide +kernel

theorem witness_responses :
    let o : Origin := .request r0 .c 4
    let a : Origin := .arrival (arrivalAt 3 4)
    let asked (c : Conn) : Conn := { c with asked := [(3, o)], unacked := [⟨{ packet0 3 0 16 (zeros 128) with seq := 4 }, a, 0⟩] }
    let M := portM asked id
    let rsp (n code : Nat) := packet0 6 n code (if code = 0 then zeros 64 else [])
    inTurn M (rsp 3 0) = true ∧ inTurn M (rsp 4 0x24) = true ∧ inTurn M (packet0 7 0 0 []) = true ∧ inTurn M (packet0 7 0 1 []) = true ∧
      ((asked conn0).asked.find? fun y => y.1 == 3) = some (3, o) ∧ ((asked conn0).asked.find? fun y => y.1 == 4) = none ∧
      ((asked conn0).unacked.find? fun y => y.p.seq == 4).isSome = true ∧ (packet0 7 0 3 []).kspec.toNat % 16 = 3 ∧
      packetOk (packet0 7 0 2 []) = true ∧ seqBefore 7 7 = false ∧ seqBefore 6 7 = true ∧ seqBefore (2 ^ 32 - 1) 0 = true := by
  decide +kernel

theorem witness_order :
    let M := portM id id
    let p := packet0 0 0x20000 8 []
    ({ p with dst := ⟨0, 1⟩ } : Packet).dst ≠ M.self ∧ packetOk { p with kspec := 0 } = false ∧ packetOk p = true ∧
      M.conn ⟨0, ⟨1, 2⟩, 1⟩ = some conn0 ∧ (portM id fun M => { M with conns := [] }).conn ⟨0, ⟨1, 2⟩, 1⟩ = none ∧
      ¬(p.kind = 7) ∧ seqBefore conn0.expect 9 = true ∧ (∀ x ∈ conn0.early, x.seq ≠ 9) ∧ seqBefore 6 conn0.expect = true ∧
      seqBefore conn0.expect 6 = false := by decide +kernel

theorem witness_timeouts :
    let u (n : Nat) : Unacked := ⟨{ packet0 1 0 8 (zeros 64) with seq := 4 }, .control, n⟩
    let c (n : Nat) : Conn := { conn0 with unacked := [u n], acked := 6, filling := [(r0, 3)], resend := [(3, arrivalAt 3 4)] }
    (portM (fun _ => c 63) id).conn (c 63).ref = some (c 63) ∧ (c 63).acked ≠ (c 63).expect ∧ conn0.acked = conn0.expect ∧
      ((c 63).unacked.find? fun x => x.p.seq == 4) = some (u 63) ∧ ((c 64).unacked.find? fun x => x.p.seq == 4) = some (u 64) ∧
      (c 0).filling ≠ [] ∧ (portM id id).wclk < (c 0).last + 2 ^ 26 ∧
      (c 0).last + 2 ^ 26 ≤ ({ portM id id with wclk := 2 ^ 26 } : Mach).wclk ∧
      ((c 0).resend.find? fun x => x.1 == 3) = some (3, arrivalAt 3 4) := by decide +kernel

/-- A pod of two rows and three columns in which this device is (0, 0); port 1 leads to (0, 2), port 31 to (1, 0). -/
def podM (up : List Nat) (f : Part → Part) : Mach :=
  { (rigM id (fun M => M.updPart 0 f) .c) with fabcfg := BitVec.ofNat 64 (1 * 2 ^ 35 + 2 * 2 ^ 30), portup := up }

theorem witness_routers :
    let mine : Packet := { packet0 1 0 8 (zeros 64) with src := ⟨0, 0⟩, sprt := 0, dst := ⟨1, 2⟩ }
    let far : Packet := { mine with src := ⟨1, 0⟩, dst := ⟨0, 2⟩ }
    let M := podM [1, 31] id
    permittedPorts M mine = [1, 31] ∧ permittedPorts M far = [1] ∧ permittedPorts (podM [] id) mine = [] ∧
      linkSpent M mine 1 = false ∧ linkSpent (podM [1] fun p => { p with budg0 := 1, lnkUsed := [(1, 5)] }) mine 1 = true ∧
      (portPeer M.self 1 = ⟨0, 2⟩ ∧ podRows M = 2 ∧ podCols M = 3) ∧ (portPeer M.self 31).row < podRows M ∧
      (wf M.fabcfg 25 5 ≤ wf M.fabcfg 35 5 ∧ wf M.fabcfg 20 5 ≤ wf M.fabcfg 30 5 ∧ M.fabcfg &&& 0x000000FFFFF30100 = M.fabcfg) ∧
      M.trained = false := by decide +kernel

/-- A withdrawal, a request taken up again and one that waits still, the first OPEN with no connection, an
acknowledgement held back by an operation on its way, a port lent and one in the use of another device's packet. -/
theorem witness_late_packets :
    let o (ks n : Nat) := packet0 5 0x20000 ks (leBytes 8 n ++ zeros 56)
    let first : Packet := { packet0 7 0 0 [] with seq := 0 }
    let S := portM (fun c => { c with serving := [(3, o 0 8)], asked := [] }) (object 7 1)
    let op : QOp := ⟨3, .popW, 0, 0x20000, 0, ⟨.pkg, 0, .bag⟩, .remote ⟨1, 2⟩ 1 6, 0, 0, []⟩
    let H := portM id fun M => { M with held := [⟨op, 0, 0, 100⟩] }
    let mine : Packet := { packet0 1 0 8 (zeros 64) with src := ⟨0, 0⟩, sprt := 0, dst := ⟨1, 2⟩ }
    let far : Packet := { mine with src := ⟨1, 0⟩, dst := ⟨0, 2⟩ }
    let L (n : Nat) := podM [1] fun p => { p with budg0 := 1, lnkUsed := [(1, n)], schcfg := p.schcfg ||| (1 <<< 48) }
    inTurn S (o 3 3) = true ∧ (o 3 3).kspec.toNat % 4 = 3 ∧ bitOf (o 3 3).kspec.toNat 30 = false ∧
      (S.conn ⟨0, ⟨1, 2⟩, 1⟩).any (fun c => c.serving.any fun y => y.1 == leNat ((o 3 3).payload.take 8)) = true ∧
      (admission S 0 (packetPort (o 3 3)) 77 .a .atomic 0x20000 16).isOk = true ∧ S.poisoned 0x20000 16 = false ∧
      (match homeAcq S 0x20000 0 (packetAcq (o 0 8)), homeAcq (object 8 1 S) 0x20000 0 (packetAcq (o 0 8)),
          homeAcq (object 8 2 S) 0x20000 0 (packetAcq (o 0 8)) with
        | .waits, .version _ v, .trap _ => v == 8
        | _, _, _ => false) = true ∧
      first.dst = S.self ∧ packetOk first = true ∧ (portM id fun M => { M with conns := [] }).conn (cameBy first) = none ∧
      conn0.ackNo H = 6 ∧ conn0.ackNo (portM id id) = 7 ∧
      linkSpent (L 5) mine 1 = true ∧ linkLent (L 5) mine 1 = true ∧ linkLent (podM [1] fun p => { p with budg0 := 1, lnkUsed := [(1, 5)] }) mine 1 = false ∧
      transitFirst { podM [1] id with transit := [mine, far] } mine 1 = true ∧ transitFirst (podM [1] id) mine 1 = false := by
  decide +kernel

/-! ### The host side -/

theorem witness_ownership :
    let s : State := rig id id .c
    s.host.powered = true ∧ s.host.owner = some .port0 ∧ s.m.wclk < s.host.lease ∧ State.reset.host.owner = none ∧
      ({ s.host with lease := 0 } : HostSide).lease ≤ s.m.wclk := by decide +kernel

theorem witness_boot :
    let s : State := rig id id .c
    State.reset.host.powered = true ∧ State.reset.host.boot = .clearing ∧ ({ s.host with powered := false } : HostSide).powered = false ∧
      s.host.owner = some .port0 ∧ s.host.owner ≠ some .mc ∧ ({ s.host with boot := .rollback } : HostSide).boot.isIdle = true ∧
      Boot.isIdle .verifying = false ∧ verifyImage Mach.reset 0 ≠ .ready ∧
      ({ s.host with boot := .starting } : HostSide).boot = .starting ∧ RegAgent.fw.code = 0 ∧ RegAgent.port1.code ≠ 0 := by
  decide +kernel

theorem witness_power_and_windows :
    let s : State := rig id id .c
    let i : HostSide := { s.host with boot := .idle }
    s.host.attgo = none ∧ (agentIdx .port0).isSome = true ∧ s.host.limw = 7000 ∧ paExists 0x300000000 = true ∧ fenced s.m 0x20000 = false ∧
      i.boot.isIdle = true ∧ i.boot ≠ .clearing ∧ 0xFFFFFFF + 1 ≤ 0x10000000 ∧ i.owner = some .port0 := by decide +kernel

/-! ### Clauses on the ways into a step, on switching stacks and on answers that came -/

/-- The placed word of X behind a fetch that faults, that misses, and with a nest that has stopped. -/
theorem witness_fetches :
    let s0 (f : Member → Member) (g : Mach → Mach) : State :=
      let s := State.reset.withFetchWord 64 (en 0xE7 0 0 0 0 0).toNat
      { s with m := g { s.m with members := s.m.members.map f } }
    let look (s : State) (P : Mach → Member → Strm → Bool) : Bool :=
      match s.m.agenda with
      | .issue r st :: rest =>
        let G : Mach := { grantAll s.m with agenda := rest }
        s.host.powered && s.host.boot != .clearing && (G.member r).any fun m =>
          (attemptAt G m st).any fun t => m.turn G st t && P { G with wclk := max s.m.wclk (t + m.skew) } m st
      | _ => false
    let away (m : Member) : Member := m.updStr .x fun q => { q with pc := 0x60000 }
    let stopped (m : Member) : Member := { m with nest := some { nest0 with fault := some ⟨0x07, true, 0, 0, [], false⟩ } }
    let near (m : Member) : Member := m.updStr .x fun q => { q with pc := 0x10000 }
    look (s0 away id) (fun W m st => !(fetch W m (m.str st).pc).isOk) = true ∧
      look (s0 near fun M => ((tables { M with dieTlb := [], cores := [] }).put 0x108010 (leBytes 8 (0x30000 + 2 + 4 + 16))).updPart 0 fun p => { p with ptroot := 0x100001 }) (fun W m st =>
        (fetch W m (m.str st).pc).isOk && !fetchHit W m (m.str st).pc) = true ∧
      look (s0 stopped id) (fun W m st =>
        (fetch W m (m.str st).pc).isOk && fetchHit W m (m.str st).pc && (m.reporting st).isSome) = true := by
  decide +kernel

/-- Claims that come together, an event while the device is clearing, one that can happen at once, one whose time is next. -/
theorem witness_ways_of_events :
    let both : List Move := [.event (.claim .port1), .event (.claim .port0), .event (.save r0)]
    let bar : Bar := ⟨.core, barKey (rigM id id .c) (loadMember .c 0) .core, 5, [(r0, .c), (r0, .v)], []⟩
    let full : Mach := rigM id (fun M => { M with bars := [bar] }) .c
    orderClaims both = [.event (.claim .port0), .event (.claim .port1), .event (.save r0)] ∧
      RegAgent.port0.code < RegAgent.port1.code ∧ Move.claim (.event (.save r0)) = none ∧
      State.reset.host.boot = .clearing ∧ hostEvent (.save r0) = false ∧ hostEvent .clearingComplete = true ∧
      full.agenda = [] ∧ (nowEvent (grantAll full)).isSome = true ∧ Mach.reset.agenda = [] ∧
      nowEvent (grantAll Mach.reset) = none ∧ nextInTime (grantAll Mach.reset) = some (1, 0, .event .clearingComplete) := by
  decide +kernel

/-- The words R163 lists and leaves out, on A in an open region. -/
theorem witness_region_words :
    let g : Region := ⟨0, [0, 0, 0, 0], [0, 0, 0, 0], [], 1, [], [], 0⟩
    let s := rig (fun m => { m with region := some g }) id .a
    (s.m.issuer.any fun x => x.1.st == .a && x.2.region.isSome) = true ∧
      ([.cflush .core (.s 1) .b1 0, .strel .pkg (.s 2) (.s 1) .b8 0, .aadd ⟨.s 9, .s 1, .s 2, .rlx, true⟩,
        .scadd (.s 4) (.s 1) (.s 2) (.s 3) .i32 1, .acqNw (.s 9) (.s 1) .pkg, .rel (.s 9) (.s 1) .pkg, .fence .core,
        .popN (.s 9) (.s 1) (.s 2) (.s 3) ⟨.pkg, 0, .bag⟩, .tsend .pkg .plain (.s 1) (.s 2) (.s 3) true true,
        .replayAcc (.s 9) 3 1 (.s 1) (.s 2), .a2a .sum false (.s 9) 1 (.s 1) (.s 3), .mbw 7 (.s 1), .done] : List Instr).all
        (fun i => !regionWord i) = true ∧
      ([.ld (.s 9) (.s 1) 3 1 .b8 false false 0, .cpgo (.s 9) 1 3 .stream, .lookup .sum false (.s 9) 3 1 (.s 1) (.s 2) (.s 3),
        .idemEnd, .halt] : List Instr).all regionWord = true ∧
      ((rig (fun m => { m with handler := some ⟨0, .v, ⟨[], 1⟩, ⟨[], 2⟩, ⟨[], 3⟩, ⟨[], 4⟩, 0x10008, true, 0, 1, none, some (waiting .ready), []⟩ }) id .c).m.issuer.any
        fun x => x.2.handler.any fun h => h.cback.isSome) = true := by decide +kernel

/-- A request for pre-emption with a region of A open, and with A escalated at the halt. -/
theorem witness_region_halts :
    let g : Region := ⟨0, [0, 0, 0, 0], [0, 0, 0, 0], [], 1, [], [], 0⟩
    let m : Member := { loadMember .a 0 with preempt := true, region := some g, epoch := 1 }
    let e : Member := { m with escalated := some (.a, ⟨0x21, true, 0, 0, [], false⟩), freeze := .escalated }
    (rigM (fun _ => m) id .a).member r0 = some m ∧ m.preempt = true ∧ m.core.isSome = true ∧ m.region = some g ∧
      m.raised = [] ∧ (rigM (fun _ => e) id .a).member r0 = some e ∧ e.escalated.isSome = true ∧ e.raised = [] := by decide +kernel

/-- The stack of the test pages switches its mode. -/
def switching (M : Mach) : Mach := M.updStack 0 fun x => { x with switching := some true }

/-- Memory words at a stack that switches its mode, and an L1 with room in the line's set. -/
theorem witness_switching_stacks :
    let i : Instr := .ldacq .pkg (.s 9) (.s 1) 3 .b8 0
    let a : Instr := .aadd ⟨.s 9, .s 1, .s 2, .rlx, true⟩
    let sc : Instr := .scadd (.s 4) (.s 1) (.s 2) (.s 3) .i32 1
    let e (c : Ctx) : ScaddEnd :=
      scaddLoop c.mem c.st 0 (c.reg (.s 4)).toNat (toHomes c.M c.mem.ref c.st)
        ⟨c.reg (.s 1), c.reg (.s 2), c.reg (.s 3), .i32, 64, (c.reg (.s 4)).toNat, 0, 0⟩
    let stack (c : Ctx) : Bool := (spanStack c.M (c.span .atomic 0x20000 16)).isSome
    (((rigM id id .c).core 0).l1.filter fun x => (loadMember .c 0).sameSet x.line (0x20000 / 64)).length < 8 ∧
      (meets i (at4 0x20000 0 0 0 switching .c) fun c => c.mem.slotFree 3 && c.default 0x20000 8 && (c.M.switchingAt 0x20000).isSome) = true ∧
      (meets a (at4 0x20000 1 2 0 switching .a) stack) = true ∧
      (meets a (at4 0x20000 1 2 0 id .a) fun c => !stack c) = true ∧
      (meets sc (at4 0x20000 0x30000 0x30040 1 switching .a) fun c => (e c).stop.isNone && (e c).held.isSome) = true ∧
      (meets sc (at4 0x20000 0x30000 0x30040 1 id .a) fun c => (e c).stop.isNone && (e c).held.isNone) = true ∧
      (meets (.rel (.s 9) (.s 1) .pkg) (at4 0x20000 0 0 0 (fun M => switching (object 7 1 M)) .c) stack) = true ∧
      (meets (.acqX (.s 9) (.s 1) .pkg) (at4 0x20000 0 0 0 (fun M => switching (object 7 1 M)) .c) stack) = true ∧
      scaddHeld (rigM id id .a) (loadMember .a 0) ⟨0x20000, 0x30000, 0x30040, .i32, 64, 1, 0, 0⟩ = none := by decide +kernel

/-- An ACQ.ge that waited and was answered at a write, on an object and on the default object; ACQ.nw of the default object
with and without writes outstanding. -/
theorem witness_answered_acquires :
    let got (w : WaitCond) : State :=
      rig (fun m => (regs .c [(1, 0x20000), (2, 9)] m).updStr .c fun q => { q with wait := some ⟨.acq, w, 0, 0, 0, 100, some 1, some 9⟩ })
        (object 7 1) .c
    let nw : Instr := .acqNw (.s 9) .zero .pod
    (meets (.acqGe (.s 9) (.s 1) .pkg 2) (got (.versionGe 0 0x20000 9)) fun c => c.met (.versionGe 0 0x20000 0) == some 9 &&
        spanHere (c.span .atomic 0x20000 16)) = true ∧
      (meets (.acqGe (.s 9) .zero .pkg 2) (got (.defverGe 9)) fun c => c.met (.defverGe 0) == some 9 && c.reg .zero == 0) = true ∧
      (meets nw (two .c) fun c => c.s.imprecise.isEmpty && !outstanding (release c.M c.mem.ref c.st .pod) c.mem.ref c.st) = true ∧
      (meets nw (rig id posted .c) fun c => c.s.imprecise.isEmpty && outstanding (release c.M c.mem.ref c.st .pod) c.mem.ref c.st) = true := by
  decide +kernel

/-- Words held for a stack or for a block of another device, walks found and not found, and ACQs answered at a write. -/
theorem witness_held_answers :
    let stack (j : Job) : Untimed := { waiting (.stack 0) with job := j }
    let again : Untimed :=
      { waiting (.fetched 1) with job := .again (Vector.replicate 32 0) (Vector.replicate 8 0) 0, raw := sy 0x62 0 0 0 0 }
    let with_ (u : Untimed) (m : Member) : Member := m.updStr .c fun q => { q with untimed := some u }
    let row (code : Option Nat) : Fetch := ⟨r0, 1, ⟨1, 2⟩, 1, 0x40000, 64, code, [], none⟩
    let M := rigM id id .c
    let w (r : WalkResult) (j : List (Nat × Nat)) : Walk := ⟨0, 0, 0x20000, j.map fun x => (x.1, w64 x.2), r⟩
    let asks (c : WaitCond) (g : Mach → Mach) (P : Mach → Bool) : Bool :=
      let N := rigM (inWait .acq c) g .c
      P N && (N.member r0).any fun m => (m.str .c).wait.any fun x => x.cond == c && x.granted.isNone
    (stack (.scadd ⟨0x20000, 0x30000, 0x30040, .i32, 64, 1, 0, 0⟩)).scadds = true ∧ (stack (.atom 0x50 true .rlx 0x20000 1 0)).scadds = false ∧
      (with_ (stack .nothing) (loadMember .c 0)).mayLand .c = true ∧ (M.hbm.all fun x => x.switching.isNone) = true ∧
      (decode again.raw).isOk = true ∧ (with_ again (loadMember .c 0)).mayLand .c = true ∧ (row (some 0)).code ≠ none ∧
      (w (.fault ⟨0x02, 3, 0, 0, false⟩) [(0, 0x20000)]).result ≠ .found (page 0x20000 0x20000) ∧
      ((leafAllows p0 .read 0x20000 (page 0x20000 0x20000)).toOption.any fun e => e.target 0x20000 == .local 0x20000) = true ∧
      asks (.versionGe 0 0x20000 7) (object 7 1) (fun N => (N.switchingAt 0x20000).isNone && !N.poisoned 0x20000 16
        && objWellFormed (N.word 0x20008).toNat) = true ∧
      asks (.notHeld 0x20000) (object 7 2) (fun N => !objWellFormed (N.word 0x20008).toNat) = true ∧
      asks (.notHeld 0x20000) (object 7 1) (fun N => !(N.word 0x20008).getLsbD 63) = true ∧
      asks (.defverGe 0) id (fun N => (N.part 0).any fun p => decide (0 ≤ p.defver.toNat)) = true := by decide +kernel

/-- Engines, members and verge writes of a partition with a switching stack are held, others not. -/
theorem witness_held_engines :
    enginesHeld (rigM id switching .c) 0 = true ∧ enginesHeld (rigM id id .c) 0 = false ∧ enginesHeld (rigM id switching .c) 1 = false ∧
      (let u (o : Option Bool) : Member := (loadMember .c 0).updStr .c fun q => { q with untimed := some (waiting (.acq 4 100 o)) }
       (u (some false)).unsettled (rigM id id .c) = true ∧ (u none).unsettled (rigM id id .c) = false) ∧
      ((queueS [] none switching).m.queue ⟨0, 5⟩).any (fun x => x.2.running && x.2.delay.isNone) = true ∧
      enginesHeld (queueS [] none switching).m 0 = true ∧ runs (queueS [] none id) (fun p _ => !enginesHeld (queueS [] none id).m p.id) = true ∧
      live (.lookup (lookup2 .sum)) (bagMemory 0 2) = true ∧
      enginesHeld (rigM (busy (.lookup (lookup2 .sum))) (bagMemory 0 2) .a) 0 = false := by decide +kernel

/-- A report whose owner's word is on a page nobody may write, and a bucket that came in a packet. -/
theorem witness_packet_buckets :
    let q : Packet :=
      { addr := 0, key := 77, seq := 7, ack := 5, kind := 8, hops := 1, len := 1, src := ⟨1, 2⟩, sprt := 1, dst := ⟨0, 0⟩, dprt := 0,
        kspec := 0, payload := bucketPayload (bucket0 77 5), resvd := 0 }
    (packetBucket q).via.isSome = true ∧ (bucket0 77 5).via = none ∧ bucketPayload (packetBucket q) = q.payload := by decide +kernel

/-- A poisoned export table, a load the ports have still to make, partitions on a device that is ready, and a task that has
failed already. -/
theorem witness_table_changes :
    let bad := partS id fun M => { M with poison := [0x100000 / 64] }
    let l : ExportLoad := ⟨[⟨0x10000, 2, false, false, true, true⟩], 5, 1⟩
    let S : State := partS id id
    homePoison bad.m [(0x100000, 32)] = some 0x100000 ∧ homePoison S.m [(0x100000, 32)] = none ∧
      (partS (fun p => { p with exportLoads := [l] }) id).m.part 0 = some { p0 with exportLoads := [l] } ∧
      l.start < l.madeAt 3 ∧ S.host.boot = .ready ∧ State.reset.host.boot ≠ .ready ∧
      ((S.m.part 0).any fun p => p.dies == 8 && p.key == 77) = true ∧
      ({ S with m := { S.m with members := [] } } : State).m.part 0 = some p0 ∧ p0.dies ≠ 0 ∧ 0 + 8 ≤ 8 ∧ partShape S.m 0 4 = true ∧
      tcbState (controlOf (taskS 5 1 3 id)) = 5 := by
  refine ⟨by decide +kernel, by decide +kernel, by decide +kernel, ?_, by decide +kernel, by decide +kernel, by decide +kernel,
    by decide +kernel, by decide +kernel, by decide +kernel, by decide +kernel, by decide +kernel⟩
  simp only [ExportLoad.madeAt]; omega

/-- Iterations claimed by the die, none claimed with a member free and with none, and what is overdrawn at a boundary. -/
theorem witness_claims :
    let s (t : Task) (f : Member → Member) : State := rig f (fun M => taskAt 3 0 3 ({ M with dieTlb := [(0, tlb0)] }.updPart 0 fun p => { p with tasks := [t] })) .c
    let ready (m : Member) : Member := { m with c := { m.c with running := false } }
    let look (t : Task) (f : Member → Member) (P : Bool → List Task → List Task → Bool) : Bool :=
      let M := (s t f).m
      (M.part 0).any fun p =>
        let free := M.members.any fun m => m.ref.part == p.id && m.die == 0 && m.isFree M
        P free (p.tasks.filter fun t => t.failed.isNone && (t.claimOf 0).isSome && !(permitted M p 0 t).isEmpty)
          (p.tasks.filter fun t => free && t.unclaimed && (t.claimOf 0).isNone && !(permittedAll M p 0 t).isEmpty)
    look (task0 3 [(0, 0, 2)] 1 0) ready (fun free c _ => free && c.length == 1) = true ∧
      look (task0 3 [] 1 0) ready (fun free c n => free && c.isEmpty && n.length == 1) = true ∧
      look (task0 3 [] 1 0) (fun m => { m with task := some (0x20000, 0) }) (fun free c n => !free && c.isEmpty && n.isEmpty) = true ∧
      ({ p0 with cpUsed := 7 } : Part).overdrawn = true ∧ p0.overdrawn = false := by decide +kernel

/-- A member of a context on a die that is fenced, and on one that is not. -/
theorem witness_fenced_contexts :
    let M := rigM id id .c
    (∃ m ∈ M.members, m.core.map (· / 32) = some 0 ∧ m.ref = r0) ∧ (∃ p ∈ M.parts, p.id = 0 ∧ p.owns 0 = true ∧ loadContext ∈ p.ctxs) ∧
      0 ∈ M.liveDies ∧ loadContext.id = r0.ctx := by decide +kernel

/-- A closed connection, an answer of the wrong size, a packet to a stack that switches, a CLOSE in its turn, early and
repeated, and a local packet whose partition's turn at the port it is not. -/
theorem witness_turned_away :
    let o : Origin := .request r0 .c 4
    let rd := packet0 0 0x20000 8 []
    let M := portM id id
    let shut := portM (fun c => { c with state := .closed }) id
    let asks (c : Conn) : Conn := { c with asked := [(3, o)] }
    let long := packet0 6 3 0 (zeros 128)
    let bye (n : Nat) : Packet := { packet0 7 0 2 [] with seq := n }
    let mine (k : Nat) : Packet := { packet0 1 0 8 (zeros 64) with src := ⟨0, 0⟩, sprt := k, dst := ⟨1, 2⟩ }
    let inj : Mach := { podM [1] id with transit := [mine 0, mine 1], injTurn := [(1, 0)] }
    (shut.conn (cameBy rd)).any (fun c => c.state == .closed && rspFits c rd) = true ∧ packetOk long = true ∧
      rspFits (asks conn0) long = false ∧ rspFits (asks conn0) (packet0 6 3 0 (zeros 64)) = true ∧
      packetHeld (portM id switching) rd = true ∧ packetHeld M rd = false ∧
      packetOk (bye 7) = true ∧ (bye 7).seq = conn0.expect ∧ (∀ q ∈ conn0.early, q.seq ≠ (bye 9).seq) ∧
      seqBefore (bye 9).seq conn0.expect = false ∧ seqBefore (bye 6).seq conn0.expect = true ∧
      (portM id fun M => { M with conns := [] }).conn (cameBy (bye 7)) = none ∧
      injectNext inj (mine 0) 1 = some 1 ∧ injectNext { podM [1] id with transit := [mine 0] } (mine 0) 1 = some 0 ∧
      injectNext inj (mine 1) 1 = some (mine 1).sprt := by decide +kernel

/-- Before and after the end of a lease; a window that reaches every byte, one that reaches none. -/
theorem witness_reached_windows :
    let s : State := rig id id .c
    let reached (boot : Bool) (off n : Nat) : Bool :=
      let pa := if boot then off else s.host.apbase * 0x400000000 + off
      decide (off + n ≤ (if boot then 0x10000000 else 0x400000000)) &&
        (List.range n).all fun i => paExists (pa + i) && windowOk s.m (pa + i) && !fenced s.m (pa + i)
    s.host.ownerAt s.m.wclk = some .port0 ∧ s.host.ownerAt 1000 = none ∧ State.reset.host.ownerAt 0 = none ∧
      reached false 0x3FFFFFFF8 8 = true ∧ reached false 0x3FFFFFFF9 8 = false ∧ reached true 0xFFFFFF8 8 = true ∧
      reached true 0x10000000 1 = false := by decide +kernel

/-! ### Results the spec works out -/

/-- A register of the rig's stream 100 cycles after a word. -/
def after (i : Instr) (s : State) (st : Strm) (n : BitVec 5) : Option Word :=
  match exec i s with
  | .next t => (t.m.member r0).map fun m => ((m.str st).settle 100).main n
  | _ => none

/-- R235's example: DIV of -7 by 2 gives -3, and REM gives -1. -/
theorem test_division :
    let s := rig (regs .v [(1, BitVec.ofInt 64 (-7))]) id .v
    after (.div (.s 5) (.reg (.s 1)) (.imm 2)) s .v 5 = some (BitVec.ofInt 64 (-3)) ∧
      after (.rem (.s 5) (.reg (.s 1)) (.imm 2)) s .v 5 = some (BitVec.ofInt 64 (-1)) := by decide +kernel

/-- LI s3, 0x89ABCDEF sign-extends; LIH s3, 0x01234567 then leaves 0x0123456789ABCDEF (the example beside R236). -/
theorem test_long_immediates :
    after (.li (.s 3) 0x89ABCDEF) (two .c) .c 3 = some 0xFFFFFFFF89ABCDEF ∧
      after (.lih (.s 3) 0x01234567) (rig (regs .c [(3, 0xFFFFFFFF89ABCDEF)]) id .c) .c 3 = some 0x0123456789ABCDEF := by decide +kernel

/-- The example after R199: 1,000,000 and -3 as residues, and their sum. -/
theorem test_residues :
    rnEnc 1000000 = 0x00000007184802BA ∧ rnEnc (-3) = 0x0000007FFBFFBFFC ∧
      rnAdd (rnEnc 1000000) (rnEnc (-3)) = rnPack 695 573 451 ∧ rnVal (rnPack 695 573 451) = 999997 := by decide +kernel

/-- R202's examples: -0.3 as INT8, -2^-12 as BF16, -2^-20 as E4M3. -/
theorem test_small_conversions :
    vConvert .fp32 .i8 false true 0xBE99999A = 0 ∧ vConvert .fp32 .i8 true true 0xBE99999A = 0 ∧
      fCvt fp32 Sys2Proof.Machine.bf16 false false 0xB9800000 = 0xB980 ∧ fCvt fp32 e4m3 false false 0xB5800000 = 0x80 := by
  decide +kernel

/-- The K-tile of five elements worked out after R211: P is 0x4040A000; as E4M3 it is 0x44, as INT8 3. -/
theorem test_tile_scaled :
    let f : FFmt := Sys2Proof.Machine.bf16
    let a := quantise f ([0x4040, 0x3C00, 0x3AC0, 0x3A80, 0x3A00] ++ List.replicate 123 0)
    let b := quantise f (List.replicate 5 0x3F80 ++ List.replicate 123 0)
    a.q.take 5 = [1536, 4, 1, 0, 0] ∧ a.se = -9 ∧ b.se = -10 ∧ scaledTerm a b = 0x4040A000 ∧
      fCvt fp32 e4m3 false true 0x4040A000 = 0x44 ∧ vToRange false (-128) 127 (fDec fp32 0x4040A000) = 3 ∧
      scaledTerm (quantise f [0x4040, 0x7FC0]) (quantise f [0x3F80, 0x3F80]) = 0x7FC00000 := by decide +kernel

/-- Segments of R214's rectifier capped at 6: at 100, at -0, at 2.5 and at -1 (at infinity see assumption 20). -/
theorem test_activation :
    let entry (xb a c : Nat) : List Byte := leBytes 4 xb ++ leBytes 4 a ++ leBytes 4 c ++ zeros 20
    let tab := entry 0 0 0 ++ entry 0 0x3F800000 0 ++ entry 0x40C00000 0 0x40C00000
    [0x42C80000, 0x80000000, 0x40200000, 0xBF800000].map (fun y => actSegment tab y 2) = [2, 1, 1, 0] := by decide +kernel

/-- The table of VDOT lengths: 2^24 and two ones in either order. -/
theorem test_dot :
    let ones := List.replicate 3 0x3F800000
    vDot .fp32 false [] [] = 0 ∧ vDot .fp32 false [0x4B800000] ones = 0x4B800000 ∧
      vDot .fp32 false [0x4B800000, 0x3F800000, 0x3F800000] ones = 0x4B800000 ∧
      vDot .fp32 false [0x3F800000, 0x3F800000, 0x4B800000] ones = 0x4B800001 := by decide +kernel

/-- The four groups of the pruning example (R289). -/
theorem test_pruning :
    keptPair .bf16 [0x3F00, 0xC040, 0x8000, 0x4000] = (1, 3) ∧ keptPair .bf16 [0, 0x8000, 0x40E0, 0] = (0, 2) ∧
      keptPair .bf16 [0x7FC0, 0x3F80, 0x3F80, 0x40A0] = (0, 3) ∧ keptPair .bf16 [0x3F80, 0x3F80, 0x3F80, 0x3F80] = (0, 1) := by
  decide +kernel

/-- VADD of rows 0 to 3 onto rows 1 to 4: 1, 2, 3, 4, 5 becomes 1, 2, 4, 6, 8 (R268). -/
theorem test_overlapping_rows :
    let s := rig id (fun M => [0, 1, 2, 3, 4].foldl (fun M j => M.put (0x040000000000 + 128 * j) [BitVec.ofNat 8 (j + 1)]) M) .v
    (match exec (.vadd ⟨1, 0, 0, .i32, 3, plainM⟩) s with
      | .next t => (List.range 5).map fun j => t.m.word32 (0x040000000000 + 128 * j)
      | _ => []) = [1, 2, 4, 6, 8] := by decide +kernel

/-- The walk worked out in 01: PVA 0x00030201_40C70123 lies at 0x23450123. -/
theorem test_walk :
    let M := [(0x100030, 0x102001), (0x102040, 0x104001), (0x104050, 0x106001), (0x106060, 0x108001), (0x108070, 0x2345000E)].foldl
      (fun (M : Mach) x => M.put x.1 (leBytes 8 x.2)) (rigM id id .c)
    (match walk M 0 { p0 with ptroot := 0x100001 } 0x0003020140C70123 with
      | .ok e => some (e.target 0x0003020140C70123, e.r, e.w, e.x)
      | .error _ => none) = some (.local 0x23450123, true, true, false) := by decide +kernel

/-- Four contributions 5, -3, 7 and 1 to one RN3 element add up to the residues of 10 (R47). -/
theorem test_combining :
    let row (v : Int) : List Byte := leBytes 8 (rnEnc v) ++ zeros 56
    let add (old new : List Byte) : List Byte := combineInto .rn3 true (BitVec.allOnes 64) old new
    leNat (((add (add (add (row 5) (row (-3))) (row 7)) (row 1)).take 8)) = rnPack 10 10 10 := by decide +kernel

/-- Key 1 of the sketch example: hash indices, and the set of 2^12; a region of 2^14 sets of 512-byte slots. -/
theorem test_hot_rows :
    (List.range 4).map (fun i => hashIdx i 1) = [0xA3C5, 0xD71F, 0x5B94, 0xC6E1] ∧ keySet (BitVec.ofNat 64 (12 * 2 ^ 4)) 1 = 2620 ∧
      hrSlot (BitVec.ofNat 64 (14 * 2 ^ 4 + 3 * 2)) = 512 ∧ hrSize (BitVec.ofNat 64 (14 * 2 ^ 4 + 3 * 2)) = 128 * 2 ^ 20 ∧
      (4 : Nat) + 1 % ({ p0 with id := 4, dies := 2 } : Part).chips = 5 ∧ ({ p0 with id := 4, dies := 2 } : Part).chipOf 1 = 9 := by
  decide +kernel

/-- The windowed copy example: zeros outside the windows, source S + 64 at iteration 1, overflow at iteration 2. -/
theorem test_copy_windows :
    let k (org : Int) (ext : Nat) : CopyCfg :=
      let c := ((loadMember .a 0).copy.setLevel 0 fun _ => ⟨4, ⟨4, org, ext⟩, ⟨4, 0, 0⟩⟩).setLevel 1 fun _ => ⟨3, ⟨32, 2, 4⟩, ⟨16, 0, 0⟩⟩
      { c with srcBase := 0x1000, dstBase := 0x2000 }
    let src (c : CopyCfg) (p : Nat) : Option (Option Int) :=
      (c.coords false p none).map fun cs => if c.outside false cs then none else c.address false cs
    (List.range 9).map (src (k (-1) 8)) =
        [some none, some (some 0x1040), some (some 0x1044), some (some 0x1048), some none, some (some 0x1060), some (some 0x1064),
          some (some 0x1068), some none] ∧
      ((k (-1) 8).coords true 4 none).bind ((k (-1) 8).address true) = some 0x2010 ∧
      src (k 0x7FFFFFFE 0) 0 = some (some (0x1000 + 0x7FFFFFFE * 4 + 64)) ∧ src (k 0x7FFFFFFE 0) 2 = none := by decide +kernel

/-- The SCADD example: rows 2, a pad, 2 of 64 bytes; row 2 becomes 2^25, and one pad is counted (R257). -/
theorem test_scatter_add :
    let M (M : Mach) : Mach :=
      (((M.put 0x30000 (leBytes 4 2 ++ [255, 255, 255, 255] ++ leBytes 4 2)).put 0x20080 (leBytes 4 0x4B800000)).put 0x30040
        (leBytes 4 0x3F800000)).put 0x300C0 (leBytes 4 0x4B800000)
    let s := at4 0x20000 0x30000 0x30040 3 M .a
    (match exec (.scadd (.s 4) (.s 1) (.s 2) (.s 3) .fp32 1) s with
      | .next t => some (t.m.word32 0x20080, (t.m.member r0).map fun m => (m.a.untimed.map fun u => u.writes))
      | _ => none) = some (0x4C000000, some (some [(.s 4, 1)])) := by decide +kernel

/-- Verge cells of a dimension of 16 cells with widths 2 (the example beside R135). -/
theorem test_verge_mapping :
    let at_ (bc : Nat) : List Int := [-1, -2, 16, 17].map (mapCoord 16 bc)
    at_ 2 = [0, 0, 15, 15] ∧ at_ 3 = [1, 2, 14, 13] ∧ at_ 4 = [15, 14, 0, 1] := by decide +kernel

/-- Iteration 6 of the chunked nest: s1 = 1, s2 = 2 (R384). -/
theorem test_iteration_registers :
    let nest : List Word := [BitVec.ofNat 64 (1 + 1 * 2 ^ 8 + 5 * 2 ^ 32), 3 + 4 * 2 ^ 32, 0, 0]
    let t : Task := { task0 3 [] 0 0 with counts := [3, 4, 1, 1, 1, 1], nest := nest }
    let c := ((loadMember .c 0).start p0 t 6 0).c
    [c.main 1, c.main 2, c.main 3, c.main 7] = [1, 2, 0, 9] := by decide +kernel

/-- The shard example: lists and local indices of three ranges (R370). -/
theorem test_shards :
    let x : List Word := [0, 0, 0, 0, 0, 0, BitVec.ofNat 64 (2 * 2 ^ 16), 0]
    let map := [0, 100, 250].flatMap fun b => leBytes 8 0 ++ leBytes 8 b
    [120, 5, 260, 101, 7].map (shardOf x map) = [(1, 20), (0, 5), (2, 10), (1, 1), (0, 7)] := by decide +kernel

/-- Row-wise Adagrad of the coalescing example: rows 5 and 9 (R364). -/
theorem test_adagrad :
    let t : List Word := [0, 0, 0, 10, BitVec.ofNat 64 (1 + 2 ^ 25 + 2 ^ 26 + 4 * 2 ^ 28), 0x338000003F000000, 0, 0]
    optimise .adag t (leBytes 4 0 ++ leBytes 4 0x3F800000 ++ leBytes 4 0x40000000) [0x40000000, 0x40000000] =
        leBytes 4 0x40800000 ++ leBytes 4 0x3F000000 ++ leBytes 4 0x3FC00000 ∧
      optimise .adag t (zeros 12) [0x40800000, 0] = leBytes 4 0x41000000 ++ leBytes 4 0xBF3504F3 ++ leBytes 4 0 := by decide +kernel

/-- Pooling 2^24 and two ones in either order (R216's example). -/
theorem test_pooling :
    let pool (l : List Nat) : Option (List Nat) := l.foldl (fun a x => some (poolStep .sum a [x] 0)) none
    pool [0x4B800000, 0x3F800000, 0x3F800000] = some [0x4B800000] ∧ pool [0x3F800000, 0x3F800000, 0x4B800000] = some [0x4B800001] := by
  decide +kernel

/-- A duplicate sector sets TDUP; the last of 32 makes the tile FULL (the worked fill of 02, R43). -/
theorem test_fill :
    let m : Member := (loadMember .v 0).setTile 6 { TileRec.fresh with exp := 32, tag := .filling, cnt := 31, map := BitVec.ofNat 128 (2 ^ 31 - 1) }
    let go (s : Nat) : Option (Tag × Nat × Bool) :=
      let a : Arrival := { arrivalAt 6 0 with sector := s, region := none }
      ((applyArrival (rigM (fun _ => m) id .v) m a).member r0).map fun x => ((x.tile 6).tag, (x.tile 6).cnt, (x.tile 6).tdup)
    go 19 = some (.filling, 31, true) ∧ go 31 = some (.full, 32, false) := by decide +kernel

/-- TRAP in a handler-less member escalates; with TVEC set it enters the handler with its cause and resumes after it (R158). -/
theorem test_trap_entry :
    let s (h : Word) : State := rig (fun m => { m with tvec := h }) id .a
    let look (t : Host.Outcome State Fault Refusal) : Option (Freeze × Option Word × Word × Word) :=
      match t with
      | .next t => (t.m.member r0).map fun m => (m.freeze, m.handler.map fun _ => m.c.pc, m.tcause, m.tepc)
      | _ => none
    (look (exec (.trap (.imm 3)) (s 0x20000))).map (fun x => (x.1, x.2.1, x.2.2.2)) = some (.none, some 0x20000, 0x1000008) ∧
      (look (exec (.trap (.imm 3)) (s 0))).map (fun x => (x.1, x.2.1)) = some (.escalated, none) := by decide +kernel

/-- The words of `RegisterWordsLeaveTheRest`, each with its one result or none. -/
theorem witness_register_words :
    ([.nop, .j 1, .jr (.s 1) 0, .ret (.s 1), .call (.s 1) 2, .bc .eq (.s 1) (.s 2) 4, .add (.s 3) (.reg (.s 1)) (.imm 5),
        .div (.s 3) (.reg (.s 1)) (.reg (.s 3)), .fopAdd .none (.reg (.s 1)) (.reg (.s 2)) true] : List Instr).all
      (fun i => meets i (two .a) fun c => (registerResults i c).isSome) = true := by decide +kernel

end Sys2Proof.Tests
end

/-!
PROOFS. How the mailbox words (R39, R265) and the tag words (R41, R43, R44, R266) end: one lemma for each word, about its
context `c` and its tile `t`.
-/

namespace Sys2Proof.Machine

/-! ### Issuing a word outside a region, and the operands of the tag words -/

/-- Outside a region at the issue means outside one in the context of the issue (R163). -/
theorem NoRegion.inRegion_ctx {k : Cur} {m : Member} (h : NoRegion k m) (M : Mach) : (k.ctx M m).inRegion = false := by
  cases hs : k.st with
  | a => simp [Ctx.inRegion, Cur.ctx, h hs]
  | _ => simp [Ctx.inRegion, hs]

/-- A word of no region, issued outside one, ends as its meaning `f` says. -/
theorem Issues.ends_of_wordOut {i : Instr} {f : Ctx → Res} {s : State} {k : Cur} {m : Member} {c : Ctx} {r : Res}
    (h : Issues i s k m) (hn : NoRegion k m) (hc : k.ctx s.m m = c) (hx : exec i s = wordOut i f s) (hf : f c = r) :
    Ends i s k m r := by
  rw [Ends, hx, ← hf, ← hc]
  exact wordOut_valid h.here h.stream (hn.inRegion_ctx s.m)

/-- The statements' name for the illegal-operand trap of the word being issued. -/
theorem illOpnd_of_ctx {k : Cur} {M : Mach} {m : Member} {c : Ctx} (hc : k.ctx M m = c) : illOpnd c.raw = badOperand k := by
  subst hc; rfl

/-- A tile past the member's count is no tile operand (R258). -/
theorem Ctx.tileOp_of_le {c : Ctx} {x : Reg} {t : Nat} (hx : (c.reg x).toNat = t) (h : c.mem.tilesN ≤ t) :
    c.tileOp x = none :=
  if_neg (by omega)

/-- A tile below it is. -/
theorem Ctx.tileOp_of_lt {c : Ctx} {x : Reg} {t : Nat} (hx : (c.reg x).toNat = t) (h : t < c.mem.tilesN) :
    c.tileOp x = some t := by
  subst hx; exact if_pos h

/-- One tile is settled when it is POISONED or readable. -/
theorem Member.tagsSettled_singleton (m : Member) (t : Nat) :
    m.tagsSettled [t] = ((m.tile t).tag == .poisoned || m.readable t) := by
  simp [Member.tagsSettled]

/-- A POISONED tile is not readable. -/
theorem Member.readable_of_poisoned {m : Member} {t : Nat} (h : (m.tile t).tag = .poisoned) : m.readable t = false := by
  simp [Member.readable, h]

/-! ### Mailboxes (R39, R155, R265) -/

section Mailboxes

variable {s : State} {k : Cur} {m : Member} {c : Ctx} {mb : BitVec 3}

/-- MBW waits for an empty box and its turn; then it releases at the core scope and fills the box. -/
theorem mbw_ends {x : Reg} (h : Issues (.mbw mb x) s k m) (hn : NoRegion k m) (hc : k.ctx s.m m = c) :
    (((c.mem.mbs[mb.toNat]'mb.isLt).2 = true ∨ c.mustQueue (.mailboxEmpty mb.toNat) = true) →
      Ends (.mbw mb x) s k m (.wait .mailbox (.mailboxEmpty mb.toNat))) ∧
    ((c.mem.mbs[mb.toNat]'mb.isLt).2 = false → c.mustQueue (.mailboxEmpty mb.toNat) = false →
      Ends (.mbw mb x) s k m
        (.done
          ((release c.M c.mem.ref c.st .core).updMember c.mem.ref fun y =>
            { y with mbs := y.mbs.set mb.toNat (c.reg x, true) mb.isLt }))) := by
  have ends {r : Res} := h.ends_of_wordOut hn hc (r := r) (exec_mbw mb x s)
  refine ⟨fun hw => ends ?waits, fun hb hq => ends ?fills⟩
  case waits => exact if_pos (by simpa using hw)
  case fills => exact if_neg (by simp [hb, hq])

/-- MBR waits for a full box and its turn; then it empties the box and its value is the result. -/
theorem mbr_ends {d : Dst} (h : Issues (.mbr d mb) s k m) (hn : NoRegion k m) (hc : k.ctx s.m m = c) :
    (((c.mem.mbs[mb.toNat]'mb.isLt).2 = false ∨ c.mustQueue (.mailboxFull mb.toNat) = true) →
      Ends (.mbr d mb) s k m (.wait .mailbox (.mailboxFull mb.toNat))) ∧
    ((c.mem.mbs[mb.toNat]'mb.isLt).2 = true → c.mustQueue (.mailboxFull mb.toNat) = false →
      Ends (.mbr d mb) s k m
        (.done
          (c.resultOn
            (c.upd fun y => { y with mbs := y.mbs.set mb.toNat ((c.mem.mbs[mb.toNat]'mb.isLt).1, false) mb.isLt }) 1 d
            (c.mem.mbs[mb.toNat]'mb.isLt).1))) := by
  have ends {r : Res} := h.ends_of_wordOut hn hc (r := r) (exec_mbr d mb s)
  refine ⟨fun hw => ends ?waits, fun hb hq => ends ?empties⟩
  case waits => exact if_pos (by simpa using hw)
  case empties => exact if_neg (by simp [hb, hq])

end Mailboxes

section TagWords

variable {s : State} {k : Cur} {m : Member} {c : Ctx} {x : Reg} {t : Nat}

/-! ### Words that change a tag (R41, R43, R266) -/

/-- TAGARM wants a tile of the member that is EMPTY and a count from 1 to 128; it arms the tile. -/
theorem tagarm_ends {y : Reg} {ct : CType} {n : BitVec 6} {e : Nat} (h : Issues (.tagarm x y ct n) s k m)
    (hn : NoRegion k m) (hc : k.ctx s.m m = c) (hx : (c.reg x).toNat = t) (hy : (c.reg y).toNat = e) :
    (c.mem.tilesN ≤ t ∨ e = 0 ∨ 128 < e ∨ (c.mem.tile t).tag ≠ .empty →
      Traps (.tagarm x y ct n) s k m (badOperand k)) ∧
    (t < c.mem.tilesN → 0 < e → e ≤ 128 → (c.mem.tile t).tag = .empty →
      Ends (.tagarm x y ct n) s k m
        (.done (c.M.updMember c.mem.ref fun z =>
          z.setTile t { c.mem.tile t with exp := e, mulm1 := n.toNat, ctype := ct, tdup := false }))) := by
  have ends {r : Res} := h.ends_of_wordOut hn hc (r := r) (exec_tagarm x y ct n s)
  refine ⟨fun hbad => ends ?traps, fun ht he0 he hr => ends ?arms⟩
  case traps =>
    rcases Nat.lt_or_ge t c.mem.tilesN with ht | ht
    · have hbad' := hbad.resolve_left (Nat.not_le.mpr ht)
      simp only [Ctx.tileOp_of_lt hx ht, hy, illOpnd_of_ctx hc]
      exact if_pos (by simpa [or_assoc] using hbad')
    · simp only [Ctx.tileOp_of_le hx ht, illOpnd_of_ctx hc]
  case arms =>
    simp only [Ctx.tileOp_of_lt hx ht, hy]
    exact if_neg (by simpa using ⟨⟨he0.ne', he⟩, hr⟩)

/-- TAGSET.full wants a tile of the member that is not POISONED; it releases at the core scope, and fills a tile that is
not FULL yet. -/
theorem tagsetFull_ends (h : Issues (.tagsetFull x) s k m) (hn : NoRegion k m) (hc : k.ctx s.m m = c)
    (hx : (c.reg x).toNat = t) :
    (c.mem.tilesN ≤ t ∨ (c.mem.tile t).tag = .poisoned → Traps (.tagsetFull x) s k m (badOperand k)) ∧
    (t < c.mem.tilesN → (c.mem.tile t).tag = .full →
      Ends (.tagsetFull x) s k m (.done (release c.M c.mem.ref c.st .core))) ∧
    (t < c.mem.tilesN → (c.mem.tile t).tag = .empty ∨ (c.mem.tile t).tag = .filling →
      Ends (.tagsetFull x) s k m
        (.done ((release c.M c.mem.ref c.st .core).updMember c.mem.ref fun z =>
          z.setTile t
            { c.mem.tile t with
              cnt := (c.mem.tile t).exp * ((c.mem.tile t).mulm1 + 1)
              tag := .full
              acq := (c.mem.tile t).acq.join .core }))) := by
  have ends {r : Res} := h.ends_of_wordOut hn hc (r := r) (exec_tagsetFull x s)
  refine ⟨fun hbad => ends ?traps, fun ht hr => ends ?stays, fun ht hr => ends ?fills⟩
  case traps =>
    rcases Nat.lt_or_ge t c.mem.tilesN with ht | ht
    · have hr := hbad.resolve_left (Nat.not_le.mpr ht)
      simp only [Ctx.tileOp_of_lt hx ht, hr, illOpnd_of_ctx hc]
    · simp only [Ctx.tileOp_of_le hx ht, illOpnd_of_ctx hc]
  case stays => simp only [Ctx.tileOp_of_lt hx ht, hr]
  case fills => rcases hr with hr | hr <;> simp only [Ctx.tileOp_of_lt hx ht, hr, TileRec.target]

/-- TAGSET.poison poisons a tile of the member, with cause 0; a POISONED one stays as it is. -/
theorem tagsetPoison_ends (h : Issues (.tagsetPoison x) s k m) (hn : NoRegion k m) (hc : k.ctx s.m m = c)
    (hx : (c.reg x).toNat = t) :
    (c.mem.tilesN ≤ t → Traps (.tagsetPoison x) s k m (badOperand k)) ∧
    (t < c.mem.tilesN → (c.mem.tile t).tag = .poisoned → Ends (.tagsetPoison x) s k m (.done c.M)) ∧
    (t < c.mem.tilesN → (c.mem.tile t).tag ≠ .poisoned →
      Ends (.tagsetPoison x) s k m (.done (c.upd fun y => y.poison t 0))) := by
  have ends {r : Res} := h.ends_of_wordOut hn hc (r := r) (exec_tagsetPoison x s)
  refine ⟨fun ht => ends ?traps, fun ht hr => ends ?stays, fun ht hr => ends ?poisons⟩
  case traps => simp only [Ctx.tileOp_of_le hx ht, illOpnd_of_ctx hc]
  case stays => simp only [Ctx.tileOp_of_lt hx ht, if_pos hr]
  case poisons => simp only [Ctx.tileOp_of_lt hx ht, if_neg hr]

/-- TAGCLR clears a tile of the member, whatever its tag. -/
theorem tagclr_ends (h : Issues (.tagclr x) s k m) (hn : NoRegion k m) (hc : k.ctx s.m m = c)
    (hx : (c.reg x).toNat = t) :
    (c.mem.tilesN ≤ t → Traps (.tagclr x) s k m (badOperand k)) ∧
    (t < c.mem.tilesN → Ends (.tagclr x) s k m (.done (tagClear c.M c.mem.ref t))) := by
  have ends {r : Res} := h.ends_of_wordOut hn hc (r := r) (exec_tagclr x s)
  refine ⟨fun ht => ends ?traps, fun ht => ends ?clears⟩
  case traps => simp only [Ctx.tileOp_of_le hx ht, illOpnd_of_ctx hc]
  case clears => simp only [Ctx.tileOp_of_lt hx ht]

/-! ### Words that read a tag (R44, R266) -/

/-- TAGWT.nw gives the status word of a tile of the member at once. -/
theorem tagwtNw_ends {d : Dst} (h : Issues (.tagwtNw d x) s k m) (hn : NoRegion k m) (hc : k.ctx s.m m = c)
    (hx : (c.reg x).toNat = t) :
    (c.mem.tilesN ≤ t → Traps (.tagwtNw d x) s k m (badOperand k)) ∧
    (t < c.mem.tilesN → Ends (.tagwtNw d x) s k m (c.tagResult c.M d t)) := by
  have ends {r : Res} := h.ends_of_wordOut hn hc (r := r) (exec_tagwtNw d x s)
  refine ⟨fun ht => ends ?traps, fun ht => ends ?gives⟩
  case traps => simp only [Ctx.tileOp_of_le hx ht, illOpnd_of_ctx hc]
  case gives => simp only [Ctx.tileOp_of_lt hx ht]

/-- TAGWT.full waits until a tile of the member is POISONED or readable; a readable one it acquires. -/
theorem tagwtFull_ends {d : Dst} (h : Issues (.tagwtFull d x) s k m) (hn : NoRegion k m) (hc : k.ctx s.m m = c)
    (hx : (c.reg x).toNat = t) :
    (c.mem.tilesN ≤ t → Traps (.tagwtFull d x) s k m (badOperand k)) ∧
    (t < c.mem.tilesN →
      ((c.mem.tile t).tag = .poisoned → Ends (.tagwtFull d x) s k m (c.tagResult c.M d t)) ∧
      (c.mem.readable t = true →
        Ends (.tagwtFull d x) s k m (c.tagResult (acquire c.M c.mem.ref (c.mem.fillScope [t])) d t)) ∧
      ((c.mem.tile t).tag ≠ .poisoned → c.mem.readable t = false →
        Ends (.tagwtFull d x) s k m (.wait .tag (.tagsFull [t])))) := by
  have ends {r : Res} := h.ends_of_wordOut hn hc (r := r) (exec_tagwtFull d x s)
  refine ⟨fun ht => ends ?traps, fun ht => ⟨fun hr => ends ?poisoned, fun hf => ends ?acquires, fun hr hf => ends ?waits⟩⟩
  case traps => simp only [Ctx.tileOp_of_le hx ht, illOpnd_of_ctx hc]
  case poisoned =>
    simp [Ctx.tileOp_of_lt hx ht, Member.tagsSettled_singleton, hr, Member.readable_of_poisoned hr]
  case acquires => simp [Ctx.tileOp_of_lt hx ht, Member.tagsSettled_singleton, hf]
  case waits => simp [Ctx.tileOp_of_lt hx ht, Member.tagsSettled_singleton, hr, hf]

/-- TAGWT.empty waits until a tile of the member is EMPTY or POISONED. -/
theorem tagwtEmpty_ends {d : Dst} (h : Issues (.tagwtEmpty d x) s k m) (hn : NoRegion k m) (hc : k.ctx s.m m = c)
    (hx : (c.reg x).toNat = t) :
    (c.mem.tilesN ≤ t → Traps (.tagwtEmpty d x) s k m (badOperand k)) ∧
    (t < c.mem.tilesN →
      ((c.mem.tile t).tag = .empty ∨ (c.mem.tile t).tag = .poisoned →
        Ends (.tagwtEmpty d x) s k m (c.tagResult c.M d t)) ∧
      ((c.mem.tile t).tag = .filling ∨ (c.mem.tile t).tag = .full →
        Ends (.tagwtEmpty d x) s k m (.wait .tag (.tagEmpty t)))) := by
  have ends {r : Res} := h.ends_of_wordOut hn hc (r := r) (exec_tagwtEmpty d x s)
  refine ⟨fun ht => ends ?traps, fun ht => ⟨fun hr => ends ?gives, fun hr => ends ?waits⟩⟩
  case traps => simp only [Ctx.tileOp_of_le hx ht, illOpnd_of_ctx hc]
  case gives => rcases hr with hr | hr <;> simp only [Ctx.tileOp_of_lt hx ht, hr]
  case waits => rcases hr with hr | hr <;> simp only [Ctx.tileOp_of_lt hx ht, hr]

end TagWords

/-! ### The statement -/

/-- Settles O36: each mailbox word and each tag word by its own lemma. -/
theorem mailboxAndTagWordsComplete : Obligations.MailboxAndTagWordsComplete :=
  ⟨fun _ _ _ _ hn => ⟨fun _ h => mbw_ends h hn rfl, fun _ h => mbr_ends h hn rfl⟩,
    fun _ _ _ _ hn =>
      ⟨fun _ _ _ h => tagarm_ends h hn rfl rfl rfl, fun h => tagsetFull_ends h hn rfl rfl,
        fun h => tagsetPoison_ends h hn rfl rfl, fun h => tagclr_ends h hn rfl rfl, fun _ h => tagwtNw_ends h hn rfl rfl,
        fun _ h => tagwtFull_ends h hn rfl rfl, fun _ h => tagwtEmpty_ends h hn rfl rfl⟩⟩

end Sys2Proof.Machine

/-!
PROOFS. When a result reaches the latch and its register (R149), and which of two results for one register stands (R150).
-/

namespace Sys2Proof.Machine

/-! ### Reading a stream back after a write (R147) -/

/-- A write to s0 or to special zero is discarded, and any other write is what the register then holds. -/
theorem Stream.main_write (s : Stream) (d : Dst) (v : Word) (n : BitVec 5) :
    (s.write d v).main n = if d = .s n ∧ n ≠ 0 then v else s.main n := by
  by_cases hn : n = 0
  · simp [Stream.main, hn]
  cases d with
  | s k =>
    by_cases hk : k = 0
    · have hkn : k ≠ n := fun h => hn (h ▸ hk)
      simp only [Stream.write, if_pos hk, Dst.s.injEq, hkn, false_and, if_false]
    · simp only [Stream.write, if_neg hk, Stream.main, Vector.getElem_set, BitVec.toNat_inj, Dst.s.injEq, hn, if_false,
        ne_eq, not_false_eq_true, and_true]
  | o k => simp [Stream.write, Stream.main]
  | none => simp [Stream.write]

/-- A write to an operand register is what it then holds; every other one keeps its value. -/
theorem Stream.o_write (s : Stream) (d : Dst) (v : Word) (n : BitVec 3) :
    (s.write d v).o[n.toNat]'n.isLt = if d = .o n then v else s.o[n.toNat]'n.isLt := by
  cases d with
  | s k => by_cases hk : k = 0 <;> simp only [Stream.write, hk, if_true, if_false, reduceCtorEq]
  | o k => simp only [Stream.write, Dst.o.injEq, Vector.getElem_set, BitVec.toNat_inj]
  | none => simp [Stream.write]

/-- A register's write and the latch's touch different places. -/
theorem Stream.write_latch (s : Stream) (d : Dst) (v w : Word) :
    { s.write d v with lat := w } = ({ s with lat := w } : Stream).write d v := by
  cases d with
  | s k => by_cases hk : k = 0 <;> simp only [Stream.write, hk, if_true, if_false]
  | o k => rfl
  | none => rfl

/-! ### The order of landings (R150) -/

/-- The cycle in which a landing is performed. -/
@[simp] def Landing.cycle : Landing → Nat
  | .latch c _ _ => c
  | .reg c _ _ _ => c

/-- The issue cycle of the word whose result lands. -/
@[simp] def Landing.issue : Landing → Nat
  | .latch _ i _ => i
  | .reg _ i _ _ => i

theorem Landing.before_iff (x y : Landing) :
    x.before y = true ↔ x.cycle < y.cycle ∨ (x.cycle = y.cycle ∧ x.issue ≤ y.issue) := by
  cases x <;> cases y <;> simp [Landing.before]

theorem Landing.before_false_iff (x y : Landing) :
    x.before y = false ↔ y.cycle < x.cycle ∨ (y.cycle = x.cycle ∧ y.issue < x.issue) := by
  rw [← Bool.not_eq_true, Landing.before_iff]; omega

/-- The landings in the order in which they are performed. -/
def inTime (ls : List Landing) : List Landing := ls.foldl (fun acc x => insLanding x acc) []

/-- The stream with every landing up to a cycle performed. -/
def Stream.landed (s : Stream) (u : Nat) : Stream :=
  (inTime (s.inflight.flatMap fun f => f.landings u)).foldl Stream.land s

theorem Stream.settle_lat (s : Stream) (u : Nat) : (s.settle u).lat = (s.landed u).lat := rfl
theorem Stream.settle_s (s : Stream) (u : Nat) : (s.settle u).s = (s.landed u).s := rfl
theorem Stream.settle_o (s : Stream) (u : Nat) : (s.settle u).o = (s.landed u).o := rfl
theorem Stream.settle_main (s : Stream) (u : Nat) (n : BitVec 5) : (s.settle u).main n = (s.landed u).main n := rfl

theorem Stream.settle_inflight (s : Stream) (u : Nat) :
    (s.settle u).inflight =
      (s.inflight.filter fun f => f.slot.isSome || u < f.due + 1).map fun f =>
        if f.slot.isNone && f.due ≤ u then { f with latched := true } else f := rfl

/-! ### One result (R149) -/

/-- A result `v` for `d` on its way, which waits for no slot and has not reached the latch. -/
structure InFlight.Carries (f : InFlight) (d : Dst) (v : Word) : Prop where
  writes : f.writes = [(d, v)]
  slot : f.slot = none
  latched : f.latched = false

/-- The latch's landing of a result. -/
@[simp] def InFlight.toLatch (f : InFlight) (v : Word) : Landing := .latch f.due f.iss v

/-- The register's landing of a result, one cycle later. -/
@[simp] def InFlight.toReg (f : InFlight) (d : Dst) (v : Word) : Landing := .reg (f.due + 1) f.iss d v

theorem InFlight.toLatch_before_toReg (f : InFlight) (d : Dst) (v : Word) : (f.toLatch v).before (f.toReg d v) = true := by
  simp [Landing.before_iff]

section OneResult

variable {s : Stream} {f : InFlight} {d : Dst} {v : Word} {u : Nat}

theorem InFlight.Carries.landings_early (h : f.Carries d v) (hu : u < f.due) : f.landings u = [] := by
  simp [InFlight.landings, h.slot, show ¬ f.due ≤ u by omega, show ¬ f.due + 1 ≤ u by omega]

theorem InFlight.Carries.landings_due (h : f.Carries d v) (hu : u = f.due) : f.landings u = [f.toLatch v] := by
  simp [InFlight.landings, h.slot, h.latched, h.writes, hu]

theorem InFlight.Carries.landings_late (h : f.Carries d v) (hu : f.due + 1 ≤ u) :
    f.landings u = [f.toLatch v, f.toReg d v] := by
  simp [InFlight.landings, h.slot, h.latched, h.writes, hu, show f.due ≤ u by omega]

theorem landed_early (hs : s.inflight = [f]) (h : f.Carries d v) (hu : u < f.due) : s.landed u = s := by
  simp [Stream.landed, hs, h.landings_early hu, inTime]

theorem landed_due (hs : s.inflight = [f]) (h : f.Carries d v) (hu : u = f.due) : s.landed u = { s with lat := v } := by
  simp [Stream.landed, hs, h.landings_due hu, inTime, insLanding, Stream.land]

theorem landed_late (hs : s.inflight = [f]) (h : f.Carries d v) (hu : f.due + 1 ≤ u) :
    s.landed u = ({ s with lat := v } : Stream).write d v := by
  have hl : s.inflight.flatMap (fun f => f.landings u) = [f.toLatch v, f.toReg d v] := by
    simp [hs, h.landings_late hu]
  have ht : inTime [f.toLatch v, f.toReg d v] = [f.toLatch v, f.toReg d v] := by
    simp only [inTime, insLanding, List.foldl, f.toLatch_before_toReg, if_true]
  rw [Stream.landed, hl, ht]; rfl

/-- A lone result is nowhere before its cycle, at the latch from its cycle on, and in its register from the next on. -/
theorem settle_one (hs : s.inflight = [f]) (h : f.Carries d v) :
    (u < f.due → (s.settle u).lat = s.lat) ∧
    (u < f.due + 1 → (s.settle u).s = s.s ∧ (s.settle u).o = s.o) ∧
    (f.due ≤ u → (s.settle u).lat = v) ∧
    (f.due + 1 ≤ u →
      (s.settle u).inflight = [] ∧
      (∀ n : BitVec 5, (s.settle u).main n = if d = .s n ∧ n ≠ 0 then v else s.main n) ∧
      (∀ n : BitVec 3, (s.settle u).o[n.toNat]'n.isLt = if d = .o n then v else s.o[n.toNat]'n.isLt)) := by
  refine ⟨fun hu => ?unlatched, fun hu => ?unwritten, fun hu => ?latched,
    fun hu => ⟨?gone, fun n => ?main, fun n => ?operand⟩⟩
  case unlatched => rw [Stream.settle_lat, landed_early hs h hu]
  case unwritten =>
    rw [Stream.settle_s, Stream.settle_o]
    rcases Nat.lt_succ_iff_lt_or_eq.mp hu with hlt | heq
    · rw [landed_early hs h hlt]; exact ⟨rfl, rfl⟩
    · rw [landed_due hs h heq]; exact ⟨rfl, rfl⟩
  case latched =>
    rw [Stream.settle_lat]
    rcases Nat.eq_or_lt_of_le hu with heq | hlt
    · rw [landed_due hs h heq.symm]
    · rw [landed_late hs h hlt, Stream.write_lat]
  case gone => simpa [Stream.settle_inflight, hs, h.slot] using hu
  case main => rw [Stream.settle_main, landed_late hs h hu, Stream.main_write]; rfl
  case operand => simp only [Stream.settle_o, landed_late hs h hu, Stream.o_write]

end OneResult

/-! ### Two results for one register (R150) -/

/-- The result `f` lands before the result `g`: in an earlier cycle, or in the same one and issued earlier. -/
def InFlight.LandsBefore (f g : InFlight) : Prop := f.due < g.due ∨ (f.due = g.due ∧ f.iss < g.iss)

section TwoResults

variable {s : Stream} {f g : InFlight} {d : Dst} {v w : Word} {u : Nat}

theorem InFlight.LandsBefore.due_le (h : f.LandsBefore g) : f.due ≤ g.due := by
  unfold InFlight.LandsBefore at h; omega

theorem InFlight.LandsBefore.toLatch_toLatch (h : f.LandsBefore g) :
    (f.toLatch v).before (g.toLatch w) = true ∧ (g.toLatch w).before (f.toLatch v) = false := by
  unfold InFlight.LandsBefore at h
  simp only [Landing.before_iff, Landing.before_false_iff, toLatch, Landing.cycle, Landing.issue]; omega

theorem InFlight.LandsBefore.toReg_toReg (h : f.LandsBefore g) :
    (f.toReg d v).before (g.toReg d w) = true ∧ (g.toReg d w).before (f.toReg d v) = false := by
  unfold InFlight.LandsBefore at h
  simp only [Landing.before_iff, Landing.before_false_iff, toReg, Landing.cycle, Landing.issue]; omega

theorem InFlight.LandsBefore.toLatch_before_toReg (h : f.LandsBefore g) : (f.toLatch v).before (g.toReg d w) = true := by
  have hle := h.due_le
  simp only [Landing.before_iff, toLatch, toReg, Landing.cycle, Landing.issue]; omega

/-- In whatever order the two results stand in the list, `f` comes before `g` at the latch and at the register. What stays
open is the order of `f`'s register and `g`'s latch, which are different places. -/
theorem inTime_two (h : f.LandsBefore g) (swap : Bool) (d : Dst) (v w : Word) :
    let F := [f.toLatch v, f.toReg d v]
    let G := [g.toLatch w, g.toReg d w]
    inTime (if swap then G ++ F else F ++ G) = [f.toLatch v, f.toReg d v, g.toLatch w, g.toReg d w] ∨
      inTime (if swap then G ++ F else F ++ G) = [f.toLatch v, g.toLatch w, f.toReg d v, g.toReg d w] := by
  obtain ⟨hLL, hLL'⟩ := h.toLatch_toLatch (v := v) (w := w)
  obtain ⟨hRR, hRR'⟩ := h.toReg_toReg (d := d) (v := v) (w := w)
  have hLR := h.toLatch_before_toReg (d := d) (v := v) (w := w)
  have hf := f.toLatch_before_toReg d v
  have hg := g.toLatch_before_toReg d w
  generalize f.toLatch v = lf, f.toReg d v = rf, g.toLatch w = lg, g.toReg d w = rg at *
  cases swap with
  | false => cases hx : rf.before lg <;> simp [inTime, insLanding, *]
  | true => cases hx : lg.before rf <;> simp [inTime, insLanding, *]

/-- Both results landed: the latch holds `g`'s value, and `g`'s write of the register comes last. -/
theorem landed_two {swap : Bool} (hs : s.inflight = if swap then [g, f] else [f, g]) (hf : f.Carries d v)
    (hg : g.Carries d w) (h : f.LandsBefore g) (hu : g.due + 1 ≤ u) :
    s.landed u = (({ s with lat := w } : Stream).write d v).write d w := by
  have hu' : f.due + 1 ≤ u := Nat.le_trans (Nat.succ_le_succ h.due_le) hu
  have hl : s.inflight.flatMap (fun f => f.landings u) =
      if swap then [g.toLatch w, g.toReg d w] ++ [f.toLatch v, f.toReg d v]
      else [f.toLatch v, f.toReg d v] ++ [g.toLatch w, g.toReg d w] := by
    cases swap <;> simp [hs, hf.landings_late hu', hg.landings_late hu]
  rw [Stream.landed, hl]
  rcases inTime_two h swap d v w with ht | ht <;> rw [ht]
  · exact congrArg (·.write d w) (Stream.write_latch { s with lat := v } d v w)
  · rfl

/-- Once both have landed, the value of the later one stands. -/
theorem settle_two {swap : Bool} (hs : s.inflight = if swap then [g, f] else [f, g]) (hf : f.Carries d v)
    (hg : g.Carries d w) (h : f.LandsBefore g) (hu : g.due + 1 ≤ u) :
    (s.settle u).lat = w ∧
    (∀ n : BitVec 5, (s.settle u).main n = if d = .s n ∧ n ≠ 0 then w else s.main n) ∧
    (∀ n : BitVec 3, (s.settle u).o[n.toNat]'n.isLt = if d = .o n then w else s.o[n.toNat]'n.isLt) := by
  have hl := landed_two hs hf hg h hu
  refine ⟨?latch, fun n => ?main, fun n => ?operand⟩
  case latch => rw [Stream.settle_lat, hl, Stream.write_lat, Stream.write_lat]
  case main =>
    rw [Stream.settle_main, hl, Stream.main_write, Stream.main_write]
    split <;> rfl
  case operand =>
    simp only [Stream.settle_o, hl, Stream.o_write]
    split <;> rfl

end TwoResults

/-! ### The statement -/

/-- Settles O14: a lone result by `settle_one`, two results for one register by `settle_two`. -/
theorem resultsLandInTheirCycles : Obligations.ResultsLandInTheirCycles := by
  refine ⟨fun s t lat u d v => ?one, fun s f g d v w u swap hfw hgw hfs hgs hfl hgl hfg hu => ?two⟩
  case one => exact settle_one (f := ⟨t + lat, t, [(d, v)], false, none⟩) rfl ⟨rfl, rfl, rfl⟩
  case two => exact settle_two (swap := swap) rfl ⟨hfw, hfs, hfl⟩ ⟨hgw, hgs, hgl⟩ hfg hu

end Sys2Proof.Machine

/-!
PROOFS. RN3 numbers (R197 to R199): the fields of an element, the canonical form, the integers an element represents, and
the arithmetic on them.
-/

namespace Sys2Proof.Machine

/-! ### Fields and the canonical form (R197, R198) -/

/-- F0 of an element, reduced modulo 8191. -/
def rnField0 (x : Nat) : Nat := x % 8192 % 8191

/-- F1 of an element, whose modulus is the field's size. -/
def rnField1 (x : Nat) : Nat := x / 2 ^ 13 % 8192

/-- F2 of an element, reduced modulo 8193. -/
def rnField2 (x : Nat) : Nat := x / 2 ^ 26 % 16384 % 8193

theorem rnField0_lt (x : Nat) : rnField0 x < 8191 := Nat.mod_lt _ (by decide)
theorem rnField1_lt (x : Nat) : rnField1 x < 8192 := Nat.mod_lt _ (by decide)
theorem rnField2_lt (x : Nat) : rnField2 x < 8193 := Nat.mod_lt _ (by decide)

/-- An element whose reserved bits are zero and whose fields are residues. -/
def RnCanonical (x : Nat) : Prop := x < 2 ^ 40 ∧ x % 8192 ≤ 8190 ∧ x / 2 ^ 26 ≤ 8192

theorem rnF_eq (x : Nat) : rnF x = (rnField0 x, rnField1 x, rnField2 x) := by
  simp [rnF, fld, Nat.shiftRight_eq_div_pow, rnField0, rnField1, rnField2]

theorem rnPack_eq (a b c : Nat) : rnPack a b c = a + b * 2 ^ 13 + c * 2 ^ 26 := by
  unfold rnPack; rw [Nat.shiftLeft_eq, Nat.shiftLeft_eq]

/-- A canonical element is what its reduced fields pack. -/
theorem RnCanonical.rnPack_fields {x : Nat} (h : RnCanonical x) :
    rnPack (rnField0 x) (rnField1 x) (rnField2 x) = x := by
  unfold RnCanonical at h
  simp only [rnPack_eq, rnField0, rnField1, rnField2]; omega

/-- Bits [63:40] are in no field. -/
theorem rnF_mod (x : Nat) : rnF (x % 2 ^ 40) = rnF x := by
  simp only [rnF_eq, rnField0, rnField1, rnField2, Prod.mk.injEq]; omega

section Pack

variable {a b c : Nat} (ha : a < 8191) (hb : b < 8192) (hc : c < 8193)
include ha hb hc

theorem rnCanonical_rnPack : RnCanonical (rnPack a b c) := by
  simp only [RnCanonical, rnPack_eq]; omega

theorem rnField_rnPack :
    rnField0 (rnPack a b c) = a ∧ rnField1 (rnPack a b c) = b ∧ rnField2 (rnPack a b c) = c := by
  simp only [rnField0, rnField1, rnField2, rnPack_eq]; omega

end Pack

/-! ### Operations field by field (R199) -/

theorem rnOp_eq (g : Nat → Nat → Nat) (x y : Nat) :
    rnOp g x y =
      rnPack (g (rnField0 x) (rnField0 y) % 8191) (g (rnField1 x) (rnField1 y) % 8192)
        (g (rnField2 x) (rnField2 y) % 8193) := by
  simp only [rnOp, rnF_eq]

theorem rnCanonical_rnOp (g : Nat → Nat → Nat) (x y : Nat) : RnCanonical (rnOp g x y) := by
  rw [rnOp_eq]
  exact rnCanonical_rnPack (Nat.mod_lt _ (by decide)) (Nat.mod_lt _ (by decide)) (Nat.mod_lt _ (by decide))

theorem rnField_rnOp (g : Nat → Nat → Nat) (x y : Nat) :
    rnField0 (rnOp g x y) = g (rnField0 x) (rnField0 y) % 8191 ∧
      rnField1 (rnOp g x y) = g (rnField1 x) (rnField1 y) % 8192 ∧
      rnField2 (rnOp g x y) = g (rnField2 x) (rnField2 y) % 8193 := by
  rw [rnOp_eq]
  exact rnField_rnPack (Nat.mod_lt _ (by decide)) (Nat.mod_lt _ (by decide)) (Nat.mod_lt _ (by decide))

/-! ### The integers an element represents (R197) -/

/-- The fields of `x` are the residues of `v`. -/
structure RnRepresents (x : Nat) (v : Int) : Prop where
  field0 : (rnField0 x : Int) = v % 8191
  field1 : (rnField1 x : Int) = v % 8192
  field2 : (rnField2 x : Int) = v % 8193

/-- The signed range of R197. -/
def RnInRange (v : Int) : Prop := -274877902848 ≤ v ∧ v ≤ 274877902847

/-- The Chinese-remainder sum of an element's fields (R199). -/
def rnSum (x : Nat) : Nat :=
  (rnField0 x * 274911461376 + rnField1 x * 549688696833 + rnField2 x * 274911453184) % 549755805696

theorem rnVal_eq (x : Nat) :
    rnVal x = if 274877902848 ≤ rnSum x then (rnSum x : Int) - 549755805696 else rnSum x := by
  simp only [rnVal, rnF_eq]; rfl

/-- Reading an element sees only its fields, so not the reserved bits (R198). -/
theorem rnVal_mod (x : Nat) : rnVal (x % 2 ^ 40) = rnVal x := by
  simp only [rnVal, rnF_mod]

theorem rnInRange_rnVal (x : Nat) : RnInRange (rnVal x) := by
  have hlt : rnSum x < 549755805696 := Nat.mod_lt _ (by decide)
  unfold RnInRange
  rw [rnVal_eq]; split <;> omega

/-- Each constant of the sum is 1 modulo its own modulus and 0 modulo the other two. -/
theorem rnRepresents_rnSum (x : Nat) : RnRepresents x (rnSum x) := by
  have h0 := rnField0_lt x
  have h1 := rnField1_lt x
  have h2 := rnField2_lt x
  unfold rnSum
  constructor <;> omega

theorem rnRepresents_rnVal (x : Nat) : RnRepresents x (rnVal x) := by
  obtain ⟨h0, h1, h2⟩ := rnRepresents_rnSum x
  rw [rnVal_eq]
  split <;> constructor <;> omega

theorem rnRepresents_rnEnc (v : Int) : RnRepresents (rnEnc v) v := by
  obtain ⟨h0, h1, h2⟩ := rnField_rnPack (a := (v % 8191).toNat) (b := (v % 8192).toNat) (c := (v % 8193).toNat)
    (by omega) (by omega) (by omega)
  refine ⟨?field0, ?field1, ?field2⟩
  case field0 => rw [rnEnc, h0, Int.toNat_of_nonneg (Int.emod_nonneg _ (by decide))]
  case field1 => rw [rnEnc, h1, Int.toNat_of_nonneg (Int.emod_nonneg _ (by decide))]
  case field2 => rw [rnEnc, h2, Int.toNat_of_nonneg (Int.emod_nonneg _ (by decide))]

theorem rnCanonical_rnEnc (v : Int) : RnCanonical (rnEnc v) :=
  rnCanonical_rnPack (by omega) (by omega) (by omega)

section Represents

variable {x y : Nat} {v w : Int}

/-- The moduli are pairwise coprime, so an element represents integers of one class modulo M only. -/
theorem RnRepresents.sub_emod (hv : RnRepresents x v) (hw : RnRepresents x w) : (v - w) % 549755805696 = 0 := by
  have h0 : v ≡ w [ZMOD 8191] := hv.field0.symm.trans hw.field0
  have h1 : v ≡ w [ZMOD 8192] := hv.field1.symm.trans hw.field1
  have h2 : v ≡ w [ZMOD 8193] := hv.field2.symm.trans hw.field2
  have h01 := (Int.modEq_and_modEq_iff_modEq_mul (by decide)).mp ⟨h0, h1⟩
  have hM := (Int.modEq_and_modEq_iff_modEq_mul (by decide)).mp ⟨h01, h2⟩
  exact Int.emod_eq_zero_of_dvd hM.symm.dvd

/-- The value of an element is the one integer of the signed range that it represents. -/
theorem RnRepresents.val_eq (h : RnRepresents x v) (hv : RnInRange v) : rnVal x = v := by
  have hM := (rnRepresents_rnVal x).sub_emod h
  have hx := rnInRange_rnVal x
  unfold RnInRange at hv hx
  omega

/-- A canonical element is the encoding of every integer that it represents. -/
theorem RnRepresents.enc_eq (h : RnRepresents x v) (hx : RnCanonical x) : rnEnc v = x := by
  rw [rnEnc, ← h.field0, ← h.field1, ← h.field2]
  exact hx.rnPack_fields

/-- A field-wise operation represents the integer operation that it computes modulo each modulus. -/
theorem RnRepresents.op {g : Nat → Nat → Nat} {h : Int → Int → Int} (hx : RnRepresents x v) (hy : RnRepresents y w)
    (hg : ∀ a b : Nat, (g a b : Int) = h a b) (hmod : ∀ a b n : Int, h a b % n = h (a % n) (b % n) % n) :
    RnRepresents (rnOp g x y) (h v w) := by
  obtain ⟨h0, h1, h2⟩ := rnField_rnOp g x y
  constructor
  · rw [h0, Int.natCast_emod, hg, hx.field0, hy.field0]; exact (hmod ..).symm
  · rw [h1, Int.natCast_emod, hg, hx.field1, hy.field1]; exact (hmod ..).symm
  · rw [h2, Int.natCast_emod, hg, hx.field2, hy.field2]; exact (hmod ..).symm

theorem RnRepresents.add (hx : RnRepresents x v) (hy : RnRepresents y w) : RnRepresents (rnAdd x y) (v + w) :=
  hx.op hy Int.natCast_add Int.add_emod

theorem RnRepresents.mul (hx : RnRepresents x v) (hy : RnRepresents y w) : RnRepresents (rnMul x y) (v * w) :=
  hx.op hy Int.natCast_mul Int.mul_emod

/-- The residue of a difference, from residues `a` and `b`; a multiple `k` of the modulus keeps it natural. -/
theorem residue_sub {a b c m k : Nat} (hc : (c : Int) = (v - w) % m) (ha : (a : Int) = v % m) (hb : (b : Int) = w % m)
    (hk : m ∣ k) (hle : b ≤ k) : c = (a + k - b) % m := by
  obtain ⟨q, rfl⟩ := hk
  zify [Nat.le_add_left_of_le hle]
  rw [hc, ha, hb, add_sub_right_comm, Int.add_mul_emod_self_left, ← Int.sub_emod]

end Represents

/-- The model's difference adds the encoding of the opposite value. -/
theorem rnRepresents_rnSub (x y : Nat) : RnRepresents (rnSub x y) (rnVal x - rnVal y) :=
  (rnRepresents_rnVal x).add (rnRepresents_rnEnc (-rnVal y))

/-- The difference is taken field by field. -/
theorem rnField_rnSub (x y : Nat) :
    rnField0 (rnSub x y) = (rnField0 x + 8191 * 8192 * 8193 - rnField0 y) % 8191 ∧
      rnField1 (rnSub x y) = (rnField1 x + 8191 * 8192 * 8193 - rnField1 y) % 8192 ∧
      rnField2 (rnSub x y) = (rnField2 x + 8191 * 8192 * 8193 - rnField2 y) % 8193 := by
  have d := rnRepresents_rnSub x y
  have hx := rnRepresents_rnVal x
  have hy := rnRepresents_rnVal y
  exact ⟨residue_sub d.field0 hx.field0 hy.field0 (by decide) ((rnField0_lt y).le.trans (by decide)),
    residue_sub d.field1 hx.field1 hy.field1 (by decide) ((rnField1_lt y).le.trans (by decide)),
    residue_sub d.field2 hx.field2 hy.field2 (by decide) ((rnField2_lt y).le.trans (by decide))⟩

/-! ### The statement -/

/-- Settles O60: the sum, difference and product of two elements represent the sum, difference and product of their values,
and an element represents one class modulo M. -/
theorem residueArithmeticIsExact : Obligations.ResidueArithmeticIsExact := by
  refine ⟨fun v hv => ?encode, fun x => ?read, fun x y => ⟨?add, ?sub, ?mul⟩⟩
  case encode =>
    have h := rnRepresents_rnEnc v
    exact ⟨rnCanonical_rnEnc v, h.field0, h.field1, h.field2, h.val_eq hv⟩
  case read => exact ⟨rnVal_eq x, rnInRange_rnVal x, rnVal_mod x, (rnRepresents_rnVal x).enc_eq⟩
  case add =>
    exact ⟨rnCanonical_rnOp .., rnField_rnOp ..,
      (rnRepresents_rnVal _).sub_emod ((rnRepresents_rnVal x).add (rnRepresents_rnVal y))⟩
  case sub =>
    exact ⟨rnCanonical_rnOp .., rnField_rnSub x y, (rnRepresents_rnVal _).sub_emod (rnRepresents_rnSub x y)⟩
  case mul =>
    exact ⟨rnCanonical_rnOp .., rnField_rnOp ..,
      (rnRepresents_rnVal _).sub_emod ((rnRepresents_rnVal x).mul (rnRepresents_rnVal y))⟩

end Sys2Proof.Machine

/-!
PROOFS. What the integer words and the divisions put into their registers (R231 to R235): each result as R219's integer
arithmetic modulo 2^64 gives it, and the issue of a word whose one effect is its result.
-/

namespace Sys2Proof.Machine

/-! ### An integer as a register holds it (R219) -/

/-- A natural number and the same number as an integer are one word. -/
theorem w64_eq_word64 (n : Nat) : w64 n = word64 n := (BitVec.ofInt_natCast 64 n).symm

/-- Integers of one class modulo 2^64 are one word. -/
theorem word64_congr {v w : Int} (h : v % 2 ^ 64 = w % 2 ^ 64) : word64 v = word64 w :=
  BitVec.eq_of_toNat_eq (by simpa [word64, BitVec.toNat_ofInt] using congrArg Int.toNat h)

/-- A word is the integer that it holds, read as signed. -/
theorem eq_word64_of_toInt {x : Word} {v : Int} (h : x.toInt = v) : x = word64 v := by
  rw [← h, word64, BitVec.ofInt_toInt]

/-- A word is the integer that it holds, read as unsigned. -/
theorem eq_word64_of_toNat {x : Word} {v : Int} (h : (x.toNat : Int) = v) : x = word64 v := by
  rw [← h, ← w64_eq_word64, w64, BitVec.ofNat_toNat, BitVec.setWidth_eq]

/-- A word read as signed is any integer that wraps to it. -/
theorem eq_word64_of_bmod {x : Word} {v : Int} (h : x.toInt = v.bmod (2 ^ 64)) : x = word64 v :=
  BitVec.eq_of_toInt_eq (h.trans (BitVec.toInt_ofInt v).symm)

theorem toInt_eq_zero_iff {x : Word} : x.toInt = 0 ↔ x = 0 := BitVec.toInt_inj (y := 0)

theorem toNat_eq_zero_iff {x : Word} : x.toNat = 0 ↔ x = 0 := BitVec.toNat_inj (y := 0)

theorem w01_decide (p : Prop) [Decidable p] : w01 (decide p) = if p then 1 else 0 := by
  simp only [w01, decide_eq_true_eq]

/-! ### Sums, products and their halves (R231, R233) -/

section Arithmetic

variable (x y z : Word)

theorem add_eq_word64 : x + y = word64 (x.toInt + y.toInt) := eq_word64_of_bmod (BitVec.toInt_add x y)

theorem sub_eq_word64 : x - y = word64 (x.toInt - y.toInt) := eq_word64_of_bmod BitVec.toInt_sub

theorem mul_eq_word64 : x * y = word64 (x.toInt * y.toInt) := eq_word64_of_bmod (BitVec.toInt_mul x y)

theorem mulAdd_eq_word64 : x * y + z = word64 (x.toInt * y.toInt + z.toInt) := by
  rw [word64, BitVec.ofInt_add, BitVec.ofInt_mul, BitVec.ofInt_toInt, BitVec.ofInt_toInt, BitVec.ofInt_toInt]

/-- The model reduces the product modulo 2^128 first, which leaves bits [127:64] as they are. -/
theorem mulhs_eq_word64 : mulhs x y = word64 (x.toInt * y.toInt / 2 ^ 64) := by
  rw [mulhs, w64_eq_word64, unsgn, Nat.shiftRight_eq_div_pow]
  exact word64_congr (by omega)

theorem mulhuW_eq_word64 : mulhuW x y = word64 (x.toNat * y.toNat / 2 ^ 64) := by
  rw [mulhuW, w64_eq_word64, Nat.shiftRight_eq_div_pow]; rfl

/-! ### Shifts -/

/-- The shift words take their count from Y[5:0]. -/
theorem wf_shift : wf y 0 6 = y.toNat % 64 := rfl

theorem shl_eq_word64 : x <<< wf y 0 6 = word64 (x.toNat * 2 ^ (y.toNat % 64)) := by
  rw [wf_shift]
  refine BitVec.eq_of_toNat_eq ?_
  rw [BitVec.toNat_shiftLeft, Nat.shiftLeft_eq, word64]
  exact_mod_cast (BitVec.toNat_ofNat (x.toNat * 2 ^ (y.toNat % 64)) 64).symm

theorem shr_eq_word64 : x >>> wf y 0 6 = word64 (x.toNat / 2 ^ (y.toNat % 64)) :=
  eq_word64_of_toNat (by rw [wf_shift, BitVec.toNat_ushiftRight, Nat.shiftRight_eq_div_pow]; push_cast; rfl)

theorem sar_eq_word64 : x.sshiftRight (wf y 0 6) = word64 (x.toInt / 2 ^ (y.toNat % 64)) :=
  eq_word64_of_toInt (by rw [wf_shift, BitVec.toInt_sshiftRight, Int.shiftRight_eq_div_pow]; push_cast; rfl)

/-! ### Comparisons -/

theorem smin_eq_word64 : (if x.slt y then x else y) = word64 (Min.min x.toInt y.toInt) := by
  simp only [BitVec.slt_iff_toInt_lt]
  split <;> exact eq_word64_of_toInt (by omega)

theorem smax_eq_word64 : (if x.slt y then y else x) = word64 (Max.max x.toInt y.toInt) := by
  simp only [BitVec.slt_iff_toInt_lt]
  split <;> exact eq_word64_of_toInt (by omega)

theorem umin_eq_word64 : (if x.ult y then x else y) = word64 (Min.min x.toNat y.toNat) := by
  simp only [BitVec.ult_iff_toNat_lt]
  split <;> exact eq_word64_of_toNat (by omega)

theorem umax_eq_word64 : (if x.ult y then y else x) = word64 (Max.max x.toNat y.toNat) := by
  simp only [BitVec.ult_iff_toNat_lt]
  split <;> exact eq_word64_of_toNat (by omega)

theorem w01_slt : w01 (x.slt y) = if x.toInt < y.toInt then 1 else 0 := w01_decide _

theorem w01_ult : w01 (x.ult y) = if x.toNat < y.toNat then 1 else 0 := w01_decide _

theorem w01_beq : w01 (x == y) = if x = y then 1 else 0 := w01_decide _

/-! ### Immediates (R235) -/

theorem signExtend_eq_word64 (v : BitVec 32) : v.signExtend 64 = word64 v.toInt :=
  eq_word64_of_toInt (BitVec.toInt_signExtend_of_le (by decide))

/-- The immediate stands above bit 31 and the register's low half below it. -/
theorem mergeHigh_eq_word64 (v : BitVec 32) :
    v.setWidth 64 <<< 32 ||| x &&& 0xFFFFFFFF = word64 (v.toNat * 2 ^ 32 + x.toNat % 2 ^ 32) := by
  have hlow : (x &&& 0xFFFFFFFF).toNat = x.toNat % 2 ^ 32 := Nat.and_two_pow_sub_one_eq_mod x.toNat 32
  have hhigh : (v.setWidth 64 <<< 32).toNat = v.toNat <<< 32 := by
    rw [BitVec.toNat_shiftLeft, BitVec.toNat_setWidth]; omega
  refine eq_word64_of_toNat ?_
  rw [BitVec.toNat_or, hhigh, hlow, ← Nat.shiftLeft_add_eq_or_of_lt (Nat.mod_lt _ (by decide)), Nat.shiftLeft_eq]
  push_cast; rfl

/-! ### Counts of bits (R231) -/

theorem countP_le_range (l n : Nat) : (List.range n).countP (fun i => decide (l ≤ i)) = n - l := by
  induction n with
  | zero => simp
  | succ n ih =>
    rw [List.range_succ, List.countP_append, ih, List.countP_singleton]
    simp only [decide_eq_true_eq]
    split <;> omega

/-- The leading zeros are as many as the powers of two, up to 2^63, above the value. -/
theorem clz64_eq_countP : clz64 x = (List.range 64).countP fun n => decide (x.toNat < 2 ^ n) := by
  rw [clz64]
  split
  next hx => subst hx; decide
  next hx =>
    have h0 : x.toNat ≠ 0 := mt toNat_eq_zero_iff.mp hx
    simp only [log2, ← Nat.log2_lt h0, ← Nat.succ_le_iff, countP_le_range]
    omega

theorem popc64_eq_countP : popc64 x = (List.range 64).countP fun n => x.getLsbD n :=
  List.countP_eq_length_filter.symm

theorem clz_eq_word64 : w64 (clz64 x) = word64 ((List.range 64).countP fun n => decide (x.toNat < 2 ^ n)) := by
  rw [clz64_eq_countP, w64_eq_word64]

theorem popc_eq_word64 : w64 (popc64 x) = word64 ((List.range 64).countP fun n => x.getLsbD n) := by
  rw [popc64_eq_countP, w64_eq_word64]

end Arithmetic

/-! ### Fields (R234) -/

section Fields

variable (w : Word) (lo len : Nat)

theorem wf_eq_div_mod : wf w lo len = w.toNat / 2 ^ lo % 2 ^ len := by
  rw [wf, fld, Nat.shiftRight_eq_div_pow]

theorem bext_eq_word64 : w64 (wf w lo len) = word64 (w.toNat / 2 ^ lo % 2 ^ len) := by
  rw [w64_eq_word64, wf_eq_div_mod]; push_cast; rfl

theorem w64_unsgn (v : Int) : w64 (unsgn 64 v) = word64 v := by
  rw [w64_eq_word64, unsgn]
  exact word64_congr (by omega)

/-- A field read as signed. -/
theorem sgn_wf :
    let v : Int := w.toNat / 2 ^ lo % 2 ^ len
    sgn len (wf w lo len) = if v < 2 ^ (len - 1) then v else v - 2 ^ len := by
  simp only [sgn, wf_eq_div_mod, Nat.mod_mod, ← Int.ofNat_lt]
  push_cast; rfl

theorem bextS_eq_word64 :
    let v : Int := w.toNat / 2 ^ lo % 2 ^ len
    w64 (unsgn 64 (sgn len (wf w lo len))) = word64 (if v < 2 ^ (len - 1) then v else v - 2 ^ len) := by
  simp only [w64_unsgn, sgn_wf]

end Fields

/-- A number with a field replaced: the bits above it, the new field and the bits below it. -/
theorem putFld_eq (r lo len v : Nat) :
    putFld r lo len v = r / 2 ^ (lo + len) * 2 ^ (lo + len) + v % 2 ^ len * 2 ^ lo + r % 2 ^ lo := by
  have hr : 2 ^ lo * (r / 2 ^ lo) + r % 2 ^ lo = r := Nat.div_add_mod r (2 ^ lo)
  have hq : 2 ^ len * (r / 2 ^ (lo + len)) + r / 2 ^ lo % 2 ^ len = r / 2 ^ lo := by
    rw [pow_add, ← Nat.div_div_eq_div_mul]; exact Nat.div_add_mod _ _
  have hsplit : r = r / 2 ^ (lo + len) * 2 ^ (lo + len) + r / 2 ^ lo % 2 ^ len * 2 ^ lo + r % 2 ^ lo := by
    calc r = 2 ^ lo * (2 ^ len * (r / 2 ^ (lo + len)) + r / 2 ^ lo % 2 ^ len) + r % 2 ^ lo := by rw [hq, hr]
      _ = _ := by ring
  simp only [putFld, fld, Nat.shiftRight_eq_div_pow, Nat.shiftLeft_eq]
  omega

theorem bins_eq_word64 (r x : Word) (lo len : Nat) :
    w64 (putFld r.toNat lo len (wf x 0 len)) =
      word64
        (r.toNat / 2 ^ (lo + len) * 2 ^ (lo + len) + x.toNat % 2 ^ len * 2 ^ lo + r.toNat % 2 ^ lo) := by
  rw [w64_eq_word64, putFld_eq, wf_eq_div_mod, pow_zero, Nat.div_one, Nat.mod_mod]
  push_cast; rfl

/-! ### Divisions (R232) -/

section Divisions

variable (x y : Word)

theorem sdiv64_eq : sdiv64 x y = if y.toInt = 0 then word64 (-1) else word64 (x.toInt.tdiv y.toInt) := by
  simp only [sdiv64, toInt_eq_zero_iff]
  split
  next => rfl
  next => exact eq_word64_of_bmod (BitVec.toInt_sdiv x y)

theorem udiv_eq :
    (if y = 0 then -1 else x / y) =
      if y.toNat = 0 then 0xFFFFFFFFFFFFFFFF else word64 (x.toNat / y.toNat) := by
  simp only [toNat_eq_zero_iff]
  split
  next => rfl
  next => exact eq_word64_of_toNat (by rw [BitVec.toNat_udiv]; rfl)

theorem srem64_eq : srem64 x y = if y.toInt = 0 then x else word64 (x.toInt.tmod y.toInt) := by
  simp only [srem64, toInt_eq_zero_iff]
  split
  next => rfl
  next => exact eq_word64_of_toInt (BitVec.toInt_srem x y)

theorem urem_eq : (if y = 0 then x else x % y) = if y.toNat = 0 then x else word64 (x.toNat % y.toNat) := by
  simp only [toNat_eq_zero_iff]
  split
  next => rfl
  next => exact eq_word64_of_toNat (by rw [BitVec.toNat_umod]; rfl)

end Divisions

/-- A remainder that is not zero has the sign of the dividend. -/
theorem tmod_pos_iff {x y : Int} (h : x.tmod y ≠ 0) : 0 < x.tmod y ↔ 0 < x := by
  have hd : ¬ y ∣ x := fun hd => h (Int.tmod_eq_zero_of_dvd hd)
  rw [← Int.sign_eq_one_iff_pos, ← Int.sign_eq_one_iff_pos, Int.sign_tmod, if_neg hd]

/-! ### Issuing a word that computes (R219) -/

/-- A word whose meaning is one result `f`, of latency `lat'` to `d'`, ends with what the statement's table gives it. -/
theorem Issues.ends_of_alu {i : Instr} {s : State} {k : Cur} {m : Member} {lat lat' : Nat} {d d' : Dst} {v v' : Word}
    {f : Ctx → Word} (hi : Issues i s k m) (hx : exec i s = word i (fun c => c.alu lat' d' (f c)) s)
    (hf : f (k.ctx s.m m) = v') (ht : some (lat', d', v') = some (lat, d, v)) :
    Ends i s k m (.done ((k.ctx s.m m).result lat d v)) := by
  cases ht
  subst hf
  exact hx.trans (word_valid hi.here hi.stream)

/-! ### The statements -/

/-- Settles O18: each word's result by the lemma on its row of the table. -/
theorem integerWordsGiveTheirResults : Obligations.IntegerWordsGiveTheirResults := by
  intro i s k m lat d v hi h
  cases i with
  | add => exact hi.ends_of_alu (exec_add ..) (add_eq_word64 ..) h
  | sub => exact hi.ends_of_alu (exec_sub ..) (sub_eq_word64 ..) h
  | mul => exact hi.ends_of_alu (exec_mul ..) (mul_eq_word64 ..) h
  | mulh => exact hi.ends_of_alu (exec_mulh ..) (mulhs_eq_word64 ..) h
  | mulhu => exact hi.ends_of_alu (exec_mulhu ..) (mulhuW_eq_word64 ..) h
  | and => exact hi.ends_of_alu (exec_and ..) rfl h
  | or => exact hi.ends_of_alu (exec_or ..) rfl h
  | xor => exact hi.ends_of_alu (exec_xor ..) rfl h
  | shl => exact hi.ends_of_alu (exec_shl ..) (shl_eq_word64 ..) h
  | shr => exact hi.ends_of_alu (exec_shr ..) (shr_eq_word64 ..) h
  | sar => exact hi.ends_of_alu (exec_sar ..) (sar_eq_word64 ..) h
  | min => exact hi.ends_of_alu (exec_min ..) (smin_eq_word64 ..) h
  | max => exact hi.ends_of_alu (exec_max ..) (smax_eq_word64 ..) h
  | minu => exact hi.ends_of_alu (exec_minu ..) (umin_eq_word64 ..) h
  | maxu => exact hi.ends_of_alu (exec_maxu ..) (umax_eq_word64 ..) h
  | slt => exact hi.ends_of_alu (exec_slt ..) (w01_slt ..) h
  | sltu => exact hi.ends_of_alu (exec_sltu ..) (w01_ult ..) h
  | seq => exact hi.ends_of_alu (exec_seq ..) (w01_beq ..) h
  | sel => exact hi.ends_of_alu (exec_sel ..) rfl h
  | li => exact hi.ends_of_alu (exec_li ..) (signExtend_eq_word64 ..) h
  | lih => exact hi.ends_of_alu (exec_lih ..) (mergeHigh_eq_word64 ..) h
  | clz => exact hi.ends_of_alu (exec_clz ..) (clz_eq_word64 ..) h
  | popc => exact hi.ends_of_alu (exec_popc ..) (popc_eq_word64 ..) h
  | bext => exact hi.ends_of_alu (exec_bext ..) (bext_eq_word64 ..) h
  | bextS => exact hi.ends_of_alu (exec_bextS ..) (bextS_eq_word64 ..) h
  | bins => exact hi.ends_of_alu (exec_bins ..) (bins_eq_word64 ..) h
  | madd => exact hi.ends_of_alu (exec_madd ..) (mulAdd_eq_word64 ..) h
  | _ => cases h -- no row of the table

/-- Settles O19: each division by the lemma on its result, at latency 20. -/
theorem divisionsTruncateAndNeverTrap : Obligations.DivisionsTruncateAndNeverTrap := by
  refine ⟨fun i s k m d v hi h => ?ends, fun _ _ _ => tmod_pos_iff, rfl, rfl, rfl, rfl⟩
  have ht := congrArg (Option.map (Prod.mk 20)) h
  cases i with
  | div => exact hi.ends_of_alu (exec_div ..) (sdiv64_eq ..) ht
  | divu => exact hi.ends_of_alu (exec_divu ..) (udiv_eq ..) ht
  | rem => exact hi.ends_of_alu (exec_rem ..) (srem64_eq ..) ht
  | remu => exact hi.ends_of_alu (exec_remu ..) (urem_eq ..) ht
  | _ => cases h -- no division

end Sys2Proof.Machine

/-!
PROOFS. The decoder and the encoder (R167 to R180): the decoder reads back every word the encoder writes, and accepts no
other word.
-/

namespace Sys2Proof.Laws.RoundTrip

/-- Every instruction: a word by the lemma of its row; an event of the device is never well formed. -/
theorem statement (i : Instr) : Statement i := by
  intro idle h
  cases i with
  | nop => exact nop idle h | go => exact go idle h | halt => exact halt idle h | trap => exact trap _ idle h
  | eret => exact eret idle h | csrr => exact csrr _ _ idle h | csrw => exact csrw _ _ idle h
  | idem => exact idem idle h | idemEnd => exact idemEnd idle h | brk => exact brk _ idle h
  | done => exact done idle h | add => exact add _ _ _ idle h | sub => exact sub _ _ _ idle h
  | mul => exact mul _ _ _ idle h | mulh => exact mulh _ _ _ idle h | mulhu => exact mulhu _ _ _ idle h
  | div => exact div _ _ _ idle h | divu => exact divu _ _ _ idle h | rem => exact rem _ _ _ idle h
  | remu => exact remu _ _ _ idle h | and => exact and _ _ _ idle h | or => exact or _ _ _ idle h
  | xor => exact xor _ _ _ idle h | shl => exact shl _ _ _ idle h | shr => exact shr _ _ _ idle h
  | sar => exact sar _ _ _ idle h | min => exact min _ _ _ idle h | max => exact max _ _ _ idle h
  | minu => exact minu _ _ _ idle h | maxu => exact maxu _ _ _ idle h | slt => exact slt _ _ _ idle h
  | sltu => exact sltu _ _ _ idle h | seq => exact seq _ _ _ idle h | sel => exact sel _ _ _ _ idle h
  | li => exact li _ _ idle h | lih => exact lih _ _ idle h | clz => exact clz _ _ idle h
  | popc => exact popc _ _ idle h | bext => exact bext _ _ _ _ idle h | bextS => exact bextS _ _ _ _ idle h
  | bins => exact bins _ _ _ _ idle h | madd => exact madd _ _ _ _ idle h | fopAdd => exact fopAdd _ _ _ _ idle h
  | fopSub => exact fopSub _ _ _ _ idle h | fopMul => exact fopMul _ _ _ _ idle h
  | fopMin => exact fopMin _ _ _ idle h | fopMax => exact fopMax _ _ _ idle h | fopEq => exact fopEq _ _ _ idle h
  | fopLt => exact fopLt _ _ _ idle h | fopLe => exact fopLe _ _ _ idle h | cvtsfIf => exact cvtsfIf _ _ _ idle h
  | cvtsfFi => exact cvtsfFi _ _ _ idle h | bc => exact bc _ _ _ _ idle h | j => exact j _ idle h
  | jr => exact jr _ _ idle h | call => exact call _ _ idle h | ret => exact ret _ idle h
  | loop => exact loop _ _ _ idle h | lpbrk => exact lpbrk _ idle h | ld => exact ld _ _ _ _ _ _ _ _ idle h
  | st => exact st _ _ _ _ idle h | pref => exact pref _ _ _ idle h | cflush => exact cflush _ _ _ _ idle h
  | cinv => exact cinv _ _ _ _ idle h | strel => exact strel _ _ _ _ _ idle h
  | ldacq => exact ldacq _ _ _ _ _ _ idle h | aadd => exact aadd _ idle h | aand => exact aand _ idle h
  | aor => exact aor _ idle h | axor => exact axor _ idle h | amin => exact amin _ idle h
  | amax => exact amax _ idle h | aminu => exact aminu _ idle h | amaxu => exact amaxu _ idle h
  | axchg => exact axchg _ idle h | acas => exact acas _ _ idle h | afadd => exact afadd _ idle h
  | scadd => exact scadd _ _ _ _ _ _ idle h | acqGe => exact acqGe _ _ _ _ idle h | acqNw => exact acqNw _ _ _ idle h
  | acqX => exact acqX _ _ _ idle h | rel => exact rel _ _ _ idle h | fence => exact fence _ idle h
  | waitcGe => exact waitcGe _ _ idle h | waitcLe => exact waitcLe _ _ idle h | tlwait => exact tlwait _ _ idle h
  | tlsig => exact tlsig _ _ _ idle h | bar => exact bar _ _ idle h | mbw => exact mbw _ _ idle h
  | mbr => exact mbr _ _ idle h | tagarm => exact tagarm _ _ _ _ idle h | tagsetFull => exact tagsetFull _ idle h
  | tagsetPoison => exact tagsetPoison _ idle h | tagclr => exact tagclr _ idle h
  | tagwtNw => exact tagwtNw _ _ idle h | tagwtFull => exact tagwtFull _ _ idle h
  | tagwtEmpty => exact tagwtEmpty _ _ idle h | xfence => exact xfence _ idle h | push => exact push _ _ _ _ _ idle h
  | popN => exact popN _ _ _ _ _ idle h | popW => exact popW _ _ _ _ _ idle h | qoctlEn => exact qoctlEn _ _ idle h
  | qoctlDis => exact qoctlDis _ _ idle h | qoctlCnt => exact qoctlCnt _ _ idle h
  | hld => exact hld _ _ _ _ _ _ idle h | hldQ => exact hldQ _ _ _ _ idle h | hpub => exact hpub _ idle h
  | hwait => exact hwait _ idle h | hwaitAll => exact hwaitAll _ idle h | gridctlJoin => exact gridctlJoin _ idle h
  | gridctlLeave => exact gridctlLeave _ idle h | gridctlStat => exact gridctlStat _ _ idle h
  | gridctlStatMs => exact gridctlStatMs _ _ _ idle h | qld => exact qld _ _ _ _ idle h
  | qldx => exact qldx _ _ _ _ _ idle h | tget => exact tget _ _ _ _ _ idle h
  | tsend => exact tsend _ _ _ _ _ _ _ idle h | tsto => exact tsto _ _ _ _ _ _ idle h
  | bld => exact bld _ _ _ _ _ idle h | qflush => exact qflush _ idle h | cpseq => exact cpseq _ _ idle h
  | cpseqClr => exact cpseqClr idle h | cpsrcBase => exact cpsrcBase _ idle h
  | cpsrcStride => exact cpsrcStride _ _ idle h | cpsrcWin => exact cpsrcWin _ _ _ idle h
  | cpdstBase => exact cpdstBase _ idle h | cpdstBaseTile => exact cpdstBaseTile _ idle h
  | cpdstStride => exact cpdstStride _ _ idle h | cpdstWin => exact cpdstWin _ _ _ idle h
  | cpidx => exact cpidx _ _ _ idle h | cpidxOff => exact cpidxOff idle h | cpswz => exact cpswz _ idle h
  | cpgo => exact cpgo _ _ _ _ idle h | cpstat => exact cpstat _ _ _ idle h
  | lookup => exact lookup _ _ _ _ _ _ _ _ idle h | lkstat => exact lkstat _ _ _ idle h
  | update => exact update _ _ _ _ _ _ _ idle h | replayAcc => exact replayAcc _ _ _ _ _ idle h
  | replaySgd => exact replaySgd _ _ _ _ _ idle h | replayAdag => exact replayAdag _ _ _ _ _ idle h
  | skctlWr => exact skctlWr _ _ idle h | skctlRd => exact skctlRd _ _ idle h
  | skctlEst => exact skctlEst _ _ _ idle h | hrctlFlush => exact hrctlFlush _ _ _ idle h
  | hrctlDetach => exact hrctlDetach _ _ _ idle h | a2a => exact a2a _ _ _ _ _ _ idle h | vadd => exact vadd _ idle h
  | vsub => exact vsub _ idle h | vmul => exact vmul _ idle h | vfma => exact vfma _ idle h
  | vmin => exact vmin _ idle h | vmax => exact vmax _ idle h | vabs => exact vabs _ idle h
  | vneg => exact vneg _ idle h | vand => exact vand _ idle h | vor => exact vor _ idle h
  | vxor => exact vxor _ idle h | vnot => exact vnot _ idle h | vshl => exact vshl _ idle h
  | vshr => exact vshr _ idle h | vsar => exact vsar _ idle h | vcmp => exact vcmp _ idle h
  | vsel => exact vsel _ idle h | vcvt => exact vcvt _ _ _ idle h | vqnt => exact vqnt _ _ _ _ idle h
  | vdqn => exact vdqn _ _ _ _ idle h | vrsum => exact vrsum _ idle h | vrmax => exact vrmax _ idle h
  | vrmin => exact vrmin _ idle h | vdot => exact vdot _ _ idle h | vexp2 => exact vexp2 _ idle h
  | vlog2 => exact vlog2 _ idle h | vrcp => exact vrcp _ idle h | vrsq => exact vrsq _ idle h
  | vact => exact vact _ _ idle h | vbcst => exact vbcst _ _ idle h | vperm => exact vperm _ idle h
  | vshufRot => exact vshufRot _ _ idle h | vshufRev => exact vshufRev _ idle h
  | vshufUnzip => exact vshufUnzip _ idle h | vshufZip => exact vshufZip _ idle h
  | vmovsIns => exact vmovsIns _ _ _ _ idle h | vmovsExt => exact vmovsExt _ _ _ _ _ _ idle h
  | vclmp => exact vclmp _ idle h | vscan => exact vscan _ idle h | vpop => exact vpop _ _ _ idle h
  | vmask => exact vmask _ _ idle h | vzero => exact vzero _ _ idle h | vidx => exact vidx _ _ idle h
  | vsprs => exact vsprs _ idle h | vscale => exact vscale _ idle h | xnest => exact xnest _ _ _ _ _ _ idle h
  | xnestClr => exact xnestClr idle h | xlrRd => exact xlrRd _ _ idle h | xlrWr => exact xlrWr _ _ idle h
  | xlrPos => exact xlrPos _ idle h | xopsA => exact xopsA _ idle h | xopsB => exact xopsB _ idle h
  | xpost => exact xpost _ idle h | xspm => exact xspm _ idle h | xmask => exact xmask _ idle h
  | xgo => exact xgo _ _ _ _ _ idle h | xwait => exact xwait idle h | xaccClr => exact xaccClr _ idle h
  | xaccSt => exact xaccSt _ _ idle h | xaccLd => exact xaccLd _ _ _ _ idle h
  | xaccLdp => exact xaccLdp _ _ _ _ idle h | xaccAdd => exact xaccAdd _ _ idle h
  | xaccPost => exact xaccPost _ _ idle h | sealTensor => exact sealTensor _ _ _ idle h
  | sealTable => exact sealTable _ _ _ idle h | sealGrid => exact sealGrid _ _ _ idle h
  | unsealHandle => exact unsealHandle _ idle h | hmov => exact hmov _ _ _ idle h
  | hmovMem => exact hmovMem _ _ _ _ idle h
  | _ => cases h

end Sys2Proof.Laws.RoundTrip

namespace Sys2Proof.Machine

/-! ### Reading back (R176 to R180) -/

/-- Settles O8: the round trip of each row. -/
theorem decodeReadsWhatEncodeWrites : Obligations.DecodeReadsWhatEncodeWrites :=
  fun i idle h => Laws.RoundTrip.statement i idle h

/-! ### What decodes (R178, R179) -/

/-- No event of the device, which no stream issues, is well formed. -/
theorem wf_of_noStream (i : Instr) : (i.streams.isEmpty && i.wf) = false := by
  cases i with
  | csrr _ n | csrw n _ => cases n <;> rfl
  | _ => rfl

/-- A well-formed instruction is a word of some stream (R144). -/
theorem isWord_of_wf {i : Instr} (h : i.wf = true) : IsWord i := by
  simpa [h, IsWord] using wf_of_noStream i

/-- The opcodes without a format are those that the map of R176 leaves out. -/
theorem isNone_opFormat : ∀ op < 256,
    (opFormat op).isNone = true ↔
      (0x0A ≤ op ∧ op ≤ 0x0F) ∨ (0x37 ≤ op ∧ op ≤ 0x3F) ∨ (0x47 ≤ op ∧ op ≤ 0x4F) ∨ (0x5C ≤ op ∧ op ≤ 0x5F) ∨
        (0x6E ≤ op ∧ op ≤ 0x6F) ∨ op = 0x73 ∨ (0x78 ≤ op ∧ op ≤ 0x7F) ∨ (0x87 ≤ op ∧ op ≤ 0x8F) ∨
        (0x97 ≤ op ∧ op ≤ 0x9F) ∨ (0xA7 ≤ op ∧ op ≤ 0xAF) ∨ (0xD9 ≤ op ∧ op ≤ 0xDF) ∨ 0xEC ≤ op := by
  decide +kernel

/-- What decodes is well formed, and its encoding with the word's IDLE is the word. -/
theorem decode_ok {w : Word} {i : Instr} (h : decode w = .ok i) : i.wf = true ∧ encode (wordIdle w) i = w := by
  unfold decode at h
  split at h
  · cases h
  · split at h
    · cases h
    · split at h
      · next hok =>
        cases h
        simpa using hok
      · cases h

/-- Only an opcode without a format is refused as reserved. -/
theorem decode_reservedOpcode_iff (w : Word) : decode w = .error .reservedOpcode ↔ (opFormat (wordOp w).toNat).isNone = true := by
  unfold decode
  split
  · next hf => simp [hf]
  · next hf =>
    simp only [hf, Option.isNone_some, Bool.false_eq_true, iff_false]
    split
    · simp
    · split <;> simp

/-- Settles O9: the decoder's check against the encoder, and the opcodes without a format. -/
theorem decodedWordsAreEncodings : Obligations.DecodedWordsAreEncodings := by
  refine ⟨fun w i h => ?encodes, fun w => ?reserved⟩
  case encodes =>
    obtain ⟨hwf, henc⟩ := decode_ok h
    exact ⟨hwf, isWord_of_wf hwf, henc⟩
  case reserved => exact (decode_reservedOpcode_iff w).trans (isNone_opFormat _ (wordOp w).isLt)

end Sys2Proof.Machine


/-!
PROOFS. The whole machine: every row of the table goes on, the moves of a step, and the host side, which only its own events
change.
-/

namespace Sys2Proof.Machine

/-! ### The rows of the table -/

/-- The row of a stream's word is `word` of its meaning `f`; a word that R163 does not list is illegal in a region. -/
structure MeansWord (i : Instr) (f : Ctx → Res) : Prop where
  exec_eq : ∀ s, exec i s = word i f s
  inRegion : regionWord i = false → i.validOn .a = true → ∀ c : Ctx, c.inRegion = true → f c = .trap (illInstr c.raw)

/-- A row that is a word's by its meaning alone. -/
def IsWordRow (i : Instr) : Prop := ∃ f, MeansWord i f

theorem IsWordRow.of_word {i : Instr} {f : Ctx → Res} (hr : (regionWord i || !i.validOn .a) = true)
    (h : ∀ s, exec i s = word i f s) : IsWordRow i :=
  ⟨f, h, fun h1 h2 => by simp [h1, h2] at hr⟩

theorem IsWordRow.of_wordOut {i : Instr} {f : Ctx → Res} (h : ∀ s, exec i s = wordOut i f s) : IsWordRow i :=
  ⟨_, h, fun _ _ _ hc => if_pos hc⟩

/-- Every word of a stream has such a row. -/
theorem IsWord.row {i : Instr} (h : IsWord i) : IsWordRow i := by
  cases i with
  | nop => exact .of_word rfl exec_nop | go => exact .of_word rfl exec_go | halt => exact .of_word rfl exec_halt
  | trap => exact .of_wordOut (exec_trap _) | eret => exact .of_word rfl exec_eret
  | csrr => exact .of_word rfl (exec_csrr _ _) | csrw => exact .of_word rfl (exec_csrw _ _)
  | idem => exact .of_word rfl exec_idem | idemEnd => exact .of_word rfl exec_idemEnd
  | brk => exact .of_wordOut (exec_brk _) | done => exact .of_word rfl exec_done
  | add => exact .of_word rfl (exec_add _ _ _) | sub => exact .of_word rfl (exec_sub _ _ _)
  | mul => exact .of_word rfl (exec_mul _ _ _) | mulh => exact .of_word rfl (exec_mulh _ _ _)
  | mulhu => exact .of_word rfl (exec_mulhu _ _ _) | div => exact .of_word rfl (exec_div _ _ _)
  | divu => exact .of_word rfl (exec_divu _ _ _) | rem => exact .of_word rfl (exec_rem _ _ _)
  | remu => exact .of_word rfl (exec_remu _ _ _) | and => exact .of_word rfl (exec_and _ _ _)
  | or => exact .of_word rfl (exec_or _ _ _) | xor => exact .of_word rfl (exec_xor _ _ _)
  | shl => exact .of_word rfl (exec_shl _ _ _) | shr => exact .of_word rfl (exec_shr _ _ _)
  | sar => exact .of_word rfl (exec_sar _ _ _) | min => exact .of_word rfl (exec_min _ _ _)
  | max => exact .of_word rfl (exec_max _ _ _) | minu => exact .of_word rfl (exec_minu _ _ _)
  | maxu => exact .of_word rfl (exec_maxu _ _ _) | slt => exact .of_word rfl (exec_slt _ _ _)
  | sltu => exact .of_word rfl (exec_sltu _ _ _) | seq => exact .of_word rfl (exec_seq _ _ _)
  | sel => exact .of_word rfl (exec_sel _ _ _ _) | li => exact .of_word rfl (exec_li _ _)
  | lih => exact .of_word rfl (exec_lih _ _) | clz => exact .of_word rfl (exec_clz _ _)
  | popc => exact .of_word rfl (exec_popc _ _) | bext => exact .of_word rfl (exec_bext _ _ _ _)
  | bextS => exact .of_word rfl (exec_bextS _ _ _ _) | bins => exact .of_word rfl (exec_bins _ _ _ _)
  | madd => exact .of_word rfl (exec_madd _ _ _ _) | fopAdd => exact .of_word rfl (exec_fopAdd _ _ _ _)
  | fopSub => exact .of_word rfl (exec_fopSub _ _ _ _) | fopMul => exact .of_word rfl (exec_fopMul _ _ _ _)
  | fopMin => exact .of_word rfl (exec_fopMin _ _ _) | fopMax => exact .of_word rfl (exec_fopMax _ _ _)
  | fopEq => exact .of_word rfl (exec_fopEq _ _ _) | fopLt => exact .of_word rfl (exec_fopLt _ _ _)
  | fopLe => exact .of_word rfl (exec_fopLe _ _ _) | cvtsfIf => exact .of_word rfl (exec_cvtsfIf _ _ _)
  | cvtsfFi => exact .of_word rfl (exec_cvtsfFi _ _ _) | bc => exact .of_word rfl (exec_bc _ _ _ _)
  | j => exact .of_word rfl (exec_j _) | jr => exact .of_word rfl (exec_jr _ _)
  | call => exact .of_word rfl (exec_call _ _) | ret => exact .of_word rfl (exec_ret _)
  | loop => exact .of_word rfl (exec_loop _ _ _) | lpbrk => exact .of_word rfl (exec_lpbrk _)
  | ld => exact .of_word rfl (exec_ld _ _ _ _ _ _ _ _) | st => exact .of_word rfl (exec_st _ _ _ _)
  | pref => exact .of_word rfl (exec_pref _ _ _) | cflush => exact .of_wordOut (exec_cflush _ _ _ _)
  | cinv => exact .of_wordOut (exec_cinv _ _ _ _) | strel => exact .of_wordOut (exec_strel _ _ _ _ _)
  | ldacq => exact .of_wordOut (exec_ldacq _ _ _ _ _ _) | aadd => exact .of_wordOut (exec_aadd _)
  | aand => exact .of_wordOut (exec_aand _) | aor => exact .of_wordOut (exec_aor _)
  | axor => exact .of_wordOut (exec_axor _) | amin => exact .of_wordOut (exec_amin _)
  | amax => exact .of_wordOut (exec_amax _) | aminu => exact .of_wordOut (exec_aminu _)
  | amaxu => exact .of_wordOut (exec_amaxu _) | axchg => exact .of_wordOut (exec_axchg _)
  | acas => exact .of_wordOut (exec_acas _ _) | afadd => exact .of_wordOut (exec_afadd _)
  | scadd => exact .of_wordOut (exec_scadd _ _ _ _ _ _) | acqGe => exact .of_wordOut (exec_acqGe _ _ _ _)
  | acqNw => exact .of_wordOut (exec_acqNw _ _ _) | acqX => exact .of_wordOut (exec_acqX _ _ _)
  | rel => exact .of_wordOut (exec_rel _ _ _) | fence => exact .of_wordOut (exec_fence _)
  | waitcGe => exact .of_wordOut (exec_waitcGe _ _) | waitcLe => exact .of_wordOut (exec_waitcLe _ _)
  | tlwait => exact .of_word rfl (exec_tlwait _ _) | tlsig => exact .of_wordOut (exec_tlsig _ _ _)
  | bar => exact .of_wordOut (exec_bar _ _) | mbw => exact .of_wordOut (exec_mbw _ _)
  | mbr => exact .of_wordOut (exec_mbr _ _) | tagarm => exact .of_wordOut (exec_tagarm _ _ _ _)
  | tagsetFull => exact .of_wordOut (exec_tagsetFull _) | tagsetPoison => exact .of_wordOut (exec_tagsetPoison _)
  | tagclr => exact .of_wordOut (exec_tagclr _) | tagwtNw => exact .of_wordOut (exec_tagwtNw _ _)
  | tagwtFull => exact .of_wordOut (exec_tagwtFull _ _) | tagwtEmpty => exact .of_wordOut (exec_tagwtEmpty _ _)
  | xfence => exact .of_wordOut (exec_xfence _) | push => exact .of_wordOut (exec_push _ _ _ _ _)
  | popN => exact .of_wordOut (exec_popN _ _ _ _ _) | popW => exact .of_wordOut (exec_popW _ _ _ _ _)
  | qoctlEn => exact .of_wordOut (exec_qoctlEn _ _) | qoctlDis => exact .of_wordOut (exec_qoctlDis _ _)
  | qoctlCnt => exact .of_wordOut (exec_qoctlCnt _ _) | hld => exact .of_wordOut (exec_hld _ _ _ _ _ _)
  | hldQ => exact .of_wordOut (exec_hldQ _ _ _ _) | hpub => exact .of_wordOut (exec_hpub _)
  | hwait => exact .of_wordOut (exec_hwait _) | hwaitAll => exact .of_wordOut (exec_hwaitAll _)
  | gridctlJoin => exact .of_wordOut (exec_gridctlJoin _) | gridctlLeave => exact .of_wordOut (exec_gridctlLeave _)
  | gridctlStat => exact .of_wordOut (exec_gridctlStat _ _)
  | gridctlStatMs => exact .of_wordOut (exec_gridctlStatMs _ _ _) | qld => exact .of_word rfl (exec_qld _ _ _ _)
  | qldx => exact .of_word rfl (exec_qldx _ _ _ _ _) | tget => exact .of_word rfl (exec_tget _ _ _ _ _)
  | tsend => exact .of_wordOut (exec_tsend _ _ _ _ _ _ _) | tsto => exact .of_wordOut (exec_tsto _ _ _ _ _ _)
  | bld => exact .of_wordOut (exec_bld _ _ _ _ _) | qflush => exact .of_wordOut (exec_qflush _)
  | cpseq => exact .of_word rfl (exec_cpseq _ _) | cpseqClr => exact .of_word rfl exec_cpseqClr
  | cpsrcBase => exact .of_word rfl (exec_cpsrcBase _) | cpsrcStride => exact .of_word rfl (exec_cpsrcStride _ _)
  | cpsrcWin => exact .of_word rfl (exec_cpsrcWin _ _ _) | cpdstBase => exact .of_word rfl (exec_cpdstBase _)
  | cpdstBaseTile => exact .of_word rfl (exec_cpdstBaseTile _)
  | cpdstStride => exact .of_word rfl (exec_cpdstStride _ _) | cpdstWin => exact .of_word rfl (exec_cpdstWin _ _ _)
  | cpidx => exact .of_word rfl (exec_cpidx _ _ _) | cpidxOff => exact .of_word rfl exec_cpidxOff
  | cpswz => exact .of_word rfl (exec_cpswz _) | cpgo => exact .of_word rfl (exec_cpgo _ _ _ _)
  | cpstat => exact .of_word rfl (exec_cpstat _ _ _) | lookup => exact .of_word rfl (exec_lookup _ _ _ _ _ _ _ _)
  | lkstat => exact .of_word rfl (exec_lkstat _ _ _) | update => exact .of_word rfl (exec_update _ _ _ _ _ _ _)
  | replayAcc => exact .of_wordOut (exec_replayAcc _ _ _ _ _)
  | replaySgd => exact .of_wordOut (exec_replaySgd _ _ _ _ _)
  | replayAdag => exact .of_wordOut (exec_replayAdag _ _ _ _ _) | skctlWr => exact .of_wordOut (exec_skctlWr _ _)
  | skctlRd => exact .of_wordOut (exec_skctlRd _ _) | skctlEst => exact .of_wordOut (exec_skctlEst _ _ _)
  | hrctlFlush => exact .of_wordOut (exec_hrctlFlush _ _ _)
  | hrctlDetach => exact .of_wordOut (exec_hrctlDetach _ _ _) | a2a => exact .of_wordOut (exec_a2a _ _ _ _ _ _)
  | vadd => exact .of_word rfl (exec_vadd _) | vsub => exact .of_word rfl (exec_vsub _)
  | vmul => exact .of_word rfl (exec_vmul _) | vfma => exact .of_word rfl (exec_vfma _)
  | vmin => exact .of_word rfl (exec_vmin _) | vmax => exact .of_word rfl (exec_vmax _)
  | vabs => exact .of_word rfl (exec_vabs _) | vneg => exact .of_word rfl (exec_vneg _)
  | vand => exact .of_word rfl (exec_vand _) | vor => exact .of_word rfl (exec_vor _)
  | vxor => exact .of_word rfl (exec_vxor _) | vnot => exact .of_word rfl (exec_vnot _)
  | vshl => exact .of_word rfl (exec_vshl _) | vshr => exact .of_word rfl (exec_vshr _)
  | vsar => exact .of_word rfl (exec_vsar _) | vcmp => exact .of_word rfl (exec_vcmp _)
  | vsel => exact .of_word rfl (exec_vsel _) | vcvt => exact .of_word rfl (exec_vcvt _ _ _)
  | vqnt => exact .of_word rfl (exec_vqnt _ _ _ _) | vdqn => exact .of_word rfl (exec_vdqn _ _ _ _)
  | vrsum => exact .of_word rfl (exec_vrsum _) | vrmax => exact .of_word rfl (exec_vrmax _)
  | vrmin => exact .of_word rfl (exec_vrmin _) | vdot => exact .of_word rfl (exec_vdot _ _)
  | vexp2 => exact .of_word rfl (exec_vexp2 _) | vlog2 => exact .of_word rfl (exec_vlog2 _)
  | vrcp => exact .of_word rfl (exec_vrcp _) | vrsq => exact .of_word rfl (exec_vrsq _)
  | vact => exact .of_word rfl (exec_vact _ _) | vbcst => exact .of_word rfl (exec_vbcst _ _)
  | vperm => exact .of_word rfl (exec_vperm _) | vshufRot => exact .of_word rfl (exec_vshufRot _ _)
  | vshufRev => exact .of_word rfl (exec_vshufRev _) | vshufUnzip => exact .of_word rfl (exec_vshufUnzip _)
  | vshufZip => exact .of_word rfl (exec_vshufZip _) | vmovsIns => exact .of_word rfl (exec_vmovsIns _ _ _ _)
  | vmovsExt => exact .of_word rfl (exec_vmovsExt _ _ _ _ _ _) | vclmp => exact .of_word rfl (exec_vclmp _)
  | vscan => exact .of_word rfl (exec_vscan _) | vpop => exact .of_word rfl (exec_vpop _ _ _)
  | vmask => exact .of_word rfl (exec_vmask _ _) | vzero => exact .of_word rfl (exec_vzero _ _)
  | vidx => exact .of_word rfl (exec_vidx _ _) | vsprs => exact .of_word rfl (exec_vsprs _)
  | vscale => exact .of_word rfl (exec_vscale _) | xnest => exact .of_word rfl (exec_xnest _ _ _ _ _ _)
  | xnestClr => exact .of_word rfl exec_xnestClr | xlrRd => exact .of_word rfl (exec_xlrRd _ _)
  | xlrWr => exact .of_word rfl (exec_xlrWr _ _) | xlrPos => exact .of_word rfl (exec_xlrPos _)
  | xopsA => exact .of_word rfl (exec_xopsA _) | xopsB => exact .of_word rfl (exec_xopsB _)
  | xpost => exact .of_word rfl (exec_xpost _) | xspm => exact .of_word rfl (exec_xspm _)
  | xmask => exact .of_word rfl (exec_xmask _) | xgo => exact .of_word rfl (exec_xgo _ _ _ _ _)
  | xwait => exact .of_word rfl exec_xwait | xaccClr => exact .of_word rfl (exec_xaccClr _)
  | xaccSt => exact .of_word rfl (exec_xaccSt _ _) | xaccLd => exact .of_word rfl (exec_xaccLd _ _ _ _)
  | xaccLdp => exact .of_word rfl (exec_xaccLdp _ _ _ _) | xaccAdd => exact .of_word rfl (exec_xaccAdd _ _)
  | xaccPost => exact .of_word rfl (exec_xaccPost _ _) | sealTensor => exact .of_word rfl (exec_sealTensor _ _ _)
  | sealTable => exact .of_word rfl (exec_sealTable _ _ _) | sealGrid => exact .of_word rfl (exec_sealGrid _ _ _)
  | unsealHandle => exact .of_word rfl (exec_unsealHandle _) | hmov => exact .of_word rfl (exec_hmov _ _ _)
  | hmovMem => exact .of_word rfl (exec_hmovMem _ _ _ _)
  | _ => exact absurd rfl h

/-- The row of an event goes on in every state. -/
theorem exec_event_goesOn {i : Instr} (h : ¬IsWord i) (s : State) : ∃ t, exec i s = .next t := by
  cases i with
  | dataLanding | untimedResultLanding | storeBufferDrain | fetchMissFill | vectorUnitFree | walkComplete
  | tagCheckSatisfied | arrival | arrivalRetry | abortEvent | closingNotice | rollback | mailboxWake
  | barrierEpisodeComplete | acqHomeRetest | acqWithdrawal | queueHomeService | junctionPair | holdExpiry
  | parkedPopTimeout | vergeWriteStart | vergeWriteComplete | progressReport | hpubWaitEnd | haloTimeout
  | waitTimeout | decay | fillComplete | writeBackComplete | modeSwitch | modeSwitchComplete | lookupBag
  | binAppend | replayRegion | bucketReceive | a2aCombination | copyElement | commandCompletion | kStep
  | ptrootWrite | tlbinvAll | tlbinvPage | tlbinvComplete | expctlLoad | hrcfgWrite | rgnctlLoad | registerWrite
  | hqdb | cmdNop | launch | launchi | cmdLoop | cmdIf | jump | wait | signal | sigadd | write | cmdFence
  | delay | delayExpiry | ctxnew | ctxend | intr | qstop | predDecrement | cardAdmission | cardRepush
  | chunkDispatch | taskRetire | periodBoundary | preemptionRequest | preemptHalt | save | restore | escalation
  | resume | endTheIteration | endTheContext | dieFence | partitionChange | uncorrectableError | fabcfgWrite
  | portTraining | linkReplayFailure | rd | wr | atom | arrive | qop | obj | rsp | openConn | openack | close
  | ackOnly | ackIdleTimeout | retransmitTimeout | teardown | fillingIdleTimeout | arrivalResend
  | routerWaitExpiry | rudBucket | rudiPartial | uecDeliveryFailure | claim | renew | handover | leaseExpiry
  | powerUp | clearingComplete | bootctlGo | verificationComplete | devrst | attgo | attestationReport
  | powerWindow | limitReached | thermalTrip | powerDown | refresh | ageRefresh | pcieLinkTraining
  | apertureWrite | packetForward | junctionHold => exact ⟨_, rfl⟩
  | csrr _ n | csrw n _ => cases n <;> exact absurd (List.cons_ne_nil _ _) h
  | _ => exact absurd (List.cons_ne_nil _ _) h

/-- A raised event goes on in every state. -/
theorem runEvent_goesOn (e : Event) (s : State) : ∃ t, runEvent e s = .next t := by
  cases e <;> exact ⟨_, rfl⟩

/-- Settles O4: a word is `word` of its meaning, an event goes on. -/
theorem nothingIsRefusedAndTheHostSideStays : Obligations.NothingIsRefusedAndTheHostSideStays := by
  refine ⟨fun i s => ?stops, fun i s t hw h => ?host⟩
  case stops =>
    by_cases hw : IsWord i
    · obtain ⟨f, hf⟩ := hw.row
      rw [hf.exec_eq]
      cases hk : s.m.issuer with
      | none => simp [word_none hk, hw]
      | some k => simp [word_next hk]
    · obtain ⟨t, ht⟩ := exec_event_goesOn hw s
      simp [ht]
  case host =>
    obtain ⟨f, hf⟩ := hw.row
    exact word_host ((hf.exec_eq s).symm.trans h)

/-! ### The moves of a step (R151, R152, R167, R179; assumption 1) -/

section Issue

variable {r : MRef} {st : Strm} {wall : Nat} {s : State} {m : Member}

/-- The machine at the wall clock of an issue. -/
def atWall (M : Mach) (wall : Nat) : Mach := { M with wclk := max M.wclk wall }

/-- The stream may issue its next word at the wall clock. -/
structure MayIssueAt (s : State) (r : MRef) (st : Strm) (wall : Nat) (m : Member) : Prop where
  member : s.m.member r = some m
  may : m.mayIssue st = true

variable (h : MayIssueAt s r st wall m)
include h

/-- A word that cannot be fetched traps with the fault of its fetch (R31). -/
theorem takeIssue_unfetched {f : XFault} (hf : fetch (atWall s.m wall) m (m.str st).pc = .error f) :
    takeIssue r st wall s =
      .rest { s with
        m := finish ((⟨r, st, (m.str st).pc, 0⟩ : Cur).ctx (atWall s.m wall) m) (.trap (xlateTrap 0 f .fetch)) } := by
  have hm : (atWall s.m wall).member r = some m := h.member
  simp only [atWall] at hf hm ⊢
  simp [takeIssue, trapAt, State.upd, hm, h.may, hf]

variable {raw : Word} (hf : fetch (atWall s.m wall) m (m.str st).pc = .ok raw)
include hf

/-- One whose translation is not cached is fetched by a fill (R152). -/
theorem takeIssue_miss (hh : fetchHit (atWall s.m wall) m (m.str st).pc = false) :
    takeIssue r st wall s = .event (.fetchMissFill r st) { s with m := { atWall s.m wall with cur := none } } := by
  have hm : (atWall s.m wall).member r = some m := h.member
  simp only [atWall] at hf hh hm ⊢
  simp [takeIssue, State.upd, hm, h.may, hf, hh]

variable (hh : fetchHit (atWall s.m wall) m (m.str st).pc = true)
include hh

/-- Where the nest has stopped, X's next word raises the nest's fault (R314). -/
theorem takeIssue_nestFault {i : TrapInfo} (hn : m.reporting st = some i) :
    takeIssue r st wall s =
      let c := (⟨r, st, (m.str st).pc, raw⟩ : Cur).ctx (atWall s.m wall) m
      .rest { s with m := finish c (.trapTaking (raiseOnce c.M 16 (.kStep r)) .nest { i with tval := raw }) } := by
  have hm : (atWall s.m wall).member r = some m := h.member
  simp only [atWall] at hf hh hm ⊢
  simp [takeIssue, nestTrapAt, State.upd, hm, h.may, hf, hh, hn]

variable (hn : m.reporting st = none)
include hn

/-- A word that decodes is executed as the word being issued (R167). -/
theorem takeIssue_run {i : Instr} {tail : List Byte} (hd : decodeBytes (wordBytes raw) = .ok (i, tail)) :
    takeIssue r st wall s =
      .run i { s with m := { atWall s.m wall with cur := some ⟨r, st, (m.str st).pc, raw⟩ } } := by
  have hm : (atWall s.m wall).member r = some m := h.member
  simp only [atWall] at hf hh hm ⊢
  simp [takeIssue, State.upd, hm, h.may, hf, hh, hn, hd]

/-- One that is no instruction traps (R179). -/
theorem takeIssue_illegal {e : Reject} (hd : decodeBytes (wordBytes raw) = .error e) :
    takeIssue r st wall s =
      .rest { s with m := finish ((⟨r, st, (m.str st).pc, raw⟩ : Cur).ctx (atWall s.m wall) m) (.trap (illInstr raw)) } := by
  have hm : (atWall s.m wall).member r = some m := h.member
  simp only [atWall] at hf hh hm ⊢
  simp [takeIssue, trapAt, State.upd, hm, h.may, hf, hh, hn, hd]

end Issue

end Sys2Proof.Machine


/-!
PROOFS. The steps: which move comes next, that every step goes on, and that the host side stays sound.
-/

namespace Sys2Proof.Machine

/-! ### The least of a list -/

/-- The element chosen is in the list, and none has a smaller key. -/
theorem leastBy_some {α : Type} {key : α → Nat} {x : α} : ∀ {l : List α}, leastBy key l = some x →
    x ∈ l ∧ ∀ y ∈ l, key x ≤ key y
  | [], h => nomatch h
  | z :: zs, h => by
    unfold leastBy at h
    split at h
    · next hn =>
      cases h
      cases zs with
      | nil => simp
      | cons a as =>
        unfold leastBy at hn
        split at hn
        · cases hn
        · split at hn <;> cases hn
    · next y hy =>
      obtain ⟨hmem, hle⟩ := leastBy_some hy
      split at h
      · next hzy =>
        cases h
        exact ⟨List.mem_cons_self, fun w hw => by
          rcases List.mem_cons.mp hw with rfl | hw
          · exact le_rfl
          · exact hzy.trans (hle w hw)⟩
      · next hzy =>
        cases h
        exact ⟨List.mem_cons_of_mem _ hmem, fun w hw => by
          rcases List.mem_cons.mp hw with rfl | hw
          · exact (Nat.lt_of_not_le hzy).le
          · exact hle w hw⟩

/-! ### The next move (assumption 1) -/

/-- What a move leaves to be performed: the host side is as it was, and a word is being issued by its member. -/
def Act.Keeps (h : HostSide) : Act → Prop
  | .run i t => t.host = h ∧ IsWord i ∧ t.m.issuer.isSome = true
  | .event _ t => t.host = h
  | .rest t => t.host = h

/-- What decodes is a word of a stream. -/
theorem isWord_of_decodeBytes {bs : List Byte} {i : Instr} {tail : List Byte} (h : decodeBytes bs = .ok (i, tail)) :
    IsWord i := by
  unfold decodeBytes at h
  split at h
  · next hd => cases h; exact isWord_of_wf (decode_ok hd).1
  · cases h

theorem issuer_isSome {M : Mach} {k : Cur} {m : Member} (hk : M.cur = some k) (hm : M.member k.m = some m) :
    M.issuer.isSome = true := by
  simp [Mach.issuer, hk, hm]

theorem takeIssue_keeps (r : MRef) (st : Strm) (wall : Nat) (s : State) : (takeIssue r st wall s).Keeps s.host := by
  unfold takeIssue
  dsimp only
  split
  · exact rfl
  · next m hm =>
    split
    · exact rfl
    · split
      · exact rfl
      · split
        · exact rfl
        · split
          · exact rfl
          · split
            · next hd => exact ⟨rfl, isWord_of_decodeBytes hd, issuer_isSome rfl hm⟩
            · exact rfl

theorem takeMove_keeps (mv : Move) (s : State) : (takeMove mv s).Keeps s.host := by
  cases mv with
  | issue r st =>
    simp only [takeMove]
    split
    · exact rfl
    · split
      · exact takeIssue_keeps r st _ s
      · exact rfl
  | event e =>
    simp only [takeMove]
    split <;> exact rfl

theorem nextAct_keeps (s : State) : (nextAct s).Keeps s.host := by
  unfold nextAct
  dsimp only
  split
  · exact takeMove_keeps ..
  · split
    · exact rfl
    · split
      · exact takeIssue_keeps ..
      · exact rfl
      · exact rfl

/-- Settles O3: a word being issued and an event both go on. -/
theorem everyStepGoesOn : Obligations.EveryStepGoesOn := by
  intro s
  have hk := nextAct_keeps s
  unfold GoesOn step
  split
  · next i t ha =>
    rw [ha] at hk
    obtain ⟨-, hw, hi⟩ := hk
    obtain ⟨f, hf⟩ := hw.row
    simpa only [hf.exec_eq] using word_goesOn hi
  · exact runEvent_goesOn ..
  · exact ⟨_, rfl⟩

/-! ### The agenda -/

/-- A move that is no claim stays the head of the agenda. -/
theorem orderClaims_of_not_claim {mv : Move} (rest : List Move) (h : Move.claim mv = none) :
    orderClaims (mv :: rest) = mv :: rest := by
  simp [orderClaims, h, leastBy]

/-- Of two claims alone the one of the lower agent comes first (R434). -/
theorem orderClaims_two {a b : RegAgent} {rest : List Move} (hab : a.code < b.code)
    (hr : ∀ mv ∈ rest.head?, Move.claim mv = none) :
    orderClaims (.event (.claim b) :: .event (.claim a) :: rest) = .event (.claim a) :: .event (.claim b) :: rest := by
  have hne : b ≠ a := fun h => by subst h; exact lt_irrefl _ hab
  have hrest : rest.takeWhile (fun mv => mv.claim.isSome) = [] := by
    cases rest with
    | nil => rfl
    | cons mv l => simp [hr mv (by simp)]
  have hle : ¬b.code ≤ a.code := Nat.not_le.mpr hab
  have hc (g : RegAgent) : Move.claim (.event (.claim g)) = some g := rfl
  simp [orderClaims, hc, hrest, leastBy, hle, dropFirst, hne]

section Agenda

variable {s : State} {rest : List Move}

/-- The machine a move of the agenda acts on: waits granted, the move taken off. -/
def afterMove (M : Mach) (rest : List Move) : Mach := { grantAll M with agenda := rest }

/-- The head of the agenda, claims in their order, is the next move. -/
theorem nextAct_cons {mv : Move} (ha : orderClaims s.m.agenda = mv :: rest) :
    nextAct s = takeMove mv { s with m := afterMove s.m rest } := by
  have hg : orderClaims (s.upd grantAll).m.agenda = mv :: rest := ha
  unfold nextAct
  simp only [hg]
  rfl

/-- An issue at the head of the agenda, of a stream whose turn it is, is taken (R151). -/
theorem nextAct_issue {r : MRef} {st : Strm} {m : Member} {t : Nat} (hp : s.host.powered = true)
    (hb : s.host.boot ≠ .clearing) (ha : s.m.agenda = .issue r st :: rest)
    (hm : (afterMove s.m rest).member r = some m) (ht : attemptAt (afterMove s.m rest) m st = some t)
    (hturn : m.turn (afterMove s.m rest) st t = true) :
    nextAct s = takeIssue r st (t + m.skew) { s with m := afterMove s.m rest } := by
  rw [nextAct_cons ((congrArg orderClaims ha).trans (orderClaims_of_not_claim rest rfl))]
  simp [takeMove, hp, hb, hm, ht, Option.filter, hturn]

/-- A stream that may attempt an issue may issue. -/
theorem mayIssue_of_attemptAt {M : Mach} {m : Member} {st : Strm} {t : Nat} (h : attemptAt M m st = some t) :
    m.mayIssue st = true := by
  unfold attemptAt at h
  by_contra hn
  simp [hn] at h

/-- An event of the agenda is performed only by a device that has power, and is not clearing but for its host side. -/
theorem nextAct_event {e : Event} (ha : orderClaims s.m.agenda = .event e :: rest) :
    nextAct s =
      if s.performs e then takeEvent e 0 { s with m := afterMove s.m rest }
      else .rest { s with m := afterMove s.m rest } := by
  rw [nextAct_cons ha, takeMove]
  rfl

end Agenda

/-! ### The statements on steps -/

/-- Settles O1: the issue of the agenda's head and of the earliest move, by what `takeIssue` does. -/
theorem stepRunsTheDecodedWord : Obligations.StepRunsTheDecodedWord := by
  refine ⟨?agenda, ?others, ?earliest⟩
  case agenda =>
    intro s r st rest m t raw i tail G W hp hb ha hm ht hturn hf hh hn hd
    have hi : MayIssueAt { s with m := afterMove s.m rest } r st (t + m.skew) m := ⟨hm, mayIssue_of_attemptAt ht⟩
    simp only [step, nextAct_issue hp hb ha hm ht hturn, takeIssue_run hi hf hh hn hd]
    rfl
  case others =>
    intro s r st rest m t G W pc hp hb ha hm ht hturn
    have hi : MayIssueAt { s with m := afterMove s.m rest } r st (t + m.skew) m := ⟨hm, mayIssue_of_attemptAt ht⟩
    refine ⟨fun f hf => ?_, fun raw hf hh => ?_, fun raw i hf hh hn => ?_⟩
    · simp only [step, nextAct_issue hp hb ha hm ht hturn, takeIssue_unfetched hi hf]
      rfl
    · simp only [step, nextAct_issue hp hb ha hm ht hturn, takeIssue_miss hi hf hh, runEvent_fetchMissFill]
      rfl
    · simp only [step, nextAct_issue hp hb ha hm ht hturn, takeIssue_nestFault hi hf hh hn]
      rfl
  case earliest =>
    intro s r st m wall rank raw i tail G W ha hnow hnext hm hmay hn hf hh hd
    have hi : MayIssueAt { s with m := grantAll s.m } r st wall m := ⟨hm, hmay⟩
    have hg : (grantAll s.m).agenda = [] := ha
    have hact : nextAct s = takeIssue r st wall { s with m := grantAll s.m } := by
      simp only [G] at hnow hnext
      simp [nextAct, State.upd, hg, orderClaims, leastBy, hnow, hnext]
    simp only [step, hact, takeIssue_run hi hf hh hn hd]
    rfl

/-- Settles O11: a word that does not decode by `takeIssue_illegal`, the others by what a word's row is. -/
theorem illegalWordsTrap : Obligations.IllegalWordsTrap := by
  refine ⟨?undecoded, ?stream, ?region⟩
  case undecoded =>
    intro s r st rest m t raw e G W hp hb ha hm ht hturn hf hh hn hd
    have hi : MayIssueAt { s with m := afterMove s.m rest } r st (t + m.skew) m := ⟨hm, mayIssue_of_attemptAt ht⟩
    simp only [step, nextAct_issue hp hb ha hm ht hturn, takeIssue_illegal hi hf hh hn hd]
    rfl
  case stream =>
    intro i s k m hw hk hv
    obtain ⟨f, hf⟩ := hw.row
    rw [Traps, Ends, hf.exec_eq, word_next hk, hv]
    rfl
  case region =>
    intro i s k m hw hk hst hr hreg
    obtain ⟨f, hf⟩ := hw.row
    rw [Traps, Ends, hf.exec_eq, word_next hk]
    cases hv : i.validOn k.st with
    | false => rfl
    | true =>
      have hin : (k.ctx s.m m).inRegion = true := by
        simp [Ctx.inRegion, Cur.ctx, hst, Option.isSome_iff_ne_none, hr]
      simp only [if_true, hf.inRegion hreg (hst ▸ hv) _ hin]
      rfl

/-- Settles O2: the rows of the raised events, and the three ways to an event. -/
theorem eventsRunTheirRows : Obligations.EventsRunTheirRows := by
  refine ⟨runEvent_dataLanding, runEvent_arrival, runEvent_queueHomeService, runEvent_vergeWriteStart,
    runEvent_copyElement, runEvent_ptrootWrite, runEvent_launch, runEvent_save, runEvent_rd, runEvent_claim,
    fun s e rest ha => ⟨?unpowered, ?clearing, ?performed⟩, fun _ rest => orderClaims_of_not_claim rest,
    fun _ _ _ => orderClaims_two, fun s e ha => ⟨?now, ?inTime⟩⟩
  case unpowered =>
    intro hp he
    have hno : s.performs e = false := by simpa [State.performs, hp] using he
    simp only [step, nextAct_event ha, hno]
    rfl
  case clearing =>
    intro hb he
    have hno : s.performs e = false := by
      have hup : e ≠ .powerUp := by rintro rfl; cases he
      cases hp : s.host.powered <;> simp [State.performs, hp, hup, hb, he]
    simp only [step, nextAct_event ha, hno]
    rfl
  case performed =>
    intro h
    have hyes : s.performs e = true := by
      rcases h with ⟨hp, hb⟩ | ⟨hp, he⟩ | ⟨hp, rfl⟩
      · simp [State.performs, hp, hb]
      · simp [State.performs, hp, he]
      · simp [State.performs, hp]
    simp only [step, nextAct_event ha, hyes, if_true, takeEvent]
    rfl
  case now =>
    intro hnow
    have hg : (grantAll s.m).agenda = [] := ha
    simp only [step, nextAct, State.upd, hg, orderClaims, leastBy, List.takeWhile_nil, hnow, takeEvent]
    rfl
  case inTime =>
    intro wall rank hnow hnext
    have hg : (grantAll s.m).agenda = [] := ha
    constructor
    · intro d hd
      have hd' : (d.due, 0, Next.event d.ev) ∈ (grantAll s.m).pending.map fun d => (d.due, 0, Next.event d.ev) :=
        List.mem_map.mpr ⟨d, hd, rfl⟩
      have hle := (leastBy_some hnext).2 _ (List.mem_append_left _ hd')
      dsimp only at hle
      omega
    · simp only [step, nextAct, State.upd, hg, orderClaims, leastBy, List.takeWhile_nil, hnow, hnext, takeEvent]
      rfl

end Sys2Proof.Machine

/-!
PROOFS. The host side stays sound (R431, R435, R438, R439): one lemma for each operation that changes it.
-/

namespace Sys2Proof.Machine

/-! ### What the operations compute -/

/-- An image that verifies has a version of eight bits, no less than the least it names (R437). -/
theorem svn_of_verifyImage {M : Mach} {arb : Nat} (hv : verifyImage M arb = .ready) :
    hdr M 8 4 ≤ 255 ∧ hdr M 0xC 4 ≤ hdr M 8 4 := by
  unfold verifyImage at hv
  dsimp only at hv
  split at hv
  · cases hv
  · split at hv
    · cases hv
    · next hlen =>
      simp only [Bool.or_eq_true, decide_eq_true_eq, not_or, Nat.not_lt] at hlen
      omega

/-- Verification leaves READY or a failure code. -/
theorem verifyImage_ne_starting (M : Mach) (arb : Nat) : verifyImage M arb ≠ .starting := by
  unfold verifyImage
  dsimp only
  split_ifs <;> simp

/-- A nonce with eight of its bytes replaced has 64 bytes still. -/
theorem length_nonce {old : List Byte} {off : Nat} (v : Word) (ho : old.length = 64) (hoff : off + 8 ≤ 64) :
    (old.take off ++ wBytes v ++ old.drop (off + 8)).length = 64 := by
  have hv : (wBytes v).length = 8 := rfl
  simp only [List.length_append, List.length_take, List.length_drop, ho, hv]
  omega

/-! ### Operations of the host side -/

section Operations

variable {s : State} (h : s.host.Sound)

/-- The reset values are sound, whatever the fuses hold. -/
theorem HostSide.reset_sound {arb : Nat} (ha : arb ≤ 255) : HostSide.Sound { HostSide.reset with arb := arb } where
  limit := (by decide : 3000 ≤ 7000 ∧ 7000 ≤ 7000)
  aperture := (by decide : 0 < 1024)
  fuses := ha
  version := Nat.zero_le _
  nonces := ⟨rfl, by simp [HostSide.reset]⟩
  going := nofun
  booted := fun h => by rcases h with h | h <;> cases h

include h

theorem restart_sound : s.restart.host.Sound := HostSide.reset_sound h.fuses

theorem own_sound (ag : RegAgent) : (s.own ag).host.Sound := { h with }

theorem claimOwner_sound (ag : RegAgent) : (claimOwner s ag).host.Sound := by
  unfold claimOwner; split
  · exact own_sound h ag
  · exact h

theorem renewLease_sound (ag : RegAgent) : (renewLease s ag).host.Sound := by
  unfold renewLease; split
  · exact own_sound h ag
  · exact h

theorem handOver_sound (ag : RegAgent) (succ : BitVec 2) : (handOver s ag succ).host.Sound := by
  unfold handOver; split
  · split
    · exact own_sound h _
    · exact h
  · exact h

theorem expireLease_sound : (expireLease s).host.Sound := by
  unfold expireLease; split
  · exact { h with }
  · exact h

theorem ownctlPut_sound (ag : RegAgent) (v : Word) : (ownctlPut s ag v).host.Sound := by
  unfold ownctlPut
  have h' : (if v &&& 0x330 = v then s else s.logHost 0 v).host.Sound := by split <;> exact h
  dsimp only
  split
  · exact claimOwner_sound h' ag
  · exact renewLease_sound h' ag
  · exact handOver_sound h' ag _
  · exact h'

/-- GO is clear in every state but VERIFYING. -/
theorem not_going (hb : s.host.boot ≠ .verifying) : s.host.go ≠ true := fun hg => hb (h.going hg)

theorem endClearing_sound : (endClearing s).host.Sound := by
  unfold endClearing; split
  · next hb =>
    have hg := not_going h (by simp [hb])
    exact { h with going := fun hgo => absurd hgo hg, booted := by simp }
  · exact h

theorem startVerifying_sound (ag : RegAgent) : (startVerifying s ag).host.Sound := by
  unfold startVerifying; split
  · exact h
  · exact { h with going := fun _ => rfl, booted := by simp }

theorem takeImage_sound : (takeImage s).host.Sound := by
  unfold takeImage
  dsimp only
  split
  · next hv =>
    obtain ⟨hsvn, hmin⟩ := svn_of_verifyImage hv
    have hf := h.fuses
    exact { h with fuses := by dsimp only; omega, version := hsvn, going := nofun, booted := fun _ => ⟨rfl, hsvn⟩ }
  · next hv =>
    have hs := verifyImage_ne_starting s.m s.host.arb
    generalize verifyImage s.m s.host.arb = b at hv hs ⊢
    exact { h with going := nofun, booted := fun hb => absurd hb (not_or.mpr ⟨hv, hs⟩) }

theorem endVerifying_sound : (endVerifying s).host.Sound := by
  unfold endVerifying
  split
  · exact takeImage_sound h
  · next hb =>
    have hg := not_going h (by simp [hb])
    exact { h with going := fun hgo => absurd hgo hg, booted := fun _ => h.booted (.inr hb) }
  · exact h

theorem devReset_sound (ag : RegAgent) (v : Word) : (devReset s ag v).host.Sound := by
  unfold devReset; split
  · exact { restart_sound h with }
  · exact h

theorem askReport_sound (ag : RegAgent) : (askReport s ag).host.Sound := by
  unfold askReport; split
  · exact { h with }
  · exact h

theorem putReport_sound : (putReport s).host.Sound := by
  unfold putReport; split
  · exact { h with }
  · exact h

theorem attnPut_sound (ag : RegAgent) {off : Nat} (v : Word) (hoff : off + 8 ≤ 64) : (attnPut s ag off v).host.Sound := by
  obtain ⟨hlen, hall⟩ := h.nonces
  unfold attnPut; split
  · next k hk =>
    have hk3 : k < s.host.attn.length := by
      rw [hlen]; cases ag <;> simp_all [agentIdx] <;> omega
    have hold : (s.host.attn.getD k []).length = 64 := by
      rw [List.getD_eq_getElem _ _ hk3]; exact hall _ (List.getElem_mem _)
    refine { h with nonces := ⟨by simpa using hlen, fun x hx => ?_⟩ }
    rcases List.mem_or_eq_of_mem_set hx with hx | rfl
    · exact hall x hx
    · exact length_nonce v hold hoff
  · exact h

theorem pwrcfgPut_sound (v : Word) : (pwrcfgPut s v).host.Sound := by
  unfold pwrcfgPut; split
  · exact h
  · next hw =>
    simp only [Bool.or_eq_true, decide_eq_true_eq, not_or, Nat.not_lt] at hw
    have h' : (if wf v 16 48 = 0 then s else s.logHost 0x40 v).host.Sound := by split <;> exact h
    exact { h' with limit := hw }

theorem throttle_sound : (throttle s).host.Sound := { h with }

theorem trainLink_sound (port gen : Nat) (x16 : Bool) : (trainLink s port gen x16).host.Sound := by
  unfold trainLink; split
  · exact h
  · exact { h with }

theorem windowWrite_sound (ag : RegAgent) (boot : Bool) (off : Nat) (bs : List Byte) :
    (windowWrite s ag boot off bs).host.Sound := by
  unfold windowWrite
  dsimp only
  split
  · exact h
  · split
    · exact h
    · split <;> exact h

/-- A device register's write (R431). -/
theorem devPut_sound (ag : RegAgent) (off : Nat) (v : Word) : (devPut s ag off v).host.Sound := by
  unfold devPut
  split
  · exact ownctlPut_sound h ag v
  split
  · next hoff =>
    simp only [Bool.and_eq_true, decide_eq_true_eq] at hoff
    exact attnPut_sound h ag v (by omega)
  split
  · have h' : (if wf v 1 63 = 0 then s else s.logHost off v).host.Sound := by split <;> exact h
    dsimp only
    split
    · exact askReport_sound h' ag
    · exact h'
  split
  · exact h
  split
  · exact h
  split
  · have h' : (if wf v 1 63 = 0 then s else s.logHost 0x010 v).host.Sound := by split <;> exact h
    dsimp only
    split
    · exact startVerifying_sound h' ag
    · exact h'
  · exact devReset_sound h ag v
  · have h' : (if wf v 10 54 = 0 then s else s.logHost 0x030 v).host.Sound := by split <;> exact h
    refine { h' with aperture := ?_ }
    exact Nat.mod_lt _ (by decide)
  · exact pwrcfgPut_sound h v
  · exact h

end Operations

/-! ### The statements -/

/-- An event of a device that has power keeps the host side sound when its operation does. -/
theorem on_sound {s t : State} {f : State → State} (h : s.host.Sound) (hf : (f s).host.Sound) (ht : s.on f = .next t) :
    t.host.Sound := by
  cases ht
  split
  · exact hf
  · exact h

/-- A raised event keeps the host side sound; those that are not the host side's own leave it as it was. -/
theorem runEvent_sound {e : Event} {s t : State} (h : s.host.Sound) (ht : runEvent e s = .next t) : t.host.Sound := by
  cases e with
  | registerWrite ag r v =>
    rw [runEvent_registerWrite, exec_registerWrite, execRegisterWrite] at ht
    refine on_sound h ?_ ht
    cases r with
    | dev off => exact devPut_sound h ag off v
    | pcb part off => exact h
  | claim ag => exact on_sound (f := fun s => claimOwner s ag) h (claimOwner_sound h ag) ht
  | renew ag => exact on_sound (f := fun s => renewLease s ag) h (renewLease_sound h ag) ht
  | handover ag succ => exact on_sound (f := fun s => handOver s ag succ) h (handOver_sound h ag succ) ht
  | leaseExpiry => exact on_sound (f := expireLease) h (expireLease_sound h) ht
  | powerUp =>
    cases ht
    split
    · exact h
    · exact restart_sound h
  | clearingComplete => exact on_sound (f := endClearing) h (endClearing_sound h) ht
  | bootctlGo ag => exact on_sound (f := fun s => startVerifying s ag) h (startVerifying_sound h ag) ht
  | verificationComplete => exact on_sound (f := endVerifying) h (endVerifying_sound h) ht
  | devrst ag v => exact on_sound (f := fun s => devReset s ag v) h (devReset_sound h ag v) ht
  | attgo ag => exact on_sound (f := fun s => askReport s ag) h (askReport_sound h ag) ht
  | attestationReport => exact on_sound (f := putReport) h (putReport_sound h) ht
  | powerWindow watts =>
    rw [runEvent_powerWindow, exec_powerWindow, execPowerWindow] at ht
    refine on_sound h ?_ ht
    split
    · exact throttle_sound h
    · exact { h with }
  | limitReached watts amps temp =>
    rw [runEvent_limitReached, exec_limitReached, execLimitReached] at ht
    refine on_sound h ?_ ht
    split
    · exact throttle_sound h
    · exact h
  | thermalTrip temp =>
    rw [runEvent_thermalTrip, exec_thermalTrip, execThermalTrip] at ht
    refine on_sound h ?_ ht
    split
    · exact { h with }
    · exact h
  | powerDown => cases ht; exact { HostSide.reset_sound h.fuses with }
  | pcieLinkTraining port gen x16 => exact on_sound (f := fun s => trainLink s port gen x16) h (trainLink_sound h port gen x16) ht
  | apertureWrite ag boot off bs => exact on_sound (f := fun s => windowWrite s ag boot off bs) h (windowWrite_sound h ag boot off bs) ht
  | _ => cases ht; exact h

/-- Settles O5: the reset values. -/
theorem hostSideSoundAtReset : Obligations.HostSideSoundAtReset := HostSide.reset_sound (Nat.zero_le _)

/-- Settles O6: a word leaves the host side as it was, and every event keeps it sound. -/
theorem hostSideStaysSound : Obligations.HostSideStaysSound := by
  intro s t h ht
  have hk := nextAct_keeps s
  unfold step at ht
  split at ht
  · next i u ha =>
    rw [ha] at hk
    obtain ⟨hu, hw, -⟩ := hk
    obtain ⟨f, hf⟩ := hw.row
    rw [word_host ((hf.exec_eq u).symm.trans ht), hu]
    exact h
  · next e u ha =>
    rw [ha] at hk
    exact runEvent_sound (hk ▸ h) ht
  · next u ha =>
    rw [ha] at hk
    cases ht
    exact hk ▸ h

/-- Settles O7: the fields of the reset state. -/
theorem resetIsClearing : Obligations.ResetIsClearing :=
  ⟨rfl, rfl, rfl, rfl, rfl, rfl, rfl, rfl, fun _ => rfl, rfl, rfl, rfl, rfl, rfl⟩

/-- Settles O10: the decoder on each word. -/
theorem exampleWordsDecode : Obligations.ExampleWordsDecode := by
  unfold Obligations.ExampleWordsDecode
  decide +kernel

/-! ### Loops and the order of traps -/

/-- A count that has not run out is more than one, or the level's last pass. -/
theorem loopNext_eq (s : Stream) (pc : Word) :
    loopNext s pc = ({ s with lpc0 := (loopRule s pc).2.1, lpc1 := (loopRule s pc).2.2 }, (loopRule s pc).1) := by
  unfold loopNext loopRule
  dsimp only
  split_ifs <;> rfl

/-- Settles O13: the model's choice of the next word is the rule's. -/
theorem loopsChooseTheNextWord : Obligations.LoopsChooseTheNextWord := by
  intro s pc
  constructor
  · simp only [Stream.advance, Bool.false_eq_true, if_false, loopNext_eq]
  · rfl

/-- Settles O16: the key of the choice is the system bit first, then the stream. -/
theorem systemTrapsComeFirst : Obligations.SystemTrapsComeFirst := by
  intro l x h
  obtain ⟨hmem, hle⟩ := leastBy_some h
  have hnum (st : Strm) : st.num < 4 := by cases st <;> decide
  refine ⟨hmem, fun y hy hsys => ?_, fun y hy hsys => ?_⟩
  · have hxy := hle y hy
    have hn := hnum y.1
    simp only [hsys, if_true] at hxy
    by_contra hx
    simp only [hx, if_false] at hxy
    omega
  · have hxy := hle y hy
    simp only [hsys] at hxy
    omega

end Sys2Proof.Machine

/-!
PROOFS. The scalar FP32 words, the control words, the system words and the operands (R146 to R171, R220 to R241): how each
word ends, by its meaning in the context of its issue.
-/

namespace Sys2Proof.Machine

/-! ### The issue of a word, and its member -/

/-- A word ends as its meaning `f` says. -/
theorem Issues.ends_of_word {i : Instr} {f : Ctx → Res} {s : State} {k : Cur} {m : Member} {c : Ctx} {r : Res}
    (h : Issues i s k m) (hc : k.ctx s.m m = c) (hx : exec i s = word i f s) (hf : f c = r) : Ends i s k m r := by
  rw [Ends, hx, ← hf, ← hc]
  exact word_valid h.here h.stream

/-- Every member of a put member's name is the one put. -/
theorem Mach.eq_of_mem_putMember {M : Mach} {m x : Member} (hx : x ∈ (M.putMember m).members) (hr : x.ref = m.ref) :
    x = m := by
  simp only [Mach.putMember, updIf, List.mem_map] at hx
  obtain ⟨y, -, rfl⟩ := hx
  by_cases hy : (y.ref == m.ref) = true
  · exact if_pos hy
  · rw [if_neg hy] at hr
    exact absurd (by simpa using hr) hy

/-- So in the machine of an issue every member of the issuing name is as the context has it. -/
theorem Cur.ctx_mem_of_ref {k : Cur} {M : Mach} {m x : Member} (hx : x ∈ (k.ctx M m).M.members)
    (hr : x.ref = (k.ctx M m).mem.ref) : x = (k.ctx M m).mem :=
  Mach.eq_of_mem_putMember hx hr

/-- So a change of the issuing member is what it makes of the context's. -/
theorem Cur.ctx_upd_congr (k : Cur) (M : Mach) (m : Member) {f g : Member → Member}
    (h : f (k.ctx M m).mem = g (k.ctx M m).mem) : (k.ctx M m).upd f = (k.ctx M m).upd g := by
  have hl : updIf (fun x => x.ref == (k.ctx M m).mem.ref) f (k.ctx M m).M.members =
      updIf (fun x => x.ref == (k.ctx M m).mem.ref) g (k.ctx M m).M.members :=
    List.map_congr_left fun x hx => by
      split
      · next hr =>
        rw [Cur.ctx_mem_of_ref hx (by simpa using hr), h]
      · rfl
  simp only [Ctx.upd, Mach.updMember, hl]

/-- The member of the issue reads back from the machine of the context. -/
theorem Cur.ctx_member {k : Cur} {M : Mach} {m : Member} (h : M.member k.m = some m) :
    (k.ctx M m).M.member (k.ctx M m).mem.ref = some (k.ctx M m).mem :=
  Mach.member_putMember (Mach.member_ref h ▸ h) rfl

theorem Issues.member {i : Instr} {s : State} {k : Cur} {m : Member} (h : Issues i s k m) :
    (k.ctx s.m m).M.member (k.ctx s.m m).mem.ref = some (k.ctx s.m m).mem :=
  Cur.ctx_member (Mach.issuer_member h.here).2

/-! ### FP32 (R236, R237) -/

theorem fCmp_eq_order32 (x y : Word) : fCmp fp32 (fp32Of x) (fp32Of y) = order32 x y := by
  by_cases hn : value32 x = .nan ∨ value32 y = .nan
  · have hn' : (fIsNan fp32 (fp32Of x) || fIsNan fp32 (fp32Of y)) = true := by simpa [fIsNan, value32, fp32Of] using hn
    exact (if_pos hn').trans (if_pos hn).symm
  · have hn' : ¬(fIsNan fp32 (fp32Of x) || fIsNan fp32 (fp32Of y)) = true := by simpa [fIsNan, value32, fp32Of] using hn
    exact (if_neg hn').trans (if_neg hn).symm

theorem fpHolds_eq (p : Ordering → Bool) (x y : Word) : fpHolds p x y = (order32 x y).any p := by
  rw [fpHolds, fCmp_eq_order32]
  cases order32 x y <;> rfl

theorem any_eq_iff (o : Option Ordering) : o.any (· == .eq) = true ↔ o = some .eq := by
  rcases o with _ | _ | _ | _ <;> decide

theorem any_lt_iff (o : Option Ordering) : o.any (· == .lt) = true ↔ o = some .lt := by
  rcases o with _ | _ | _ | _ <;> decide

theorem any_ne_gt_iff (o : Option Ordering) : o.any (· != .gt) = true ↔ o = some .lt ∨ o = some .eq := by
  rcases o with _ | _ | _ | _ <;> decide

theorem w01_fpHolds {p : Ordering → Bool} {x y : Word} {q : Prop} [Decidable q] (h : (order32 x y).any p = true ↔ q) :
    w01 (fpHolds p x y) = if q then 1 else 0 := by
  simp only [w01, fpHolds_eq, h]

/-- Settles O20: the model's rounding is of the exact value, and its comparisons are of the order of values. -/
theorem floatWordsGiveTheirResults : Obligations.FloatWordsGiveTheirResults := by
  intro i s k m lat d v hi h
  cases i with
  | fopAdd => exact hi.ends_of_alu (exec_fopAdd ..) rfl h
  | fopSub => exact hi.ends_of_alu (exec_fopSub ..) rfl h
  | fopMul => exact hi.ends_of_alu (exec_fopMul ..) rfl h
  | fopMin => exact hi.ends_of_alu (exec_fopMin ..) rfl h
  | fopMax => exact hi.ends_of_alu (exec_fopMax ..) rfl h
  | fopEq => exact hi.ends_of_alu (exec_fopEq ..) (w01_fpHolds (any_eq_iff _)) h
  | fopLt => exact hi.ends_of_alu (exec_fopLt ..) (w01_fpHolds (any_lt_iff _)) h
  | fopLe => exact hi.ends_of_alu (exec_fopLe ..) (w01_fpHolds (any_ne_gt_iff _)) h
  | cvtsfIf => exact hi.ends_of_alu (exec_cvtsfIf ..) rfl h
  | cvtsfFi => exact hi.ends_of_alu (exec_cvtsfFi ..) (w64_unsgn _) h
  | _ => cases h -- no row of the table

/-! ### Operands (R147, R170, R171) -/

theorem word64_add (x y : Int) : word64 (x + y) = word64 x + word64 y := BitVec.ofInt_add ..

theorem word64_mul (x y : Int) : word64 (x * y) = word64 x * word64 y := BitVec.ofInt_mul ..

theorem word64_toInt (x : Word) : word64 x.toInt = x := BitVec.ofInt_toInt

/-- A field of fewer bits read as signed. -/
theorem word64_signExtend {n : Nat} (x : BitVec n) : word64 x.toInt = x.signExtend 64 := rfl

/-- The target of a branch is as many words away. -/
theorem branchTarget_eq (base : Word) (off : BitVec 24) : branchTarget base off = offsetBy base off := by
  rw [offsetBy, word64_add, word64_toInt, mul_comm, word64_mul, word64_signExtend]
  rfl

/-- Settles O27: each specifier by its own equation. -/
theorem sourcesReadTheirSpecifiers : Obligations.SourcesReadTheirSpecifiers := by
  intro c
  refine ⟨rfl, fun n hn => if_neg hn, fun n => rfl, rfl, rfl, w64_eq_word64 _, fun n hn => ?core, fun r => rfl,
    fun v => (word64_signExtend v).symm, fun b sz off => ?address, fun b sz => ?bytes⟩
  case core => simp only [Ctx.reg, Member.core, hn, w64_eq_word64, Option.getD_some]
  case address => rw [word64_add, word64_mul, word64_toInt, word64_signExtend, Ctx.memAddr, w64_eq_word64]
  case bytes => rw [Ctx.storeBytes, Nat.shiftLeft_eq, mul_comm]

/-! ### Control words (R238 to R241) -/

theorem condHolds_iff (k : Cond) (x y : Word) : condHolds k x y = true ↔ branchHolds k x y := by
  cases k <;> simp [condHolds, branchHolds, BitVec.slt, BitVec.sle, BitVec.ult, BitVec.ule]

/-- Settles O21: each target is the one that R238 and R239 give. -/
theorem branchesGoToTheirTargets : Obligations.BranchesGoToTheirTargets := by
  intro s k m c
  refine ⟨fun cd x y off h => ⟨fun hc => ?taken, fun hc => ?notTaken⟩, fun off h => ?j, fun x off h => ?jr,
    fun d off h => ?call, fun x h => ?ret⟩
  case taken =>
    refine h.ends_of_word rfl (exec_bc ..) ?_
    rw [if_pos ((condHolds_iff ..).mpr hc), branchTarget_eq]
    rfl
  case notTaken => exact h.ends_of_word rfl (exec_bc ..) (if_neg (mt (condHolds_iff ..).mp hc))
  case j => exact h.ends_of_word rfl (exec_j ..) (by rw [branchTarget_eq]; rfl)
  case jr => exact h.ends_of_word rfl (exec_jr ..) (by rw [branchTarget_eq]; rfl)
  case call => exact h.ends_of_word rfl (exec_call ..) (by rw [branchTarget_eq]; rfl)
  case ret => exact h.ends_of_word rfl (exec_ret ..) rfl

/-- Settles O22: LOOP by its count, LPBRK by whether its level is active. -/
theorem loopWordsSetAndLeaveTheirLevels : Obligations.LoopWordsSetAndLeaveTheirLevels := by
  intro s k m one c pcs
  refine ⟨fun x off h => ?loop, fun h => ⟨fun h0 => ?inactive, fun h0 => ?leaves⟩⟩
  case loop =>
    intro last M
    have hM : M = c.upd fun m => m.updStr c.st fun q =>
        q.setLoop one (pcField (c.pc + 8)) (pcField (branchTarget c.pc off)) (c.reg x) := by
      simp only [M, last, branchTarget_eq]; rfl
    have hlast : pcs last = pcField (branchTarget c.pc off) := by rw [branchTarget_eq]; rfl
    refine ⟨fun hn => ?traps, fun hn => ?skips, fun h0 hn => ?sets⟩
    case traps => exact h.ends_of_word rfl (exec_loop ..) (if_pos (Nat.lt_of_succ_le hn))
    case skips =>
      rw [hM, hlast]
      refine h.ends_of_word rfl (exec_loop ..) ?_
      have hle : ¬((k.ctx s.m m).reg x).toNat > 0xFFFFFFFF := by
        rw [show (k.ctx s.m m).reg x = 0 from hn]; decide
      exact (if_neg hle).trans (if_pos hn)
    case sets =>
      rw [hM]
      refine h.ends_of_word rfl (exec_loop ..) ?_
      have hz : (k.ctx s.m m).reg x ≠ 0 := fun hz => by simp [c, hz] at h0
      exact (if_neg (Nat.not_lt.mpr (Nat.le_of_lt_succ hn))).trans (if_neg hz)
  case inactive => exact h.ends_of_word rfl (exec_lpbrk ..) (if_pos h0)
  case leaves => exact h.ends_of_word rfl (exec_lpbrk ..) (if_neg h0)

/-! ### System words (R220 to R225) -/

theorem pcField_def (w : Word) : pcField w = w &&& 0x00FFFFFFFFFFFFF8 := rfl

/-- A stream that GO starts, or leaves without an entry. -/
theorem Stream.started_eq (q : Stream) (entry : Word) (o : Vector Word 8) (t : Nat) :
    q.started entry o t =
      { q with
        o := o
        pc := if entry = 0 then q.pc else entry &&& 0x00FFFFFFFFFFFFF8
        running := decide (entry ≠ 0) || q.running
        last := if entry = 0 then q.last else t
        floor := if entry = 0 then q.floor else t + 1
        wait := if entry = 0 then q.wait else none } := by
  by_cases he : entry = 0
  · subst he; rfl
  · simp only [Stream.started, if_neg he, decide_eq_true he, Bool.true_or]
    rfl

/-- Settles O23. -/
theorem startAndStopWordsComplete : Obligations.StartAndStopWordsComplete := by
  refine ⟨⟨fun s k m h => ?nop, fun idle => ?encodings, ?zero⟩, ?go, ?halt⟩
  case nop => exact h.ends_of_word rfl (exec_nop ..) rfl
  case encodings => exact Laws.RoundTrip.nop idle rfl
  case zero => exact exampleWordsDecode.1
  case go =>
    intro s k m h c
    refine ⟨fun hbusy => ?traps, fun ha hv hx hh => ?starts⟩
    case traps =>
      refine h.ends_of_word rfl (exec_go ..) (if_pos ?_)
      simpa only [Bool.or_eq_true, or_assoc] using hbusy
    case starts =>
      intro start
      refine h.ends_of_word rfl (exec_go ..) ?_
      have hidle : ¬(c.mem.a.running || c.mem.v.running || c.mem.x.running || c.mem.handler.isSome) = true := by
        simp [ha, hv, hx, hh]
      refine (if_neg hidle).trans (congrArg Res.done (Cur.ctx_upd_congr _ _ _ ?_))
      simp only [Stream.started_eq]
      rfl
  case halt =>
    intro s k m h c M
    refine ⟨fun hc => ?onC, fun ha => ?onA, fun hvx => ?onVX⟩
    case onC => exact h.ends_of_word rfl (exec_halt ..) (if_pos hc)
    case onA =>
      refine h.ends_of_word rfl (exec_halt ..) ((if_neg ?_).trans (congrArg Res.done (if_pos ha)))
      rw [Cur.ctx_st, ha]; decide
    case onVX =>
      have hne : k.st ≠ .c ∧ k.st ≠ .a := by rcases hvx with hst | hst <;> simp [hst]
      exact h.ends_of_word rfl (exec_halt ..) ((if_neg hne.1).trans (congrArg Res.done (if_neg hne.2)))

/-! ### TRAP, BRK and ERET (R158, R163, R223, R224) -/

/-- In an open region on A a word of no region is an illegal instruction (R163). -/
theorem Issues.traps_of_region {i : Instr} {f : Ctx → Res} {s : State} {k : Cur} {m : Member} (h : Issues i s k m)
    (hn : ¬NoRegion k m) (hx : exec i s = wordOut i f s) : Traps i s k m ⟨0x12, false, k.raw, 0, [], false⟩ := by
  simp only [NoRegion, Classical.not_imp] at hn
  obtain ⟨hst, hr⟩ := hn
  have hin : (k.ctx s.m m).inRegion = true := by
    simp [Ctx.inRegion, Cur.ctx, hst, Option.isSome_iff_ne_none, hr]
  exact h.ends_of_word rfl hx (if_pos hin)

/-- C as the handler's entry set it aside; where its word has come to count as not issued, before that word (R259). -/
def Handler.putBack (h : Handler) (s : Stream) : Stream :=
  let c :=
    { s with pc := h.cpc, running := h.crunning, last := h.clast, floor := h.cfloor, untimed := h.cuntimed, wait := none }
  match h.cback with
  | some u => { c with lpc0 := u.lpc0, lpc1 := u.lpc1, nissue := c.nissue - 1, nstall := c.nstall + (h.tau - u.iss) }
  | none => c

/-- What C's place set aside holds, whatever has come of its word. -/
theorem Handler.putBack_eq (h : Handler) (s : Stream) :
    (h.putBack s).pc = h.cpc ∧ (h.putBack s).running = h.crunning ∧ (h.putBack s).last = h.clast ∧
      (h.putBack s).floor = h.cfloor ∧ (h.putBack s).inflight = s.inflight ∧ (h.putBack s).s = s.s ∧
      (h.putBack s).o = s.o := by
  unfold Handler.putBack
  split <;> exact ⟨rfl, rfl, rfl, rfl, rfl, rfl, rfl⟩

/-- A stream after the return at cycle e, before the trapping stream's place is set (R158). -/
def Member.resumed (m : Member) (h : Handler) (e : Nat) (st : Strm) : Stream :=
  let n := e + 1 - h.tau
  match st with
  | .c => (h.putBack m.c).resume h.c n (e + 1)
  | .a => m.a.resume h.a n (e + 1)
  | .v => m.v.resume h.v n (e + 1)
  | .x => m.x.resume h.x n (e + 1)

/-- Each stream resumes, and the trapping one goes on at tepc (R224). -/
theorem Member.str_leaveHandler (m : Member) (h : Handler) (e : Nat) (st : Strm) :
    (m.leaveHandler h e).str st =
      { m.resumed h e st with pc := if st = h.strm then m.tepc else (m.resumed h e st).pc } := by
  cases st <;> cases hst : h.strm <;> simp only [Member.leaveHandler, hst] <;> rfl

/-- Settles O24: ERET by what leaving a handler puts into each stream. -/
theorem trapWordsAndReturns : Obligations.TrapWordsAndReturns := by
  refine ⟨fun s k m => ⟨fun x h => ⟨fun hn => ?trap, fun hn => ?trapIllegal⟩, fun n h => ⟨fun hn => ?brk, fun hn => ?brkIllegal⟩⟩,
    ?eret⟩
  case trap => exact h.ends_of_wordOut hn rfl (exec_trap ..) rfl
  case trapIllegal => exact h.traps_of_region hn (exec_trap ..)
  case brk =>
    refine h.ends_of_wordOut hn rfl (exec_brk ..) ?_
    rw [← w64_eq_word64, w64, BitVec.ofNat_toNat]
  case brkIllegal => exact h.traps_of_region hn (exec_brk ..)
  case eret =>
    intro s k m h c
    refine ⟨fun hh => h.ends_of_word rfl (exec_eret ..) (by simp only [c] at hh; simp only [hh]; rfl), fun hd hh => ?_⟩
    refine ⟨{ c.mem with c := { c.mem.c with nissue := c.mem.c.nissue + 1 } }.leaveHandler hd c.t, ?ends, ?holds⟩
    case ends =>
      refine h.ends_of_word rfl (exec_eret ..) ?_
      simp only [c] at hh ⊢
      simp only [hh]
      exact congrArg Res.placed (Cur.ctx_upd_congr _ _ _ rfl)
    case holds =>
      intro n moved
      have hx := Member.str_leaveHandler { c.mem with c := { c.mem.c with nissue := c.mem.c.nissue + 1 } } hd c.t
      obtain ⟨hpc, hrun, hlast, hfloor, hfl, hs, ho⟩ := hd.putBack_eq { c.mem.c with nissue := c.mem.c.nissue + 1 }
      generalize hy : Member.leaveHandler _ hd c.t = y at hx ⊢
      have hC : y.c = _ := hx .c
      have hA : y.a = _ := hx .a
      have hV : y.v = _ := hx .v
      have hX : y.x = _ := hx .x
      have hst {st : Strm} (h : hd.strm ≠ st) : ¬st = hd.strm := fun e => h e.symm
      refine ⟨by simp [← hy, Member.leaveHandler], by simp [← hy, Member.leaveHandler],
        by simp [← hy, Member.leaveHandler], by simp [← hy, Member.leaveHandler], by simp only [hx, if_true],
        fun h => ?_, by rw [hC]; exact hrun, by rw [hC]; exact congrArg (· + n) hlast,
        by rw [hC]; exact congrArg (fun f => max (f + n) (c.t + 1)) hfloor, by rw [hC]; rfl,
        by rw [hC]; exact congrArg (_ ++ ·) hfl, fun hb => ?_, fun u hb => ?_,
        fun h => by rw [hA]; exact if_neg (hst h), by rw [hA]; rfl, by rw [hA]; rfl, by rw [hA]; rfl,
        fun h => by rw [hV]; exact if_neg (hst h), by rw [hV]; rfl, by rw [hV]; rfl, by rw [hV]; rfl,
        fun h => by rw [hX]; exact if_neg (hst h), by rw [hX]; rfl, by rw [hX]; rfl, by rw [hX]; rfl, fun st => ?_⟩
      · rw [hC]; exact (if_neg (hst h)).trans hpc
      · rw [hC]; simp only [Member.resumed, Handler.putBack, hb]; exact ⟨rfl, rfl, rfl⟩
      · rw [hC]; simp only [Member.resumed, Handler.putBack, hb]; exact ⟨rfl, rfl, rfl⟩
      · rw [hx]
        cases st with
        | c => exact ⟨hs, ho, fun h => absurd rfl h⟩
        | _ => exact ⟨rfl, rfl, fun _ => ⟨rfl, rfl⟩⟩

/-! ### Control and status registers (R225, R229) -/

/-- A member whose context has no member count. -/
def countlessMember : Member := { Member.fresh ⟨0, 0, 0⟩ 0 1 0 [] (.core 0) 0 with nmem := 0 }

/-- Its stream C issues a word. -/
def countlessCur : Cur := ⟨⟨0, 0, 0⟩, .c, 0, 0⟩

def countlessState : State :=
  { State.reset with m := { Mach.reset with members := [countlessMember], cur := some countlessCur } }

/-- The values on their way to the registers of C. -/
def resultsOnTheirWay (M : Mach) : List (List (Dst × Word)) := M.members.flatMap fun m => m.c.inflight.map (·.writes)

/-- Refutes O25: in a member with a count of 0, CSRR of CTXINFO gives 0 in the field of the count less one, where the
statement's integers give 255. -/
theorem not_csrWordsReadAndWrite : ¬ Obligations.CsrWordsReadAndWrite := by
  intro h
  have hi : Issues (.csrr (.s 1) .ctxinfo) countlessState countlessCur countlessMember := ⟨by rfl, rfl, rfl⟩
  have hstmt := (h countlessState countlessCur countlessMember .ctxinfo).1 (.s 1) hi
  have hmodel : Ends (.csrr (.s 1) .ctxinfo) countlessState countlessCur countlessMember (.done _) :=
    hi.ends_of_word rfl (exec_csrr ..) rfl
  have heq := hstmt.symm.trans hmodel
  simp only [Host.Outcome.next.injEq, State.mk.injEq, true_and] at heq
  exact absurd (congrArg resultsOnTheirWay heq) (by decide +kernel)

end Sys2Proof.Machine

/-!
PROOFS. The issue of a word (R151, R154, R160, R229): what it leaves beside its effect, and what a named wait leaves.
-/

namespace Sys2Proof.Machine

/-! ### A word in an open region (R399) -/

/-- An idempotent region that has issued no word yet. -/
def openRegionOf : Region := ⟨0, [], [], [], 0, [], [], 0⟩

/-- A member whose stream A is in that region. -/
def regionMember : Member := { Member.fresh ⟨0, 0, 0⟩ 0 1 0 [] (.core 0) 0 with region := some openRegionOf }

/-- Its stream A issues a word. -/
def regionCur : Cur := ⟨⟨0, 0, 0⟩, .a, 0, 0⟩

def regionState : State :=
  { State.reset with m := { Mach.reset with members := [regionMember], cur := some regionCur } }

/-- Refutes O59: NOP on A in an open region keeps the address after it as the region's last (R399), which is no part of a
stream. -/
theorem not_registerWordsLeaveTheRest : ¬ Obligations.RegisterWordsLeaveTheRest := by
  intro h
  have hi : Issues .nop regionState regionCur regionMember := ⟨rfl, rfl, rfl⟩
  obtain ⟨t, x, hx, -, -, -, -, -, -, -, hmem, honly, -⟩ := h .nop regionState regionCur regionMember [] hi rfl rfl
  have hmodel : Ends .nop regionState regionCur regionMember (.done _) := hi.ends_of_word rfl (exec_nop ..) rfl
  have ht := Host.Outcome.next.inj (hx.symm.trans hmodel)
  subst ht
  have hreg : x.region = regionMember.region := (congrArg Member.region honly.rest).trans rfl
  have hlast := congrArg (Option.map Member.region) hmem
  simp only [Option.map_some, hreg] at hlast
  exact absurd hlast (by decide +kernel)

/-! ### What an issued word and a waiting one leave -/

theorem Member.str_passed (m : Member) (st o : Strm) : (m.passed st).str o = m.str o := by
  unfold Member.passed
  split <;> cases o <;> rfl

theorem Member.raised_passed (m : Member) (st : Strm) : (m.passed st).raised = m.raised := by
  unfold Member.passed
  split <;> rfl

theorem Member.ref_passed (m : Member) (st : Strm) : (m.passed st).ref = m.ref := by
  unfold Member.passed
  split <;> rfl

/-- The next word in sequence changes the place and the loop counts alone. -/
theorem Stream.advance_eq (s : Stream) (pc : Word) (hd : Bool) :
    s.advance pc hd =
      { s with pc := (s.advance pc hd).pc, lpc0 := (s.advance pc hd).lpc0, lpc1 := (s.advance pc hd).lpc1 } := by
  cases hd with
  | true => rfl
  | false => simp only [Stream.advance, Bool.false_eq_true, if_false, loopNext_eq]

/-- What the hardware loops choose depends on the place and the loop registers alone. -/
theorem Stream.advance_congr {s s' : Stream} (pc : Word) (hd : Bool) (h0 : s.lpc0 = s'.lpc0) (h1 : s.lpc1 = s'.lpc1)
    (hs0 : s.lps0 = s'.lps0) (hs1 : s.lps1 = s'.lps1) (he0 : s.lpe0 = s'.lpe0) (he1 : s.lpe1 = s'.lpe1) :
    (s.advance pc hd).pc = (s'.advance pc hd).pc ∧ (s.advance pc hd).lpc0 = (s'.advance pc hd).lpc0 ∧
      (s.advance pc hd).lpc1 = (s'.advance pc hd).lpc1 := by
  have hr : loopRule s pc = loopRule s' pc := by simp only [loopRule, h0, h1, hs0, hs1, he0, he1]
  cases hd <;> simp [Stream.advance, loopNext_eq, hr, h0, h1]

/-- A changed member without a waiting trap ends its cycle as it is (R158). -/
theorem endCycle_updMember {M : Mach} {r : MRef} {m : Member} {f : Member → Member} (t : Nat) (hm : M.member r = some m)
    (hf : ∀ x, x.ref = r → (f x).ref = r) (hr : (f m).raised = []) :
    endCycle (M.updMember r f) r t = M.updMember r f := by
  refine endCycle_quiet fun x hx => ?_
  rw [Mach.member_updMember M r f hf, hm] at hx
  cases hx
  exact hr

/-- Settles O12: the member after the issue, and after the wait has begun, read back. -/
theorem issuedWordsAdvanceTheirStream : Obligations.IssuedWordsAdvanceTheirStream := by
  refine ⟨?issued, ?waits⟩
  case issued =>
    intro c M m hm hraised N
    let f (y : Member) : Member :=
      (y.updStr c.st fun s => (s.issued c.t (c.s.waited c.t)).advance c.pc y.handler.isSome).passed c.st
    have hf : ∀ x : Member, x.ref = c.mem.ref → (f x).ref = c.mem.ref := fun x hx => by simp [f, Member.ref_passed, hx]
    have hN : N = M.updMember c.mem.ref f :=
      endCycle_updMember c.t hm hf (by simp [Member.raised_passed, hraised])
    have hown : (f m).str c.st = ((m.str c.st).issued c.t (c.s.waited c.t)).advance c.pc m.handler.isSome := by
      simp only [f, Member.str_passed, Member.str_updStr]
    have hadv := ((m.str c.st).issued c.t (c.s.waited c.t)).advance_eq c.pc m.handler.isSome
    refine ⟨f m, by rw [hN, Mach.member_updMember M _ f hf, hm]; rfl, ?_, ?_, ?_, ?_, ?_, ?_, ?_, ?_, ?_, fun st hst => ?_,
      ?_, fun r hr => ?_, ?_, ?_⟩
    case refine_10 => simp only [f, Member.str_passed, Member.str_updStr_ne _ _ _ _ hst]
    case refine_11 => rw [hown]; exact Stream.advance_congr _ _ rfl rfl rfl rfl rfl rfl
    case refine_12 => rw [hN, Mach.member_updMember_ne M _ r f hf hr]
    case refine_13 => rw [hN]; rfl
    case refine_14 => rw [hN]; rfl
    all_goals rw [hown, hadv]; rfl
  case waits =>
    intro c k cond m hm hraised N
    let f (y : Member) : Member :=
      y.updStr c.st fun s => s.startWait k cond c.t c.M.nextId (watchdog c.M c.mem.ref.part)
    have hf : ∀ x : Member, x.ref = c.mem.ref → (f x).ref = c.mem.ref := fun x hx => by simp [f, hx]
    let M' : Mach := { c.reread c.M with nextId := c.M.nextId + 1 }
    have hN : N = M'.updMember c.mem.ref f := endCycle_updMember c.t (M := M') hm hf (by simp [hraised])
    have hown : (f m).str c.st = (m.str c.st).startWait k cond c.t c.M.nextId (watchdog c.M c.mem.ref.part) := by
      simp only [f, Member.str_updStr]
    refine ⟨by rw [hN]; rfl, fun r hr => by rw [hN, Mach.member_updMember_ne M' _ r f hf hr]; rfl, f m, ?_⟩
    refine ⟨_, by rw [hN, Mach.member_updMember M' _ f hf, show M'.member c.mem.ref = some m from hm]; rfl,
      by rw [hown]; rfl, rfl, rfl, rfl, rfl, fun h => by simp only [h], fun o h => by simp only [h, and_self],
      by rw [hown]; rfl, fun st hst => by simp only [f, Member.str_updStr_ne _ _ _ _ hst]⟩

end Sys2Proof.Machine

/-!
PROOFS. Traps taken and escalated (R158, R228, R401), and the addresses a partition may reach (R8, R10, R13, R17, R29).
-/

namespace Sys2Proof.Machine

/-! ### Entry to a handler and escalation -/

theorem Member.str_trapCsrs (m : Member) (st : Strm) (i : TrapInfo) (s : Strm) : (m.trapCsrs st i).str s = m.str s := by
  cases s <;> rfl

theorem Member.str_enterHandler_parked (m : Member) (st : Strm) (i : TrapInfo) (tau : Nat) (s : Strm) :
    ∃ pc running floor untimed, (m.enterHandler st i tau).str s =
      { (m.str s).park tau with pc := pc, running := running, floor := floor, untimed := untimed } := by
  cases s <;> exact ⟨_, _, _, _, rfl⟩

/-- A word that counts as not issued changes the wait, the floor and the stall count alone (R229). -/
theorem Stream.unwait_eq (s : Stream) (t : Nat) :
    s.unwait t = { s with wait := none, floor := (s.unwait t).floor, nstall := (s.unwait t).nstall } := by
  unfold Stream.unwait
  split
  · rfl
  · next h => rw [← h]

theorem Stream.pc_unwait (s : Stream) (t : Nat) : (s.unwait t).pc = s.pc := by rw [Stream.unwait_eq]

theorem Member.str_escalate (m : Member) (st : Strm) (i : TrapInfo) (tau : Nat) (s : Strm) :
    (m.escalate st i tau).str s = (m.str s).unwait tau := by
  cases s <;> rfl

theorem takeTrap_of_program {M : Mach} {m : Member} {st : Strm} {i : TrapInfo} {tau : Nat} (h : m.escalates i = false) :
    takeTrap M m st i tau =
      (settleAcqs (dropAsked (writeRecord M m (trapRecord M m (some (st, i)) false false fun s => (m.str s).pc)) m)
        m).putMember (m.enterHandler st i tau) := by
  unfold takeTrap
  simp only [h, Bool.false_eq_true, if_false]

theorem takeTrap_of_escalates {M : Mach} {m : Member} {st : Strm} {i : TrapInfo} {tau : Nat}
    (h : m.escalates i = true) :
    takeTrap M m st i tau =
      (((settleAcqs (dropAsked (writeRecord M m (trapRecord M m (some (st, i)) true false fun s => (m.str s).pc)) m)
        m).putMember (m.escalate st i tau)).logPart m.ref.part i.cause m.unit i.tval).raise 0 (.escalation m.ref) := by
  unfold takeTrap
  simp only [h, if_true]

/-- A member resumed by the firmware (R401). -/
def Member.resumedBy (m : Member) (M : Mach) (st : Strm) (i : TrapInfo) (e : ResumeEdit) : Member :=
  let y := { m with tepc := pcField (e.tepc.getD m.tepc), escalated := none }
  let y := y.updStr st fun s => { s with pc := pcField ((e.tepc.or e.pc).getD m.tepc), floor := max s.floor m.cycle }
  { y.thaw M with cmds := m.cmds.map fun c => if c.sys.any (TrapInfo.same i) then { c with sys := none } else c }

theorem resumeMember_of_escalated {M : Mach} {r : MRef} {m : Member} {st : Strm} {i : TrapInfo} (e : ResumeEdit)
    (hm : M.member r = some m) (he : m.escalated = some (st, i)) (hf : m.freeze = .escalated) :
    resumeMember M r e = takeStopped (restartEngines (M.putMember (m.resumedBy M st i e)) r) r := by
  unfold resumeMember Member.resumedBy
  simp only [hm, he, hf, ne_eq, not_true_eq_false, if_false]
  cases st <;> rfl

theorem Member.str_resumedBy (m : Member) (M : Mach) (st : Strm) (i : TrapInfo) (e : ResumeEdit) (o : Strm) :
    (m.resumedBy M st i e).str o =
      if o = st then { m.str st with pc := pcField ((e.tepc.or e.pc).getD m.tepc), floor := max (m.str st).floor m.cycle }
      else m.str o := by
  cases st <;> cases o <;> rfl

/-- Settles O15: by the two ways a trap is taken and the firmware's answer. -/
theorem trapsAreTakenOrEscalated : Obligations.TrapsAreTakenOrEscalated := by
  refine ⟨?_, ?_, ?_⟩
  · intro M m st i tau hsys hh htvec
    have hesc : m.escalates i = false := by
      rw [Member.escalates, hsys, hh, decide_eq_false htvec]
      rfl
    refine ⟨_, _, takeTrap_of_program hesc, rfl, rfl, rfl, rfl, rfl, rfl, rfl, rfl, rfl, rfl, rfl, rfl, rfl, rfl, rfl,
      rfl, ?_, ?_, ?_, ?_, rfl, rfl, rfl, rfl, rfl, rfl, rfl, rfl, rfl⟩
    · exact m.a.pc_unwait tau
    · exact m.v.pc_unwait tau
    · exact m.x.pc_unwait tau
    · intro s
      obtain ⟨pc, running, floor, untimed, hs⟩ := m.str_enterHandler_parked st i tau s
      rw [hs, Stream.park, Stream.unwait_eq]
      exact ⟨rfl, rfl, rfl, rfl, rfl, rfl⟩
  · intro M m st i tau h
    have hesc : m.escalates i = true := by simpa [Member.escalates, or_assoc] using h
    refine ⟨_, takeTrap_of_escalates hesc, rfl, rfl, rfl, rfl, rfl, rfl, rfl, rfl, rfl, rfl, fun s => ?_⟩
    rw [Member.str_escalate, Stream.unwait_eq]
    exact ⟨rfl, rfl, rfl, rfl, rfl⟩
  · intro s r m st i e hm he
    have href := Mach.member_ref hm
    refine ⟨?_, fun hf => ⟨m.resumedBy s.m st i e, ?_, ?_, rfl, ?_, ?_, fun o ho => ?_⟩⟩
    · rw [Becomes, exec_escalation, execEscalation, State.lift, noticeEscalation]
      simp only [hm, he]
    · rw [Becomes, exec_resume, execResume, State.lift, resumeMember_of_escalated e hm he hf]
    · cases st <;> exact href
    · cases st <;> rfl
    · rw [Member.str_resumedBy, if_pos rfl]
    · rw [Member.str_resumedBy, if_neg ho]

/-! ### Translations, walks and admission -/

/-- A leaf in the partition's own frames, or at another device. -/
def Owns (p : Part) (r : Except XFault TlbEntry) : Prop :=
  ∀ e pa sc, r = .ok e → e.leaf = .local pa sc → ownsFrame p pa (2 ^ e.log) = true

theorem owns_error (p : Part) (f : XFault) : Owns p (.error f) := fun _ _ _ h => by cases h

/-- A mapping of the firmware that is guarded by the ownership of its frame. -/
theorem owns_guarded {p : Part} {pa log : Nat} {e : TlbEntry} {f : XFault} {sc : Bool} (hl : e.leaf = .local pa sc)
    (hlog : e.log = log) : Owns p (if ownsFrame p pa (2 ^ log) then .ok e else .error f) := by
  intro x q c h hx
  split at h
  · next ho =>
    cases h
    cases hl.symm.trans hx
    rw [hlog]
    exact ho
  · cases h

theorem owns_cardWalk (p : Part) (pva : Word) : Owns p (cardWalk p pva) := owns_guarded (log := 16) rfl rfl

theorem owns_saveWalk (p : Part) (pva : Word) (pa : Nat) : Owns p (saveWalk p pva pa) := owns_guarded (log := 16) rfl rfl

theorem readLevel_owns {M : Mach} {p : Part} {pva : Word} {level table : Nat} {e : TlbEntry} {pa : Nat} {sc : Bool}
    (h : readLevel M p pva level table = .ok (.leaf e)) (hl : e.leaf = .local pa sc) :
    ownsFrame p pa (2 ^ e.log) = true := by
  unfold readLevel at h
  simp only at h
  split at h
  · cases h
  split at h
  · cases h
  split at h
  · cases h
  split at h
  · split at h <;> cases h
  · split at h
    · next ho =>
      cases h
      cases hl
      exact ho
    · cases h
  · cases h
    cases hl

theorem walkLevel_leaf {M : Mach} {die : Nat} {p : Part} {pva : Word} {level table : Nat} {e : TlbEntry}
    (h : walkLevel M die p pva level table = .ok (.leaf e)) : readLevel M p pva level table = .ok (.leaf e) := by
  unfold walkLevel at h
  simp only at h
  split at h
  · exact h
  · split at h
    · cases h
    · split at h
      · cases h
      · exact h

theorem owns_walkFrom (M : Mach) (die : Nat) (p : Part) (pva : Word) (fuel level table : Nat) :
    Owns p (walkFrom M die p pva fuel level table) := by
  induction fuel generalizing level table with
  | zero => exact owns_error p _
  | succ n ih =>
    rw [walkFrom]
    split
    · exact owns_error p _
    · next he =>
      intro e pa sc h hl
      cases h
      exact readLevel_owns (walkLevel_leaf he) hl
    · exact ih _ _

theorem owns_walk (M : Mach) (die : Nat) (p : Part) (pva : Word) : Owns p (walk M die p pva) := by
  unfold walk
  split
  · exact owns_error p _
  split
  · exact owns_error p _
  split
  · exact owns_cardWalk p pva
  split
  · split
    · exact owns_saveWalk p pva _
    · exact owns_error p _
  · exact owns_walkFrom M die p pva 5 0 (tableRoot p)

/-- A port's copy of the exports is the newest, or that of a load it has not made yet. -/
theorem portCopy_cases (port t : Nat) (es : List ExportEntry) (ls : List ExportLoad) :
    portCopy port t es ls = es ∨ ∃ l ∈ ls, t < l.madeAt port ∧ portCopy port t es ls = l.old := by
  induction ls generalizing es with
  | nil => exact .inl rfl
  | cons l ls ih =>
    rw [portCopy]
    split
    · exact .inl rfl
    · next hlt =>
      right
      obtain h | ⟨k, hk, hkt, h⟩ := ih l.old
      · exact ⟨l, List.mem_cons_self, by omega, h⟩
      · exact ⟨k, List.mem_cons_of_mem _ hk, hkt, h⟩

theorem exported_iff {es : List ExportEntry} {k : EKind} {addr n : Nat} :
    exported es k addr n = true ↔
      ∃ e ∈ es, e.base ≤ addr ∧ addr + n ≤ e.base + e.pages * 0x10000 ∧
        (match k with
          | .r => e.r
          | .w => e.w
          | .a => e.a
          | .q => e.q) = true := by
  cases k <;> simp [exported, and_assoc]

theorem leafAllows_ok {p : Part} {k : AKind} {pva : Word} {e x : TlbEntry} (h : leafAllows p k pva x = .ok e) :
    x = e ∧ k.allowed e.r e.w e.x = true ∧ ∀ pa, e.leaf = .local pa true → scarabHit p pva.toNat = false := by
  unfold leafAllows at h
  split at h
  · cases h
  · next ha =>
    simp only [Bool.not_eq_true', Bool.not_eq_false] at ha
    split at h
    · split at h
      · cases h
      · next hs =>
        cases h
        exact ⟨rfl, ha, fun _ _ => by simpa using hs⟩
    · next hno =>
      cases h
      exact ⟨rfl, ha, fun pa hp => absurd hp (hno pa)⟩

theorem xlate_ok {M : Mach} {core : Option Nat} {die part : Nat} {k : AKind} {pva : Word} {e : TlbEntry}
    (h : xlate M core die part k pva = .ok e) :
    wf pva 56 8 = 0 ∧ k.allowed e.r e.w e.x = true ∧
      ∃ p, M.part part = some p ∧ ∀ pa, e.leaf = .local pa true → scarabHit p pva.toNat = false := by
  unfold xlate at h
  split at h
  · cases h
  · next htop =>
    split at h
    · cases h
    · next p hp =>
      simp only at h
      split at h
      · cases h
      · obtain ⟨rfl, ha, hs⟩ := leafAllows_ok h
        exact ⟨by simpa using htop, ha, p, hp, hs⟩

/-- A word without its top byte is below 2^56. -/
theorem lt_of_wf_top {w : Word} (h : wf w 56 8 = 0) : w.toNat < 2 ^ 56 := by
  have hw := w.isLt
  simp only [wf, fld] at h
  omega

theorem keyOk_iff {M : Mach} {part key : Nat} {p : Part} (hp : M.part part = some p) :
    keyOk M part key = true ↔ p.key ≠ 0 ∧ p.key.toNat = key ∧ p.changing ≤ M.wclk := by
  simp [keyOk, hp, and_assoc]

/-- Settles O17: by the branches of a translation, of a walk and of an admission. -/
theorem addressesArePermitted : Obligations.AddressesArePermitted := by
  refine ⟨?_, fun M die p pva e pa sc h hl => owns_walk M die p pva e pa sc h hl, ?_⟩
  · intro M core die part k pva e h
    obtain ⟨htop, ha, hp⟩ := xlate_ok h
    refine ⟨lt_of_wf_top htop, ?_, hp⟩
    cases k
    case atomic => simpa [AKind.allowed] using ha
    all_goals exact ha
  · intro M part port key ek ak addr n
    refine ⟨fun ps h => ?_, fun hno => ?_⟩
    · unfold admission at h
      split at h
      · cases h
      · next hk =>
        split at h
        · cases h
        · next p hp =>
          obtain ⟨hk0, hkey, -⟩ := (keyOk_iff hp).1 (by simpa using hk)
          split at h
          · cases h
          · next hex =>
            exact ⟨p, hp, hk0, hkey, portCopy_cases port M.wclk p.exports p.exportLoads,
              exported_iff.1 (by simpa using hex)⟩
    · have hk : keyOk M part key = false := by
        cases hp : M.part part with
        | none => simp [keyOk, hp]
        | some p =>
          rw [← Bool.not_eq_true, keyOk_iff hp]
          intro ⟨h0, hkey, _⟩
          exact (hno p hp).elim h0 fun h => h hkey
      simp [admission, hk]

end Sys2Proof.Machine

/-!
PROOFS. Loads, stores and the words on lines (R40, R74, R82, R87, R97 to R100, R152, R153, R244 to R250).
-/

namespace Sys2Proof.Machine

/-! ### Loads (R244) -/

section
variable {c : Ctx} {d : Dst} {slot : BitVec 5} {arr : BitVec 10} {sz : Size} {sx na : Bool} {addr : Word}
  {M : Mach} {ts : List (Target × Nat)}

/-- The load waits for data that is asked for: other devices' pieces, and stacks that switch. -/
def Ctx.loadBusy (c : Ctx) (M : Mach) (ts : List (Target × Nat)) : List Nat :=
  switchingStacks M (fun pa n => !pieceHeld M c.s (c.mem.core.getD 0) pa n) ts

/-- The machine in which a load has taken its slot. -/
def Ctx.loadMach (c : Ctx) (d : Dst) (slot : BitVec 5) (sz : Size) (sx na : Bool) (M : Mach)
    (ts : List (Target × Nat)) (due : Option Nat) : Mach :=
  let got := localPart M c.mem c.s (c.mem.core.getD 0) na ts
  let asked := remotePieces ts + (c.loadBusy M ts).length
  let N :=
    got.1.updMember c.mem.ref fun y =>
      y.setSlot slot.toNat ⟨.pending, BitVec.ofNat 128 (leNat got.2), c.st, d, due, sz, sx, asked, c.pc, c.raw⟩
  let N := waitStacks N c.mem.ref slot.toNat (c.loadBusy M ts)
  if asked = 0 then N.raise 1 (.dataLanding c.mem.ref slot.toNat) else requestPieces N c.mem.ref slot.toNat 0 ts

theorem Ctx.loadFrom_slot (h : c.mem.slotFree slot = false) (span : Except XFault (Mach × List (Target × Nat))) :
    c.loadFrom d slot arr sz sx na addr span = .wait .slot (.slotFree slot.toNat) := by
  simp only [Ctx.loadFrom, h, Bool.not_false, if_true]

theorem Ctx.loadFrom_error (h : c.mem.slotFree slot = true) (f : XFault) :
    c.loadFrom d slot arr sz sx na addr (.error f) = c.xtrap f .read := by
  simp only [Ctx.loadFrom, h, Bool.not_true, Bool.false_eq_true, if_false]

theorem Ctx.loadFrom_poison (h : c.mem.slotFree slot = true) {pa : Nat} (hp : spanPoison M ts = some pa) :
    c.loadFrom d slot arr sz sx na addr (.ok (M, ts)) = .trap (eccTrap c.raw pa) := by
  simp only [Ctx.loadFrom, h, hp, Bool.not_true, Bool.false_eq_true, if_false]

theorem Ctx.loadFrom_untimed (h : c.mem.slotFree slot = true) (hp : spanPoison M ts = none)
    (ht : arr = 0 ∨ remotePieces ts ≠ 0) :
    c.loadFrom d slot arr sz sx na addr (.ok (M, ts)) =
      .untimed (c.loadMach d slot sz sx na M ts none)
        { c.unt .slot with writes := loadWrites d sz sx 0, slot := some slot.toNat, pva := addr } := by
  have hdue : (decide (arr = 0) || decide (remotePieces ts ≠ 0)) = true := by simpa using ht
  simp only [Ctx.loadFrom, h, hp, Bool.not_true, Bool.false_eq_true, if_false, hdue, if_true]
  rfl

theorem Ctx.loadFrom_timed (h : c.mem.slotFree slot = true) (hp : spanPoison M ts = none)
    (ha : arr ≠ 0) (hr : remotePieces ts = 0) :
    c.loadFrom d slot arr sz sx na addr (.ok (M, ts)) =
      .done
        ((c.loadMach d slot sz sx na M ts (some (c.t + arr.toNat))).updMember c.mem.ref fun y =>
          y.updStr c.st fun q =>
            { q with
              inflight := q.inflight ++ [⟨c.t + arr.toNat, c.t, loadWrites d sz sx 0, false, some slot.toNat⟩] }) := by
  have hdue : (decide (arr = 0) || decide (remotePieces ts ≠ 0)) = false := by
    rw [decide_eq_false ha, hr]
    rfl
  simp only [Ctx.loadFrom, h, hp, Bool.not_true, Bool.false_eq_true, if_false, hdue]
  rfl

end

theorem loadByte_of_store {M : Mach} {q : Stream} {core pa : Nat} {before after : List SbEntry} {e : SbEntry}
    (hsplit : q.sb ++ q.entering = before ++ e :: after) (he : e.pa ≤ pa ∧ pa < e.pa + e.bytes.length)
    (hafter : ∀ y ∈ after, ¬(y.pa ≤ pa ∧ pa < y.pa + y.bytes.length)) :
    loadByte M q core pa = e.bytes.getD (pa - e.pa) 0 := by
  have hfind : (q.sb ++ q.entering).reverse.find? (fun e => e.pa ≤ pa && pa < e.pa + e.bytes.length) = some e := by
    rw [hsplit, List.reverse_append, List.reverse_cons, List.append_assoc, List.find?_append,
      List.find?_eq_none.2 (by simpa using hafter), Option.none_or, List.singleton_append, List.find?_cons_of_pos]
    simpa using he
  rw [loadByte, hfind]

theorem loadByte_of_noStore {M : Mach} {q : Stream} {core pa : Nat}
    (h : ∀ y ∈ q.sb ++ q.entering, ¬(y.pa ≤ pa ∧ pa < y.pa + y.bytes.length)) :
    loadByte M q core pa = (l1Byte (M.core core) pa).getD (memGet M.mem pa) := by
  have hfind : (q.sb ++ q.entering).reverse.find? (fun e => e.pa ≤ pa && pa < e.pa + e.bytes.length) = none :=
    List.find?_eq_none.2 fun y hy => by simpa using h y (List.mem_reverse.1 hy)
  rw [loadByte, hfind]
  cases l1Byte (M.core core) pa <;> rfl

/-- Settles O28: by what the slot, the translation and the pieces of the load say, and by the order of a byte's sources. -/
theorem loadsTakeTheirSlotsAndSeeStores : Obligations.LoadsTakeTheirSlotsAndSeeStores := by
  refine ⟨?_, fun M q core pa => ⟨fun before e after hs h1 h2 ha => loadByte_of_store hs ⟨h1, h2⟩ ha, fun h => ⟨?_, ?_⟩⟩⟩
  · intro s k m d b slot arr sz sx na off i hi c addr
    have hend {r : Res} (hr : c.loadFrom d slot arr sz sx na addr (c.span .read addr sz.bytes) = r) :
        Ends i s k m r := hi.ends_of_word rfl (exec_ld ..) hr
    refine ⟨fun hs => hend (Ctx.loadFrom_slot hs _), fun hs => ⟨fun f hf => hend ?_, fun M ts hx => ⟨fun pa hp => hend ?_, fun hp => ?_⟩⟩⟩
    · rw [hf]
      exact Ctx.loadFrom_error hs f
    · rw [hx]
      exact Ctx.loadFrom_poison hs hp
    · intro got busy asked timed N N N
      refine ⟨fun ht => hend ?_, fun ht => hend ?_⟩
      · have hu : arr = 0 ∨ remotePieces ts ≠ 0 := by simpa [timed, imp_iff_not_or, not_and_or] using ht
        have hdue : (if timed then some (c.t + arr.toNat) else none) = none := if_neg ht
        rw [hx, Ctx.loadFrom_untimed hs hp hu, ← hdue]
        rfl
      · have hdue : (if timed then some (c.t + arr.toNat) else none) = some (c.t + arr.toNat) := if_pos ht
        rw [hx, Ctx.loadFrom_timed hs hp ht.1 ht.2, ← hdue]
        rfl
  · intro x hx
    rw [loadByte_of_noStore h, l1Byte, l1Line, hx, Option.bind_some, L1Line.byte]
    split <;> rfl
  · intro hx
    rw [loadByte_of_noStore h, l1Byte, l1Line, hx]
    rfl

/-! ### Stores (R245) -/

/-- A memory list with two cells for the first byte of core 0's B store. The model's own steps make no such list, but the
statement is about every machine. -/
def twoCells : List Host.Cell := [(0x42000000000, 1), (0x42000000000, 2)]

/-- Refutes O29: a zero stored over the first of two cells for its address uncovers the second. -/
theorem not_storesEnterTheBufferAndDrain : ¬ Obligations.StoresEnterTheBufferAndDrain := by
  rintro ⟨⟨-, h⟩, -⟩
  have hbyte := (h { Mach.reset with mem := twoCells } (loadMember .c 0) .c 0 none 0x42000000000 1 [0] 0).2
    (by decide +kernel) rfl 0 Nat.zero_lt_one
  exact absurd hbyte (by decide +kernel)

end Sys2Proof.Machine

namespace Sys2Proof.Machine

/-! ### Words on lines (R247) -/

/-- A page of 2^56 bytes at its own addresses. -/
def flatPage : TlbEntry := ⟨0, 0, 56, .local 0 false, true, true, true, 0, 0⟩

/-- A line whose first byte is a dirty zero. -/
def dirtyLine (y : Nat) : L1Line := ⟨y, zeros 64, 1, 1⟩

/-- The member of a core with 8,192 lines of L1, one register naming line `x`. -/
def lineMember (x : Nat) : Member :=
  { (loadMember .c 0).updStr .c fun q => { q with s := q.s.set 1 (w64 (64 * x)) } with size := 3 }

def lineCur : Cur := ⟨⟨0, 0, 0⟩, .c, 0x1000000, 0⟩

/-- Eight ways hold line `y`, memory holds two cells for its first byte, and a word on line `x` is being issued. -/
def lineState (x y : Nat) : State :=
  { State.reset with
    m :=
      { Mach.reset with
        parts := [Part.fresh 0 8 77]
        members := [lineMember x]
        cores := [⟨0, [flatPage], List.replicate 8 (dirtyLine y)⟩]
        mem := [(64 * y, 1), (64 * y, 2)]
        cur := some lineCur } }

/-- The word's context. -/
def lineCtx (x y : Nat) : Ctx := lineCur.ctx (lineState x y).m (lineMember x)

theorem lineState_issues (x y : Nat) : Issues (.pref (.s 1) .b1 0) (lineState x y) lineCur (lineMember x) :=
  ⟨rfl, rfl, rfl⟩

theorem lineCtx_core (x y : Nat) : (lineCtx x y).M.core 0 = ⟨0, [flatPage], List.replicate 8 (dirtyLine y)⟩ := rfl

theorem lineCtx_memAddr (x y : Nat) : (lineCtx x y).memAddr (.s 1) .b1 0 = w64 (64 * x) := by
  have h : (lineCtx x y).reg (.s 1) = w64 (64 * x) := rfl
  rw [Ctx.memAddr, h]
  simp

theorem toNat_lineAddress {x : Nat} (hx : x < 1025) : (w64 (64 * x)).toNat = 64 * x := by
  rw [w64, BitVec.toNat_ofNat]
  omega

theorem wf_lineAddress {x : Nat} (hx : x < 1025) : wf (w64 (64 * x)) 56 8 = 0 := by
  rw [wf_eq_div_mod, toNat_lineAddress hx]
  omega

theorem xlate_of_tlb {M : Mach} {core : Option Nat} {die part : Nat} {k : AKind} {pva : Word} {p : Part} {e : TlbEntry}
    (htop : wf pva 56 8 = 0) (hp : M.part part = some p) (hfind : tlbFind M core die part pva.toNat = some e) :
    xlate M core die part k pva = leafAllows p k pva e := by
  simp only [xlate, htop, hp, hfind, ne_eq, not_true_eq_false, if_false]

/-- PREF of a local line whose translation is cached (R247). -/
theorem Issues.pref_ends {s : State} {k : Cur} {m : Member} {b : Reg} {sz : Size} {off : BitVec 9} {c : Ctx} {addr : Word}
    {pa : Nat} {x e : TlbEntry} (h : Issues (.pref b sz off) s k m) (hc : k.ctx s.m m = c)
    (haddr : c.memAddr b sz off = addr) (htop : wf addr 56 8 = 0) (hl1 : c.mem.hasL1 = true)
    (hfind : tlbFind c.M c.mem.core c.mem.die c.mem.ref.part addr.toNat = some x)
    (hx : xlate c.M c.mem.core c.mem.die c.mem.ref.part .read addr = .ok e) (ht : e.target addr.toNat = .local pa) :
    Ends (.pref b sz off) s k m (.done (prefLine c.M c.mem (c.mem.core.getD 0) pa)) :=
  h.ends_of_word hc (exec_pref ..) (by
    simp only [haddr, htop, hl1, hfind, hx, ht, ne_eq, not_true_eq_false, decide_false, Bool.not_true, Bool.or_self,
      Bool.false_eq_true, if_false])

theorem flatPage_covers {a : Nat} (ha : a < 2 ^ 56) : flatPage.covers 0 a = true := by
  have hlog : flatPage.log = 56 := rfl
  have hbase : flatPage.base = 0 := rfl
  rw [TlbEntry.covers, hlog, hbase, Nat.div_eq_of_lt ha, Nat.zero_mul]
  rfl

theorem tlbFind_of_core {M : Mach} {c die part pva : Nat} {e : TlbEntry} {l : List TlbEntry}
    (htlb : (M.core c).tlb = e :: l) (he : e.covers part pva = true) : tlbFind M (some c) die part pva = some e := by
  simp only [tlbFind, htlb, List.cons_append, List.find?_cons, he]

theorem tlbFind_lineCtx {x : Nat} (y : Nat) (hx : x < 1025) :
    tlbFind (lineCtx x y).M (some 0) 0 0 (64 * x) = some flatPage :=
  tlbFind_of_core (congrArg CoreRec.tlb (lineCtx_core x y)) (flatPage_covers (by omega))

/-- A line of HBM is fetched alone. -/
theorem prefLine_hbm {M : Mach} {m : Member} {core x k : Nat} (hk : paKind (64 * x) = .hbm k)
    (hf : fenced M (64 * x) = false) : prefLine M m core (64 * x) = fillLine M m core x := by
  have hn : (64 * x / 64 * 64 + 64 - 1) / 64 - 64 * x / 64 * 64 / 64 + 1 = 1 := by omega
  have hw : windowOk M (64 * x) = true := by simp only [windowOk, hk]
  simp only [prefLine, hk, hf, hw, allocate, hn]
  simp

theorem paKind_line {x : Nat} (hx : x < 1025) : paKind (64 * x) = .hbm 0 := by
  rw [paKind, if_pos (by omega), Nat.div_eq_of_lt (by omega)]

/-- The line the word asks for is brought in. -/
theorem lineState_ends {x : Nat} (y : Nat) (hx : x < 1025) :
    Ends (.pref (.s 1) .b1 0) (lineState x y) lineCur (lineMember x)
      (.done (fillLine (lineCtx x y).M (lineCtx x y).mem 0 x)) := by
  have hkind := paKind_line hx
  have hfenced : fenced (lineCtx x y).M (64 * x) = false := by
    simp only [fenced, paDie, hkind]
    rfl
  have htarget : flatPage.target (w64 (64 * x)).toNat = .local (64 * x) := by
    simp [TlbEntry.target, flatPage, toNat_lineAddress hx]
  have hfind := tlbFind_lineCtx y hx
  rw [← toNat_lineAddress hx] at hfind
  have hpart : (lineCtx x y).M.part 0 = some (Part.fresh 0 8 77) := rfl
  have h := (lineState_issues x y).pref_ends (c := lineCtx x y) rfl (lineCtx_memAddr x y) (wf_lineAddress hx) rfl hfind
    (xlate_of_tlb (k := .read) (wf_lineAddress hx) hpart hfind) htarget
  exact (prefLine_hbm hkind hfenced) ▸ h

theorem getElem?_replicate_mod {α : Type} (a : α) (i : Nat) : (List.replicate 8 a)[i % 8]? = some a := by
  rw [List.getElem?_replicate, if_pos (Nat.mod_lt _ (by decide))]

/-- The line of a full set that leaves takes its dirty bytes home. -/
theorem fillLine_full_mem {M : Mach} {m : Member} {core x : Nat} {t : List TlbEntry} {l : L1Line}
    (hcache : cacheable m core (64 * x) = true) (hcore : M.core core = ⟨core, t, List.replicate 8 l⟩)
    (hset : m.sameSet l.line x = true) (hne : l.line ≠ x) : (fillLine M m core x).mem = l.toHome M.mem := by
  have hnew : l1Line (M.core core) x = none := by
    rw [hcore, l1Line, List.find?_replicate_of_neg]
    simpa using hne
  have hways : (List.replicate 8 l).filter (fun z => m.sameSet z.line x) = List.replicate 8 l :=
    List.filter_replicate_of_pos hset
  have hroom : (l1Room M m core x).mem = l.toHome M.mem := by
    simp only [l1Room, hcore, List.length_replicate, Nat.lt_irrefl, if_false, hways, getElem?_replicate_mod]
  simp only [fillLine, hcache, if_true, l1Open, hnew]
  exact hroom

theorem l1Room_members (M : Mach) (m : Member) (core line : Nat) : (l1Room M m core line).members = M.members := by
  simp only [l1Room]
  repeat' split
  all_goals rfl

theorem l1Open_members (M : Mach) (m : Member) (core line : Nat) : (l1Open M m core line).1.members = M.members := by
  unfold l1Open
  split
  · rfl
  · exact l1Room_members M m core line

theorem fillLine_members (M : Mach) (m : Member) (core line : Nat) : (fillLine M m core line).members = M.members := by
  unfold fillLine
  split
  · exact l1Open_members M m core line
  · rfl

/-- The two cells of the line's first byte: the zero that comes home uncovers the second. -/
theorem dirtyLine_toHome (y : Nat) : (dirtyLine y).toHome [(64 * y, 1), (64 * y, 2)] = [(64 * y, 2)] := by
  simp [L1Line.toHome, dirtyLine, List.range, List.range.loop, memSet, zeros]

/-- Two of 1,025 lines share one of the 1,024 sets, whatever the sets are. -/
theorem exists_sameSet : ∃ x y, x < 1025 ∧ y ≠ x ∧ ∀ m : Member, m.size = 3 → m.sameSet y x = true := by
  let g (n : Fin 1025) : Fin 1024 := ⟨Config.l1Set n.val % 1024, Nat.mod_lt _ (by decide)⟩
  obtain ⟨x, y, hne, hxy⟩ := Fintype.exists_ne_map_eq_of_card_lt g (by simp)
  refine ⟨x.val, y.val, x.isLt, fun h => hne (Fin.ext h.symm), fun m hm => ?_⟩
  have hz : m.l1Lines / 8 = 1024 := by
    rw [Member.l1Lines, Member.tilesN, hm, tileCount]
  rw [Member.sameSet, hz, beq_iff_eq]
  exact (congrArg Fin.val hxy).symm

/-- An issued word that leaves no trap leaves memory as its effect does. -/
theorem finish_done_mem {c : Ctx} {M : Mach} {m : Member} (hm : M.member c.mem.ref = some m) (hr : m.raised = []) :
    (finish c (.done M)).mem = M.mem := by
  obtain ⟨x, h⟩ := issuedWordsAdvanceTheirStream.1 c M m hm hr
  exact h.2.2.2.2.2.2.2.2.2.2.2.2.2.1

/-- Refutes O30: of a memory list with two cells for one address, which no run makes, a prefetched line's victim takes
away the first by its zero byte, and the second is read. -/
theorem not_lineWordsComplete : ¬ Obligations.LineWordsComplete := by
  rintro ⟨h, -⟩
  obtain ⟨x, y, hx, hne, hset⟩ := exists_sameSet
  obtain ⟨M, hM, hmembers, -, -, hbytes⟩ := h (lineState x y) lineCur (lineMember x) (.s 1) .b1 0 (lineState_issues x y)
  have hmodel := lineState_ends y hx
  have hfinish : finish (lineCtx x y) (.done M) = finish (lineCtx x y) (.done (fillLine (lineCtx x y).M (lineCtx x y).mem 0 x)) :=
    congrArg State.m (Host.Outcome.next.inj (hM.symm.trans hmodel))
  have hcache : cacheable (lineCtx x y).mem 0 (64 * x) = true := by
    simp only [cacheable, ownWindow, paKind_line hx]
    rfl
  have hmem : (fillLine (lineCtx x y).M (lineCtx x y).mem 0 x).mem = [(64 * y, 2)] :=
    (fillLine_full_mem hcache (lineCtx_core x y) (hset _ rfl) hne).trans (dirtyLine_toHome y)
  have hmember : (lineCtx x y).M.member (lineCtx x y).mem.ref = some (lineCtx x y).mem := rfl
  have hleft : M.mem = [(64 * y, 2)] := by
    have hm : M.member (lineCtx x y).mem.ref = some (lineCtx x y).mem := by rw [Mach.member, hmembers]; exact hmember
    have hf : (fillLine (lineCtx x y).M (lineCtx x y).mem 0 x).member (lineCtx x y).mem.ref = some (lineCtx x y).mem := by
      rw [Mach.member, fillLine_members]; exact hmember
    rw [← finish_done_mem (c := lineCtx x y) hm rfl, hfinish, finish_done_mem (c := lineCtx x y) hf rfl, hmem]
  have hread : memGet M.mem (64 * y) = 2 := by simp [hleft, memGet]
  have hold : memGet (lineCtx x y).M.mem (64 * y) = 1 := by
    have h : (lineCtx x y).M.mem = [(64 * y, 1), (64 * y, 2)] := rfl
    simp [h, memGet]
  have hl1 : ((lineCtx x y).M.core 0).l1 = List.replicate 8 (dirtyLine y) := congrArg CoreRec.l1 (lineCtx_core x y)
  obtain hb | ⟨l, hl, -, -, hb⟩ := hbytes (64 * y)
  · exact absurd ((hread.symm.trans hb).trans hold) (by decide)
  · obtain rfl : l = dirtyLine y := (List.mem_replicate.1 (hl1 ▸ hl)).2
    have hz : (dirtyLine y).data.getD (64 * y % 64) 0 = 0 := by simp [dirtyLine, zeros]
    exact absurd ((hread.symm.trans hb).trans hz) (by decide)

end Sys2Proof.Machine

/-!
PROOFS. Acquiring loads, atomics, objects and fences (R92 to R105, R250 to R260).
-/

namespace Sys2Proof.Machine

/-! ### LDACQ (R250) -/

theorem homePoison_of_clean {M : Mach} {pa n : Nat} (h : M.poisoned pa n = false) : homePoison M [(pa, n)] = none := by
  simp [homePoison, h]

/-- One piece waits at its stack when that switches. -/
theorem switchingStacks_one (M : Mach) (pa n : Nat) :
    switchingStacks M (fun _ _ => true) [(.local pa, n)] = (M.switchingAt pa).toList := by
  cases h : M.switchingAt pa <;> simp [switchingStacks, h, insertNat]

theorem homeAcq_nw {M : Mach} {pa holder : Nat} (h : objWellFormed (M.word (pa + 8)).toNat = true) :
    homeAcq M pa holder .nw = .version M (M.word pa) := by
  simp [homeAcq, h]

theorem homeAcq_malformed {M : Mach} {pa holder : Nat} {k : AcqKind} (h : objWellFormed (M.word (pa + 8)).toNat = false) :
    homeAcq M pa holder k = .trap 0x13 := by
  simp [homeAcq, h]

theorem aligned_iff {pva : Word} {n : Nat} : aligned pva n = true ↔ pva.toNat % n = 0 := by
  simp [aligned]

/-- Settles O31: by the checks of LDACQ in their order. -/
theorem acquiringLoadsReadAtTheHome : Obligations.AcquiringLoadsReadAtTheHome := by
  intro s k m sc d b slot sz off i hi hn c addr version u take got
  have hend := fun r => hi.ends_of_wordOut (r := r) hn (c := c) rfl (exec_ldacq ..)
  have hraw : c.raw = k.raw := rfl
  have hpc : c.pc = k.pc := rfl
  simp only [Traps, badOperand, ← hraw]
  simp only [take, got, u, ← hraw, ← hpc]
  clear_value c
  have hbad (h : addr.toNat % sz.bytes ≠ 0 ∨ (version = false ∧ c.default addr sz.bytes = false)) :
      (!aligned addr sz.bytes || !(version || c.default addr sz.bytes)) = true := by
    rw [Bool.or_eq_true, Bool.not_eq_true', Bool.not_eq_true', Bool.or_eq_false_iff, ← Bool.not_eq_true, aligned_iff]
    exact h
  have hgood (ha : addr.toNat % sz.bytes = 0) (hv : version = true ∨ c.default addr sz.bytes = true) :
      ¬(!aligned addr sz.bytes || !(version || c.default addr sz.bytes)) = true := by
    rw [aligned_iff.2 ha, Bool.or_eq_true_iff.2 hv]
    decide
  refine ⟨fun hs => hend _ (if_pos (by rw [hs]; rfl)), fun hs => ?_⟩
  have hfree : ¬(!c.mem.slotFree slot) = true := by rw [hs]; decide
  have hpass := fun (ha : addr.toNat % sz.bytes = 0) (hv : version = true ∨ c.default addr sz.bytes = true) r hr =>
    hend r ((if_neg hfree).trans ((if_neg (hgood ha hv)).trans hr))
  refine ⟨fun h => hend _ ((if_neg hfree).trans (if_pos (hbad h))), ?_, ?_, ?_, ?_, ?_, ?_⟩
  · intro ha hv hd M pa n ts hx hp
    refine hpass ha (.inr hd) _ ?_
    simp only [version, addr] at hv hx
    simp only [hv, Bool.false_eq_true, if_false, hx, homePoison_of_clean hp, switchingStacks_one]
    cases (flushLine M c.mem.ref c.st pa).switchingAt pa <;> rfl
  · intro ha hv M pa n ts hx hp hw
    refine hpass ha (.inl hv) _ ?_
    simp only [version, addr] at hv hx
    simp only [hv, if_true, hx, homePoison_of_clean hp, homeAcq_nw hw, switchingStacks_one]
    cases (flushLine M c.mem.ref c.st pa).switchingAt pa <;> rfl
  · intro ha hv M pa n ts hx hp hw
    refine hpass ha (.inl hv) _ ?_
    simp only [version, addr] at hv hx
    simp only [hv, if_true, hx, homePoison_of_clean hp, homeAcq_malformed hw]
    rfl
  · intro ha hv
    refine ⟨fun f hf => hpass ha hv _ ?_, fun M pa n ts q hx hq => hpass ha hv _ ?_⟩
    · simp only [version, addr] at hf
      simp only [hf]
      rfl
    · simp only [version, addr] at hx
      simp only [hx, hq]
      rfl
  · intro ha hv hd M dev p ra n ts hx
    refine hpass ha (.inr hd) _ ?_
    simp only [version, addr] at hv hx
    simp only [hv, Bool.false_eq_true, if_false, hx]
    rfl
  · intro ha hv M dev p ra n ts hx
    refine hpass ha (.inl hv) _ ?_
    simp only [version, addr] at hv hx
    simp only [hv, if_true, hx]
    rfl

/-! ### Atomics (R253) -/

/-- Two cells out of order: the second is not read while the first stands. The model's own steps keep memory in order. -/
def crossedCells : List Host.Cell := [(8, 1), (3, 5)]

/-- Refutes O32: an exchange of a zero at address 8 uncovers the cell of address 3. -/
theorem not_atomicsActAtTheirHome : ¬ Obligations.AtomicsActAtTheirHome := by
  rintro ⟨-, h, -⟩
  have hbyte := (h { Mach.reset with mem := crossedCells } 8 0x58 false 0 0).2.1 3 (.inl (by decide))
  exact absurd hbyte (by decide +kernel)

/-! ### ACQ (R95, R98) -/

/-- A page at another device. -/
def farPage : TlbEntry := ⟨0, 0x40000, 16, .remote ⟨1, 2⟩ 1 0x50000, true, true, false, 4, 0⟩

/-- A member whose register 1 names that page. -/
def farMember : Member := (loadMember .c 0).updStr .c fun q => { q with s := q.s.set 1 0x40000 }

def farCur : Cur := ⟨⟨0, 0, 0⟩, .c, 0x1000000, 0⟩

def farState : State :=
  { State.reset with
    m :=
      { Mach.reset with
        parts := [Part.fresh 0 8 77]
        members := [farMember]
        cores := [⟨0, [farPage], []⟩]
        cur := some farCur } }

/-- Where the request of stream C's word went, as the word keeps it for its withdrawal. -/
def askedAt : Host.Outcome State Fault Refusal → Option Nat
  | .next t => (t.m.member ⟨0, 0, 0⟩).bind fun m => m.c.untimed.map fun u => u.raddr
  | _ => none

/-- Refutes O33: an ACQ at another device keeps the address it asked for its withdrawal (R259), which the statement's word
has as zero. -/
theorem not_objectWordsAcquireAndRelease : ¬ Obligations.ObjectWordsAcquireAndRelease := by
  rintro ⟨h, -⟩
  have hi : Issues (.acqNw (.s 9) (.s 1) .pkg) farState farCur farMember := ⟨rfl, rfl, rfl⟩
  have hremote := (h _ farState farCur farMember .nw (.s 9) (.s 1) .pkg 0 hi (fun _ => rfl) rfl).2.2 (by decide +kernel)
    (by decide +kernel)
  have hword := hremote.2.2.2.2 _ ⟨1, 2⟩ 1 0x50000 16 [] rfl
  have hasked : askedAt (exec (.acqNw (.s 9) (.s 1) .pkg) farState) = some 0x50000 := by decide +kernel
  rw [hword] at hasked
  exact absurd hasked (by decide +kernel)

end Sys2Proof.Machine

/-!
PROOFS. Fences, waits on counters and signals (R101 to R109, R260 to R263).
-/

namespace Sys2Proof.Machine

/-! ### Fences (R101, R104, R260) -/

theorem Ctx.pendingRefusal_none {c : Ctx} {sc : Scope} (h : sc = .pod → c.s.imprecise = []) : c.pendingRefusal sc = none := by
  unfold Ctx.pendingRefusal
  split
  · rfl
  · next r l hr => exact if_neg fun hsc => by simp [h hsc] at hr

theorem Ctx.pendingRefusal_some {c : Ctx} {r : Imprecise} {l : List Imprecise} (h : c.s.imprecise = r :: l) :
    c.pendingRefusal .pod = some (.trapTaking c.M (.refusal c.st r) (impreciseTrap c.raw r)) := by
  simp only [Ctx.pendingRefusal, h, if_true]

/-- The test of what a word at .pod waits for. -/
theorem pod_and_iff {sc : Scope} {b : Bool} : (decide (sc = .pod) && b) = true ↔ sc = .pod ∧ b = true := by simp

theorem not_pod_and {sc : Scope} {b : Bool} (h : sc = .pod → b = false) : ¬(decide (sc = .pod) && b) = true := by
  rw [pod_and_iff]
  rintro ⟨hsc, hb⟩
  simp [h hsc] at hb

/-- Settles O34: by the refusals a fence takes, its release, and what is outstanding. -/
theorem fencesReleaseAndAcquire : Obligations.FencesReleaseAndAcquire := by
  refine ⟨?_, ?_, ?_⟩
  · intro s k m sc i wide hi hn hw c himp R W
    have hend {r : Res} (hr : c.fenceWord sc wide = r) : Ends i s k m r := by
      rcases hw with ⟨rfl, rfl⟩ | ⟨rfl, rfl⟩
      · exact hi.ends_of_wordOut hn rfl (exec_fence ..) hr
      · exact hi.ends_of_wordOut hn rfl (exec_xfence ..) hr
    have hfence : c.fenceWord sc wide =
        if sc = .pod && outstanding W c.mem.ref c.st then .untimed W { c.unt .acknowledged with acquire := some sc }
        else .done (acquire W c.mem.ref sc) := by
      simp only [Ctx.fenceWord, Ctx.pendingRefusal_none himp]
      rfl
    exact ⟨fun hsc ho => hend (hfence.trans (if_pos (pod_and_iff.2 ⟨hsc, ho⟩))),
      fun ho => hend (hfence.trans (if_neg (not_pod_and ho)))⟩
  · intro s k m i r rest hi hn hw himp
    have hfence (wide : Bool) : (k.ctx s.m m).fenceWord .pod wide =
        .trapTaking (k.ctx s.m m).M (.refusal k.st r) (impreciseTrap k.raw r) := by
      simp only [Ctx.fenceWord, Ctx.pendingRefusal_some himp, Cur.ctx_st, Cur.ctx_raw]
    rcases hw with rfl | rfl
    · exact hi.ends_of_wordOut hn rfl (exec_fence ..) (hfence false)
    · exact hi.ends_of_wordOut hn rfl (exec_xfence ..) (hfence true)
  · intro y st r rest i himp
    let y' : Member := { y with raised := [(st, i)], taking := [(st, .refusal st r)] }
    have htake : y'.takeFor st =
        y'.updStr st fun s => { s with imprecise := dropFirst (fun x => x == r) s.imprecise } := by
      simp [Member.takeFor, Member.take, y']
    have hstr : y'.str st = y.str st := by cases st <;> rfl
    rw [htake, Member.str_updStr, hstr, himp]
    exact if_pos (beq_self_eq_true r)

/-! ### Waits and signals (R261 to R263) -/

theorem signalDone_iff {M : Mach} {y : Member} {q : Cmd} {sc : Scope} {num : Nat} (hq : q.run = .signal sc num) :
    signalDone M y q sc num = true ↔
      (sc = .pod → outstandingOf M y.ref q.st (fun n => n ≤ num) = false ∧
        ∀ r ∈ (y.str q.st).imprecise, r.strm = q.st → r.cmd = none → num < r.num) := by
  have hcovers : q.covers y = false ↔
      (sc = .pod → ∀ r ∈ (y.str q.st).imprecise, r.strm = q.st → r.cmd = none → num < r.num) := by
    cases sc <;> simp [Cmd.covers, Cmd.coversPosted, hq]
  rw [signalDone, Bool.and_eq_true, Bool.not_eq_true', Bool.not_eq_true', hcovers]
  by_cases hsc : sc = .pod <;> simp [hsc]

/-- Nothing the stream posted up to a mark is outstanding. -/
theorem outstandingOf_false_iff {M : Mach} {r : MRef} {st : Strm} {num : Nat} :
    outstandingOf M r st (fun n => n ≤ num) = false ↔
      (∀ c ∈ M.conns,
        (∀ u ∈ c.unacked, u.origin.postedBy r st = true → num < u.origin.place) ∧
        (∀ w ∈ c.waiting, w.2.postedBy r st = true → num < w.2.place) ∧
        ∀ z ∈ c.resend, (Origin.arrival z.2).postedBy r st = true → num < (Origin.arrival z.2).place) ∧
      (∀ x, M.member r = some x →
        (∀ v ∈ x.verges, v.started = true → v.st = st → recF v.grid 27 3 = 5 → num < v.num) ∧
        ∀ p ∈ x.reports, p.st = st → recF p.grid 27 3 = 5 → num < p.num) := by
  simp only [outstandingOf, Bool.or_eq_false_iff, List.any_eq_false, Option.any_eq_false, Member.publishing,
    Bool.or_eq_true, not_or, List.any_eq_true, not_exists, Bool.and_eq_true, not_and, decide_eq_true_eq, beq_iff_eq, not_le,
    and_assoc]

theorem timelineOk_of_reached {m : Member} {st : Strm} {tc : BitVec 2} {n : Nat} (h : n ≤ (m.counter tc).2)
    (hr : m.region = none) : timelineOk m st tc.toNat n = true := by
  have hc : m.tc.toList.getD tc.toNat (0, 0) = m.counter tc := by
    rw [Member.counter, List.getD_eq_getElem _ _ (by simpa using tc.isLt), Vector.getElem_toList]
  simp only [timelineOk, hc, hr, h, decide_true, Bool.true_or, Bool.or_true, Bool.and_self]

/-- Settles O35: each word by its condition, and a signal by what is outstanding before it. -/
theorem waitAndSignalWordsComplete : Obligations.WaitAndSignalWordsComplete := by
  refine ⟨?_, ?_, ?_⟩
  · intro s k m x c n
    refine ⟨fun q hi hn => ?_, fun q hi hn => ?_, fun tc hi => ?_⟩
    · have hend := fun r => hi.ends_of_wordOut (r := r) hn (c := c) rfl (exec_waitcGe ..)
      exact ⟨fun h => hend _ (if_pos h), fun h h32 => hend _ ((if_neg (not_lt.2 h32)).trans (if_pos h)),
        fun h h32 => hend _ ((if_neg (not_lt.2 h32)).trans (if_neg (not_le.2 h)))⟩
    · have hend := fun r => hi.ends_of_wordOut (r := r) hn (c := c) rfl (exec_waitcLe ..)
      exact ⟨fun h => hend _ (if_pos h), fun h => hend _ (if_neg (not_le.2 h))⟩
    · have hend := fun r => hi.ends_of_word (r := r) (c := c) rfl (exec_tlwait ..)
      refine ⟨fun h => hend _ (if_pos (by rw [Bool.not_eq_true']; exact h)), fun h => ?_,
        fun hn hr => timelineOk_of_reached hn hr⟩
      have hpass := fun r hr => hend r ((if_neg (by rw [Bool.not_eq_true']; exact ne_false_of_eq_true h)).trans hr)
      intro covered M faults
      refine ⟨fun r hr => hpass _ ?_, fun hr => hpass _ ?_⟩
      · have hr' : c.waitFaults (fun q => q.coveredBy tc.toNat (c.reg x).toNat)
            (coversRefusal c.mem c.st tc.toNat (c.reg x).toNat) [c.st] = some r := hr
        rw [hr']
      · have hr' : c.waitFaults (fun q => q.coveredBy tc.toNat (c.reg x).toNat)
            (coversRefusal c.mem c.st tc.toNat (c.reg x).toNat) [c.st] = none := hr
        have hcov : covered = (decide (c.st = Strm.a) &&
            (c.mem.region.map fun g => g.cmds.any fun r => r.tc == tc.toNat && decide (r.num ≤ n)).getD false) := by
          simp only [covered]
          cases c.mem.region with
          | none => exact (Bool.and_false _).symm
          | some g => rfl
        rw [hr']
        simp only [M, hcov]
        rfl
  · intro s k m d tc sc hi hn c R l
    exact hi.ends_of_wordOut hn (c := c) rfl (exec_tlsig ..) rfl
  · intro M y q sc num hq
    rw [signalDone_iff hq, outstandingOf_false_iff]
    simp only [and_assoc]

end Sys2Proof.Machine

/-!
PROOFS. Barriers, and the words that ask a queue object's home (R31, R115 to R120, R159, R264, R343).
-/

namespace Sys2Proof.Machine

/-! ### BAR (R159, R264) -/

theorem core_lt_num_iff {sc : Scope} (h : sc ≠ .stream) : Scope.core.num < sc.num ↔ sc ≠ .core := by
  cases sc <;> simp_all [Scope.num]

/-- Four checks with one answer are one check. -/
theorem ite_four {α : Type} {A B C D : Prop} [Decidable A] [Decidable B] [Decidable C] [Decidable D] (t x : α) :
    (if A then t else if B then t else if C then t else if D then t else x) = if A ∨ B ∨ C ∨ D then t else x := by
  by_cases A <;> by_cases B <;> by_cases C <;> simp [*]

/-- Settles O37: by the position of the word in its episode. -/
theorem barriersReleaseArriveAndPass : Obligations.BarriersReleaseArriveAndPass := by
  intro s k m sc mask i hi hn c me key b
  have hend := fun r => hi.ends_of_wordOut (r := r) hn (c := c) rfl (exec_bar ..)
  refine ⟨fun hsc => hend _ (if_pos hsc), fun hsc => ⟨fun hp => ?passed, fun hp ha => ?arrived, fun hp ha => ?new⟩⟩
  case passed => exact hend _ ((if_neg hsc).trans (if_pos (List.contains_iff_mem.2 hp)))
  case arrived =>
    exact hend _ ((if_neg hsc).trans ((if_neg (mt List.contains_iff_mem.1 hp)).trans (if_pos (List.contains_iff_mem.2 ha))))
  case new =>
    intro bad
    have hpass := fun r hr => hend r ((if_neg hsc).trans
      ((if_neg (mt List.contains_iff_mem.1 hp)).trans ((if_neg (mt List.contains_iff_mem.1 ha)).trans
        ((ite_four _ _).trans hr))))
    have hbad : (decide (Scope.core.num < sc.num) && decide (c.st ≠ .c)) = true ∨
        (decide (sc = .core) && !bitOf mask.toNat c.st.num) = true ∨
        (decide (sc = .core) && !b.arrived.isEmpty && decide (b.mask ≠ mask.toNat)) = true ∨
        (decide (sc = .pod) && decide (groupOf c.M c.mem.ref = 0)) = true ↔ bad := by
      simp only [Bool.and_eq_true, decide_eq_true_eq, core_lt_num_iff hsc, Bool.not_eq_true', List.isEmpty_eq_false_iff,
        and_assoc]
      rfl
    refine ⟨fun h => hpass _ (if_pos (hbad.2 h)), fun h himp => ?_⟩
    intro R
    have hgo := fun r hr => hpass r ((if_neg (mt hbad.1 h)).trans hr)
    simp only [Ctx.pendingRefusal_none himp] at hgo
    exact ⟨fun hp ho => hgo _ (if_pos (pod_and_iff.2 ⟨hp, ho⟩)), fun ho => hgo _ (if_neg (not_pod_and ho))⟩

/-! ### Queue words (R343) -/

theorem queueOf_ends {i : Instr} {s : State} {k : Cur} {m : Member} {o : Reg} {form : QForm} {q : QArgs}
    {ws : List (Dst × Word)} {r : Res} (hi : Issues i s k m) (hn : NoRegion k m)
    (hq : queueOf i (k.ctx s.m m) = some (o, form, q, ws)) (hr : (k.ctx s.m m).queueWord o form q ws = r) :
    Ends i s k m r := by
  cases i with
  | push d o' lo hi' q' =>
    cases hq
    refine hi.ends_of_wordOut hn rfl (exec_push ..) (Eq.trans ?_ hr)
    rw [pairPayload, Nat.shiftLeft_eq, mul_comm]
  | popN =>
    cases hq
    exact hi.ends_of_wordOut hn rfl (exec_popN ..) hr
  | popW =>
    cases hq
    exact hi.ends_of_wordOut hn rfl (exec_popW ..) hr
  | _ => cases hq -- no queue word

theorem ctlOf_ends {i : Instr} {s : State} {k : Cur} {m : Member} {d : Dst} {o : Reg} {fn : QFn} {r : Res}
    (hi : Issues i s k m) (hn : NoRegion k m) (hq : ctlOf i = some (d, o, fn))
    (hr : (k.ctx s.m m).ctlWord d o fn = r) : Ends i s k m r := by
  cases i with
  | qoctlEn =>
    cases hq
    exact hi.ends_of_wordOut hn rfl (exec_qoctlEn ..) hr
  | qoctlDis =>
    cases hq
    exact hi.ends_of_wordOut hn rfl (exec_qoctlDis ..) hr
  | qoctlCnt =>
    cases hq
    exact hi.ends_of_wordOut hn rfl (exec_qoctlCnt ..) hr
  | _ => cases hq -- no QOCTL

section
variable {c : Ctx} {o : Reg} {form : QForm} {q : QArgs} {ws : List (Dst × Word)}

/-- The word's operation, under a number of its own. -/
def Ctx.queueOp (c : Ctx) (o : Reg) (form : QForm) (q : QArgs) (id : Nat) : QOp :=
  ⟨id, form, c.mem.ref.part, (c.reg o).toNat, c.mem.ref.part, q, .stream c.mem.ref c.st, 0, 0, []⟩

/-- How the word waits for the answer of its operation. -/
def Ctx.queueUnt (c : Ctx) (o : Reg) (ws : List (Dst × Word)) (id : Nat) : Untimed :=
  { c.unt (.queueOp id) with writes := ws, pva := c.reg o, akind := 4 }

theorem Ctx.queueWord_misaligned (h : (c.reg o).toNat % 64 ≠ 0) : c.queueWord o form q ws = .trap (illOpnd c.raw) :=
  if_pos (by rw [Bool.not_eq_true', ← Bool.not_eq_true, aligned_iff]; exact h)

/-- The access of a queue word's form. -/
def queueAccess : QForm → AKind
  | .push _ => .queuePush
  | _ => .queuePop

theorem Ctx.queueWord_error {f : XFault} (h : (c.reg o).toNat % 64 = 0) (hs : c.span (queueAccess form) (c.reg o) 64 = .error f) :
    c.queueWord o form q ws = c.xtrap f (queueAccess form) := by
  have hal := aligned_iff.2 h
  cases form <;> (simp only [queueAccess] at hs; simp only [Ctx.queueWord, hal, hs]; rfl)

/-- A pop leaves for its object's home. -/
theorem Ctx.queueWord_pop {M : Mach} {ts : List (Target × Nat)} (h : (c.reg o).toNat % 64 = 0)
    (hp : ∀ p, form ≠ .push p) (hs : c.span .queuePop (c.reg o) 64 = .ok (M, ts)) :
    c.queueWord o form q ws =
      .untimed (launchOp M.fresh.1 c.mem (c.queueOp o form q M.fresh.2) (c.reg o) .queuePop) (c.queueUnt o ws M.fresh.2) := by
  have hal := aligned_iff.2 h
  cases form with
  | push p => exact absurd rfl (hp p)
  | _ =>
    simp only [Ctx.queueWord, hal, hs]
    rfl

/-- A push leaves after its release. -/
theorem Ctx.queueWord_push {p : BitVec 128} {M : Mach} {ts : List (Target × Nat)} (h : (c.reg o).toNat % 64 = 0)
    (hs : c.span .queuePush (c.reg o) 64 = .ok (M, ts)) :
    c.queueWord o (.push p) q ws =
      match c.pendingRefusal q.scope with
      | some r => r
      | none =>
        let R := release M.fresh.1 c.mem.ref c.st q.scope
        let op := c.queueOp o (.push p) q M.fresh.2
        let u := c.queueUnt o ws M.fresh.2
        if q.scope = .pod && outstanding R c.mem.ref c.st then
          .untimed R { u with needs := .acknowledged, job := .queue op }
        else .untimed (launchOp R c.mem op (c.reg o) .queuePush) u := by
  have hal := aligned_iff.2 h
  simp only [Ctx.queueWord, hal, hs]
  rfl

end

/-- Settles O38: a push after its release and its refusals, a pop at once, QOCTL at the home. -/
theorem queueWordsAskTheHome : Obligations.QueueWordsAskTheHome := by
  intro i s k m hi hn c
  refine ⟨fun o form q ws hq => ?_, fun d o fn hq => ?_⟩
  · have hend (r : Res) (hr : c.queueWord o form q ws = r) : Ends i s k m r := queueOf_ends hi hn hq hr
    have hraw : c.raw = k.raw := rfl
    simp only [Traps, badOperand, ← hraw]
    clear_value c
    refine ⟨fun h => hend _ (Ctx.queueWord_misaligned h), fun h => ?_⟩
    cases form with
    | push p =>
      refine ⟨fun f hf => hend _ ?_, fun M ts hs => ?_⟩
      · exact Ctx.queueWord_error h hf
      · have hgo := fun r hr => hend r ((Ctx.queueWord_push h hs).trans hr)
        refine ⟨fun _ hsc r rest himp => hgo _ ?_, fun himp => ⟨fun _ hsc ho => hgo _ ?_, fun ho => hgo _ ?_⟩⟩
        · rw [hsc, Ctx.pendingRefusal_some himp]
        · rw [Ctx.pendingRefusal_none (himp rfl)]
          exact if_pos (pod_and_iff.2 ⟨hsc, ho⟩)
        · rw [Ctx.pendingRefusal_none (himp rfl)]
          exact if_neg (not_pod_and (ho rfl))
    | _ =>
      refine ⟨fun f hf => hend _ (Ctx.queueWord_error h hf), fun M ts hs => ?_⟩
      exact ⟨fun hp => absurd hp Bool.false_ne_true, fun _ => ⟨fun hp => absurd hp Bool.false_ne_true,
        fun _ => hend _ (Ctx.queueWord_pop h (fun p => by simp) hs)⟩⟩
  · have hend (r : Res) (hr : c.ctlWord d o fn = r) : Ends i s k m r := ctlOf_ends hi hn hq hr
    have hraw : c.raw = k.raw := rfl
    simp only [Traps, badOperand, ← hraw]
    clear_value c
    have hgo := fun (h : (c.reg o).toNat % 64 = 0) r hr =>
      hend r ((if_neg (by rw [aligned_iff.2 h]; decide)).trans hr)
    refine ⟨fun h => hend _ (if_pos (by rw [Bool.not_eq_true', ← Bool.not_eq_true, aligned_iff]; exact h)),
      fun h => ⟨fun f hf => hgo h _ ?_, fun M pa n ts hs hp => ⟨fun cause hx => hgo h _ ?_, fun N v hx => hgo h _ ?_⟩,
        fun M dev p ra n ts hs => ?_⟩⟩
    · rw [show c.span .atomic (c.reg o) 64 = .error f from hf]
      rfl
    · rw [show c.span .atomic (c.reg o) 64 = .ok (M, (.local pa, n) :: ts) from hs]
      simp only [hp, hx]
      rfl
    · rw [show c.span .atomic (c.reg o) 64 = .ok (M, (.local pa, n) :: ts) from hs]
      simp only [hp, hx]
      rfl
    · refine hgo h _ ?_
      rw [show c.span .atomic (c.reg o) 64 = .ok (M, (.remote dev p ra, n) :: ts) from hs]
      rfl

end Sys2Proof.Machine

/-!
PROOFS. Queue objects at their home, and junctions (R113 to R126).
-/

namespace Sys2Proof.Machine

/-! ### Service at the home (R117) -/

section
variable {M : Mach} {op : QOp} {pa : Nat}

/-- The descriptor of an object. -/
def descOf (M : Mach) (pa : Nat) : List Word := wordsOf 8 (M.get pa 64)

/-- The descriptor's frame is the object's. -/
def FoundAt (M : Mach) (op : QOp) (pa : Nat) : Prop :=
  homeSpan M op.part (if op.isPush then .queuePush else .queuePop) op.pva 64 = .ok pa

/-- The object at a home serves the operation (R113, R117). -/
structure Serves (M : Mach) (op : QOp) (pa : Nat) : Prop where
  found : FoundAt M op pa
  clean : M.poisoned pa 64 = false
  frame : descFrame pa = true
  fields : opMatches op (recW (descOf M pa) 0) = true
  enabled : bitOf (recW (descOf M pa) 0) 63 = true

theorem serveHome_error {q : QEnd}
    (h : homeSpan M op.part (if op.isPush then .queuePush else .queuePop) op.pva 64 = .error q) :
    serveHome M op = replyOp M op q := by
  simp only [serveHome, h]

theorem serveHome_poisoned (h : FoundAt M op pa) (hp : M.poisoned pa 64 = true) :
    serveHome M op = replyOp M op (.ecc (pa / 64 * 64)) := by
  simp only [serveHome, show homeSpan _ _ _ _ _ = _ from h, hp, if_true]

theorem serveHome_frame (h : FoundAt M op pa) (hp : M.poisoned pa 64 = false) (hf : descFrame pa = false) :
    serveHome M op = replyOp M op (.trap 0x1D) := by
  simp only [serveHome, show homeSpan _ _ _ _ _ = _ from h, hp, hf, Bool.not_false, Bool.false_eq_true, if_true, if_false]

theorem serveHome_fields (h : FoundAt M op pa) (hp : M.poisoned pa 64 = false) (hf : descFrame pa = true)
    (hm : opMatches op (recW (descOf M pa) 0) = false) : serveHome M op = replyOp M op (.trap 0x1C) := by
  rw [descOf] at hm
  simp only [serveHome, show homeSpan _ _ _ _ _ = _ from h, hp, hf, hm, Bool.not_true, Bool.not_false,
    Bool.false_eq_true, if_true, if_false]

theorem serveHome_disabled (h : FoundAt M op pa) (hp : M.poisoned pa 64 = false) (hf : descFrame pa = true)
    (hm : opMatches op (recW (descOf M pa) 0) = true) (he : bitOf (recW (descOf M pa) 0) 63 = false) :
    serveHome M op = replyOp M op (.status 0 5 0) := by
  rw [descOf] at hm he
  simp only [serveHome, show homeSpan _ _ _ _ _ = _ from h, hp, hf, hm, he, Bool.not_true, Bool.not_false,
    Bool.false_eq_true, if_true, if_false]

theorem Serves.push (h : Serves M op pa) {p : BitVec 128} (hform : op.form = .push p) :
    serveHome M op = homePush M op pa (descOf M pa) p := by
  obtain ⟨hfound, hp, hf, hm, he⟩ := h
  rw [descOf] at hm he
  simp only [serveHome, show homeSpan _ _ _ _ _ = _ from hfound, hp, hf, hm, he, hform, Bool.not_true,
    Bool.false_eq_true, if_false]
  rfl

theorem Serves.pop (h : Serves M op pa) (hform : op.isPush = false) :
    serveHome M op = homePop M op pa ((paDie pa).getD 0) (descOf M pa) := by
  obtain ⟨hfound, hp, hf, hm, he⟩ := h
  rw [descOf] at hm he
  rw [QOp.isPush] at hform
  split at hform
  · cases hform
  · next hno =>
    simp only [serveHome, show homeSpan _ _ _ _ _ = _ from hfound, hp, hf, hm, he, Bool.not_true, Bool.false_eq_true,
      if_false, descOf]

variable {d : List Word} {p : BitVec 128}

theorem homePush_parked {w : Parked} {ws : List Parked} (h : parkedOn M op.part op.pva = w :: ws) :
    homePush M op pa d p =
      replyOp
        (replyOp
          (({ M with parked := M.parked.filter fun x => x.op.id != w.op.id } : Mach).setWord (pa + 24) (w64 (recW d 3 - 1)))
          w.op (.status 0 0 p))
        op (.status 0 0 0) := by
  simp only [homePush, h]

theorem homePush_full (h : parkedOn M op.part op.pva = []) (hn : 2 ^ fld (recW d 0) 24 5 ≤ fld (recW d 2) 0 25) :
    homePush M op pa d p = replyOp M op (.status 0 2 0) := by
  simp only [homePush, h, hn, if_true]

theorem homePush_room {ea : Nat} (h : parkedOn M op.part op.pva = [])
    (hn : fld (recW d 2) 0 25 < 2 ^ fld (recW d 0) 24 5) (he : entryAt M op (descStore d) (fld (recW d 2) 0 25) = .ok ea) :
    homePush M op pa d p =
      replyOp ((M.put ea (leBytes 16 p.toNat)).setWord (pa + 16) (w64 (fld (recW d 2) 0 25 + 1))) op (.status 0 0 0) := by
  simp only [homePush, h, not_le.2 hn, if_false, he]

variable {home : Nat}

/-- A pop that finds an entry (R117). -/
theorem homePop_entry {ek el : Nat} (hn : 0 < fld (recW d 2) 0 25)
    (hk : entryAt M op (descStore d)
        (if fld (recW d 0) 0 1 = 1 then min (fld (recW d 2) 0 25) (2 ^ fld (recW d 0) 24 5) - 1
          else bagChoice (min (fld (recW d 2) 0 25) (2 ^ fld (recW d 0) 24 5))) = .ok ek)
    (hl : entryAt M op (descStore d) (min (fld (recW d 2) 0 25) (2 ^ fld (recW d 0) 24 5) - 1) = .ok el) :
    homePop M op pa home d =
      replyOp
        ((M.put ek (M.get el 16)).setWord (pa + 16) (w64 (min (fld (recW d 2) 0 25) (2 ^ fld (recW d 0) 24 5) - 1)))
        op (.status 0 0 (BitVec.ofNat 128 (leNat (M.get ek 16)))) := by
  have hpos : 0 < min (fld (recW d 2) 0 25) (2 ^ fld (recW d 0) 24 5) := lt_min hn (by positivity)
  simp only [homePop, hpos, if_true, hk, hl]

/-- A pop of an empty object (R117, R118). -/
theorem homePop_none (hn : fld (recW d 2) 0 25 = 0) :
    homePop M op pa home d =
      if op.form = .popN || fld (recW d 0) 32 16 = 0 then replyOp M op (.status 0 1 0)
      else if 1024 ≤ (M.parked.filter fun x => x.die == home).length then replyOp M op (.status 0 4 0)
      else
        ((({ M with parked := M.parked ++ [(⟨op, home, M.wclk + fld (recW d 0) 32 16 * 1024⟩ : Parked)] } : Mach).setWord
          (pa + 24) (w64 (fld (recW d 3) 0 11 + 1))).raise (fld (recW d 0) 32 16 * 1024) (.parkedPopTimeout op.id)) := by
  simp only [homePop, hn, Nat.zero_min, lt_irrefl, if_false]

end

theorem lift_becomes {e : Instr} {s : State} {f : Mach → Mach} {M : Mach} (he : exec e s = s.lift f) (hM : f s.m = M) :
    Becomes e s M := by
  rw [Becomes, he, State.lift, hM]

/-- Settles O39: service at a home by its checks in their order, junctions by what they hold. -/
theorem queueObjectsAndJunctionsServe : Obligations.QueueObjectsAndJunctionsServe := by
  refine ⟨fun s op => ?home, fun s => ⟨?late, ?timeout, ?expiry, ?arrived, ?junction, ?pair, ?missed⟩⟩
  case home =>
    intro e k
    have hend := fun M => lift_becomes (M := M) (exec_queueHomeService op s)
    refine ⟨fun q hq => hend _ (serveHome_error hq), fun pa hpa => ?_⟩
    intro d n cap serves
    have hserves (h : serves) : Serves s.m op pa := ⟨hpa, h.1, h.2.1, h.2.2.1, h.2.2.2⟩
    refine ⟨fun hp => hend _ (serveHome_poisoned hpa hp), fun hp hf => hend _ (serveHome_frame hpa hp hf),
      fun hp hf hm => hend _ (serveHome_fields hpa hp hf hm), fun hp hf hm he => hend _ (serveHome_disabled hpa hp hf hm he),
      fun h p hform => ?push, fun h hform => ?pop⟩
    case push =>
      have hgo := fun M hM => hend M (((hserves h).push hform).trans hM)
      exact ⟨fun w ws hw => hgo _ (homePush_parked hw), fun hw hn => hgo _ (homePush_full hw hn),
        fun hw hn ea he => hgo _ (homePush_room hw hn he)⟩
    case pop =>
      have hgo := fun M hM => hend M (((hserves h).pop hform).trans hM)
      intro held
      refine ⟨fun t hn hd ht => hgo _ (homePop_entry hn ?_ ht), fun a t hn hd ha ht => hgo _ (homePop_entry hn ?_ ht),
        fun hn hw => hgo _ ((homePop_none hn).trans (if_pos (by simpa using hw))), fun hn hform hw => ?_⟩
      · rw [if_pos (show fld (recW (descOf s.m pa) 0) 0 1 = 1 from hd)]
        exact ht
      · rw [if_neg (show ¬fld (recW (descOf s.m pa) 0) 0 1 = 1 from fun h1 => Nat.zero_ne_one (hd.symm.trans h1))]
        exact ha
      · intro home waits
        have hwait := fun M hM => hgo M ((homePop_none hn).trans ((if_neg (by simpa [hform] using hw)).trans hM))
        exact ⟨fun hl => hwait _ (if_pos hl), fun hl => hwait _ (if_neg (not_le.2 hl))⟩
  case late =>
    intro id x hx hd hp
    refine lift_becomes (exec_parkedPopTimeout id s) ?_
    simp only [parkedTimeout, hx, not_lt.2 hd, if_false, hp, if_true]
  case timeout =>
    intro id x hx hd hp M
    have hend {N : Mach} (hN : replyOp (match homeSpan M x.op.part .queuePop x.op.pva 64 with
        | .ok pa => M.setWord (pa + 24) (w64 ((M.word (pa + 24)).toNat - 1))
        | .error _ => M) x.op (.status 0 3 0) = N) : Becomes (.parkedPopTimeout id) s N := by
      refine lift_becomes (exec_parkedPopTimeout id s) (Eq.trans ?_ hN)
      simp only [parkedTimeout, hx, not_lt.2 hd, if_false, hp, Bool.false_eq_true]
      rfl
    exact ⟨fun pa h => hend (by rw [h]), fun f h => hend (by rw [h])⟩
  case expiry =>
    intro id h hh
    refine lift_becomes (exec_holdExpiry id s) ?_
    simp only [releaseHold, hh]
  case arrived =>
    intro op h
    refine lift_becomes (exec_junctionHold op s) ?_
    simp only [holdAt, h]
  case junction =>
    intro op j rest hr
    refine ⟨fun h hh => lift_becomes (exec_junctionHold op s) ?_, fun hh => ?_⟩
    · simp only [holdAt, hr, hh]
    · intro allow
      have hallow : allow = if rest.isEmpty then op.budget else min op.budget (op.window / 4) := by
        cases rest <;> rfl
      have hend {N : Mach} (hN : (if allow = 0 || holdSlots j ≤ heldCount s.m op j then arriveAt s.m { op with route := rest }
          else ({ s.m with held := s.m.held ++ [(⟨op, j, s.m.wclk, allow⟩ : Held)] } : Mach).raise (nsCycles allow)
            (.holdExpiry op.id)) = N) : Becomes (.junctionHold op) s N := by
        refine lift_becomes (exec_junctionHold op s) (Eq.trans ?_ hN)
        simp only [holdAt, hr, hh, hallow]
      exact ⟨fun h => hend (if_pos (by simpa using h)),
        fun h0 hs => hend (if_neg (by simpa [h0] using hs))⟩
  case pair =>
    intro held op h hh
    refine lift_becomes (exec_junctionPair held op s) ?_
    simp only [pairEvent, hh]
  case missed =>
    intro held op hh
    refine lift_becomes (exec_junctionPair held op s) ?_
    simp only [pairEvent, hh]

end Sys2Proof.Machine

/-!
PROOFS. The grid words (R131 to R141, R345 to R347).
-/

namespace Sys2Proof.Machine

section
variable {c : Ctx} {x : Reg} {p : GPos} {e : List Word} {M : Mach} {need : GPos → Bool}
  {f : Mach → GPos → List Word → Res}

/-! ### Positions and their owners (R344) -/

theorem Ctx.withOwner_none (h : c.gridPos x = none) : c.withOwner x need f = .trap (illOpnd c.raw) := by
  simp only [Ctx.withOwner, h]

theorem Ctx.withOwner_unneeded (h : c.gridPos x = some p) (hn : need p = false) :
    c.withOwner x need f = .trap (illOpnd c.raw) := by
  simp only [Ctx.withOwner, h, hn, Bool.not_false, Bool.or_true, if_true]

theorem Ctx.withOwner_read (h : OwnerRead c x p e M) (hn : need p = true) : c.withOwner x need f = f M p e := by
  obtain ⟨hpos, hbelow, N, hread, rfl⟩ := h
  have hown : (decide (gOwners p.g ≤ p.own) || !need p) = false := by
    rw [hn, decide_eq_false (not_le.2 hbelow)]
    rfl
  simp only [Ctx.withOwner, hpos, hown, Bool.false_eq_true, if_false, hread]

theorem Ctx.gridStat_read {d : Dst} {off : GPos → Nat} {pa : Nat} (h : OwnerRead c x p e M) (hn : need p = true)
    (hhere : entHere M c.mem e = true) (hpa : statePa M c.mem .read e = .ok pa)
    (hclean : M.poisoned (pa + off p) 4 = false) :
    c.gridStat x d need off =
      .untimed (dropCopies M c.mem.ref [(.local (pa + off p), 4)])
        { c.unt .ready with writes := [(d, w64 (M.word32 (pa + off p)))] } := by
  rw [Ctx.gridStat, Ctx.withOwner_read h hn]
  simp only [hhere, hpa, hclean, Bool.not_true, Bool.false_eq_true, if_false]
  rfl

/-! ### The milestones a word reads (R141) -/

/-- The milestone words of regions, for a position. -/
def msWords (p : GPos) (pa : Nat) (regs : List Nat) : List (Nat × Nat) :=
  regs.map fun r => (pa + 0x100 + 4 * (27 * (p.ms % (gDepth p.g + 1)) + r), r)

variable {regs : GPos → List Nat} {pa : Nat} {v : MsState × Nat}

theorem HaloRead.checks {v : MsState × Nat} (h : HaloRead c x p e M (regs p) pa v) (hn : need p = true) :
    (c.mem.joinedAs p.g p.own && decide (p.ms < 2 ^ 31) && need p) = true := by
  rw [h.joined, decide_eq_true h.ms, hn]
  rfl

theorem HaloRead.gridCheck_late {r : Nat} (h : HaloRead c x p e M (regs p) pa (.late, r)) (hn : need p = true) :
    c.gridCheck x need regs f = .trap (progTrap 0x17 c.raw (w64 r)) := by
  rw [Ctx.gridCheck, Ctx.withOwner_read h.owner (h.checks hn)]
  simp only [h.state, h.verdict]

theorem HaloRead.gridCheck_stall {r : Nat} (h : HaloRead c x p e M (regs p) pa (.stall, r)) (hn : need p = true) :
    c.gridCheck x need regs f = .waitOn M .grid (.milestone (msWords p pa (regs p)) p.ms (gTimeout p.g)) := by
  rw [Ctx.gridCheck, Ctx.withOwner_read h.owner (h.checks hn)]
  simp only [h.state, h.verdict]
  rfl

theorem HaloRead.gridCheck_accept {r : Nat} (h : HaloRead c x p e M (regs p) pa (.accept, r)) (hn : need p = true) :
    c.gridCheck x need regs f = f (acquire M c.mem.ref (gScope p.g)) p e := by
  rw [Ctx.gridCheck, Ctx.withOwner_read h.owner (h.checks hn)]
  simp only [h.state, h.verdict]

theorem HaloRead.gridCheck_unneeded (h : HaloRead c x p e M (regs p) pa v) (hn : need p = false) :
    c.gridCheck x need regs f = .trap (illOpnd c.raw) :=
  Ctx.withOwner_unneeded h.owner.pos (by rw [hn, Bool.and_false])

/-- The ends of a word that reads halo cells, from what the word is once its milestones are accepted. -/
theorem HaloRead.ends {i : Instr} {s : State} {k : Cur} {m : Member} {next : Prop}
    (h : HaloRead c x p e M (regs p) pa v) (hraw : c.raw = k.raw) (hn : need p = true)
    (hend : ∀ r, c.gridCheck x need regs f = r → Ends i s k m r)
    (hnext : (∀ r, f (acquire M c.mem.ref (gScope p.g)) p e = r → Ends i s k m r) → next) :
    HaloEnds i s k m p M (regs p) pa v next := by
  obtain ⟨st, r⟩ := v
  refine ⟨fun hv => ?_, fun hv => ?_, fun hv => hnext fun r hr => ?_⟩
  · cases hv
    exact hend _ ((h.gridCheck_late hn).trans (by rw [hraw]; rfl))
  · cases hv
    exact hend _ (h.gridCheck_stall hn)
  · cases hv
    exact hend _ ((h.gridCheck_accept hn).trans hr)

end

/-- Settles O40: each grid word by its position, the entry of its owner, and the milestones it reads. -/
theorem gridWordsComplete : Obligations.GridWordsComplete := by
  refine ⟨?gridctl, ?halo, ?hpub⟩
  case gridctl =>
    intro s k m x hn c
    refine ⟨fun hi p e M pa hown hms hreg hj hhere hme hpa => ?join, fun hi p hp => ⟨fun hj => ?leave, fun hj => ?stray⟩,
      fun d hi p e M pa hown hhere hpa hclean => ?stat, fun d j hi p e M pa hown hj hreg hhere hpa => ?statMs,
      fun i hi hp hw => ?bad⟩
    case join =>
      intro pva
      have hneed : (decide (p.ms = 0) && decide (p.reg = 0) && !c.mem.joinedAs p.g p.own) = true := by
        rw [hms, hreg, hj]
        rfl
      refine hi.ends_of_wordOut hn (c := c) rfl (exec_gridctlJoin ..) ((Ctx.withOwner_read hown hneed).trans ?_)
      simp only [hhere, hme, hpa, ne_eq, not_true_eq_false, decide_false, Bool.not_true, Bool.or_self, Bool.false_eq_true,
        if_false]
      rfl
    case leave =>
      refine hi.ends_of_wordOut hn (c := c) rfl (exec_gridctlLeave ..) ?_
      simp only [hp, hj, Bool.not_true, Bool.false_eq_true, if_false]
    case stray =>
      refine hi.ends_of_wordOut hn (c := c) rfl (exec_gridctlLeave ..) ?_
      simp only [hp, hj, Bool.not_false, if_true]
      rfl
    case stat =>
      exact hi.ends_of_wordOut hn (c := c) rfl (exec_gridctlStat ..) (Ctx.gridStat_read hown rfl hhere hpa hclean)
    case statMs =>
      intro a hclean
      have hneed : (decide ((c.reg j).toNat ≤ gDepth p.g) && decide (p.reg < 27)) = true := by
        rw [decide_eq_true hj, decide_eq_true hreg]
        rfl
      have ha : a = pa + (0x100 + 4 * (27 * (c.reg j).toNat + p.reg)) := Nat.add_assoc ..
      rw [ha] at hclean ⊢
      exact hi.ends_of_wordOut hn (c := c) rfl (exec_gridctlStatMs ..) (Ctx.gridStat_read hown hneed hhere hpa hclean)
    case bad =>
      rcases hw with rfl | rfl | ⟨d, rfl⟩ | ⟨d, j, rfl⟩ | rfl | rfl | rfl
      · exact hi.ends_of_wordOut hn (c := c) rfl (exec_gridctlJoin ..) (Ctx.withOwner_none hp)
      · refine hi.ends_of_wordOut hn (c := c) rfl (exec_gridctlLeave ..) ?_
        simp only [hp]
        rfl
      · exact hi.ends_of_wordOut hn (c := c) rfl (exec_gridctlStat ..) (Ctx.withOwner_none hp)
      · exact hi.ends_of_wordOut hn (c := c) rfl (exec_gridctlStatMs ..) (Ctx.withOwner_none hp)
      · exact hi.ends_of_wordOut hn (c := c) rfl (exec_hwait ..) (Ctx.withOwner_none hp)
      · exact hi.ends_of_wordOut hn (c := c) rfl (exec_hwaitAll ..) (Ctx.withOwner_none hp)
      · exact hi.ends_of_wordOut hn (c := c) rfl (exec_hpub ..) (Ctx.withOwner_none hp)
  case halo =>
    intro s k m x p e M regs pa v hn h c A
    refine ⟨fun hi hr hregs => ?hwait, fun hi hr hregs => ?hwaitAll, fun d b slot sz arr hi hr hregs => ?hld,
      fun q b n hi => ?hldQ, fun i hi hw hr => ?noRegion, fun i hi hw hr => ?noReg⟩
    case hwait =>
      subst hregs
      exact h.ends (regs := fun p => [p.reg]) rfl hr
        (fun r hr => hi.ends_of_wordOut hn (c := c) rfl (exec_hwait ..) hr) fun hgo => hgo _ rfl
    case hwaitAll =>
      subst hregs
      exact h.ends (regs := fun p => (List.range 27).filter fun r => regionBytes p.g r ≠ 0) rfl (decide_eq_true hr)
        (fun r hr => hi.ends_of_wordOut hn (c := c) rfl (exec_hwaitAll ..) hr) fun hgo => hgo _ rfl
    case hld =>
      subst hregs
      refine h.ends (regs := fun p => [p.reg]) rfl hr
        (fun r hr => hi.ends_of_wordOut hn (c := c) rfl (exec_hld ..) hr) fun hgo => ?_
      intro o
      cases hv : vergeAt c.mem p e (c.reg b).toNat sz.bytes with
      | ok pva => exact hgo _ (by simp only [hv]; rfl)
      | error t =>
        cases t with
        | none => exact hgo _ (by simp only [hv]; rfl)
        | some ts => exact hgo _ (by simp only [hv]; rfl)
    case hldQ =>
      intro z h1 h32 hr hregs
      subst hregs
      have hneed : (decide (1 ≤ z) && decide (z ≤ 32) && runOk p (c.reg b).toNat 64 (128 * z)) = true := by
        rw [decide_eq_true h1, decide_eq_true h32, hr]
        rfl
      refine h.ends (regs := fun p => [p.reg]) rfl hneed
        (fun r hr => hi.ends_of_wordOut hn (c := c) rfl (exec_hldQ ..) hr) fun hgo => ?_
      simp only [z] at *
      refine ⟨fun pva N hv hq => hgo _ ?_, fun pva r hv hq => hgo _ ?_, fun hv => hgo _ ?_, fun a l ts hv => ⟨fun hq => hgo _ ?_, fun hl hq => hgo _ ?_⟩⟩
      · simp only [hv]
        rw [show c.queueLoad _ q _ _ = _ from hq]
      · simp only [hv]
        rw [show c.queueLoad _ q _ _ = _ from hq]
      · simp only [hv]
        rfl
      · simp only [hv]
        exact if_pos (by simpa using hq)
      · simp only [hv]
        exact if_neg (by simpa [hq] using hl)
    case noRegion =>
      subst hw
      exact hi.ends_of_wordOut hn (c := c) rfl (exec_hwait ..) (Ctx.withOwner_unneeded h.owner.pos (by simp only [hr, Bool.and_false]))
    case noReg =>
      subst hw
      exact hi.ends_of_wordOut hn (c := c) rfl (exec_hwaitAll ..)
        (Ctx.withOwner_unneeded h.owner.pos (by simp only [decide_eq_false hr, Bool.and_false]))
  case hpub =>
    intro s k m x p e M pa hi hn hown hpa c hj hr
    have hneed : (c.mem.joinedAs p.g p.own && decide (p.reg = 0)) = true := by
      rw [hj, decide_eq_true hr]
      rfl
    have hread : OwnerRead c x p e M := hown
    have hstate : statePa M c.mem .engineWrite e = .ok pa := hpa
    have hend := fun r hr => hi.ends_of_wordOut (r := r) hn (c := c) rfl (exec_hpub ..)
      ((Ctx.withOwner_read hread hneed).trans hr)
    have hraw : c.raw = k.raw := rfl
    simp only [hstate] at hend
    simp only [Traps, badOperand, ← hraw]
    clear_value c
    have hstop (h : p.ms ≠ msRank (M.word32 pa) ∨ 2 ^ 31 ≤ p.ms) :
        (decide (p.ms ≠ msRank (M.word32 pa)) || decide (0x7FFFFFFF < p.ms)) = true := by
      rw [Bool.or_eq_true, decide_eq_true_iff, decide_eq_true_iff]
      exact h.imp_right fun h => by omega
    have hpass (h : p.ms = msRank (M.word32 pa)) (h31 : p.ms < 2 ^ 31) :
        ¬(decide (p.ms ≠ msRank (M.word32 pa)) || decide (0x7FFFFFFF < p.ms)) = true := by
      rw [Bool.or_eq_true, decide_eq_true_iff, decide_eq_true_iff]
      rintro (hne | hlt)
      · exact hne h
      · omega
    refine ⟨fun h => hend _ (if_pos (hstop h)), fun h h31 r hr => hend _ ((if_neg (hpass h h31)).trans (by rw [hr])), fun h h31 hr => ?_⟩
    have hgo := fun r hr' => hend r ((if_neg (hpass h h31)).trans hr')
    simp only [hr] at hgo
    refine ⟨fun ⟨w, hw, hlt⟩ => hgo _ (if_pos ?_), fun hall himp => ?_⟩
    · exact List.any_eq_true.2 ⟨w, hw, decide_eq_true hlt⟩
    · have hready : ¬(((receivers p.g p.own).flatMap fun q => q.2.map fun r => (pa + 0x600 + 4 * (26 - r), q.1)).any
          fun w => decide (msRank (M.word32 w.1) < p.ms - gDepth p.g)) = true := by
        rw [List.any_eq_true]
        rintro ⟨w, hw, hlt⟩
        exact absurd (of_decide_eq_true hlt) (not_lt.2 (hall w hw))
      have hpub := fun r hr' => hgo r ((if_neg hready).trans hr')
      have hnone : ({ c with M := M } : Ctx).pendingRefusal (gScope p.g) = none := Ctx.pendingRefusal_none himp
      simp only [hnone] at hpub
      exact ⟨fun hsc ho => hpub _ (if_pos (pod_and_iff.2 ⟨hsc, ho⟩)), fun ho => hpub _ (if_neg (not_pod_and ho))⟩

end Sys2Proof.Machine

/-!
PROOFS. Commands and copy sequences (R102, R332 to R342).
-/

namespace Sys2Proof.Machine

/-! ### Numbers of commands (R102) -/

theorem Mach.member_putMember_ne (M : Mach) (x : Member) {r : MRef} (h : r ≠ x.ref) :
    (M.putMember x).member r = M.member r :=
  find_updIf_other _ _ (fun _ => x)
    (fun y hy => by
      have hy' : y.ref = x.ref := by simpa using hy
      have hne : (x.ref == r) = false := by simpa using h.symm
      exact ⟨hy' ▸ hne, hne⟩)
    M.members

theorem Ctx.issueCmd_of_member {c : Ctx} {M : Mach} {tc : BitVec 2} {run : CmdRun} {y : Member}
    (h : M.member c.mem.ref = some y) :
    c.issueCmd M tc run = (M.putMember (y.takeNumber tc c.st run).1, (y.takeNumber tc c.st run).2) := by
  simp only [Ctx.issueCmd, h]

theorem Member.str_takeNumber (y : Member) (tc : BitVec 2) (p : Strm) (run : CmdRun) (st : Strm) :
    (y.takeNumber tc p run).1.str st = y.str st := by
  cases st <;> rfl

theorem Member.counter_takeNumber (y : Member) (tc : BitVec 2) (p : Strm) (run : CmdRun) (t : BitVec 2) :
    (y.takeNumber tc p run).1.counter t = if t = tc then ((y.counter tc).1 + 1, (y.counter tc).2) else y.counter t := by
  by_cases h : t = tc
  · subst h
    simp [Member.takeNumber, Member.counter]
  · have hne : tc.toNat ≠ t.toNat := fun he => h (BitVec.eq_of_toNat_eq he.symm)
    simp [Member.takeNumber, Member.counter, h, hne]

theorem countOk_iff {n : Nat} : countOk n = true ↔ 1 ≤ n ∧ n < 2 ^ 31 := by
  simp [countOk]

theorem Ctx.window_some {c : Ctx} {x y : Reg}
    (h : -(2 ^ 31) ≤ (c.reg x).toInt ∧ (c.reg x).toInt < 2 ^ 31 ∧ (c.reg y).toNat < 2 ^ 32) :
    c.window x y = some ((c.reg x).toInt, (c.reg y).toNat) :=
  if_pos (by simpa [and_assoc] using h)

theorem Ctx.window_none {c : Ctx} {x y : Reg}
    (h : ¬(-(2 ^ 31) ≤ (c.reg x).toInt ∧ (c.reg x).toInt < 2 ^ 31 ∧ (c.reg y).toNat < 2 ^ 32)) :
    c.window x y = none :=
  if_neg (by simpa [and_assoc] using h)

/-- Settles O41: the shadow's words by their ranges, CPGO by its checks in their order. -/
theorem copyWordsComplete : Obligations.CopyWordsComplete := by
  refine ⟨?number, ?shadow, ?launch⟩
  case number =>
    intro c M tc run y hy l n
    have href := Mach.member_ref hy
    have hl : l = _ := Ctx.issueCmd_of_member hy
    have hz : l.1.member c.mem.ref = some (y.takeNumber tc c.st run).1 := by
      rw [hl]
      exact Mach.member_putMember hy href
    refine ⟨by rw [hl, ← href]; rfl, by rw [hl]; rfl, fun r hr => ?_, _, hz, ?_, fun t ht => ?_, ⟨_, rfl, ?_, rfl, rfl, rfl, rfl, rfl⟩, rfl, rfl,
      fun st => Member.str_takeNumber ..⟩
    · rw [hl]
      exact Mach.member_putMember_ne M _ (by rw [← href] at hr; exact hr)
    · rw [Member.counter_takeNumber, if_pos rfl]
    · rw [Member.counter_takeNumber, if_neg ht]
    · rw [hl]
      rfl
  case shadow =>
    intro s k m c shadow level inWindow passes
    refine ⟨fun lv n hi => ⟨fun h => ?_, fun h => ?_⟩, fun hi => hi.ends_of_word rfl (exec_cpseqClr ..) rfl,
      fun x hi => hi.ends_of_word rfl (exec_cpsrcBase ..) rfl, fun x hi => hi.ends_of_word rfl (exec_cpdstBase ..) rfl,
      fun x hi => hi.ends_of_word rfl (exec_cpdstBaseTile ..) rfl, fun lv x hi => hi.ends_of_word rfl (exec_cpsrcStride ..) rfl,
      fun lv x hi => hi.ends_of_word rfl (exec_cpdstStride ..) rfl, fun lv x y hi => ⟨fun h => ?_, fun h => ?_⟩,
      fun lv x y hi => ⟨fun h => ?_, fun h => ?_⟩, fun lv list n hi => ?_,
      fun hi => hi.ends_of_word rfl (exec_cpidxOff ..) rfl, fun x hi => ⟨fun h => ?_, fun h => ?_⟩⟩
    · refine hi.ends_of_word (c := c) rfl (exec_cpseq ..) ?_
      have hn : c.count n = passes n := by cases n <;> rfl
      rw [hn, if_pos (countOk_iff.2 h)]
      rfl
    · refine hi.ends_of_word (c := c) rfl (exec_cpseq ..) ?_
      have hn : c.count n = passes n := by cases n <;> rfl
      rw [hn, if_neg (mt countOk_iff.1 h)]
      rfl
    · refine hi.ends_of_word (c := c) rfl (exec_cpsrcWin ..) ?_
      rw [Ctx.window_some h]
      rfl
    · refine hi.ends_of_word (c := c) rfl (exec_cpsrcWin ..) ?_
      rw [Ctx.window_none h]
      rfl
    · refine hi.ends_of_word (c := c) rfl (exec_cpdstWin ..) ?_
      rw [Ctx.window_some h]
      rfl
    · refine hi.ends_of_word (c := c) rfl (exec_cpdstWin ..) ?_
      rw [Ctx.window_none h]
      rfl
    · intro ok
      have hok : (!aligned (c.reg list) 32 || !countOk (c.reg n).toNat) = true ↔ ¬ok := by
        rw [Bool.or_eq_true, Bool.not_eq_true', Bool.not_eq_true', ← Bool.not_eq_true, ← Bool.not_eq_true, aligned_iff,
          countOk_iff, ← not_and_or]
      exact ⟨fun h => hi.ends_of_word (c := c) rfl (exec_cpidx ..) (if_neg fun hb => hok.1 hb h),
        fun h => hi.ends_of_word (c := c) rfl (exec_cpidx ..) (if_pos (hok.2 h))⟩
    · exact hi.ends_of_word (c := c) rfl (exec_cpswz ..) (if_pos h)
    · exact hi.ends_of_word (c := c) rfl (exec_cpswz ..) (if_neg (by rw [h]; decide))
  case launch =>
    intro s k m d tc c z
    refine ⟨fun esz sc hi => ?_, fun x hi => hi.ends_of_word rfl (exec_cpstat ..) rfl,
      fun x hi => hi.ends_of_word rfl (exec_lkstat ..) rfl⟩
    intro i
    have hend := fun r => hi.ends_of_word (r := r) (c := c) rfl (exec_cpgo ..)
    have hraw : c.raw = k.raw := rfl
    have hopen (h : NoRegion k m ∨ z.gather ≠ none) : ¬(c.inRegion && z.gather.isNone) = true := by
      rcases h with h | h
      · rw [show c.inRegion = false from h.inRegion_ctx s.m, Bool.false_and]
        decide
      · rw [Option.isNone_eq_false_iff.2 (Option.isSome_iff_ne_none.2 h), Bool.and_false]
        decide
    have hshut (hst : k.st = .a) (hr : c.mem.region ≠ none) (hg : z.gather = none) :
        (c.inRegion && z.gather.isNone) = true := by
      have hin : c.inRegion = true := Bool.and_eq_true_iff.2 ⟨beq_iff_eq.2 hst, Option.isSome_iff_ne_none.2 hr⟩
      rw [hin, hg]
      rfl
    simp only [Traps, badOperand, ← hraw]
    clear_value c
    refine ⟨fun hst hr hg => hend _ (if_pos (hshut hst hr hg)), fun h => ?_⟩
    have hpass := fun r hr => hend r ((if_neg (hopen h)).trans hr)
    refine ⟨fun hm => hpass _ (if_pos hm), fun hm => ?_⟩
    have hgo := fun r hr => hpass r ((if_neg (by rw [hm]; decide)).trans hr)
    refine ⟨fun he => ?_, fun e he => ⟨fun ht => ?_, fun ht himp => ?_⟩⟩
    · simp only [he] at hgo
      exact hgo _ rfl
    · simp only [he] at hgo
      exact hgo _ (if_neg (by rw [ht]; decide))
    · simp only [he] at hgo
      have htile := fun r hr => hgo r ((if_pos ht).trans hr)
      simp only [Ctx.pendingRefusal_none himp] at htile
      exact ⟨fun hsc ho => htile _ (if_pos (pod_and_iff.2 ⟨hsc, ho⟩)), fun ho => htile _ (if_neg (not_pod_and ho))⟩

end Sys2Proof.Machine

/-!
PROOFS. Queue loads and tile transfers (R152, R155, R325 to R331).
-/

namespace Sys2Proof.Machine

/-! ### Operand checks -/

theorem not_aligned_iff {w : Word} {n : Nat} : (!aligned w n) = true ↔ w.toNat % n ≠ 0 := by
  rw [Bool.not_eq_true', ← Bool.not_eq_true, aligned_iff]

/-- Rows that find no room in their queue, or come after words that waited for it before (R155). -/
theorem Ctx.queueLoad_held {c : Ctx} {M : Mach} {q : BitVec 3} {n : Nat} {rows : List (Option Int)}
    (h : 32 < (c.mem.queue q).length + n ∨ c.mustQueue (.queueRoom q.toNat n) = true) :
    c.queueLoad M q n rows = .error (.wait .queue (.queueRoom q.toNat n)) :=
  if_pos (by rwa [Bool.or_eq_true, decide_eq_true_iff])

theorem Ctx.queueLoad_error {c : Ctx} {M : Mach} {q : BitVec 3} {n : Nat} {rows : List (Option Int)} {r : Res}
    (h : ¬(32 < (c.mem.queue q).length + n ∨ c.mustQueue (.queueRoom q.toNat n) = true))
    (hr : c.rowSpans M rows = .error r) : c.queueLoad M q n rows = .error r := by
  rw [Ctx.queueLoad, if_neg (by rwa [Bool.or_eq_true, decide_eq_true_iff]), hr]

theorem Ctx.queueLoad_ok {c : Ctx} {M N : Mach} {q : BitVec 3} {n : Nat} {rows : List (Option Int)}
    {ts : List (Option (List (Target × Nat)))}
    (h : ¬(32 < (c.mem.queue q).length + n ∨ c.mustQueue (.queueRoom q.toNat n) = true))
    (hr : c.rowSpans M rows = .ok (N, ts)) : c.queueLoad M q n rows = .ok (pushRows N c.mem c.s q ts) := by
  rw [Ctx.queueLoad, if_neg (by rwa [Bool.or_eq_true, decide_eq_true_iff]), hr]

/-- What the store buffer has no room for waits to enter it, with the core frozen (R152). -/
theorem enterStores_member {M : Mach} {r : MRef} {st : Strm} {y : Member} (h : M.member r = some y) :
    ∃ z, (enterStores M r st).member r = some z ∧ (z.str st).sb = (y.str st).sb.take 8 ∧
      (z.str st).entering = (y.str st).sb.drop 8 ∧
      z.freeze = (if 8 < (y.str st).sb.length then .store st else y.freeze) ∧ z.tiles = y.tiles := by
  let f (m : Member) : Member := m.updStr st fun s => { s with sb := s.sb.take 8, entering := s.sb.drop 8 }
  have hf (m : Member) : (f m).str st = { m.str st with sb := (m.str st).sb.take 8, entering := (m.str st).sb.drop 8 } :=
    Member.str_updStr ..
  let g (m : Member) : Member := if ((f m).str st).entering.isEmpty then f m else { f m with freeze := .store st }
  have hg : (enterStores M r st).member r = some (g y) := by
    rw [enterStores, Mach.member_updMember M r g, h]
    · rfl
    · intro x hx
      simp only [g]
      split <;> (simp only [f, Member.updStr_ref]; exact hx)
  have hempty : ((f y).str st).entering.isEmpty = true ↔ ¬8 < (y.str st).sb.length := by
    rw [hf]
    simp
  refine ⟨g y, hg, ?_⟩
  by_cases hlen : 8 < (y.str st).sb.length
  · have hgy : g y = { f y with freeze := .store st } := if_neg fun h => hempty.1 h hlen
    have hs : (g y).str st = (f y).str st := by rw [hgy]; cases st <;> rfl
    rw [hs, hf, hgy, if_pos hlen]
    exact ⟨rfl, rfl, rfl, by cases st <;> rfl⟩
  · have hgy : g y = f y := if_pos (hempty.2 hlen)
    rw [hgy, hf, if_neg hlen]
    exact ⟨rfl, rfl, by cases st <;> rfl, by cases st <;> rfl⟩

/-! ### The statement -/

/-- Settles O42: each word by its operand checks, its waits, and what it launches. -/
theorem rowAndTileTransfersComplete : Obligations.RowAndTileTransfersComplete := by
  refine ⟨?rows, ?tiles, fun M r st y h => enterStores_member h⟩
  case rows =>
    intro s k m q c
    refine ⟨fun b stride n hi => ?qld, fun b stride list n hi => ?qldx, fun hi hn => ?qflush⟩
    case qld =>
      intro i z rows bad
      have hend := fun r => hi.ends_of_word (r := r) (c := c) rfl (exec_qld ..)
      have hbad : (!aligned (c.reg b) 64 || !aligned (c.reg stride) 64 || z = 0 || 32 < z) = true ↔ bad := by
        simp only [Bool.or_eq_true, not_aligned_iff, decide_eq_true_iff, or_assoc, bad]
      have hraw : c.raw = k.raw := rfl
      simp only [Traps, badOperand, ← hraw]
      clear_value c
      have hpass := fun (h : ¬bad) r hr => hend r ((if_neg (mt hbad.1 h)).trans hr)
      refine ⟨fun h => hend _ (if_pos (hbad.2 h)), fun h hheld => ?_, fun h hheld M ts hr => ?_, fun h hheld r hr => ?_⟩
      · refine hpass h _ ?_
        rw [Ctx.queueLoad_held hheld]
      · refine hpass h _ ?_
        rw [Ctx.queueLoad_ok hheld hr]
      · refine hpass h _ ?_
        rw [Ctx.queueLoad_error hheld hr]
    case qldx =>
      intro i z bad
      have hend := fun r => hi.ends_of_word (r := r) (c := c) rfl (exec_qldx ..)
      have hbad : (!aligned (c.reg b) 64 || !aligned (c.reg stride) 64 || !aligned (c.reg list) 4 || z = 0 || 32 < z) = true ↔
          bad := by
        simp only [Bool.or_eq_true, not_aligned_iff, decide_eq_true_iff, or_assoc, bad]
      have hraw : c.raw = k.raw := rfl
      simp only [Traps, badOperand, ← hraw]
      clear_value c
      have hpass := fun (h : ¬bad) r hr => hend r ((if_neg (mt hbad.1 h)).trans hr)
      refine ⟨fun h => hend _ (if_pos (hbad.2 h)), fun h M hr => ?_, fun h f hr => ?_, fun h pa hr => ?_, fun h M bs hr => ?_⟩
      all_goals
        replace hpass := hpass h
        simp only [hr, z] at hpass
      · exact hpass _ rfl
      · exact hpass _ rfl
      · exact hpass _ rfl
      · refine ⟨fun hheld => hpass _ ?_, fun hheld N ts ht => hpass _ ?_, fun hheld r ht => hpass _ ?_⟩
        · rw [Ctx.queueLoad_held hheld]
        · rw [Ctx.queueLoad_ok hheld ht]
          rfl
        · rw [Ctx.queueLoad_error hheld ht]
    case qflush => exact hi.ends_of_wordOut hn rfl (exec_qflush ..) rfl
  case tiles =>
    intro s k m c H
    refine ⟨fun tc d src g n hi => ?tget, fun tc d src geom cs hi hn => ?bld, fun sc kind ta g n ck cx hi hn => ?tsend,
      fun d r n stride ck cx hi hn => ?tsto⟩
    case tget =>
      intro z bad
      have hend := fun r => hi.ends_of_word (r := r) (c := c) rfl (exec_tget ..)
      have hbad : (!aligned (c.reg src) 64 || z = 0 || 128 < z || (c.mem.sectorRun (c.reg g).toNat z).isNone) = true ↔ bad := by
        simp only [Bool.or_eq_true, not_aligned_iff, decide_eq_true_iff, Option.isNone_iff_eq_none, or_assoc, bad]
      have hraw : c.raw = k.raw := rfl
      simp only [Traps, badOperand, ← hraw]
      clear_value c
      exact ⟨fun h => hend _ (if_pos (hbad.2 h)), fun h => hend _ (if_neg (mt hbad.1 h))⟩
    case bld =>
      intro w col n off len bad
      have hend := fun r => hi.ends_of_wordOut (r := r) hn (c := c) rfl (exec_bld ..)
      have hfield (lo len : Nat) : wf (c.reg geom) lo len = w / 2 ^ lo % 2 ^ len := wf_eq_div_mod ..
      have htop : wf (c.reg geom) 47 17 = w / 2 ^ 47 := by
        have hlt : w / 2 ^ 47 < 2 ^ 17 := Nat.div_lt_of_lt_mul (c.reg geom).isLt
        rw [hfield, Nat.mod_eq_of_lt hlt]
      have hcol : wf (c.reg geom) 0 8 = w % 2 ^ 8 := by rw [hfield, pow_zero, Nat.div_one]
      have hraw : c.raw = k.raw := rfl
      simp only [Traps, badOperand, ← hraw]
      clear_value c
      simp only [htop, hcol, hfield] at hend
      have hbad : (!aligned (c.reg src) 64 || !aligned (c.reg cs) 64 || w / 2 ^ 47 ≠ 0 || w / 2 ^ 30 % 2 ^ 2 ≠ 0 ||
          128 < col + n || 16384 < off + len || len = 0 || len % 64 ≠ 0 || off % 64 ≠ 0) = true ↔ bad := by
        simp only [Bool.or_eq_true, not_aligned_iff, decide_eq_true_iff, or_assoc, bad, Nat.reducePow]
      exact ⟨fun h => hend _ (if_pos (hbad.2 h)), fun h => hend _ (if_neg (mt hbad.1 h))⟩
    case tsend =>
      intro i w z bad
      have hend := fun r => hi.ends_of_wordOut (r := r) hn (c := c) rfl (exec_tsend ..)
      have hraw : c.raw = k.raw := rfl
      simp only [Traps, badOperand, ← hraw]
      clear_value c
      have hcol : wf w 0 7 = w.toNat % 128 := by rw [wf_eq_div_mod, pow_zero, Nat.div_one]; rfl
      have hbad {t s0 : Nat} (ht : c.mem.sectorRun (c.reg g).toNat z = some (t, s0)) :
          (!taddrOk w || z = 0 || 128 < z || 128 < wf w 0 7 + z) = true ↔ bad := by
        simp only [Bool.or_eq_true, Bool.not_eq_true', decide_eq_true_iff, or_assoc, bad, ht, hcol, reduceCtorEq, false_or]
      refine ⟨fun h => ?_, fun h t s0 r ht hr => ?_, fun h t s0 M ht hr himp => ?_⟩
      · cases ht : c.mem.sectorRun (c.reg g).toNat z with
        | none => simp only [z] at ht; simp only [ht] at hend; exact hend _ rfl
        | some x =>
          have hb := (hbad ht).2 h
          simp only [z] at ht
          simp only [ht] at hend
          exact hend _ (if_pos hb)
      · have hb := mt (hbad ht).1 h
        simp only [z] at ht
        simp only [ht] at hend
        refine hend _ ((if_neg hb).trans ?_)
        rw [hr]
      · have hb := mt (hbad ht).1 h
        simp only [z] at ht
        simp only [ht] at hend
        have hgo := fun r hr => hend r ((if_neg hb).trans hr)
        simp only [hr, Ctx.pendingRefusal_none himp] at hgo
        exact ⟨fun hsc ho => hgo _ (if_pos (pod_and_iff.2 ⟨hsc, ho⟩)), fun ho => hgo _ (if_neg (not_pod_and ho))⟩
    case tsto =>
      intro i z bad rows
      have hend := fun r => hi.ends_of_wordOut (r := r) hn (c := c) rfl (exec_tsto ..)
      have hraw : c.raw = k.raw := rfl
      simp only [Traps, badOperand, ← hraw]
      clear_value c
      have hbad {t r0 : Nat} (ht : c.mem.rowRun (c.reg r).toNat z = some (t, r0)) :
          (!aligned (c.reg d) 64 || !aligned (c.reg stride) 64 || z = 0 || 64 < z) = true ↔ bad := by
        simp only [Bool.or_eq_true, not_aligned_iff, decide_eq_true_iff, or_assoc, bad, ht, reduceCtorEq, false_or]
      refine ⟨fun h => ?_, fun h t r0 e ht hr => ?_, fun h t r0 M e ht hr hd => ?_, fun h t r0 M N spans ht hr hd => ?_⟩
      · cases ht : c.mem.rowRun (c.reg r).toNat z with
        | none => simp only [z] at ht; simp only [ht] at hend; exact hend _ rfl
        | some x =>
          have hb := (hbad ht).2 h
          simp only [z] at ht
          simp only [ht] at hend
          exact hend _ (if_pos hb)
      all_goals
        have hb := mt (hbad ht).1 h
        simp only [z] at ht
        simp only [ht] at hend
        replace hend := fun r hr => hend r ((if_neg hb).trans hr)
        simp only [hr] at hend
      · exact hend _ rfl
      all_goals
        simp only [rows, z] at hd
        simp only [hd] at hend
        exact hend _ rfl

end Sys2Proof.Machine

/-!
PROOFS. The vector words (R36, R172, R267 to R289): the hold of the unit, the tag check, and the element functions.
-/

namespace Sys2Proof.Machine

/-! ### Runs, the hold and the check (R267 to R270) -/

theorem Ctx.vrows_some {c : Ctx} {a : BitVec 12} {n : Nat} (hn : a.toNat % 64 + n ≤ 64)
    (ht : c.s.vwin.toNat % 8 * 64 + a.toNat / 64 < c.mem.tilesN) :
    c.vrows a n = some (c.s.vwin.toNat % 8 * 64 + a.toNat / 64, a.toNat % 64) := by
  have hw : wf c.s.vwin 0 3 = c.s.vwin.toNat % 8 := by rw [wf_eq_div_mod, pow_zero, Nat.div_one]; rfl
  rw [Ctx.vrows, hw, if_neg]
  rw [Bool.or_eq_true, decide_eq_true_iff, decide_eq_true_iff]
  omega

theorem Ctx.vrows_none {c : Ctx} {a : BitVec 12} {n : Nat}
    (h : 64 < a.toNat % 64 + n ∨ c.mem.tilesN ≤ c.s.vwin.toNat % 8 * 64 + a.toNat / 64) : c.vrows a n = none := by
  have hw : wf c.s.vwin 0 3 = c.s.vwin.toNat % 8 := by rw [wf_eq_div_mod, pow_zero, Nat.div_one]; rfl
  rw [Ctx.vrows, hw, if_pos]
  rwa [Bool.or_eq_true, decide_eq_true_iff, decide_eq_true_iff]

/-- The check of tiles of which none is poisoned and one is not to be read. -/
theorem Ctx.tileCheck_waits {c : Ctx} {ts : List Nat} (hp : ∀ t ∈ ts, (c.mem.tile t).tag ≠ .poisoned)
    (h : ∃ t ∈ ts, c.mem.readable t = false) : c.tileCheck ts = some (.wait .tag (.tagsFull ts)) := by
  have hf : (ts.find? fun t => (c.mem.tile t).tag == .poisoned) = none :=
    List.find?_eq_none.2 fun t ht => by simpa using hp t ht
  obtain ⟨t, ht, hr⟩ := h
  have hall : ¬ts.all c.mem.readable = true := fun ha => by
    rw [List.all_eq_true.1 ha t ht] at hr
    cases hr
  rw [Ctx.tileCheck, hf]
  exact if_neg hall

theorem Ctx.tileCheck_poison {c : Ctx} {ts : List Nat} (h : ∃ t ∈ ts, (c.mem.tile t).tag = .poisoned) :
    ∃ t ∈ ts, (c.mem.tile t).tag = .poisoned ∧ c.tileCheck ts = some (.trap (tagPoison c.raw t (c.mem.tile t).pcause)) := by
  have hs : (ts.find? fun t => (c.mem.tile t).tag == .poisoned).isSome := by
    rw [List.find?_isSome]
    exact h.imp fun t ht => ⟨ht.1, beq_iff_eq.2 ht.2⟩
  obtain ⟨t, hf⟩ := Option.isSome_iff_exists.1 hs
  refine ⟨t, List.mem_of_find?_eq_some hf, ?_, by rw [Ctx.tileCheck, hf]⟩
  simpa using List.find?_some hf

theorem Ctx.tileCheck_ready {c : Ctx} {ts : List Nat} (h : ∀ t ∈ ts, c.mem.readable t = true) : c.tileCheck ts = none := by
  have hf : (ts.find? fun t => (c.mem.tile t).tag == .poisoned) = none :=
    List.find?_eq_none.2 fun t ht => by
      have hfull : (c.mem.tile t).tag = .full := by simpa using (Bool.and_eq_true_iff.1 (h t ht)).1
      rw [hfull]
      decide
  rw [Ctx.tileCheck, hf]
  exact if_pos (List.all_eq_true.2 h)

theorem Ctx.vHeld_false {c : Ctx} (h : c.mem.vbusy ≤ c.t + c.mem.skew) : ¬c.vHeld = true :=
  fun hb => absurd (of_decide_eq_true hb) (not_lt.2 h)

theorem Ctx.vec_ready {c : Ctx} {u : VUse} {eff : Mach → Mach} (h : VectorReady c u) : c.vec u eff = vectorEnd c u eff := by
  rw [Ctx.vec, if_neg (Ctx.vHeld_false h.1), Ctx.tileCheck_ready h.2]
  rfl

/-- A vector word with its operands in range: held, or done. -/
theorem Issues.vector {i : Instr} {f : Ctx → Res} {s : State} {k : Cur} {m : Member} {c : Ctx} {u : VUse} {eff : Mach → Mach}
    (hi : Issues i s k m) (hc : k.ctx s.m m = c) (hx : exec i s = word i f s) (hf : f c = c.vec u eff) :
    VectorHeld i s k m u ∧ (VectorReady c u → Ends i s k m (vectorEnd c u eff)) := by
  have hend := fun r (hr : c.vec u eff = r) => hi.ends_of_word hc hx (hf.trans hr)
  have hraw : c.raw = k.raw := by rw [← hc]; rfl
  rw [VectorHeld, hc]
  refine ⟨⟨fun h => hend _ (if_pos (decide_eq_true h)), fun h hp hr => hend _ ?_, fun h hp => ?_⟩, fun h => hend _ (Ctx.vec_ready h)⟩
  · rw [Ctx.vec, if_neg (Ctx.vHeld_false h), Ctx.tileCheck_waits hp hr]
  · obtain ⟨t, ht, htag, hk⟩ := Ctx.tileCheck_poison hp
    refine ⟨t, ht, htag, hend _ ?_⟩
    rw [Ctx.vec, if_neg (Ctx.vHeld_false h), hk, hraw, tagPoison, Nat.shiftLeft_eq]
    rfl

/-! ### The element functions (R274 to R287) -/

theorem vShl_eq (t : VType) (sat : Bool) (x y : Nat) :
    vShl t sat x y =
      if sat then unsgn (vBits t) (satS (vBits t) (vInt t x * 2 ^ min y (vBits t)))
      else if vBits t ≤ y then 0 else x * 2 ^ y % 2 ^ vBits t := by
  simp [vShl, Nat.shiftLeft_eq]

theorem vShr_eq (t : VType) (x y : Nat) : vShr t x y = if vBits t ≤ y then 0 else x / 2 ^ y := by
  rw [vShr, Nat.shiftRight_eq_div_pow]

theorem vSar_eq (t : VType) (x y : Nat) : vSar t x y = unsgn (vBits t) (vInt t x / 2 ^ min y (vBits t)) := by
  rw [vSar, Int.shiftRight_eq_div_pow]
  push_cast
  rfl

theorem fIsNan_iff {f : FFmt} {x : Nat} : fIsNan f x = true ↔ fDec f x = .nan := beq_iff_eq

theorem fCmp_eq (f : FFmt) (x y : Nat) :
    fCmp f x y = if fDec f x = .nan ∨ fDec f y = .nan then none else some (fCmpV (fDec f x) (fDec f y)) := by
  simp only [fCmp, Bool.or_eq_true, fIsNan_iff]

/-- The code of a comparison's answer, in every element type: all ones, zero, one, and two for an unordered pair. -/
theorem unsgn_ordering (t : VType) (o : Option Ordering) :
    unsgn (vBits t) (match o with
      | some .lt => -1
      | some .eq => 0
      | some .gt => 1
      | none => 2) =
      if o = some .lt then 2 ^ vBits t - 1 else if o = some .eq then 0 else if o = some .gt then 1 else 2 := by
  rcases o with _ | _ | _ | _ <;> cases t <;> decide

theorem vCmp_eq (t : VType) (x y : Nat) :
    vCmp t x y =
      let o : Option Ordering :=
        if t.isI then some (compare (vInt t x) (vInt t y))
        else if t.isN then some (compare (rnVal x) (rnVal y))
        else if fDec (vFmt t) x = .nan ∨ fDec (vFmt t) y = .nan then none
        else some (fCmpV (fDec (vFmt t) x) (fDec (vFmt t) y))
      if o = some .lt then 2 ^ vBits t - 1 else if o = some .eq then 0 else if o = some .gt then 1 else 2 := by
  rw [vCmp, fCmp_eq]
  exact unsgn_ordering ..

theorem fAbsC_eq (f : FFmt) (x : Nat) : fAbsC f x = if fDec f x = .nan then f.nan else x % f.sign := by
  simp only [fAbsC, fIsNan_iff]

theorem fNegC_eq (f : FFmt) (x : Nat) :
    fNegC f x = if fDec f x = .nan then f.nan else if x < f.sign then x + f.sign else x - f.sign := by
  simp only [fNegC, fIsNan_iff]

/-! ### The words by their element functions -/

theorem exec_of_elementOf {i : Instr} {v : VArgs3} {old : Bool} {f : Nat → Nat → Nat → Nat} {s : State}
    (h : elementOf i = some (v, old, f)) : exec i s = word i (fun c => c.vB v old f) s := by
  unfold elementOf at h
  split at h
  all_goals cases h
  case h_1 => rfl
  case h_2 => rfl
  case h_3 => rfl
  case h_4 => rfl
  case h_5 => rfl
  case h_6 => rfl
  case h_7 => rfl
  case h_8 => rfl
  case h_9 => rfl
  case h_10 => rfl
  case h_11 => simp only [exec_vshl, execVshl, vShl_eq]
  case h_12 => simp only [exec_vshr, execVshr, vShr_eq]
  case h_13 => simp only [exec_vsar, execVsar, vSar_eq]
  case h_14 => simp only [exec_vcmp, execVcmp, vCmp_eq]
  case h_15 => rfl
  case h_16 => rfl

theorem exec_of_runOf {i : Instr} {v : VArgs2} {f : List Nat → List Nat} {s : State}
    (h : runOf i = some (v, f)) : exec i s = word i (fun c => c.vU v f) s := by
  unfold runOf at h
  split at h
  all_goals cases h
  case h_1 => simp only [exec_vabs, execVabs, vArith, fAbsC_eq]; rfl
  case h_2 => simp only [exec_vneg, execVneg, vArith, fNegC_eq]; rfl
  case h_3 => rfl
  case h_4 => rfl
  case h_5 => rfl
  case h_6 => rfl
  case h_7 => rfl
  case h_8 => rfl
  case h_9 => rfl
  case h_10 => rfl
  case h_11 => rfl
  case h_12 => rfl

theorem exec_of_conversionOf {i : Instr} {c : Ctx} {v : VArgs2} {src : VType} {f : Nat → Nat}
    (h : conversionOf i c = some (v, src, f)) : ∃ g, (∀ s, exec i s = word i g s) ∧ g c = c.vConv v src f := by
  unfold conversionOf at h
  split at h
  all_goals cases h
  case h_1 => exact ⟨_, fun s => exec_vcvt .., rfl⟩
  case h_2 => exact ⟨_, fun s => exec_vqnt .., rfl⟩
  case h_3 => exact ⟨_, fun s => exec_vdqn .., rfl⟩

theorem exec_of_constantOf {i : Instr} {c : Ctx} {a : BitVec 12} {run : BitVec 3} {ty : VType} {f : Nat → Nat}
    (h : constantOf i c = some (a, run, ty, f)) : ∃ g, (∀ s, exec i s = word i g s) ∧ g c = c.vZ a run ty f := by
  unfold constantOf at h
  split at h
  all_goals cases h
  case h_1 => exact ⟨_, fun s => exec_vbcst .., rfl⟩
  case h_2 => exact ⟨_, fun s => exec_vmask .., rfl⟩
  case h_3 => exact ⟨_, fun s => exec_vidx .., rfl⟩
  case h_4 => exact ⟨_, fun s => exec_vzero .., rfl⟩

theorem exec_of_reductionOf {i : Instr} {v : VRed} {y : Option (BitVec 12)} {f : List Nat → List Nat → Word} {s : State}
    (h : reductionOf i = some (v, y, f)) : exec i s = word i (fun c => c.vReduce v y f) s := by
  unfold reductionOf at h
  split at h
  all_goals cases h
  case h_1 => rfl
  case h_2 => rfl
  case h_3 => rfl
  case h_4 => rfl

/-! ### The words by their runs -/

section
variable {c : Ctx}

theorem Ctx.vB_trap {v : VArgs3} {old : Bool} {f : Nat → Nat → Nat → Nat}
    (h : c.vrows v.d (v.run.toNat + 1) = none ∨ c.vrows v.x (v.run.toNat + 1) = none ∨ c.vrows v.y (v.run.toNat + 1) = none) :
    c.vB v old f = .trap (illOpnd c.raw) := by
  simp only [Ctx.vB, vRun]
  rcases h with h | h | h
  · rw [h]
  all_goals rw [h]; split <;> simp_all

theorem Ctx.vU_trap {v : VArgs2} {f : List Nat → List Nat}
    (h : c.vrows v.d (v.run.toNat + 1) = none ∨ c.vrows v.x (v.run.toNat + 1) = none) :
    c.vU v f = .trap (illOpnd c.raw) := by
  simp only [Ctx.vU, vRun]
  rcases h with h | h
  · rw [h]
  · rw [h]; split <;> simp_all

theorem Ctx.vConv_trap {v : VArgs2} {src : VType} {f : Nat → Nat}
    (h : c.vrows v.d ((v.run.toNat + 1) * v.ty.bytes / min src.bytes v.ty.bytes) = none ∨
      c.vrows v.x ((v.run.toNat + 1) * src.bytes / min src.bytes v.ty.bytes) = none) :
    c.vConv v src f = .trap (illOpnd c.raw) := by
  simp only [Ctx.vConv, vRun]
  rcases h with h | h
  · rw [h]
  · rw [h]; split <;> simp_all

end

/-- Settles O43: each word by its runs, its hold and its element function. -/
theorem vectorWordsMapTheirRuns : Obligations.VectorWordsMapTheirRuns := by
  refine ⟨fun c a n => ?runs, fun i s k m hi => ?words⟩
  case runs =>
    intro row tile
    exact ⟨Ctx.vrows_some, Ctx.vrows_none⟩
  case words =>
    intro c
    have hraw : c.raw = k.raw := rfl
    refine ⟨fun v old f h => ?element, fun v f h => ?run, fun v src f h => ?conversion, fun a run ty f h => ?constant⟩
    case element =>
      have hx := exec_of_elementOf (s := s) h
      refine ⟨fun hn => hi.ends_of_word rfl hx (Ctx.vB_trap hn), fun d x y hd hxr hy => hi.vector rfl hx ?_⟩
      simp only [Ctx.vB, vRun]
      rw [hd, hxr, hy]
    case run =>
      have hx := exec_of_runOf (s := s) h
      refine ⟨fun hn => hi.ends_of_word rfl hx (Ctx.vU_trap hn), fun d x hd hxr => hi.vector rfl hx ?_⟩
      simp only [Ctx.vU, vRun]
      rw [hd, hxr]
    case conversion =>
      obtain ⟨g, hx, hg⟩ := exec_of_conversionOf h
      refine ⟨fun hn => hi.ends_of_word rfl (hx s) (hg.trans (Ctx.vConv_trap hn)),
        fun d x hd hxr => hi.vector rfl (hx s) (hg.trans ?_)⟩
      simp only [Ctx.vConv, vRun]
      rw [hd, hxr]
    case constant =>
      obtain ⟨g, hx, hg⟩ := exec_of_constantOf h
      refine ⟨fun hn => hi.ends_of_word rfl (hx s) (hg.trans ?_), fun d hd => hi.vector rfl (hx s) (hg.trans ?_)⟩
      · simp only [Ctx.vZ, vRun]
        rw [hn]
        rfl
      · simp only [Ctx.vZ, vRun]
        rw [hd]
        rfl

end Sys2Proof.Machine

/-!
PROOFS. The reducing and moving vector words (R271, R279, R283 to R289).
-/

namespace Sys2Proof.Machine

/-! ### Reductions by their runs (R283) -/

section
variable {c : Ctx} {v : VRed} {f : List Nat → List Nat → Word} {x : Nat × Nat}

/-- The elements a reduction takes. -/
def Ctx.taken (c : Ctx) (v : VRed) : Nat :=
  if v.len = 0 then (v.run.toNat + 1) * v.ty.count else (c.s.main (v.len.setWidth 5)).toNat

theorem Ctx.vReduce_trap {y : Option (BitVec 12)}
    (h : c.vrows v.x (v.run.toNat + 1) = none ∨ ∃ a, y = some a ∧ c.vrows a (v.run.toNat + 1) = none) :
    c.vReduce v y f = .trap (illOpnd c.raw) := by
  simp only [Ctx.vReduce, vRun]
  rcases h with h | ⟨a, rfl, h⟩
  · rw [h]
  · simp only [h, Option.map_none]
    split <;> simp_all

theorem Ctx.vReduce_one (hx : c.vrows v.x (v.run.toNat + 1) = some x) :
    c.vReduce v none f = if (v.run.toNat + 1) * v.ty.count < c.taken v then .trap (illOpnd c.raw) else
      c.vec ⟨[x.1], some x.1, none, v.m, v.run.toNat + 1⟩ fun M =>
        c.resultOn M (8 + 2 * (v.run.toNat + 1)) v.d (f ((readRun M c.mem v.ty x (v.run.toNat + 1)).take (c.taken v)) []) := by
  simp only [Ctx.vReduce, vRun]
  rw [hx]
  rfl

theorem Ctx.vReduce_two {a : BitVec 12} {p : Nat × Nat} (hx : c.vrows v.x (v.run.toNat + 1) = some x)
    (hp : c.vrows a (v.run.toNat + 1) = some p) :
    c.vReduce v (some a) f = if (v.run.toNat + 1) * v.ty.count < c.taken v then .trap (illOpnd c.raw) else
      c.vec ⟨[x.1, p.1], some x.1, some p.1, v.m, v.run.toNat + 1⟩ fun M =>
        c.resultOn M (8 + 2 * (v.run.toNat + 1)) v.d
          (f ((readRun M c.mem v.ty x (v.run.toNat + 1)).take (c.taken v))
            ((readRun M c.mem v.ty p (v.run.toNat + 1)).take (c.taken v))) := by
  simp only [Ctx.vReduce, vRun]
  rw [hx, hp]
  rfl

end

/-! ### The statement -/

/-- Settles O44: each word by its runs, its length and its hold. -/
theorem reducingAndMovingVectorWordsComplete : Obligations.ReducingAndMovingVectorWordsComplete := by
  refine ⟨fun i s k m v y f hi hf => ?reduce, fun s k m => ?move⟩
  case reduce =>
    intro c n count
    have hx := exec_of_reductionOf (s := s) hf
    have hend := fun r hr => hi.ends_of_word (c := c) (r := r) rfl hx hr
    refine ⟨fun h => hend _ (Ctx.vReduce_trap h), fun x yo hxr hy => ?_⟩
    rcases hy with ⟨rfl, rfl⟩ | ⟨a, p, rfl, hp, rfl⟩
    · have hred := Ctx.vReduce_one (f := f) hxr
      have hgo := fun h : count ≤ n * v.ty.count => hi.vector rfl hx (hred.trans (if_neg (not_lt.2 h)))
      exact ⟨fun h => hend _ (hred.trans (if_pos h)), fun h => (hgo h).1, fun h => (hgo h).2⟩
    · have hred := Ctx.vReduce_two (f := f) hxr hp
      have hgo := fun h : count ≤ n * v.ty.count => hi.vector rfl hx (hred.trans (if_neg (not_lt.2 h)))
      exact ⟨fun h => hend _ (hred.trans (if_pos h)), fun h => (hgo h).1, fun h => (hgo h).2⟩
  case move =>
    intro c
    have hraw : illOpnd k.raw = badOperand k := rfl
    refine ⟨fun v tab hi => ?act, fun v hi => ?perm, fun v hi => ?sprs, fun a e r ty hi => ?ins, fun d a e ty ck cx hi => ?ext,
      fun a run q hi => ?pop⟩
    case act =>
      refine ⟨fun h => hi.ends_of_word rfl (exec_vact ..) ?_, fun d x t hd hx ht => hi.vector rfl (exec_vact ..) ?_⟩
      · simp only [vRun]
        rcases h with h | h | h
        · rw [h]; rfl
        all_goals rw [h]; split <;> simp_all
      · simp only [vRun]
        rw [hd, hx, ht]
    case perm =>
      refine ⟨fun h => hi.ends_of_word rfl (exec_vperm ..) ?_, fun d x y hd hx hy => hi.vector rfl (exec_vperm ..) ?_⟩
      · simp only [vRun]
        rcases h with h | h | h
        · rw [h]; rfl
        all_goals rw [h]; split <;> simp_all
      · simp only [vRun]
        rw [hd, hx, hy]
        rfl
    case sprs =>
      refine ⟨fun h => hi.ends_of_word rfl (exec_vsprs ..) ?_, fun d x y hd hx hy => hi.vector rfl (exec_vsprs ..) ?_⟩
      · simp only [vRun]
        rcases h with h | h | h
        · rw [h]; rfl
        all_goals rw [h]; split <;> simp_all
      · simp only [vRun]
        rw [hd, hx, hy]
    case ins =>
      refine ⟨fun h => hi.ends_of_word rfl (exec_vmovsIns ..) ?_, fun p hp => hi.vector rfl (exec_vmovsIns ..) ?_⟩
      · rw [h]; rfl
      · rw [hp]; rfl
    case ext =>
      refine ⟨fun h => hi.ends_of_word rfl (exec_vmovsExt ..) ?_, fun p hp => hi.vector rfl (exec_vmovsExt ..) ?_⟩
      · rw [h]; rfl
      · rw [hp]
        simp only [w64_unsgn]
    case pop =>
      have hend := fun r => hi.ends_of_word (c := c) (r := r) rfl (exec_vpop ..)
      have hheld : (readyRows (c.mem.queue q) < run.toNat + 1 || c.mustQueue (.queueRows q.toNat (run.toNat + 1))) = true ↔
          readyRows (c.mem.queue q) < run.toNat + 1 ∨ c.mustQueue (.queueRows q.toNat (run.toNat + 1)) = true := by
        rw [Bool.or_eq_true, decide_eq_true_iff]
      simp only [vRun, ← hraw] at hend ⊢
      refine ⟨fun h => ?_, fun p hp => ?_⟩
      · rw [h] at hend
        exact hend _ rfl
      rw [hp] at hend
      refine ⟨fun h => hend _ (if_pos (decide_eq_true h)),
        fun h hq => hend _ ((if_neg (Ctx.vHeld_false h)).trans (if_pos (hheld.2 hq))),
        fun h hq => hend _ ((if_neg (Ctx.vHeld_false h)).trans ((if_neg (mt hheld.1 hq)).trans (Ctx.vec_ready ⟨h, ?_⟩)))⟩
      intro t ht
      cases ht

end Sys2Proof.Machine

/-!
PROOFS. The matrix words (R290, R300 to R317): the shadow's words by their fields, XGO and XWAIT, and the accumulators.
-/

namespace Sys2Proof.Machine

/-! ### The words of the shadow -/

theorem wf_zero (w : Word) (n : Nat) : wf w 0 n = w.toNat % 2 ^ n := by
  rw [wf_eq_div_mod, pow_zero, Nat.div_one]

theorem sgn_of_lt {n : Nat} (h : n < 2 ^ 32) : sgn 32 n = if n < 2 ^ 31 then (n : Int) else (n : Int) - 2 ^ 32 := by
  rw [sgn, Nat.mod_eq_of_lt h]

/-- A word that sets the shadow where its check `b` allows, by the check's meaning `ok`. -/
theorem Issues.setsShadow {i : Instr} {g : Ctx → Res} {s : State} {k : Cur} {m : Member} {c : Ctx} {f : XCfg → XCfg} {b : Bool}
    {ok : Prop} (hc : k.ctx s.m m = c) (hx : exec i s = word i g s)
    (hg : g c = if b = true then c.setShadow f else .trap (illOpnd c.raw)) (hb : b = true ↔ ok) (hi : Issues i s k m) :
    (ok → Ends i s k m (.done (c.upd fun y => { y with shadow := f y.shadow }))) ∧ (¬ok → Traps i s k m (badOperand k)) := by
  refine ⟨fun h => hi.ends_of_word hc hx (hg.trans (if_pos (hb.2 h))), fun h => hi.ends_of_word hc hx ?_⟩
  rw [hg, if_neg (mt hb.1 h), ← hc]
  rfl

theorem os0Ok_iff {v : Word} : os0Ok v = true ↔
    wf v 48 16 = 0 ∧ wf v 15 17 = 0 ∧ wf v 45 3 ≤ 4 ∧ wf v 32 8 < 128 ∧
      (v.getLsbD 43 = true → v.getLsbD 44 = false ∧ wf v 0 15 = 0) ∧ (v.getLsbD 43 = false → wf v 40 3 = 0) := by
  rw [os0Ok]
  generalize v.getLsbD 43 = p
  cases p <;> simp [and_assoc]

theorem os1Ok_iff {v : Word} : os1Ok v = true ↔
    wf v 48 16 = 0 ∧ wf v 40 4 = 0 ∧ wf v 14 18 = 0 ∧ wf v 45 3 ≤ 4 ∧ wf v 32 8 < 128 ∧
      ¬(v.getLsbD 44 = true ∧ wf v 45 3 = 1) := by
  simp only [os1Ok, Bool.and_eq_true, decide_eq_true_iff, Bool.not_eq_true', and_assoc, ← Bool.not_eq_true]

/-! ### Accumulators (R314) -/

theorem Ctx.xacc_busy {c : Ctx} {ns : List Nat} {r : Res} (h : c.accBusy ns = true) :
    c.xacc ns r = .wait .matrix (.nestIdle false) :=
  if_pos h

theorem Ctx.xacc_free {c : Ctx} {ns : List Nat} {r : Res} (h : c.accBusy ns = false) : c.xacc ns r = r :=
  if_neg (by rw [h]; decide)

/-- Settles O45: each word by its fields, or by the nest and the set it uses. -/
theorem matrixWordsComplete : Obligations.MatrixWordsComplete := by
  refine ⟨fun s k m x => ?shadow, fun s k m => ?nest, fun s k m acc => ?accs⟩
  case shadow =>
    intro c v shadow sets
    refine ⟨fun lv b n sa sb sov => ?_, ?_, ?_, ?_, ?_, ?_, fun d n hi => ?_, fun n hi => ?_, fun d hi => ?_, fun hi => ?_⟩
    · intro count o half level levels hi
      have hend := fun r => hi.ends_of_word (c := c) (r := r) rfl (exec_xnest ..)
      have hhalf (z : Nat) (hz : z < 2 ^ 32) : sgn 32 z = half z := sgn_of_lt hz
      have ho : o / 2 ^ 32 < 2 ^ 32 := Nat.div_lt_of_lt_mul (c.reg sov).isLt
      have hlow : sgn 32 (wf (c.reg sov) 0 32) = half (o % 2 ^ 32) := by rw [wf_zero, hhalf _ (Nat.mod_lt _ (by norm_num))]
      have hhigh : sgn 32 (wf (c.reg sov) 32 32) = half (o / 2 ^ 32) := by
        rw [wf_eq_div_mod, Nat.mod_eq_of_lt ho, hhalf _ ho]
      have hbad : (count = 0 || 2 ^ 24 ≤ count || 65535 < xProd (levels.filter fun l => l.k)) = true ↔
          ¬(0 < count ∧ count < 2 ^ 24 ∧ xProd (levels.filter fun l => l.k) ≤ 65535) := by
        rw [Bool.or_eq_true, Bool.or_eq_true, decide_eq_true_iff, decide_eq_true_iff, decide_eq_true_iff]
        omega
      simp only [hlow, hhigh] at hend
      cases n with
      | reg r => exact ⟨fun h => hend _ (if_neg fun hb => hbad.1 hb h), fun h => hend _ (if_pos (hbad.2 h))⟩
      | hl j => exact ⟨fun h => hend _ (if_neg fun hb => hbad.1 hb h), fun h => hend _ (if_pos (hbad.2 h))⟩
    · exact fun hi => ⟨fun _ => hi.ends_of_word rfl (exec_xnestClr ..) rfl, fun h => absurd trivial h⟩
    · exact Issues.setsShadow rfl (exec_xopsA ..) rfl os0Ok_iff
    · exact Issues.setsShadow rfl (exec_xopsB ..) rfl os1Ok_iff
    · exact Issues.setsShadow rfl (exec_xpost ..) rfl
        (by simp only [Bool.and_eq_true, decide_eq_true_iff, Bool.not_eq_true', and_assoc]; rfl)
    · exact Issues.setsShadow rfl (exec_xspm ..) rfl (by simp only [Bool.and_eq_true, decide_eq_true_iff, Bool.not_eq_true']; rfl)
    · exact hi.ends_of_word rfl (exec_xlrRd ..) rfl
    · exact hi.ends_of_word rfl (exec_xlrWr ..) rfl
    · refine hi.ends_of_word (c := c) rfl (exec_xlrPos ..) ?_
      cases h : c.mem.nest <;> rfl
    · have hend := fun r => hi.ends_of_word (c := c) (r := r) rfl (exec_xmask ..)
      have hraw : c.raw = k.raw := rfl
      simp only [Traps, badOperand, ← hraw]
      clear_value c
      refine ⟨fun h => hend _ (if_pos (not_aligned_iff.2 h)), fun h => ?_⟩
      have hgo := fun r hr => hend r ((if_neg (mt not_aligned_iff.1 (not_not.2 h))).trans hr)
      refine ⟨fun M hr => ?_, fun f hr => ?_, fun pa hr => ?_, fun M bs hr => ⟨fun hm => ?_, fun hm => ?_⟩⟩
      all_goals
        simp only [v] at hr
        simp only [hr] at hgo
      · exact hgo _ rfl
      · exact hgo _ rfl
      · exact hgo _ rfl
      · exact hgo _ (if_neg (by rw [hm]; decide))
      · exact hgo _ (if_pos hm)
  case nest =>
    intro c
    refine ⟨fun acc cont out stg msk hi => ?_, fun hi => ⟨fun hn hp => ?_, fun h => ?_⟩⟩
    · intro i
      have hend := fun r => hi.ends_of_word (c := c) (r := r) rfl (exec_xgo ..)
      have hgo := fun (h : c.mem.nest = none) r hr => hend r ((if_neg (by rw [h]; decide)).trans hr)
      refine ⟨fun h => hend _ (if_pos (Option.isSome_iff_ne_none.2 h)), fun h hk => hgo h _ (if_pos ?_),
        fun h hk => hgo h _ (if_neg ?_)⟩
      · rw [hk]; decide
      · rw [hk]; decide
    · exact hi.ends_of_word (c := c) rfl (exec_xwait ..) (if_pos (by rw [nestIdle, hn, hp]; rfl))
    · refine hi.ends_of_word (c := c) rfl (exec_xwait ..) (if_neg ?_)
      rcases h with h | h
      · rw [nestIdle, Option.isNone_eq_false_iff.2 (Option.isSome_iff_ne_none.2 h)]
        simp
      · rw [nestIdle, h]
        simp
  case accs =>
    intro c x lands holds free
    have hraw : illOpnd c.raw = badOperand k := rfl
    refine ⟨fun i hi hb hw => ?busy, fun hi h => ?clr, fun t hi h => ?st, fun i t ck cx n f hi h hw => ?ld, fun src hi => ?add,
      fun stg hi h => ?post⟩
    case busy =>
      rcases hw with rfl | ⟨t, rfl⟩ | ⟨t, ck, cx, rfl⟩ | ⟨t, ck, cx, rfl⟩ | ⟨stg, rfl⟩
      · exact hi.ends_of_word rfl (exec_xaccClr ..) (Ctx.xacc_busy hb)
      · exact hi.ends_of_word rfl (exec_xaccSt ..) (Ctx.xacc_busy hb)
      · exact hi.ends_of_word rfl (exec_xaccLd ..) (Ctx.xacc_busy hb)
      · exact hi.ends_of_word rfl (exec_xaccLdp ..) (Ctx.xacc_busy hb)
      · exact hi.ends_of_word rfl (exec_xaccPost ..) (Ctx.xacc_busy hb)
    case clr => exact hi.ends_of_word rfl (exec_xaccClr ..) (Ctx.xacc_free h)
    case st =>
      intro a
      have hgo := fun r hr => hi.ends_of_word (c := c) (r := r) rfl (exec_xaccSt ..) ((Ctx.xacc_free h).trans hr)
      simp only [Traps, ← hraw, x] at hgo ⊢
      have htiles (n : Nat) : c.mem.tilesIn (c.reg t) n = true ↔ a + n ≤ c.mem.tilesN := decide_eq_true_iff
      refine ⟨fun hm => ?_, fun hm ht => ?_, fun hm ht => ?_, fun hm => ?_⟩
      · simp only [hm] at hgo
        exact hgo _ rfl
      · simp only [hm] at hgo
        exact hgo _ (if_pos ((htiles 16).2 ht))
      · simp only [hm] at hgo
        exact hgo _ (if_pos ((htiles 8).2 ht))
      · rcases hm with ⟨hm, ht⟩ | ⟨hm, ht⟩
        · simp only [hm] at hgo
          exact hgo _ (if_neg fun h => absurd ((htiles 16).1 h) (not_le.2 ht))
        · simp only [hm] at hgo
          exact hgo _ (if_neg fun h => absurd ((htiles 8).1 h) (not_le.2 ht))
    case ld =>
      intro a ts
      have hx : exec i s = word i (fun c => c.accLoad acc.toNat t n ck cx f) s := by
        rcases hw with ⟨rfl, rfl, rfl⟩ | ⟨rfl, rfl, rfl⟩
        · exact exec_xaccLd ..
        · exact exec_xaccLdp ..
      have hgo := fun r hr => hi.ends_of_word (c := c) (r := r) rfl hx ((Ctx.xacc_free h).trans hr)
      have htiles : (!c.mem.tilesIn (c.reg t) n) = true ↔ ¬a + n ≤ c.mem.tilesN := by
        rw [Bool.not_eq_true', ← Bool.not_eq_true, Member.tilesIn, decide_eq_true_iff]
      refine ⟨fun ht => hgo _ (if_pos (htiles.2 (not_le.2 ht))), fun ht hk r hr => ?_, fun ht hk => ?_⟩
      · replace hgo := fun r hr => hgo r ((if_neg (mt htiles.1 (not_not.2 ht))).trans hr)
        have hc : (if (ck || cx) = true then c.tileCheck ts else none) = some r := (if_pos ((Bool.or_eq_true ..).mpr hk)).trans hr
        simp only [ts, a] at hc
        simp only [hc] at hgo
        exact hgo _ rfl
      · replace hgo := fun r hr => hgo r ((if_neg (mt htiles.1 (not_not.2 ht))).trans hr)
        have hc : (if (ck || cx) = true then c.tileCheck ts else none) = none := by
          split
          · next h => exact hk ((Bool.or_eq_true ..).mp h)
          · rfl
        simp only [ts, a] at hc
        simp only [hc] at hgo
        exact hgo _ rfl
    case add =>
      intro i y
      have hend := fun r => hi.ends_of_word (c := c) (r := r) rfl (exec_xaccAdd ..)
      refine ⟨fun hb => hend _ (Ctx.xacc_busy hb), fun hf => ?_⟩
      replace hend := fun r hr => hend r ((Ctx.xacc_free hf).trans hr)
      simp only [Traps, ← hraw, x, y] at hend ⊢
      refine ⟨fun hy => ?_, fun hx hy => ?_, fun hx hy => ?_, fun hx hy => ?_, fun h => ?_⟩
      · simp only [hy] at hend
        exact hend _ rfl
      · simp only [hx] at hend
        exact hend _ rfl
      · simp only [hx, hy, holds] at hend ⊢
        exact hend _ rfl
      · simp only [hx, hy, holds] at hend ⊢
        exact hend _ rfl
      · rcases h with ⟨hx, hy⟩ | ⟨hx, hy⟩
        · simp only [hx, hy] at hend
          exact hend _ rfl
        · simp only [hx, hy] at hend
          exact hend _ rfl
    case post =>
      intro y ob vb ok
      have hend := fun r hr => hi.ends_of_word (c := c) (r := r) rfl (exec_xaccPost ..) ((Ctx.xacc_free h).trans hr)
      have hob : (wf y.xp 0 15 : Int) = ob := by rw [wf_zero]; rfl
      have hvb : (wf y.xp 15 15 : Int) = vb := by rw [wf_eq_div_mod]; rfl
      simp only [y] at hob hvb
      simp only [hob, hvb] at hend
      have hok : (x.mode = .empty || !postOk c.mem y.xp stg x.mode || !postRowsOk c.mem y.xp stg y.mr y.nc ob vb) = true ↔
          ¬ok := by
        simp only [ok, Bool.or_eq_true, decide_eq_true_iff, Bool.not_eq_true', ← Bool.not_eq_true]
        tauto
      exact ⟨fun h => hend _ (if_neg fun hb => hok.1 hb h), fun h => hend _ (if_pos (hok.2 h))⟩

end Sys2Proof.Machine

/-!
PROOFS. The seal words and the embedding words (R131, R293 to R299, R352 to R370).
-/

namespace Sys2Proof.Machine

/-! ### SEAL up to its record (R294) -/

section
variable {c : Ctx} {d : Dst} {h : BitVec 4} {x : Reg} {check : Mach → List Word → Res}

theorem Ctx.seal_misaligned (hp : (c.reg x).toNat % 64 ≠ 0) : c.seal d h x check = .trap (illOpnd c.raw) :=
  if_pos (not_aligned_iff.2 hp)

theorem Ctx.seal_busy (hp : (c.reg x).toNat % 64 = 0) (hh : c.mem.handles[h.toNat]'h.isLt ≠ none) :
    c.seal d h x check = c.sealCode c.M d 0x07 :=
  (if_neg (mt not_aligned_iff.1 (not_not.2 hp))).trans (if_pos (Option.isSome_iff_ne_none.2 hh))

variable (hp : (c.reg x).toNat % 64 = 0) (hh : c.mem.handles[h.toNat]'h.isLt = none)
include hp hh

theorem Ctx.seal_fault {f : XFault} (hr : c.readSpan (c.reg x) 64 = .fault f) :
    c.seal d h x check = if f.code = 0x22 || f.code = 0x01 then c.xtrap f .read else c.sealCode c.M d 0x06 := by
  rw [Ctx.seal, hr]
  exact (if_neg (mt not_aligned_iff.1 (not_not.2 hp))).trans (if_neg (by rw [hh]; decide))

theorem Ctx.seal_ecc {pa : Nat} (hr : c.readSpan (c.reg x) 64 = .ecc pa) : c.seal d h x check = .trap (eccTrap c.raw pa) := by
  rw [Ctx.seal, hr]
  exact (if_neg (mt not_aligned_iff.1 (not_not.2 hp))).trans (if_neg (by rw [hh]; decide))

theorem Ctx.seal_asking {M : Mach} (hr : c.readSpan (c.reg x) 64 = .asking M) : c.seal d h x check = c.await M := by
  rw [Ctx.seal, hr]
  exact (if_neg (mt not_aligned_iff.1 (not_not.2 hp))).trans (if_neg (by rw [hh]; decide))

theorem Ctx.seal_bytes {M : Mach} {bs : List Byte} (hr : c.readSpan (c.reg x) 64 = .bytes M bs) :
    c.seal d h x check = check M (wordsOf 8 bs) := by
  rw [Ctx.seal, hr]
  exact (if_neg (mt not_aligned_iff.1 (not_not.2 hp))).trans (if_neg (by rw [hh]; decide))

end

theorem firstCode_two {x y : Nat} {a b : Bool} : firstCode [(x, a), (y, b)] = if a then x else if b then y else 0 := by
  cases a <;> cases b <;> rfl

/-! ### The statement -/

theorem fld_bit (n lo : Nat) : fld n lo 1 = 1 ↔ fld n lo 1 ≠ 0 := by
  rw [fld]
  omega

/-- Settles O46: the seal words by the read of their record, the embedding words by their table and checks. -/
theorem sealAndEmbeddingWordsComplete : Obligations.SealAndEmbeddingWordsComplete := by
  refine ⟨fun s k m d h x => ?handles, fun s k m d h tc => ?embedding⟩
  case handles =>
    intro c p lands drop holds
    refine ⟨fun i hi hw => ?record, fun hp hh M bs hr => ?sealing, fun hi => ?unsealing, fun i hs target hi hw => ?move, fun hs hi hn => ?outside⟩
    case record =>
      have hx : ∃ g : Ctx → Mach → List Word → Res, exec i s = word i (fun c => c.seal d h x (g c)) s := by
        rcases hw with rfl | rfl | rfl
        · exact ⟨_, exec_sealTensor ..⟩
        · exact ⟨_, exec_sealTable ..⟩
        · exact ⟨_, exec_sealGrid ..⟩
      obtain ⟨g, hx⟩ := hx
      have hend := fun r hr => hi.ends_of_word (c := c) (r := r) rfl hx hr
      refine ⟨fun hp => hend _ (Ctx.seal_misaligned hp), fun hp hh => hend _ (Ctx.seal_busy hp hh), fun hp hh => ⟨fun M hr => ?_,
        fun pa hr => ?_, fun f hr => ⟨fun hf => ?_, fun hf => ?_⟩⟩⟩
      · exact hend _ (Ctx.seal_asking hp hh hr)
      · exact hend _ (Ctx.seal_ecc hp hh hr)
      · refine hend _ ((Ctx.seal_fault hp hh hr).trans (if_neg ?_))
        rw [Bool.or_eq_true, decide_eq_true_iff, decide_eq_true_iff]
        tauto
      · refine hend _ ((Ctx.seal_fault hp hh hr).trans (if_pos ?_))
        rwa [Bool.or_eq_true, decide_eq_true_iff, decide_eq_true_iff]
    case sealing =>
      intro r
      refine ⟨fun hi => ?_, fun hi pt hpt => ?_, fun hi => ?_⟩
      · have hend := fun z hz => hi.ends_of_word (c := c) (r := z) rfl (exec_sealTensor ..) ((Ctx.seal_bytes hp hh hr).trans hz)
        exact ⟨fun hc => hend _ (if_pos hc), fun hc => hend _ (if_neg hc)⟩
      · have hend := fun z hz => hi.ends_of_word (c := c) (r := z) rfl (exec_sealTable ..) ((Ctx.seal_bytes hp hh hr).trans hz)
        simp only [hpt] at hend
        exact ⟨fun hc => hend _ (if_pos hc), fun hc => hend _ (if_neg hc)⟩
      · have hend := fun z hz => hi.ends_of_word (c := c) (r := z) rfl (exec_sealGrid ..) ((Ctx.seal_bytes hp hh hr).trans hz)
        refine ⟨fun hc => hend _ (if_pos hc), ?_⟩
        intro owners
        have hread := fun (hc : sealGridCode r = 0) z hz => hend z ((if_neg (not_not.2 hc)).trans hz)
        refine ⟨fun hc ho => ?_, fun hc z ho => ?_, fun hc N es ho => ?_⟩
        all_goals
          replace hread := hread hc
          simp only [owners] at ho
          simp only [r, ho] at hread
        · exact hread _ rfl
        · exact hread _ rfl
        · intro sc fit reach
          have hfit : (!es.all fun e => entOk e && entAreasOk N r e) = true ↔ ¬fit := by
            simp only [fit, Bool.not_eq_true', ← Bool.not_eq_true, List.all_eq_true, Bool.and_eq_true]
          have hreach : (!(sc = 4 || sc = 5) || (sc = 4 && !es.all (entHere N c.mem))) = true ↔ ¬reach := by
            simp only [reach, Bool.or_eq_true, Bool.and_eq_true, Bool.not_eq_true', ← Bool.not_eq_true, decide_eq_true_iff]
            by_cases h4 : sc = 4
            · simp [h4]
            · simp [h4]
          simp only [firstCode_two] at hread
          simp only [r] at hfit
          simp only [sc, r] at hreach
          refine ⟨fun hf hr => ?_, fun hf => ?_, fun hf hr => ?_⟩
          · simp only [if_neg (mt hfit.1 (not_not.2 hf)), if_neg (mt hreach.1 (not_not.2 hr))] at hread
            exact hread _ rfl
          · simp only [if_pos (hfit.2 hf)] at hread
            exact hread _ rfl
          · simp only [if_neg (mt hfit.1 (not_not.2 hf)), if_pos (hreach.2 hr)] at hread
            exact hread _ rfl
    case unsealing =>
      have hend := fun r => hi.ends_of_word (c := c) (r := r) rfl (exec_unsealHandle ..)
      refine ⟨fun hn => ?_, fun z hz => ?_⟩
      · simp only [hn] at hend
        exact hend _ rfl
      · intro used
        simp only [hz] at hend
        have hused : (decide (z.kind = .grid) && c.mem.joined.any fun j => j.grid == z.copy) = true ↔ used := by
          simp only [used, Bool.and_eq_true, decide_eq_true_iff, List.any_eq_true, beq_iff_eq]
        exact ⟨fun h => hend _ (if_pos (hused.2 h)), fun h => hend _ (if_neg (mt hused.1 h))⟩
    case move =>
      have hend : ∀ r, c.moveHandle d h hs target = r → Ends i s k m r := fun r hr => by
        rcases hw with ⟨rfl, rfl⟩ | ⟨rfl, hlt, rfl⟩
        · exact hi.ends_of_word rfl (exec_hmov ..) hr
        · exact hi.ends_of_word (c := c) rfl (exec_hmovMem ..) ((if_neg (not_le.2 hlt)).trans hr)
      refine ⟨fun hn => hend _ ?_, fun z t hz ht => ⟨fun hn => hend _ ?_, fun hn => ?_⟩⟩
      · simp only [Ctx.moveHandle, hn]
        rfl
      · simp only [Ctx.moveHandle, hz, ht]
        exact if_pos (Option.isSome_iff_ne_none.2 hn)
      · simp only [Ctx.moveHandle, hz, ht] at hend
        replace hend := fun r hr => hend r ((if_neg (by rw [hn]; decide)).trans hr)
        refine ⟨fun hc => ?_, fun hc => ?_⟩
        · rw [if_pos (Option.isSome_iff_ne_none.2 hc)] at hend
          exact hend _ rfl
        · rw [if_neg (by rw [hc]; decide)] at hend
          exact hend _ rfl
    case outside => exact hi.ends_of_word (c := c) rfl (exec_hmovMem ..) (if_pos hn)
  case embedding =>
    intro c lands lookupMode
    refine ⟨fun i hi hn ht hw => ?detached, fun pt t ht => ?table, fun g x hi hn pt hpt => ?skwr, fun g hi hn => ?skrd,
      fun mode nf re ta hi hn => ?exchange⟩
    case detached =>
      have hraw : illOpnd c.raw = badOperand k := rfl
      rw [Traps, ← hraw]
      rcases hw with ⟨mode, nf, list, args, ta, rfl⟩ | ⟨nf, list, grad, n, rfl⟩ | ⟨a, b, rfl⟩ | ⟨a, b, rfl⟩ | ⟨a, b, rfl⟩ |
        ⟨x, rfl⟩ | rfl | rfl
      · exact hi.ends_of_word (c := c) rfl (exec_lookup ..) (by rw [Ctx.lookup, ht])
      · exact hi.ends_of_word (c := c) rfl (exec_update ..) (by rw [ht])
      · exact hi.ends_of_wordOut hn (c := c) rfl (exec_replayAcc ..) (by rw [Ctx.replay, ht])
      · exact hi.ends_of_wordOut hn (c := c) rfl (exec_replaySgd ..) (by rw [Ctx.replay, ht])
      · exact hi.ends_of_wordOut hn (c := c) rfl (exec_replayAdag ..) (by rw [Ctx.replay, ht])
      · exact hi.ends_of_wordOut hn (c := c) rfl (exec_skctlEst ..) (by rw [ht])
      · exact hi.ends_of_wordOut hn (c := c) rfl (exec_hrctlFlush ..) (by rw [ht])
      · exact hi.ends_of_wordOut hn (c := c) rfl (exec_hrctlDetach ..) (by rw [ht])
    case table =>
      refine ⟨fun mode nf list args ta hi => ?lookup, fun nf list grad n hi => ?update, fun i o a b hi hn hw => ?replay,
        fun x hi hn => ?estimate, fun hi hn => ?flush, fun hi hn => ?detach⟩
      case lookup =>
        intro i ok
        have hend := fun r => hi.ends_of_word (c := c) (r := r) rfl (exec_lookup ..)
        have hbad : (!aligned (c.reg list) 8 || !aligned (c.reg args) 8 || !c.lookupTarget (c.reg ta)) = true ↔ ¬ok := by
          simp only [ok, Bool.or_eq_true, Bool.not_eq_true', ← Bool.not_eq_true, aligned_iff]
          tauto
        simp only [Ctx.lookup, ht] at hend
        have hgo := fun (h : ok) r hr => hend r ((if_neg fun hb => hbad.1 hb h).trans hr)
        refine ⟨fun h => hend _ (if_pos (hbad.2 h)), fun h M hr => ?_, fun h f hr => ?_, fun h pa hr => ?_,
          fun h M bs hr => ⟨fun hm => ?_, fun hm => ?_⟩⟩
        all_goals
          replace hgo := hgo h
          simp only [hr] at hgo
        · exact hgo _ rfl
        · exact hgo _ rfl
        · exact hgo _ rfl
        · exact hgo _ (if_pos (by rw [Bool.not_eq_true', ← Bool.not_eq_true]; exact hm))
        · exact hgo _ (if_neg (by rw [Bool.not_eq_true', ← Bool.not_eq_true]; exact not_not.2 hm))
      case update =>
        intro i z ok
        have hend := fun r => hi.ends_of_word (c := c) (r := r) rfl (exec_update ..)
        have hbad : (!tTrain t || z = 0 || 65536 < z || !aligned (c.reg list) 8 || !aligned (c.reg grad) 64 ||
            tSources t ≤ c.mem.ref.rank) = true ↔ ¬ok := by
          simp only [ok, Bool.or_eq_true, Bool.not_eq_true', ← Bool.not_eq_true, aligned_iff, decide_eq_true_iff, not_and_or,
            not_lt, not_le, Nat.le_zero, or_assoc]
        simp only [ht] at hend
        exact ⟨fun h => hend _ (if_pos (hbad.2 h)), fun h => hend _ (if_neg fun hb => hbad.1 hb h)⟩
      case replay =>
        intro r0 n eps ok
        have hend : ∀ r, c.replay o d h tc a b = r → Ends i s k m r := fun r hr => by
          rcases hw with ⟨rfl, rfl⟩ | ⟨rfl, rfl⟩ | ⟨rfl, rfl⟩
          · exact hi.ends_of_wordOut hn rfl (exec_replayAcc ..) hr
          · exact hi.ends_of_wordOut hn rfl (exec_replaySgd ..) hr
          · exact hi.ends_of_wordOut hn rfl (exec_replayAdag ..) hr
        have hbad : (!tTrain t || n = 0 || tRegions t < r0 + n ||
            (o = .adag && (!tAdagrad t || !fIsFin fp32 eps || fld eps 31 1 = 1 || fld eps 0 31 = 0))) = true ↔ ¬ok := by
          simp only [ok, Bool.or_eq_true, Bool.and_eq_true, Bool.not_eq_true', ← Bool.not_eq_true, decide_eq_true_iff, not_and_or,
            Classical.not_imp, not_lt, not_le, Nat.le_zero, or_assoc, fld_bit, not_not]
        simp only [Ctx.replay, ht] at hend
        exact ⟨fun h => hend _ (if_pos (hbad.2 h)), fun h => hend _ (if_neg fun hb => hbad.1 hb h)⟩
      case estimate =>
        intro row
        have hend := fun r => hi.ends_of_wordOut hn (c := c) (r := r) rfl (exec_skctlEst ..)
        simp only [ht] at hend
        exact ⟨fun h => hend _ (if_pos h), fun h => hend _ (if_neg (not_le.2 h))⟩
      case flush =>
        have hend := fun r => hi.ends_of_wordOut hn (c := c) (r := r) rfl (exec_hrctlFlush ..)
        simp only [ht] at hend
        exact hend _ rfl
      case detach =>
        have hend := fun r => hi.ends_of_wordOut hn (c := c) (r := r) rfl (exec_hrctlDetach ..)
        simp only [ht] at hend
        exact hend _ rfl
    case skwr =>
      have hend := fun r => hi.ends_of_wordOut hn (c := c) (r := r) rfl (exec_skctlWr ..)
      simp only [hpt] at hend
      exact hend _ rfl
    case skrd => exact hi.ends_of_wordOut hn rfl (exec_skctlRd ..) rfl
    case exchange =>
      intro i ok
      have hend := fun r => hi.ends_of_wordOut hn (c := c) (r := r) rfl (exec_a2a ..)
      have hbad : (!aligned (c.reg re) 64 || !c.lookupTarget (c.reg ta)) = true ↔ ¬ok := by
        simp only [ok, Bool.or_eq_true, Bool.not_eq_true', ← Bool.not_eq_true, aligned_iff]
        tauto
      have hgo := fun (h : ok) r hr => hend r ((if_neg fun hb => hbad.1 hb h).trans hr)
      refine ⟨fun h => hend _ (if_pos (hbad.2 h)), fun h M hr => ?_, fun h f hr => ?_, fun h pa hr => ?_, fun h M bs hr => ?_⟩
      all_goals
        replace hgo := hgo h
        simp only [hr] at hgo
      · exact hgo _ rfl
      · exact hgo _ rfl
      · exact hgo _ rfl
      · intro r
        refine ⟨fun hx => hgo _ (if_pos (by rw [Bool.not_eq_true']; exact hx)), fun hx N us hu => ?_⟩
        replace hgo := fun z hz => hgo z ((if_neg (by rw [Bool.not_eq_true', Bool.not_eq_false]; exact hx)).trans hz)
        simp only [r] at hu
        simp only [hu] at hgo
        exact ⟨fun hm => hgo _ (if_pos (by rw [Bool.not_eq_true', ← Bool.not_eq_true]; exact hm)),
          fun hm => hgo _ (if_neg (by rw [Bool.not_eq_true', ← Bool.not_eq_true]; exact not_not.2 hm))⟩

end Sys2Proof.Machine

/-!
PROOFS. Verge events, and the waits of grid words (R137 to R141); the end of a named wait by its condition or its limit (R154,
R156).
-/

namespace Sys2Proof.Machine

/-! ### One stream of one member changed -/

/-- An event that updates one stream of a member changes nothing else of it. -/
theorem changesStream_of_update {e : Instr} {s : State} {r : MRef} {st : Strm} {m : Member} {f : Stream → Stream}
    (hm : s.m.member r = some m) (h : Becomes e s (s.m.updMember r fun x => x.updStr st f)) :
    ChangesStream e s r st m (f (m.str st)) := by
  refine ⟨_, m.updStr st f, h, rfl, rfl, fun q hq => Mach.member_updMember_ne _ _ _ _ (fun x hx => (Member.updStr_ref ..).trans hx) hq, ?_,
    fun o ho => Member.str_updStr_ne _ _ _ _ ho, Member.str_updStr .., by simp, by simp, by simp⟩
  rw [Mach.member_updMember _ _ _ (fun x hx => (Member.updStr_ref ..).trans hx), hm]
  rfl

theorem grant_eq {M : Mach} {r : MRef} {st : Strm} {m : Member} (hm : M.member r = some m) :
    grant M r st = M.updMember r fun x => x.updStr st fun s =>
      { s with wait := s.wait.map fun w => if w.granted.isNone then { w with granted := some (m.now M + 1) } else w } := by
  rw [grant, grantAfter, hm]

theorem wakeIf_holds {M : Mach} {r : MRef} {st : Strm} {m : Member} {w : Wait} {p : Member → WaitCond → Bool}
    (hm : M.member r = some m) (hw : (m.str st).wait = some w) (hp : p m w.cond = true) : wakeIf M r st p = grant M r st := by
  rw [wakeIf, hm]
  simp only [hw]
  exact if_pos hp

/-- A wake event whose condition holds lets the waiting word issue (R154). -/
theorem grants_of_wake {e : Instr} {s : State} {r : MRef} {st : Strm} {m : Member} {w : Wait}
    {p : Mach → Member → WaitCond → Bool} (hx : exec e s = s.lift fun M => wakeIf M r st (p M)) (hm : s.m.member r = some m) (hw : (m.str st).wait = some w)
    (hg : w.granted = none) (hp : p s.m m w.cond = true) : Grants e s r st m w := by
  have h := changesStream_of_update hm (lift_becomes hx ((wakeIf_holds hm hw hp).trans (grant_eq hm)))
  simp only [hw, hg, Option.map_some, Option.isNone_none, if_true] at h
  exact h

/-! ### A wait withdrawn -/

/-- What no landing changes. -/
def Stream.standing (s : Stream) : Word × Nat × Option Wait := (s.pc, s.nstall, s.wait)

theorem Stream.standing_land (s : Stream) (l : Landing) : (s.land l).standing = s.standing := by
  cases l with
  | latch => rfl
  | reg _ _ d v =>
    cases d with
    | s n =>
      simp only [Stream.land, Stream.write]
      split <;> rfl
    | o n => rfl
    | none => rfl

theorem Stream.standing_landings (ls : List Landing) (s : Stream) : (ls.foldl Stream.land s).standing = s.standing := by
  induction ls generalizing s with
  | nil => rfl
  | cons l ls ih => exact (ih _).trans (Stream.standing_land s l)

/-- Settling moves neither the place, nor the stalls, nor the beginning of a wait. -/
theorem Stream.settle_standing (s : Stream) (t : Nat) :
    (s.settle t).pc = s.pc ∧ (s.settle t).nstall = s.nstall ∧ (s.settle t).wait.map Wait.since = s.wait.map Wait.since := by
  have hl := Stream.standing_landings (inTime (s.inflight.flatMap fun f => f.landings t)) s
  simp only [Stream.standing, Prod.mk.injEq] at hl
  obtain ⟨hpc, hstall, hwait⟩ := hl
  refine ⟨hpc, hstall, ?_⟩
  have hseen (cs : List Nat) (w : Wait) : (w.seen cs).since = w.since := by
    rw [Wait.seen]
    split <;> rfl
  show Option.map Wait.since (Option.map _ (Stream.wait _)) = _
  rw [Option.map_map]
  exact (congrArg (fun g => Option.map g _) (funext fun w => hseen _ w)).trans (congrArg (Option.map Wait.since) hwait)

/-- A member whose stream's wait is over at `now`: its results up to then have landed. -/
def Member.waitOver (m : Member) (st : Strm) (now : Nat) : Member := (m.settle now).updStr st fun s => s.unwait now

theorem Member.str_waitOver {m : Member} {st : Strm} {w : Wait} (hw : (m.str st).wait = some w) (now : Nat) :
    ((m.waitOver st now).str st).wait = none ∧ ((m.waitOver st now).str st).pc = (m.str st).pc ∧
      ((m.waitOver st now).str st).nstall = (m.str st).nstall + (now - w.since) := by
  obtain ⟨hpc, hstall, hwait⟩ := Stream.settle_standing (m.str st) now
  rw [Member.waitOver, Member.str_updStr, Member.settle_str]
  cases hs : ((m.str st).settle now).wait with
  | none => simp [hs, hw] at hwait
  | some v =>
    have hv : v.since = w.since := by simpa [hs, hw] using hwait
    simp only [Stream.unwait, hs]
    exact ⟨trivial, hpc, by rw [hstall, hv]⟩

/-- A member whose waiting word has passed its limit at `now` and raises a trap. -/
def Member.timedOut (m : Member) (st : Strm) (now : Nat) (i : TrapInfo) : Member :=
  { m.waitOver st now with raised := (m.waitOver st now).raised ++ [(st, i)] }

theorem Member.raised_timedOut (m : Member) (st : Strm) (now : Nat) (i : TrapInfo) :
    (m.timedOut st now i).raised = m.raised ++ [(st, i)] := by
  rw [Member.timedOut, Member.waitOver, Member.updStr_raised, Member.settle_raised]

theorem Member.str_timedOut {m : Member} {st : Strm} {w : Wait} (hw : (m.str st).wait = some w) (now : Nat) (i : TrapInfo) :
    ((m.timedOut st now i).str st).wait = none ∧ ((m.timedOut st now i).str st).pc = (m.str st).pc ∧
      ((m.timedOut st now i).str st).nstall = (m.str st).nstall + (now - w.since) := by
  have hstr : (m.timedOut st now i).str st = (m.waitOver st now).str st := by cases st <;> rfl
  rw [hstr]
  exact Member.str_waitOver hw now

/-- The bits of the word at a stream's place, zero where it cannot be fetched. -/
def rawAt (M : Mach) (m : Member) (st : Strm) : Word :=
  match fetch M m (m.str st).pc with
  | .ok r => r
  | .error _ => 0

theorem rawAt_eq {M : Mach} {m : Member} {st : Strm} {v : Word} (h : fetch M m (m.str st).pc = .ok v) : rawAt M m st = v := by
  rw [rawAt, h]

/-! ### The conditions of grid words (R137, R138, R141) -/

theorem mayStart_iff {M : Mach} {v : Verge} {g : List Word} {pa : Nat} :
    mayStart M v g pa = true ↔ v.ref.recv = v.ref.own ∨ v.ref.ms ≤ gDepth g ∨
      ∀ p ∈ v.regions, msRank (M.word32 (pa + 0x600 + 4 * (26 - p.1))) ≠ 0 ∧
        v.ref.ms - gDepth g ≤ msRank (M.word32 (pa + 0x600 + 4 * (26 - p.1))) - 1 := by
  simp only [mayStart, Bool.or_eq_true, Bool.and_eq_true, decide_eq_true_iff, List.all_eq_true, or_assoc, and_comm]

/-- Settles O49: verge events by the entries they read, the waits of grid words by their condition. -/
theorem vergeWritesAndHaloWaitsComplete : Obligations.VergeWritesAndHaloWaitsComplete := by
  refine ⟨fun s v m mine e M N hsteady => ?verges, fun s v r hheld => ?held, fun s r st m w hm hw hg => ?waits,
    fun s r st m u g own ms limit v hm hw hu hn hv hl ht => ?publish⟩
  case verges =>
    have hstep (ev : Event) (f : Mach → Mach) : engineStep s.m v.m.part ev f = f s.m := if_neg (by rw [hsteady]; decide)
    refine ⟨fun x hx hmine he => ?start, fun x hx he => ?complete, fun r x hx => ?report⟩
    case start =>
      obtain ⟨hhere, hread⟩ := hmine
      have href : x.ref = v := by
        have h : (x.ref == v && !x.started) = true := List.find?_some (p := fun y : Verge => y.ref == v && !y.started) hx
        exact beq_iff_eq.1 (Bool.and_eq_true_iff.1 h).1
      intro i joined
      have hgo (P : Mach) (hP : advanceVerge s.m v = P) : Becomes i s (settleSignals P) :=
        lift_becomes (exec_vergeWriteStart ..) ((hstep ..).trans (congrArg settleSignals hP))
      simp only [advanceVerge, hhere, hx, hread, he] at hgo
      refine ⟨fun f hf => ?_, fun pa hpa => ?_⟩
      · simp only [hf] at hgo
        exact hgo _ rfl
      · intro published may
        have hmay : mayStart N x x.grid pa = true ↔ may := by rw [mayStart_iff, href]
        simp only [hpa] at hgo
        refine ⟨fun h hj => hgo _ ((if_pos (hmay.2 h)).trans (if_pos hj)),
          fun h hj => hgo _ ((if_pos (hmay.2 h)).trans (if_neg (by rw [show entJoined N e x.grid v.recv = false from hj]; decide))),
          fun h hs hb => hgo _ ((if_neg (mt hmay.1 h)).trans (if_pos (by rw [hs, hb]; rfl))),
          fun h hb => hgo _ ((if_neg (mt hmay.1 h)).trans (if_neg ?_))⟩
        rcases hb with hb | hb <;> simp [hb]
    case complete =>
      obtain ⟨hhere, hread⟩ := he
      intro ready
      refine lift_becomes (exec_vergeWriteComplete ..) ((hstep ..).trans (congrArg settleSignals ?_))
      simp only [completeVerge, hhere, hx, hread]
      rfl
    case report =>
      have hev : x.event = .progressReport v r := by
        have h : (x.ref == v && x.region == r) = true := List.find?_some (p := fun y : Report => y.ref == v && y.region == r) hx
        rw [Bool.and_eq_true, beq_iff_eq, beq_iff_eq] at h
        rw [Report.event, h.1, h.2]
      have hgo (P : Mach) (hP : reportVerge s.m v r = P) : Becomes (.progressReport v r) s (settleSignals P) :=
        lift_becomes (exec_progressReport ..) ((hstep ..).trans (congrArg settleSignals hP))
      refine ⟨fun hne hhere => hgo _ ?_, fun hold he => ?_⟩
      · simp only [reportVerge, hhere, hx]
        exact if_pos hne
      · obtain ⟨hhere, hread⟩ := he
        intro at_ sent
        simp only [reportVerge, hhere, hx, hev, hread] at hgo
        replace hgo := fun P hP => hgo P ((if_neg (not_not.2 hold)).trans hP)
        refine ⟨fun hj => hgo _ (if_pos (by rw [hj]; rfl)), fun P n hj hs => ?_, fun f hj hs => ?_⟩
        all_goals
          replace hgo := fun P hP => hgo P ((if_neg (by rw [hj]; decide)).trans hP)
          simp only [sent, at_] at hs
          simp only [hs] at hgo
          exact hgo _ rfl
  case held =>
    have hstep (ev : Event) (f : Mach → Mach) : engineStep s.m v.m.part ev f = s.m.raise 16 ev := if_pos hheld
    exact ⟨lift_becomes (exec_vergeWriteStart ..) (hstep ..), lift_becomes (exec_vergeWriteComplete ..) (hstep ..),
      lift_becomes (exec_progressReport ..) (hstep ..)⟩
  case waits =>
    refine ⟨fun ws n t hc hv => ?_, fun ws n t hc hv => ?_, fun aux hc hf hl => ?_⟩
    · refine grants_of_wake (p := fun M _ => gridHolds M) (exec_hpubWaitEnd ..) hm hw hg ?_
      rw [hc]
      exact decide_eq_true hv
    · refine grants_of_wake (p := fun M _ => gridHolds M) (exec_hpubWaitEnd ..) hm hw hg ?_
      rw [hc]
      exact List.all_eq_true.2 fun x hx => decide_eq_true (hv x hx)
    · have haux : haloAux s.m w.cond = some aux := by
        rcases hc with ⟨ws, n, t, hc, hv, rfl⟩ | ⟨ws, n, t, x, hc, hfind, rfl⟩
        · rw [hc]
          exact if_pos hv
        · rw [hc, haloAux, hfind]
          rfl
      refine ⟨m.timedOut st (m.now s.m) ⟨0x16, false, rawAt s.m m st, w64 aux, [], false⟩, rawAt s.m m st,
        lift_becomes (exec_haloTimeout ..) ?_, fun u hu => rawAt_eq hu, Member.raised_timedOut .., Member.str_timedOut hw ..⟩
      have hover : (w.granted.isNone && m.freeze = .none && w.since + w.limit ≤ m.now s.m) = true := by
        rw [Bool.and_eq_true, Bool.and_eq_true]
        exact ⟨⟨Option.isNone_iff_eq_none.2 hg, decide_eq_true hf⟩, decide_eq_true hl⟩
      simp only [hm, hw, haux]
      rw [if_pos hover]
      rfl
  case publish =>
    refine lift_becomes (exec_haloTimeout ..) ?_
    cases hv' : m.unread g own ms with
    | nil => rw [hv'] at hv; cases hv
    | cons y ys =>
      rw [hv', List.head?_cons, Option.some.injEq] at hv
      subst hv
      simp only [hm, hw, publishTimeout, hu, hn, hv']
      exact if_pos (Bool.and_eq_true_iff.2 ⟨decide_eq_true ht, hl⟩)

end Sys2Proof.Machine

/-!
PROOFS. Hot rows and their copies, mode switches and refresh, uncorrectable errors (R65 to R77).
-/

namespace Sys2Proof.Machine

/-! ### Sets of numbers and copied spans -/

theorem mem_insertNat {b n : Nat} {l : List Nat} : b ∈ insertNat n l ↔ b = n ∨ b ∈ l := by
  induction l with
  | nil => simp [insertNat]
  | cons x xs ih =>
    rw [insertNat]
    split
    · simp
    · split
      · next h => simp [h]
      · simp only [List.mem_cons, ih]
        tauto

theorem mem_insertNats {b : Nat} (ns l : List Nat) : b ∈ ns.foldl (fun l n => insertNat n l) l ↔ b ∈ l ∨ b ∈ ns := by
  induction ns generalizing l with
  | nil => simp
  | cons n ns ih =>
    rw [List.foldl_cons, ih, mem_insertNat, List.mem_cons]
    tauto

theorem homeBytes_one (M : Mach) (pa n : Nat) : homeBytes M [(pa, n)] = M.get pa n := by simp [homeBytes]

theorem homePoison_homeWrite (ps : List (Nat × Nat)) (M : Mach) (bs : List Byte) (src : List (Nat × Nat)) :
    homePoison (homeWrite M ps bs) src = homePoison M src := by
  induction ps generalizing M bs with
  | nil => rfl
  | cons p ps ih => exact (ih ..).trans rfl

theorem movePoison_none {M : Mach} {src dst : List (Nat × Nat)} (h : homePoison M src = none) : movePoison M src dst = M := by
  rw [movePoison, h]

/-- The blocks a span of pieces lies in. -/
theorem mem_blocks {b : Nat} {ps : List (Nat × Nat)} (h : ∀ q ∈ ps, 0 < q.2) :
    (b ∈ ps.flatMap fun q => (List.range ((q.1 + q.2 - 1) / 64 - q.1 / 64 + 1)).map fun i => q.1 / 64 + i) ↔
      ∃ q ∈ ps, q.1 / 64 ≤ b ∧ b ≤ (q.1 + q.2 - 1) / 64 := by
  simp only [List.mem_flatMap, List.mem_map, List.mem_range]
  refine exists_congr fun q => and_congr_right fun hq => ?_
  have hle : q.1 / 64 ≤ (q.1 + q.2 - 1) / 64 := Nat.div_le_div_right (by have := h q hq; omega)
  constructor
  · rintro ⟨i, hi, rfl⟩
    omega
  · intro hb
    exact ⟨b - q.1 / 64, by omega, by omega⟩

/-! ### The log changes no partition's dies -/

theorem parts_setWord (M : Mach) (a : Nat) (w : Word) : (M.setWord a w).parts = M.parts := rfl

theorem parts_updPart (M : Mach) (id : Nat) (f : Part → Part) :
    (M.updPart id f).parts = updIf (fun p => p.id == id) f M.parts := rfl

/-- A line of the log moves the log's head alone. -/
theorem parts_logPart (M : Mach) (part cause unit : Nat) (v : Word) :
    ∃ g : Part → Part, (∀ p, (g p).owns = p.owns ∧ (g p).id = p.id ∧ (g p).hrcfg = p.hrcfg) ∧
      (M.logPart part cause unit v).parts = M.parts.map g := by
  rw [Mach.logPart]
  cases M.part part with
  | none => exact ⟨id, fun p => ⟨rfl, rfl, rfl⟩, (List.map_id _).symm⟩
  | some o =>
    simp only
    split
    · simp only [parts_updPart, parts_setWord]
      refine ⟨_, fun p => ?_, rfl⟩
      simp only
      split
      · exact ⟨rfl, rfl, rfl⟩
      · exact ⟨rfl, rfl, rfl⟩
    · exact ⟨id, fun p => ⟨rfl, rfl, rfl⟩, (List.map_id _).symm⟩

theorem partOfDie_logPart {M : Mach} {d : Nat} {p : Part} (part cause unit : Nat) (v : Word) (h : partOfDie M d = some p) :
    ∃ q, partOfDie (M.logPart part cause unit v) d = some q ∧ q.id = p.id ∧ q.hrcfg = p.hrcfg := by
  obtain ⟨g, hg, hparts⟩ := parts_logPart M part cause unit v
  refine ⟨g p, ?_, (hg p).2.1, (hg p).2.2⟩
  have howns : ((fun p : Part => p.owns d) ∘ g) = fun p => p.owns d := funext fun p => congrFun (hg p).1 d
  rw [partOfDie, hparts, List.find?_map, howns]
  exact congrArg (Option.map g) h

/-! ### Refresh (R73) -/

/-- A stack after a refresh of one of its pseudo channels, at an interval. -/
def Stack.refreshed (x : Stack) (pc now : Nat) : Stack :=
  let r := x.refreshAt pc now
  if x.switching.isSome || r.credit ≤ -(Config.refreshAhead : Int) then x
  else
    { x with
      refresh := { r with bank := Config.nextBank r.bank, credit := r.credit - 1 } :: x.refresh.filter fun z => z.pc != pc }

section
variable {x : Stack} {pc now : Nat}

theorem Stack.refreshed_held (h : x.switching ≠ none ∨ (x.refreshAt pc now).credit ≤ -(Config.refreshAhead : Int)) :
    x.refreshed pc now = x :=
  if_pos (by rwa [Bool.or_eq_true, Option.isSome_iff_ne_none, decide_eq_true_iff])

theorem Stack.refreshed_due (h : ¬(x.switching ≠ none ∨ (x.refreshAt pc now).credit ≤ -(Config.refreshAhead : Int))) :
    (x.refreshed pc now).refresh =
      { x.refreshAt pc now with
        bank := Config.nextBank (x.refreshAt pc now).bank, credit := (x.refreshAt pc now).credit - 1 } ::
        x.refresh.filter fun z => z.pc != pc := by
  rw [Stack.refreshed, if_neg (by rwa [Bool.or_eq_true, Option.isSome_iff_ne_none, decide_eq_true_iff])]

/-- A refresh leaves the stack's number and modes. -/
theorem Stack.refreshed_frame (x : Stack) (pc now : Nat) :
    (x.refreshed pc now).num = x.num ∧ (x.refreshed pc now).compute = x.compute ∧
      (x.refreshed pc now).switching = x.switching ∧ (x.refreshed pc now).waiting = x.waiting := by
  rw [Stack.refreshed]
  split <;> exact ⟨rfl, rfl, rfl, rfl⟩

end

/-- Settles O50: copies by their row's place and poison, switches by what the replays need, errors by their site. -/
theorem hotRowsAndStacksGoOn : Obligations.HotRowsAndStacksGoOn := by
  refine ⟨fun s part n p hp => ⟨fun hheld set way => ?held, fun g ho => ?decay, fun hsteady set way e t row he hk => ?copies⟩,
    fun s => ?modes⟩
  case held =>
    exact ⟨lift_becomes (exec_fillComplete ..) (if_pos hheld), lift_becomes (exec_writeBackComplete ..) (if_pos hheld)⟩
  case decay =>
    refine lift_becomes (exec_decay ..) ?_
    simp only [hp]
    exact (if_pos ho).trans rfl
  case copies =>
    intro slot
    have hstep (ev : Event) (f : Mach → Mach) : engineStep s.m part ev f = f s.m := if_neg (by rw [hsteady]; decide)
    refine ⟨fun hf => ?fill, fun hd => ?drain⟩
    case fill =>
      intro C i clean
      have hgo (P : Mach) (hP : endFill s.m part n set way = P) : Becomes i s P :=
        lift_becomes (exec_fillComplete ..) ((hstep ..).trans hP)
      simp only [endFill, hp, he, hf, hk, ne_eq, not_true_eq_false, if_false] at hgo
      refine ⟨fun f hr => ?_, fun M ps hr => ?_⟩
      · simp only [C] at hr
        simp only [hr] at hgo
        exact hgo _ rfl
      · simp only [C] at hr
        simp only [hr] at hgo
        refine ⟨fun hn => hgo _ ?_, fun pa hpa => hgo _ ?_⟩
        · have hput : homePoison (M.put (slotPa p.hrcfg n set way) (homeBytes M ps)) ps = none := hn
          simp only [pathPoison, hn, movePoison_none hput]
          rfl
        · simp only [pathPoison, hpa]
          rfl
    case drain =>
      intro i place
      have hgo (P : Mach) (hP : endDrain s.m part n set way = P) : Becomes i s P :=
        lift_becomes (exec_writeBackComplete ..) ((hstep ..).trans hP)
      simp only [endDrain, hp, he, hd, hk, ne_eq, not_true_eq_false, if_false] at hgo
      refine ⟨fun f hr => ?_, fun M ps hr => ?_⟩
      · simp only [place] at hr
        simp only [hr] at hgo
        exact hgo _ rfl
      · simp only [place] at hr
        simp only [hr] at hgo
        intro src bs free
        have hfree (N : Mach) : freeWay N p n e = free N := by
          simp only [freeWay, free]
          cases e.next <;> rfl
        refine ⟨fun hn => hgo _ ?_, fun pa hpa => hgo _ ?_⟩
        · simp only [src, slot] at hn
          simp only [pathPoison, hn, homeBytes_one, movePoison_none ((homePoison_homeWrite ps M _ _).trans hn)]
          exact hfree _
        · simp only [src, slot] at hpa
          simp only [pathPoison, hpa, homeBytes_one]
          exact hfree _
  case modes =>
    refine ⟨fun k b hb hs hc => ?begin, fun k b h => ?stay, fun k b hb => ?done, fun k pc => ?refresh, fun part unit => ?entry,
      fun part tid row p a M ps hp ha hr hpos => ?sram, fun pa => ?block, fun n set p hp => ?dir, fun n g row j p hp => ?sketch,
      fun r t m pa hm hpa => ?tile⟩
    case begin =>
      refine lift_becomes (exec_modeSwitch ..) ((if_pos hb).trans (if_neg ?_))
      rw [hs, hc]
      cases b <;> simp
    case stay =>
      refine lift_becomes (exec_modeSwitch ..) ?_
      rcases h with h | h
      · exact if_neg (by rw [h]; cases b <;> decide)
      · split
        · exact if_pos (by rw [Option.isSome_iff_ne_none.2 h]; rfl)
        · rfl
    case done =>
      refine lift_becomes (exec_modeSwitchComplete ..) ?_
      simp only [hb]
    case refresh =>
      refine ⟨s.m.updStack k fun x => x.refreshed pc (s.m.wclk / (Config.refreshInterval + 1)),
        lift_becomes (exec_refresh ..) rfl, rfl, fun x hx hk => ⟨x.refreshed pc (s.m.wclk / (Config.refreshInterval + 1)), ?_, ?_⟩⟩
      · exact List.mem_map.2 ⟨x, hx, if_pos (beq_iff_eq.2 hk)⟩
      · obtain ⟨hnum, hmode, hsw, hwait⟩ := Stack.refreshed_frame x pc (s.m.wclk / (Config.refreshInterval + 1))
        refine ⟨hnum.trans hk, hmode, hsw, hwait, ?_⟩
        intro r held
        refine ⟨Stack.refreshed_held, fun h => ?_⟩
        rw [Stack.refreshed_due h]
        refine ⟨List.find?_cons_of_pos (beq_iff_eq.2 rfl), fun q hq => ?_⟩
        rw [List.find?_cons_of_neg (by rw [beq_iff_eq]; exact fun h => hq h.symm), List.find?_filter]
        refine List.find?_congr fun z _ => ?_
        by_cases hz : z.pc = q
        · simp [hz, hq]
        · simp [hz]
    case entry => exact lift_becomes (exec_uncorrectableError ..) rfl
    case sram =>
      refine ⟨{ M with poison := (ps.flatMap fun q =>
        (List.range ((q.1 + q.2 - 1) / 64 - q.1 / 64 + 1)).map fun i => q.1 / 64 + i).foldl (fun l b => insertNat b l) M.poison },
        lift_becomes (exec_uncorrectableError ..) ?_, rfl, fun b => ?_⟩
      · simp only [eccError, hp, ha, hr]
      · exact (mem_insertNats _ _).trans (or_congr Iff.rfl (mem_blocks hpos))
    case block => exact lift_becomes (exec_uncorrectableError ..) rfl
    case dir =>
      intro M i trap
      obtain ⟨q, hq, hid, hcfg⟩ := partOfDie_logPart (M := s.m.updChip n fun c =>
        { c with unusable := insertNat set c.unusable, dir := c.dir.filter fun x => x.set != set }) p.id 0x21 n (w64 set) hp
      have hgo (met : Option MRef) (P : Mach)
          (hP : (match met.or (anyMember M p.id) with
            | some r => memberFault M r trap
            | none => M) = P) : Becomes (i met) s P := by
        refine lift_becomes (exec_uncorrectableError ..) (Eq.trans ?_ hP)
        have hp' : partOfDie (s.m.updChip n fun c =>
          { c with unusable := insertNat set c.unusable, dir := c.dir.filter fun x => x.set != set }) (n / 2) = some p := hp
        simp only [eccError, hp', hq, Option.map_some, Option.bind_some, Option.getD_some, hid, hcfg]
        rfl
      exact ⟨fun r => hgo _ _ rfl, fun r hr => hgo _ _ (by rw [hr]; rfl), fun hr => hgo _ _ (by rw [hr]; rfl)⟩
    case sketch =>
      refine lift_becomes (exec_uncorrectableError ..) ?_
      have hp' : partOfDie (s.m.updChip n fun c => c.setSketch ((c.sketch g).setCount row j 0)) (n / 2) = some p := hp
      simp only [eccError, hp']
    case tile =>
      refine lift_becomes (exec_uncorrectableError ..) ?_
      simp only [eccError, hm, hpa, Option.getD_some]

end Sys2Proof.Machine

/-!
PROOFS. The events of the embedding commands (R355 to R370, R430).
-/

namespace Sys2Proof.Machine

/-! ### Raising an event once -/

theorem raiseOnce_pending (M : Mach) (d : Nat) (e : Event) :
    raiseOnce M d e = { M with pending := (raiseOnce M d e).pending } ∧ (∃ x ∈ (raiseOnce M d e).pending, x.ev = e) ∧
      ∀ x ∈ M.pending, x ∈ (raiseOnce M d e).pending := by
  rw [raiseOnce]
  split
  · next h =>
    obtain ⟨x, hx, he⟩ := List.any_eq_true.1 h
    exact ⟨rfl, ⟨x, hx, beq_iff_eq.1 he⟩, fun x hx => hx⟩
  · refine ⟨rfl, ⟨_, List.mem_append_right _ (List.mem_singleton_self _), rfl⟩, fun x hx => List.mem_append_left _ hx⟩

/-- The stacks a region waits for, each with its switch raised (R71). -/
def raiseSwitches (M : Mach) (ks : List Nat) : Mach :=
  ks.foldl (fun M k => if (M.stack k).switching.isNone then raiseOnce M 1 (.modeSwitch k true) else M) M

theorem raiseSwitches_pending (ks : List Nat) (M : Mach) :
    raiseSwitches M ks = { M with pending := (raiseSwitches M ks).pending } ∧
      (∀ k ∈ ks, (M.stack k).switching = none → ∃ d ∈ (raiseSwitches M ks).pending, d.ev = .modeSwitch k true) ∧
      ∀ d ∈ M.pending, d ∈ (raiseSwitches M ks).pending := by
  induction ks generalizing M with
  | nil => exact ⟨rfl, fun k hk => absurd hk List.not_mem_nil, fun d hd => hd⟩
  | cons k ks ih =>
    obtain ⟨N, hN, hframe, hraised, hkept⟩ : ∃ N, raiseSwitches M (k :: ks) = raiseSwitches N ks ∧
        N = { M with pending := N.pending } ∧
        ((M.stack k).switching = none → ∃ d ∈ N.pending, d.ev = .modeSwitch k true) ∧ ∀ d ∈ M.pending, d ∈ N.pending := by
      cases hk : (M.stack k).switching with
      | none =>
        obtain ⟨hf, hr, hd⟩ := raiseOnce_pending M 1 (.modeSwitch k true)
        refine ⟨_, ?_, hf, fun _ => hr, hd⟩
        rw [raiseSwitches, List.foldl_cons, hk]
        rfl
      | some b =>
        refine ⟨M, ?_, rfl, fun h => (Option.some_ne_none _ h).elim, fun d hd => hd⟩
        rw [raiseSwitches, List.foldl_cons, hk]
        rfl
    obtain ⟨iframe, iraised, ikept⟩ := ih N
    have hstack (j : Nat) : N.stack j = M.stack j := by rw [hframe]; rfl
    rw [hN]
    refine ⟨?_, fun j hj hs => ?_, fun d hd => ikept d (hkept d hd)⟩
    · rw [iframe, hframe]
    · rcases List.mem_cons.1 hj with rfl | hj
      · obtain ⟨d, hd, he⟩ := hraised hs
        exact ⟨d, ikept d hd, he⟩
      · exact iraised j hj (by rw [hstack]; exact hs)

/-! ### Exchanges -/

theorem refuseExchange_eq {M : Mach} {r : CmdRef} {c : Cmd} (h : M.cmd r = some c) (code : Nat) (remote : Bool) :
    refuseExchange M r code remote = stopExchange (refuse M r.m c.st (Imprecise.command code 0 c.st r c.pos 0 remote)) r := by
  rw [refuseExchange, h]

/-- Settles O51: each command by what it reads, what it meets and what follows. -/
theorem embeddingCommandsRun : Obligations.EmbeddingCommandsRun := by
  refine ⟨fun s r bag m c p k M os hsteady hc hrun hbag hend hbags hos => ?lookup, fun s r n hheld => ?held,
    fun s r m c p hsteady hc => ?commands, fun s => ?exchange⟩
  case lookup =>
    obtain ⟨hhere, hcmd, hpart, hsys, hdone, hfin⟩ := hc
    intro a b next
    have hgo (P : Mach) (hP : doBag s.m r bag = P) : Becomes (.lookupBag r bag) s P :=
      lift_becomes (exec_lookupBag ..) ((if_neg (by rw [hsteady]; decide)).trans hP)
    have hlive : (c.sys.isSome || c.finished || k.nbag ≤ bag || k.ended.contains bag || k.bags.any fun b => b.1 == bag) = false := by
      simp only [hsys, hfin, Bool.or_eq_false_iff, decide_eq_false_iff_not, not_le, List.any_eq_false, beq_iff_eq]
      exact ⟨⟨⟨⟨rfl, trivial⟩, hbag⟩, by simpa using hend⟩, hbags⟩
    simp only [doBag, hhere, hcmd, hrun, hpart, hlive, hos] at hgo
    refine ⟨fun hlt => hgo _ (if_pos hlt), fun L ls W ws hle hls hplain hwsum => ?_⟩
    intro x
    replace hgo := fun P hP => hgo P ((if_neg (not_lt.2 hle)).trans hP)
    simp only [a, b] at hls
    simp only [hls] at hgo
    have hw : (if k.mode = .wsum then
        readAny L m r.tag (bagWake r bag) .engineRead (k.wgt + w64 (4 * a)) (4 * (b - a)) else .bytes L []) = .bytes W ws := by
      split
      · next h => exact hwsum h
      · next h =>
        obtain ⟨rfl, rfl⟩ := hplain h
        rfl
    simp only [a, b] at hw
    simp only [hw] at hgo
    refine ⟨fun f hf => ?_, fun hf => ?_⟩
    · simp only [x, a, b] at hf
      simp only [hf] at hgo
      exact hgo _ rfl
    · simp only [x, a, b] at hf
      simp only [hf] at hgo
      exact hgo _ rfl
  case held =>
    have hstep (ev : Event) (f : Mach → Mach) : engineStep s.m r.m.part ev f = s.m.raise 16 ev := if_pos hheld
    exact ⟨lift_becomes (exec_lookupBag ..) (hstep ..), lift_becomes (exec_binAppend ..) (hstep ..),
      lift_becomes (exec_replayRegion ..) (hstep ..)⟩
  case commands =>
    obtain ⟨hhere, hcmd, hpart, hsys, hdone, hfin⟩ := hc
    have hstep (ev : Event) (f : Mach → Mach) : engineStep s.m r.m.part ev f = f s.m := if_neg (by rw [hsteady]; decide)
    refine ⟨fun nf list grad n t k M bs N g hrun hbs hg => ?update, fun o t k last hrun => ?replay⟩
    case update =>
      have hgo (P : Mach) (hP : doPair s.m r k = P) : Becomes (.binAppend r k) s P :=
        lift_becomes (exec_binAppend ..) ((hstep ..).trans hP)
      have hlive : (c.sys.isSome || c.finished || c.engineDone || k ≠ k) = false := by simp [hsys, hfin, hdone]
      simp only [doPair, hhere, hcmd, hrun, hpart, hbs, hg] at hgo
      replace hgo := fun P hP => hgo P ((if_neg (by rw [hlive]; decide)).trans hP)
      refine ⟨fun f a ha => ?_, fun O hO => ?_⟩
      · simp only [ha] at hgo
        exact hgo _ rfl
      · simp only [hO] at hgo
        exact ⟨fun h => hgo _ (if_pos h), fun h => hgo _ (if_neg (not_lt.2 h))⟩
    case replay =>
      intro ready
      have hgo (P : Mach) (hP : doRegion s.m r k = P) : Becomes (.replayRegion r k) s P :=
        lift_becomes (exec_replayRegion ..) ((hstep ..).trans hP)
      have hlive : (c.sys.isSome || c.finished || c.engineDone || k ≠ k) = false := by simp [hsys, hfin, hdone]
      have hready (x : Nat) : (!(s.m.stack x).compute || (s.m.stack x).switching.isSome) = true ↔ ¬ready x := by
        simp only [ready, Bool.or_eq_true, Bool.not_eq_true', Option.isSome_iff_ne_none, not_and_or, Bool.not_eq_true, ne_eq]
      simp only [doRegion, hhere, hcmd, hrun, hpart] at hgo
      replace hgo := fun P hP => hgo P ((if_neg (by rw [hlive]; decide)).trans hP)
      refine ⟨fun hw => ?_, fun hr => ?_⟩
      · let ks := (regionStacks s.m p t k).filter fun k => !(s.m.stack k).compute || (s.m.stack k).switching.isSome
        have hks : (!ks.isEmpty) = true := by
          obtain ⟨x, hx, hn⟩ := hw
          rw [Bool.not_eq_true', List.isEmpty_eq_false_iff_exists_mem]
          exact ⟨x, List.mem_filter.2 ⟨hx, (hready x).2 hn⟩⟩
        obtain ⟨hframe, hraised, -⟩ := raiseSwitches_pending ks s.m
        refine ⟨raiseSwitches s.m ks, hgo _ (if_pos hks), hframe, fun x hx hc hs => hraised x (List.mem_filter.2 ⟨hx, ?_⟩) hs⟩
        rw [hc]
        rfl
      · have hnone : (regionStacks s.m p t k).filter (fun k => !(s.m.stack k).compute || (s.m.stack k).switching.isSome) = [] :=
          List.filter_eq_nil_iff.2 fun x hx h => (hready x).1 h (hr x hx)
        simp only [hnone] at hgo
        replace hgo := fun P hP => hgo P ((if_neg (by decide)).trans hP)
        refine ⟨fun f hf => ?_, fun L tails sums odd f hL h => ?_, fun L tails sums odd R rows M hL hR hM => ?_⟩
        · simp only [hf] at hgo
          exact hgo _ rfl
        · simp only [hL] at hgo
          rcases h with h | ⟨R, rows, hR, h⟩
          · simp only [h] at hgo
            exact hgo _ rfl
          · simp only [hR, h] at hgo
            exact hgo _ rfl
        · simp only [hL, hR, hM] at hgo
          exact ⟨fun h => hgo _ (if_pos h), fun h => hgo _ (if_neg (not_lt.2 h))⟩
  case exchange =>
    refine ⟨fun b hheld => ?wait, fun e b q he hsteady hvia => ?packet, fun e b he hsteady hvia => ?bucket,
      fun r m c p x hc hrun => ?answer⟩
    case wait => exact ⟨lift_becomes (exec_bucketReceive ..) (if_pos hheld), lift_becomes (exec_rudBucket ..) (if_pos hheld)⟩
    case packet =>
      have hrec : receiveBucket s.m b = receiveAs s.m (q.resvd == 0 && bucketPayload (packetBucket q) == q.payload) q
          fun M _ => poolBucket M (packetBucket q) := by rw [receiveBucket, hvia]
      rcases he with rfl | rfl
      · exact lift_becomes (exec_bucketReceive ..) ((if_neg (by rw [hsteady]; decide)).trans hrec)
      · exact lift_becomes (exec_rudBucket ..) ((if_neg (by rw [hsteady]; decide)).trans hrec)
    case bucket =>
      intro admitted
      have hgo (P : Mach) (hP : poolBucket s.m b = P) : Becomes e s P := by
        have hrec : receiveBucket s.m b = P := by rw [receiveBucket, hvia]; exact hP
        rcases he with rfl | rfl
        · exact lift_becomes (exec_bucketReceive ..) ((if_neg (by rw [hsteady]; decide)).trans hrec)
        · exact lift_becomes (exec_rudBucket ..) ((if_neg (by rw [hsteady]; decide)).trans hrec)
      have hkey : (!(b.src = s.m.self && b.spart = b.dpart) && !keyOk s.m b.dpart b.key) = true ↔ ¬admitted := by
        simp only [admitted, Bool.and_eq_true, Bool.not_eq_true', ← Bool.not_eq_true, decide_eq_true_iff, not_or]
      refine ⟨fun h => ?_, fun p hp ha => ?_⟩
      · cases hp : s.m.part b.dpart with
        | none => exact hgo _ (by rw [poolBucket, hp])
        | some p =>
          have hn := h.resolve_left (by rw [hp]; exact Option.some_ne_none p)
          simp only [poolBucket, hp] at hgo
          exact hgo _ (if_pos (hkey.2 hn))
      · simp only [poolBucket, hp] at hgo
        replace hgo := fun P hP => hgo P ((if_neg fun h => hkey.1 h ha).trans hP)
        intro here
        refine ⟨fun h => ?_, fun a M x h hx => ?_, fun a M ps h hx => ?_⟩
        all_goals
          simp only [here] at h
          simp only [h] at hgo
        · exact hgo _ rfl
        · simp only [hx] at hgo
          exact hgo _ rfl
        · simp only [hx] at hgo
          exact hgo _ rfl
    case answer =>
      obtain ⟨hhere, hcmd, hpart, hsys, hdone, hfin⟩ := hc
      refine ⟨fun shard ps hshard hbags => ?_, fun hf hs hb he => ?_, ?_⟩
      · intro shards M
        have hopen : (c.engineDone || c.finished || !(x.shards.any fun s => s.1 == shard) || !x.run.bags.isEmpty) = false := by
          have hany : (x.shards.any fun s => s.1 == shard) = true := by
            obtain ⟨y, hy, hs⟩ := hshard
            exact List.any_eq_true.2 ⟨y, hy, beq_iff_eq.2 hs⟩
          rw [hdone, hfin, hany, hbags]
          rfl
        have hgo (a : ShardAnswer) (P : Mach) (hP : takePartial s.m r shard a = P) : Becomes (.rudiPartial r shard a) s P :=
          lift_becomes (exec_rudiPartial ..) hP
        simp only [takePartial, hcmd, hrun] at hgo
        replace hgo := fun a P hP => hgo a P ((if_neg (by rw [hopen]; decide)).trans hP)
        refine ⟨fun h => hgo _ _ (if_pos ?_), fun h => hgo _ _ (if_neg ?_), fun code => hgo _ _ (refuseExchange_eq hcmd ..)⟩
        · exact List.all_eq_true.2 fun y hy => Option.isSome_iff_ne_none.2 (h y hy)
        · obtain ⟨y, hy, hn⟩ := h
          exact fun ha => Option.isSome_iff_ne_none.1 (List.all_eq_true.1 ha y hy) hn
      · refine lift_becomes (exec_a2aCombination ..) ?_
        have hall : (x.shards.all fun s => s.2.isSome) = true :=
          List.all_eq_true.2 fun y hy => Option.isSome_iff_ne_none.2 (hs y hy)
        simp only [combineExchange, hcmd, hrun]
        exact if_neg (by rw [hdone, hfin, hf, hall, hb, he]; decide)
      · refine lift_becomes (exec_uecDeliveryFailure ..) ?_
        simp only [hcmd]
        exact (if_neg (by rw [hdone, hfin]; decide)).trans (refuseExchange_eq hcmd ..)

end Sys2Proof.Machine

/-!
PROOFS. Copy sequences and matrix nests, step by step (R102, R307, R308, R337 to R341).
-/

namespace Sys2Proof.Machine

/-- Settles O52: a sequence by its position and its element's end, a nest by its hold, its chain and its step. -/
theorem enginesRunToTheirEnd : Obligations.EnginesRunToTheirEnd := by
  refine ⟨fun s r m c hm hc => ⟨fun k hrun he hdone hfin hsys hheld => ?held, fun k hrun he hdone hfin hsys hsteady => ?copy,
    fun N hN d hd => ?completion⟩, fun s r m n hm hn hcore hfault => ?nest⟩
  case held =>
    refine lift_becomes (exec_copyElement ..) ?_
    simp only [copyStep, hm, hc]
    exact (if_neg (by rw [he, hdone, hfin, hsys]; decide)).trans (if_pos hheld)
  case copy =>
    intro i
    have hgo (P : Mach) (hP : copyStep s.m r = P) : Becomes i s P := lift_becomes (exec_copyElement ..) hP
    simp only [copyStep, hm, hc, hrun] at hgo
    replace hgo := fun P hP => hgo P ((if_neg (by rw [he, hdone, hfin, hsys]; decide)).trans
      ((if_neg (by rw [hsteady]; decide)).trans hP))
    refine ⟨fun hk => ⟨fun e hf => ?_, fun hf => ?_⟩, fun e hk => ?_⟩
    · simp only [hk, hf] at hgo
      exact hgo _ rfl
    · simp only [hk, hf] at hgo
      exact hgo _ rfl
    · simp only [hk] at hgo
      refine ⟨fun hp => hgo _ (if_pos hp), fun hp => ?_⟩
      replace hgo := fun P hP => hgo P ((if_neg (not_le.2 hp)).trans hP)
      refine ⟨fun M h => ?_, fun M h => ?_, fun t h => ?_, fun h => ?_, fun M h => ?_⟩
      all_goals
        simp only [h] at hgo
        exact hgo _ rfl
  case completion =>
    have hgo (P : Mach) (hP : completeCmd N r = P) : Becomes (.commandCompletion r) s P :=
      lift_becomes (exec_commandCompletion ..) ((congrArg (completeCmd · r) hN).trans hP)
    simp only [completeCmd, hd] at hgo
    refine ⟨fun hdone hout => hgo _ (if_pos (by rw [hdone, hout]; rfl)), fun h => hgo _ (if_neg ?_)⟩
    rw [Bool.and_eq_true, decide_eq_true_iff, not_and_or, Bool.not_eq_true]
    exact h
  case nest =>
    intro i
    have hgo (P : Mach) (hP : runNest s.m r = P) : Becomes i s P := lift_becomes (exec_kStep ..) hP
    have hlive : ¬(m.core.isNone || n.fault.isSome) = true := by
      rw [hfault, Option.isSome_iff_ne_none.1 hcore |> Option.isSome_iff_ne_none.2 |> Option.isNone_eq_false_iff.2]
      decide
    simp only [runNest, hm, hn] at hgo
    replace hgo := fun P hP => hgo P ((if_neg hlive).trans hP)
    refine ⟨fun hh => hgo _ (if_pos hh), fun hh hd => hgo _ ((if_neg (by rw [hh]; decide)).trans (if_pos hd)),
      fun hh hd chain hc => ?_⟩
    replace hgo := fun P hP => hgo P ((if_neg (by rw [hh]; decide)).trans ((if_neg (not_lt.2 hd)).trans hP))
    simp only [hc] at hgo
    refine ⟨fun hch => ?_, fun ci hch => ⟨fun hs => ?_, fun idx hs => ?_⟩⟩
    · simp only [hch] at hgo
      exact hgo _ rfl
    · simp only [hch, hs] at hgo
      exact ⟨fun hr => hgo _ (if_pos hr), fun hr => hgo _ (if_neg (by rw [hr]; decide))⟩
    · simp only [hch, hs] at hgo
      refine ⟨fun hne => hgo _ (if_neg (by rwa [List.isEmpty_iff])), fun he => ?_⟩
      replace hgo := fun P hP => hgo P ((if_pos (List.isEmpty_iff.2 he)).trans hP)
      refine ⟨fun t h => ?_, fun M h => ?_, fun M ds h => ?_⟩
      all_goals
        simp only [h] at hgo
        exact hgo _ rfl

end Sys2Proof.Machine

/-!
PROOFS. The command processors: a doorbell, and each command of a queue by its outcome (R371 to R384).
-/

namespace Sys2Proof.Machine

/-- What an outcome of a command leaves: the queue goes on, holds, stops, enters a frame or waits. -/
def CmdEnd.after (p : Part) (r : QueueRef) (e : Event) : CmdEnd → Mach
  | .next M k => goOn M p r (1 + k)
  | .hold M => kickQueue ((holdQueue (dropFetched M (cpRef p.id r.q) 0) r).raise holdStep e) r
  | .asking M => kickQueue (holdQueue M r) r
  | .stop M stat => kickQueue (stopQueue (dropFetched M (cpRef p.id r.q) 0) r stat) r
  | .enter M fr => kickQueue (M.updQueue r fun q => { q with frames := (fr, 0) :: q.frames, held := false }) r
  | .delay M n => kickQueue ((M.updQueue r fun q => { q with delay := some (M.wclk + n) }).raise n (.delayExpiry r)) r

/-- What a running queue's command does, its engines being free, is its outcome. -/
theorem cpDo_running {M : Mach} {r : QueueRef} {e : Event} {f : Mach → Part → HQueue → CmdEnd} {p : Part} {q : HQueue}
    {c : CmdEnd} (hq : M.queue r = some (p, q)) (hrun : q.running = true) (hfree : q.delay = none)
    (hsteady : enginesHeld M p.id = false) (hf : f M p q = c) : cpDo M r e f = c.after p r e := by
  simp only [cpDo, hq, hrun, hfree, hsteady]
  subst hf
  exact (if_neg (by decide)).trans ((if_neg (by decide)).trans (by cases f M p q <;> rfl))

/-- A command of a running queue, by its outcome. -/
theorem RunsQueue.ends {s : State} {r : QueueRef} {p : Part} {q : HQueue} {i : Instr} {e : Event}
    {f : Mach → Part → HQueue → CmdEnd} {c : CmdEnd} (h : RunsQueue s r p q)
    (he : exec i s = .next { s with m := cpDo s.m r e f }) (hf : f s.m p q = c) : Becomes i s (c.after p r e) := by
  rw [Becomes, he, cpDo_running h.queue h.running h.free h.steady hf]

/-- While a stack of the queue's partition switches, a command holds its queue and comes again 16 cycles later. -/
theorem cpDo_held {M : Mach} {r : QueueRef} {e : Event} {f : Mach → Part → HQueue → CmdEnd} {p : Part} {q : HQueue}
    (hq : M.queue r = some (p, q)) (hrun : q.running = true) (hfree : q.delay = none) (hheld : enginesHeld M p.id = true) :
    cpDo M r e f = (holdQueue M r).raise holdStep e := by
  simp only [cpDo, hq, hrun, hfree, hheld]
  exact (if_neg (by decide)).trans (if_pos trivial)

/-- The record a queue's name finds carries that number. -/
theorem Mach.queue_num {M : Mach} {r : QueueRef} {p : Part} {q : HQueue} (h : M.queue r = some (p, q)) : q.num = r.q := by
  unfold Mach.queue at h
  split at h
  · cases h
  · obtain ⟨x, hx, hpq⟩ := Option.map_eq_some_iff.1 h
    cases hpq
    exact of_decide_eq_true (by simpa using List.find?_some hx)

/-- The partition a number finds carries that number. -/
theorem Mach.part_id {M : Mach} {n : Nat} {p : Part} (h : M.part n = some p) : p.id = n := by
  simpa using List.find?_some h

@[simp] theorem updQueue_word (M : Mach) (r : QueueRef) (f : HQueue → HQueue) (a : Nat) : (M.updQueue r f).word a = M.word a :=
  rfl

/-- Settles O54: a doorbell by its descriptor, a command by its operand checks and its outcome. -/
theorem commandQueuesRunTheirSlots : Obligations.CommandQueuesRunTheirSlots := by
  refine ⟨fun s r p => ⟨fun m st v hm hp => ?ofStream, fun m st v hm hp => ?ofOther, fun ag v hw hag hr hv => ?doorbell,
    fun q k hq => ⟨?nop, ?badNop, ?loop, ?covers, ?cond, ?jump, ?delay, ?badDelay, ?badLoop⟩, fun q k hq hrun hfree hheld => ?held,
    fun q t hq ht hle => ?expired, fun q hq ht => ?again⟩,
    fun s r p q k hq => ⟨?waits, ?badWaits, ?badWrite, ?write, ?fence⟩,
    fun s r p q k hq => ⟨?launch, ?nests, ?ctxnew, ?ctxend⟩⟩
  case ofStream =>
    refine congrArg (fun M => Host.Outcome.next { s with m := M }) ?_
    simp only [hm, if_true, pcbWrite, hp]
    exact if_pos rfl
  case ofOther =>
    refine congrArg (fun M => Host.Outcome.next { s with m := M }) ?_
    simp only [if_neg hm, ignoreWrite, hp]
  case doorbell =>
    intro a d0 d1 d2 hlt howns hen hstat hx M bad far
    have hgo (P : Mach) (hP : ringDoorbell s.m p v = P) : Becomes (.hqdb ag r.part v) s P := by
      refine congrArg (fun M => Host.Outcome.next { s with m := M }) (Eq.trans ?_ hP)
      cases ag with
      | stream m st => exact absurd rfl (hag m st)
      | _ => simp only [pcbWrite, hw.part]; exact if_pos hw.admitted
    have hany : (p.queues.any fun x => x.num == r.q) = true := by
      obtain ⟨x, hx, hnum⟩ := hx
      exact List.any_eq_true.2 ⟨x, hx, beq_iff_eq.2 hnum⟩
    have hname : (⟨p.id, r.q⟩ : QueueRef) = r := by rw [Mach.part_id hw.part]
    have hentry : (min 64 (wf p.hqctl 0 7) ≤ r.q || !ownsHbm p a 32 || !d0.getLsbD 63) = false := by
      rw [howns, hen, decide_eq_false (not_le.2 hlt)]; rfl
    have hbad : (wf d0 61 2 ≠ 0 || wf d1 40 24 ≠ 0 || wf d2 32 32 ≠ 0 || s.m.word (a + 24) ≠ 0 || wf d0 56 5 < 4 ||
        20 < wf d0 56 5 || wf d0 0 56 % (32 * 2 ^ wf d0 56 5) ≠ 0) = true ↔ bad := by
      simp only [bad, Bool.or_eq_true, decide_eq_true_iff, or_assoc]
    simp only [ringDoorbell, ← hr, if_pos hv, hany, hname, if_true, updQueue_word] at hgo
    replace hgo := fun P hP => hgo P ((if_neg (by rw [hentry]; decide)).trans ((if_neg (not_not.2 hstat)).trans hP))
    exact ⟨fun h => hgo _ (if_pos (hbad.2 h)), fun h hf => hgo _ ((if_neg (mt hbad.1 h)).trans (if_pos hf)),
      fun h hf => hgo _ ((if_neg (mt hbad.1 h)).trans (if_neg hf))⟩
  case nop =>
    exact fun h => ⟨hq.ends (c := .next _ 0) (exec_cmdNop ..) (if_pos h),
      hq.ends (c := .stop _ 7) (exec_qstop ..) (if_pos h)⟩
  case badNop =>
    exact fun h => ⟨hq.ends (c := .stop _ 2) (exec_cmdNop ..) (if_neg (by simp [h])),
      hq.ends (c := .stop _ 2) (exec_qstop ..) (if_neg (by simp [h]))⟩
  case loop =>
    intro i inside covered hslot h1 h2
    have hargs : ¬(!slotOk k 0 true true 0 || decide (k.argh = 0) || decide (1024 < k.argh)) = true := by
      simp [hslot]; omega
    have hjump : (match jumpFrame q.frames with
        | some (_, n) => decide (n < i + 1 + k.argh)
        | none => false) = true ↔ ¬inside := by
      simp only [inside]
      rcases jumpFrame q.frames with _ | ⟨b, n⟩ <;> simp
    have hgo {c} (hc : _ = c) := hq.ends (c := c) (exec_cmdLoop r k s) ((if_neg hargs).trans hc)
    refine ⟨fun h => ?_, fun hd hin => ⟨fun hc => ?_, fun hc h0 => ?_, fun hc h0 => ?_⟩⟩
    · by_cases hd : 4 ≤ loopDepth q.frames
      · exact hgo (c := .stop _ 4) (if_pos hd)
      · exact hgo (c := .stop _ 4) ((if_neg hd).trans (if_pos (hjump.2 (h.resolve_left hd))))
    all_goals
      have hopen {c} (hc : _ = c) := hgo (c := c) ((if_neg (not_le.2 hd)).trans ((if_neg (mt hjump.1 (not_not.2 hin))).trans hc))
    · exact hopen (c := .hold _) (if_pos (by simpa [covered] using hc))
    · exact hopen (c := .next _ k.argh) ((if_neg (by simpa [covered] using hc)).trans (if_pos h0))
    · exact hopen (c := .enter _ _) ((if_neg (by simpa [covered] using hc)).trans (if_neg h0))
  case covers =>
    intro n head
    have hnum := Mach.queue_num hq.queue
    simp only [tailCovers, Bool.or_eq_true, decide_eq_true_iff, hnum, Option.isSome_iff_ne_none, head]
  case cond =>
    intro M bs hslot hal hread v holds
    have hargs : ¬(!slotOk k 2 true false 3 || !aligned k.w1 8) = true := by simp [hslot, hal]
    have hgo {c} (hc : _ = c) := hq.ends (c := c) (exec_cmdIf r k s) ((if_neg hargs).trans hc)
    simp only [hread] at hgo
    have hflags : k.flags < 4 := by
      simp only [slotOk, Bool.and_eq_true, decide_eq_true_iff] at hslot
      omega
    have hholds : (match k.flags with
        | 0 => v == k.w2
        | 1 => v != k.w2
        | 2 => decide (k.w2.toNat ≤ v.toNat)
        | _ => decide (v.toNat < k.w2.toNat)) = true ↔ holds := by
      simp only [holds]
      clear_value v
      generalize k.flags = f at hflags
      interval_cases f <;> simp
    refine ⟨fun h => hgo (c := .next _ 0) (if_pos (hholds.2 h)), fun h hc => ?_, fun h hc => ?_⟩
    · exact hgo (c := .next _ k.argl) ((if_neg (mt hholds.1 h)).trans (if_pos hc))
    · exact hgo (c := .hold _) ((if_neg (mt hholds.1 h)).trans (if_neg (by simp [hc])))
  case jump =>
    intro hslot hal h1 h2
    have hargs : ¬(!slotOk k 0 true false 1 || !aligned k.w1 32 || decide (k.argl = 0) || decide (65536 < k.argl)) = true := by
      simp [hslot, hal]; omega
    have hgo {c} (hc : _ = c) := hq.ends (c := c) (exec_jump r k s) ((if_neg hargs).trans hc)
    exact ⟨fun h => hgo (c := .stop _ 4) (if_pos (Option.isSome_iff_ne_none.2 h)),
      fun h => hgo (c := .enter _ _) (if_neg (by simp [h]))⟩
  case delay =>
    intro hslot
    have hend {c} (hc : _ = c) := hq.ends (c := c) (exec_intr r k s) hc
    exact ⟨hq.ends (c := .delay _ _) (exec_delay ..) (if_pos hslot),
      fun h => hend (c := .next _ 0) (if_neg (by simp [hslot, h])), fun h => hend (c := .stop _ 2) (if_pos (by simp [h]))⟩
  case badDelay =>
    intro hslot
    exact ⟨hq.ends (c := .stop _ 2) (exec_delay ..) (if_neg (by simp [hslot])),
      hq.ends (c := .stop _ 2) (exec_intr ..) (if_pos (by simp [hslot]))⟩
  case badLoop =>
    intro h
    exact hq.ends (c := .stop _ 2) (exec_cmdLoop ..) (if_pos (by simp; omega))
  case held =>
    have hheld' (e : Event) (f) : cpDo s.m r e f = _ := cpDo_held hq hrun hfree hheld
    exact ⟨lift_becomes (exec_cmdNop ..) (hheld' _ _), lift_becomes (exec_write ..) (hheld' _ _),
      lift_becomes (exec_launch ..) (hheld' _ _)⟩
  case expired =>
    refine lift_becomes (exec_delayExpiry ..) ?_
    simp only [hq, ht]
    exact if_neg (not_lt.2 hle)
  case again =>
    refine lift_becomes (exec_delayExpiry ..) ?_
    simp only [hq, ht]
  case waits =>
    intro hslot hfl hal
    have hargs : ¬(!slotOk k 3 false false 2 || decide (6 ≤ k.flags) || !aligned k.w1 8) = true := by
      simp [hslot, hal]; omega
    refine ⟨fun M bs hread => ?_, fun hin => ?_, fun hin hmay => ?_, fun hin hmay => ?_⟩
    · have hgo {c} (hc : _ = c) := hq.ends (c := c) (exec_wait r k s) ((if_neg hargs).trans hc)
      simp only [hread] at hgo
      exact ⟨fun h => hgo (c := .next _ 0) (if_pos h), fun h => hgo (c := .hold _) (if_neg (not_le.2 h))⟩
    all_goals
      have hsig {c} (hc : _ = c) := hq.ends (c := c) (exec_signal r k s) ((if_neg hargs).trans hc)
      have hadd {c} (hc : _ = c) := hq.ends (c := c) (exec_sigadd r k s) ((if_neg hargs).trans hc)
    · have hout : (!inDefault p k.w1.toNat 8) = true := by rw [hin]; rfl
      exact ⟨hsig (c := .stop _ 2) (if_pos hout), hadd (c := .stop _ 2) (if_pos hout)⟩
    all_goals
      have hsig {c} (hc : _ = c) := hsig (c := c) ((if_neg (by rw [hin]; decide)).trans hc)
      have hadd {c} (hc : _ = c) := hadd (c := c) ((if_neg (by rw [hin]; decide)).trans hc)
    · have hnot : (!mayRelease s.m p q k.flags) = true := by rw [hmay]; rfl
      exact ⟨hsig (c := .hold _) (if_pos hnot), hadd (c := .hold _) (if_pos hnot)⟩
    have hsig {c} (hc : _ = c) := hsig (c := c) ((if_neg (by rw [hmay]; decide)).trans hc)
    have hadd {c} (hc : _ = c) := hadd (c := c) ((if_neg (by rw [hmay]; decide)).trans hc)
    refine ⟨fun M hst => ?_, fun f hst => ?_, fun M pa l ts hsp => ?_, fun N dev peer ra l ts hsp => ?_, fun f hsp => ?_⟩
    · simp only [hst] at hsig
      exact hsig (c := .next _ 0) rfl
    · simp only [hst] at hsig
      exact hsig (c := .stop _ 3) rfl
    · simp only [hsp] at hadd
      exact ⟨fun h => hadd (c := .next _ 0) (if_neg (by rw [h]; decide)), fun h => hadd (c := .stop _ 3) (if_pos h)⟩
    · intro waits who c got
      simp only [hsp, addFar] at hadd
      refine ⟨fun h => ?_, fun f h => ⟨fun hcode => ?_, fun hcode => ?_, fun n hcode => ?_⟩⟩
      all_goals
        simp only [got, who] at h
      · simp only [h] at hadd
        exact hadd (c := .asking _) rfl
      · simp only [h, hcode] at hadd
        exact hadd (c := .asking _) rfl
      · simp only [h, hcode] at hadd
        exact hadd (c := .next _ 0) rfl
      · simp only [h, hcode] at hadd
        exact hadd (c := .stop _ 3) rfl
    · simp only [hsp] at hadd
      exact hadd (c := .stop _ 3) rfl
  case badWaits =>
    intro h
    have hargs : (!slotOk k 3 false false 2 || decide (6 ≤ k.flags) || !aligned k.w1 8) = true := by
      simpa [or_assoc] using h
    exact ⟨hq.ends (c := .stop _ 2) (exec_wait ..) (if_pos hargs), hq.ends (c := .stop _ 2) (exec_signal ..) (if_pos hargs),
      hq.ends (c := .stop _ 2) (exec_sigadd ..) (if_pos hargs)⟩
  case badWrite =>
    exact fun h => hq.ends (c := .stop _ 2) (exec_write ..) (if_pos (by simpa using h))
  case write =>
    intro hslot hal
    have hgo {c} (hc : _ = c) := hq.ends (c := c) (exec_write r k s) ((if_neg (by simp [hslot, hal])).trans hc)
    refine ⟨fun M hst => ?_, fun f hst => ?_⟩
    · simp only [hst] at hgo
      exact hgo (c := .next _ 0) rfl
    · simp only [hst] at hgo
      exact hgo (c := .stop _ 3) rfl
  case fence =>
    intro hslot hfl
    have hgo {c} (hc : _ = c) := hq.ends (c := c) (exec_cmdFence r k s) ((if_neg (by simp [hslot]; omega)).trans hc)
    exact ⟨fun h => hgo (c := .next _ 0) (if_pos h), fun h => hgo (c := .hold _) (if_neg (by simp [h]))⟩
  case launch =>
    intro e N sizes he w nest hw hnest counts good M
    have hgo {c} (hc : launchTask N p q k.w1.toNat sizes = c) (hper : ∀ ev ev', c.after p r ev = c.after p r ev') :
        Becomes e s (c.after p r (.launch r k)) := by
      obtain ⟨rfl, hslot, hal, rfl, rfl⟩ | ⟨rfl, hslot, hal, hal2, bs, hread, rfl⟩ := he
      · exact hq.ends (exec_launch r k s) ((if_neg (by simp [hslot, hal])).trans hc)
      · rw [hper _ (.launchi r k)]
        refine hq.ends (exec_launchi r k s) ((if_neg (by simp [hslot, hal, hal2])).trans ?_)
        simp only [hread]
        exact hc
    have hfields : (decide (tcbState (recW w 0) ≠ 0) || !tcbFields N p.id w) = true ↔
        ¬(tcbState (recW w 0) = 0 ∧ tcbFields N p.id w = true) := by
      simp only [Bool.or_eq_true, decide_eq_true_iff, Bool.not_eq_true', not_and_or, Bool.not_eq_true]
    have hgood : good ↔ (tcbState (recW w 0) = 0 ∧ tcbFields N p.id w = true) ∧ nestOk nest counts = true := by
      simp only [good, tcbOk, Bool.and_eq_true, and_assoc]
    simp only [launchTask, hw, hnest] at hgo
    refine ⟨fun h h0 => ?_, fun h h0 => ?_, fun h => ?_⟩
    · obtain ⟨hf, hn⟩ := hgood.1 h
      exact hgo (c := .next _ 0) ((if_neg (mt hfields.1 (not_not.2 hf))).trans
        ((if_neg (by simp only [counts] at hn; simp [hn])).trans (if_pos h0))) fun _ _ => rfl
    · obtain ⟨hf, hn⟩ := hgood.1 h
      exact hgo (c := .next _ 0) ((if_neg (mt hfields.1 (not_not.2 hf))).trans
        ((if_neg (by simp only [counts] at hn; simp [hn])).trans (if_neg h0))) fun _ _ => rfl
    · by_cases hf : tcbState (recW w 0) = 0 ∧ tcbFields N p.id w = true
      · have hn : (!nestOk nest counts) = true := by
          rw [Bool.not_eq_true', ← Bool.not_eq_true]
          exact fun hn => h (hgood.2 ⟨hf, hn⟩)
        exact hgo (c := .stop _ 5) ((if_neg (mt hfields.1 (not_not.2 hf))).trans (if_pos hn)) fun _ _ => rfl
      · exact hgo (c := .stop _ 5) (if_pos (hfields.2 hf)) fun _ _ => rfl
  case nests =>
    intro hslot hal w hw hnest good
    have hgo {c} (hc : _ = c) := hq.ends (c := c) (exec_launch r k s) ((if_neg (by simp [hslot, hal])).trans hc)
    simp only [launchTask, hw, hnest] at hgo
    have hbad : (decide (tcbState (recW w 0) ≠ 0) || !tcbFields s.m p.id w) = true ↔ ¬good := by
      simp only [good, Bool.or_eq_true, decide_eq_true_iff, Bool.not_eq_true', not_and_or, Bool.not_eq_true]
    exact ⟨fun h => hgo (c := .stop _ 3) (if_neg (mt hbad.1 (not_not.2 h))), fun h => hgo (c := .stop _ 5) (if_pos (hbad.2 h))⟩
  case ctxnew =>
    intro hslot hlt hal M bs hread w gid refused
    have hgo {c} (hc : _ = c) := hq.ends (c := c) (exec_ctxnew r k s) ((if_neg (by simp [hslot, hal]; omega)).trans hc)
    simp only [hread] at hgo
    have hrefused : (p.ctxs.any (fun c => c.id == k.argl) || launchBad M p w ||
        (decide (gid ≠ 0) && groupBad M gid (fld (recW w 7) 16 16))) = true ↔ refused := by
      simp only [refused, Bool.or_eq_true, Bool.and_eq_true, decide_eq_true_iff, List.any_eq_true, beq_iff_eq, or_assoc]
    refine ⟨fun h => hgo (c := .stop _ 6) (if_pos (hrefused.2 h)), fun N img h => ?_⟩
    intro n himg
    replace hgo {c} (hc : _ = c) := hgo (c := c) ((if_neg (mt hrefused.1 h)).trans hc)
    simp only [n, w] at himg
    simp only [himg] at hgo
    exact hgo (c := .next _ 0) rfl
  case ctxend =>
    intro hslot hlt
    have hgo {c} (hc : _ = c) := hq.ends (c := c) (exec_ctxend r k s) ((if_neg (by simp [hslot]; omega)).trans hc)
    refine ⟨fun h => hgo (c := .stop _ 6) (if_pos (by simpa using h)), fun h => ?_⟩
    replace hgo {c} (hc : _ = c) := hgo (c := c) ((if_neg (by simpa using h)).trans hc)
    exact ⟨fun hb => hgo (c := .hold _) (if_pos hb), fun hb => hgo (c := .next _ 0) (if_neg (by simp [hb]))⟩

end Sys2Proof.Machine

/-!
PROOFS. Tasks: their counts of predecessors, cards, dispatch, ages, retirement and periods (R381 to R394).
-/

namespace Sys2Proof.Machine

theorem fld_pred {w : Nat} (h : fld w 0 16 = 1) : fld (w - 1) 0 16 = 0 := by
  simp only [fld, Nat.shiftRight_zero] at h ⊢
  omega

theorem fld_pred_ne {w : Nat} (h : 1 < fld w 0 16) : fld (w - 1) 0 16 ≠ 0 := by
  simp only [fld, Nat.shiftRight_zero] at h ⊢
  omega

/-- A partition after an update that keeps its number. -/
theorem part_updPart_same {M : Mach} {n : Nat} {p : Part} {f : Part → Part} (h : M.part n = some p)
    (hf : ∀ x, (f x).id = x.id := by intro x; rfl) : (M.updPart n f).part n = some (f p) := by
  unfold Mach.part at h ⊢
  rw [parts_updPart, find_updIf _ _ (fun x hx => by rw [hf x]; exact hx), h]
  rfl

theorem raiseOnce_frame (M : Mach) (d : Nat) (e : Event) :
    (raiseOnce M d e).mem = M.mem ∧ (raiseOnce M d e).members = M.members ∧ (raiseOnce M d e).parts = M.parts := by
  unfold raiseOnce
  split <;> exact ⟨rfl, rfl, rfl⟩

/-- The index registers of a stream that starts an iteration. -/
theorem start_index (m : Member) (p : Part) (t : Task) (n now : Nat) (d : Fin 6) :
    (m.start p t n now).c.main (BitVec.ofNat 5 (d.val + 1)) = w64 (iterIndex t.nest t.counts n d.val) := by
  fin_cases d <;> rfl

/-- The registers above the index and parameter registers are cleared. -/
theorem start_cleared (m : Member) (p : Part) (t : Task) (n now : Nat) (j : BitVec 5) (hj : 8 ≤ j.toNat) :
    (m.start p t n now).c.main j = 0 := by
  have h0 : j ≠ 0 := fun h => by rw [h] at hj; exact absurd hj (by decide)
  simp only [Stream.main, if_neg h0, Member.start]
  repeat rw [Vector.getElem_set_ne _ _ (by omega)]
  exact Vector.getElem_replicate ..

/-- Settles O55: each event of a task by what it reads of the task's block. -/
theorem tasksGoFromCardToRetirement : Obligations.TasksGoFromCardToRetirement := by
  refine ⟨fun s part tcb p r hp hr => ?pred, fun s part die card p hp => ?card,
    fun s part die p hp => ⟨fun hlive howns => ?dispatch, ?ages, fun m t n now => ?start⟩,
    fun s part tcb => ⟨fun t r ht hr hf htot => ?retire, fun p hp => ?period⟩⟩
  case pred =>
    intro w st e
    have hgo (b : Bool) (P : Mach) (hP : decrementPred s.m part tcb b = P) : Becomes (.predDecrement part tcb b) s P :=
      lift_becomes (exec_predDecrement ..) hP
    simp only [decrementPred, hr, hp] at hgo
    have hfail (P : Mach) (hP : failTask s.m part tcb 2 = P) := hgo true P ((if_pos rfl).trans hP)
    replace hgo := fun P hP => hgo false P ((if_neg (by decide)).trans hP)
    have hdec : (decide (fld (w - 1) 0 16 = 0) && decide (st = 1)) = true ↔ fld (w - 1) 0 16 = 0 ∧ st = 1 := by
      simp only [Bool.and_eq_true, decide_eq_true_iff]
    refine ⟨fun h => hgo _ (if_pos h), fun h h1 => ?_, fun h => ?_, fun h => hfail _ rfl, fun h => hfail _ ?_⟩
    · have h0 : ¬fld w 0 16 = 0 := by omega
      exact hgo _ ((if_neg h0).trans (if_pos (hdec.2 ⟨fld_pred h, h1⟩)))
    · have h0 : ¬fld w 0 16 = 0 := by omega
      refine hgo _ ((if_neg h0).trans (if_neg (mt hdec.1 ?_)))
      rintro ⟨hz, h1⟩
      obtain h | ⟨-, h⟩ := h
      · exact fld_pred_ne h hz
      · exact h h1
    · simp only [failTask, hr]
      exact if_pos h
  case card =>
    intro c tcb e
    have hgo (P : Mach) (hP : admitCard s.m part die card = P) : Becomes e s P := lift_becomes (exec_cardAdmission ..) hP
    simp only [admitCard, hp] at hgo
    refine ⟨fun prio d => lift_becomes (exec_cardRepush ..) rfl, fun h => hgo _ (if_pos h), fun h => ?_⟩
    intro dropped
    replace hgo := fun P hP => hgo P ((if_neg (not_le.2 h)).trans hP)
    have hbad : (decide (fld c 59 5 ≠ 0) || decide (fld c 96 32 ≠ 0)) = true ↔ fld c 59 5 ≠ 0 ∨ fld c 96 32 ≠ 0 := by
      simp only [Bool.or_eq_true, decide_eq_true_iff]
    refine ⟨fun hf => hgo _ (if_pos (hbad.2 hf)), fun hr => ?_, fun r hr hn => ?_, fun r nest counts h1 h2 hr hn => ?_⟩
    · simp only [c, tcb] at hr
      simp only [hr] at hgo
      exact hgo _ (ite_self _)
    · simp only [c, tcb] at hr hn
      simp only [hr, hn] at hgo
      exact hgo _ (ite_self _)
    · intro w admissible
      simp only [c, tcb] at hr hn
      simp only [hr, hn] at hgo
      replace hgo := fun P hP => hgo P ((if_neg (mt hbad.1 (by tauto))).trans hP)
      have hadm : (decide (tcbState w = 2) || (decide (tcbState w = 0) && decide (fld w 0 16 = 0) &&
          decide (fld card.toNat 0 56 % 128 = 0) && tcbOk s.m part r nest counts)) = true ↔ admissible := by
        simp only [admissible, tcb, c, Bool.or_eq_true, Bool.and_eq_true, decide_eq_true_iff, and_assoc]
      exact ⟨fun h => hgo _ (if_neg (mt hadm.1 h)), fun h => hgo _ (if_pos (hadm.2 h))⟩
  case dispatch =>
    intro e free claimed next best
    have hgo (P : Mach) (hP : dispatchDie s.m part die = P) : Becomes e s P := lift_becomes (exec_chunkDispatch ..) hP
    have hthere : (!s.m.liveDies.contains die || !p.owns die) = false := by
      rw [howns, List.contains_iff_mem.2 hlive]; rfl
    simp only [dispatchDie, hp] at hgo
    replace hgo := fun P hP => hgo P ((if_neg (by rw [hthere]; decide)).trans hP)
    refine ⟨fun t first n hb hc => ?_, fun t hnone hb => ?_, fun hnone hnext => ?_⟩
    · simp only [best, claimed] at hb
      simp only [hb, hc] at hgo
      exact hgo _ rfl
    · simp only [best, next, free] at hb
      simp only [claimed] at hnone
      simp only [hnone, leastBy, hb] at hgo
      exact hgo _ rfl
    · simp only [claimed, next, free] at hnone hnext
      simp only [hnone, hnext, leastBy] at hgo
      exact hgo _ rfl
  case ages =>
    have hages : (s.m.updPart part fun p => { p with tasks := p.tasks.map fun t => { t with age := t.ageAt s.m } }).part part
        = some { p with tasks := p.tasks.map fun t => { t with age := t.ageAt s.m } } :=
      part_updPart_same hp
    have hgo (P : Mach) (hP : refreshAges s.m part = P) : Becomes (.ageRefresh part) s P :=
      lift_becomes (exec_ageRefresh ..) hP
    simp only [refreshAges, hages] at hgo
    by_cases hnone : (p.tasks.map fun t => { t with age := t.ageAt s.m }).isEmpty = true
    · exact ⟨_, hgo _ (if_pos hnone), rfl, rfl, hages⟩
    · obtain ⟨hmem, hmembers, hparts⟩ := raiseOnce_frame
        (s.m.updPart part fun p => { p with tasks := p.tasks.map fun t => { t with age := t.ageAt s.m } }) (2 ^ 39)
        (.ageRefresh part)
      exact ⟨_, hgo _ (if_neg hnone), hmem, hmembers, by rw [Mach.part, hparts]; exact hages⟩
  case start =>
    exact ⟨rfl, rfl, rfl, rfl, rfl, rfl, rfl, start_index m p t n now, rfl, start_cleared m p t n now, rfl, rfl, rfl, rfl, rfl⟩
  case retire =>
    intro M
    have hgo (P : Mach) (hP : retireTask s.m part tcb = P) : Becomes (.taskRetire part tcb) s P :=
      lift_becomes (exec_taskRetire ..) hP
    simp only [retireTask, ht, hr] at hgo
    replace hgo := fun P hP => hgo P ((if_neg (by simp [hf, htot])).trans hP)
    exact ⟨fun h => hgo _ (if_pos h), fun h => hgo _ (if_neg (by simpa [M] using h))⟩
  case period =>
    intro left
    have hgo (P : Mach) (hP : beginPeriod s.m part = P) : Becomes (.periodBoundary part) s P :=
      lift_becomes (exec_periodBoundary ..) hP
    simp only [beginPeriod, hp] at hgo
    refine ⟨_, hgo _ rfl, rfl, rfl, ⟨_, part_updPart_same hp, rfl, rfl, rfl, rfl⟩, ?_⟩
    intro c hc howns
    obtain ⟨c', -, rfl⟩ := List.mem_map.1 hc
    by_cases ho : p.owns (c'.num / 2) = true
    · rw [if_pos ho]
    · rw [if_neg ho] at howns
      exact absurd howns ho

end Sys2Proof.Machine

/-!
PROOFS. Packets: what a packet in turn does, what happens to the others, connections and the router (R415 to R426).
-/

namespace Sys2Proof.Machine

/-! ### What a connection's record leaves -/

@[simp] theorem Mach.setConn_wclk (M : Mach) (c : Conn) : (M.setConn c).wclk = M.wclk := rfl
@[simp] theorem Mach.setConn_free (M : Mach) (c : Conn) : (M.setConn c).free = M.free := rfl
@[simp] theorem Mach.setConn_mem (M : Mach) (c : Conn) : (M.setConn c).mem = M.mem := rfl

theorem Mach.setConn_word (M : Mach) (c : Conn) : (M.setConn c).word = M.word := rfl
theorem Mach.setConn_poisoned (M : Mach) (c : Conn) : (M.setConn c).poisoned = M.poisoned := rfl
theorem fenced_setConn (M : Mach) (c : Conn) : fenced (M.setConn c) = fenced M := rfl
theorem entryMalformed_setConn (M : Mach) (c : Conn) : entryMalformed (M.setConn c) = entryMalformed M := by
  unfold entryMalformed
  rfl

theorem readLevel_setConn (M : Mach) (c : Conn) : readLevel (M.setConn c) = readLevel M := by
  unfold readLevel
  rw [Mach.setConn_word, fenced_setConn, Mach.setConn_poisoned, entryMalformed_setConn]

theorem walkLevel_setConn (M : Mach) (c : Conn) : walkLevel (M.setConn c) = walkLevel M := by
  unfold walkLevel
  simp only [readLevel_setConn, Mach.setConn_free]
  rfl

theorem walkFrom_setConn (M : Mach) (c : Conn) (die : Nat) (p : Part) (pva : Word) :
    ∀ fuel level table, walkFrom (M.setConn c) die p pva fuel level table = walkFrom M die p pva fuel level table
  | 0, _, _ => rfl
  | fuel + 1, level, table => by
    simp only [walkFrom, walkLevel_setConn, walkFrom_setConn M c die p pva fuel]

theorem walk_setConn (M : Mach) (c : Conn) : walk (M.setConn c) = walk M := by
  unfold walk
  simp only [walkFrom_setConn]

theorem xlate_setConn (M : Mach) (c : Conn) : xlate (M.setConn c) = xlate M := by
  unfold xlate missResult
  simp only [walk_setConn]
  rfl

theorem xspan_setConn (M : Mach) (c : Conn) : xspan (M.setConn c) = xspan M := by
  unfold xspan
  rw [xlate_setConn]
  rfl
theorem admission_setConn (M : Mach) (c : Conn) : admission (M.setConn c) = admission M := by
  unfold admission
  rw [xspan_setConn]
  rfl
theorem packetReach_setConn (M : Mach) (c : Conn) : packetReach (M.setConn c) = packetReach M := by
  unfold packetReach
  rw [admission_setConn]
theorem packetHeld_setConn (M : Mach) (c : Conn) : packetHeld (M.setConn c) = packetHeld M := by
  unfold packetHeld
  rw [packetReach_setConn]
  rfl

theorem updIf_of_none {α : Type} {t : α → Bool} (f : α → α) {l : List α} (h : ∀ x ∈ l, t x = false) : updIf t f l = l :=
  (List.map_congr_left fun x hx => by rw [h x hx]; rfl).trans (List.map_id l)

/-- A connection's record, written twice. -/
theorem setConn_setConn (M : Mach) (a b : Conn) (h : a.ref = b.ref) : (M.setConn a).setConn b = M.setConn b := by
  have hfuse (l : List Conn) : updIf (fun x => x.ref == b.ref) (fun _ => b) (updIf (fun x => x.ref == b.ref) (fun _ => a) l)
      = updIf (fun x => x.ref == b.ref) (fun _ => b) l := by
    simp only [updIf, List.map_map]
    refine List.map_congr_left fun x _ => ?_
    by_cases hx : x.ref = b.ref <;> simp [hx, h]
  have hany (l : List Conn) : (updIf (fun x => x.ref == b.ref) (fun _ => a) l).any (fun x => x.ref == b.ref)
      = l.any fun x => x.ref == b.ref := by
    simp only [updIf, List.any_map]
    refine congrArg (l.any ·) (funext fun x => ?_)
    by_cases hx : x.ref = b.ref <;> simp [hx, h]
  unfold Mach.setConn
  simp only [h]
  by_cases hin : (M.conns.any fun x => x.ref == b.ref) = true
  · simp only [hin, if_true, hany, hfuse]
  · have hnone : ∀ x ∈ M.conns, (x.ref == b.ref) = false := by simpa using hin
    have hnew : updIf (fun x => x.ref == b.ref) (fun _ => b) (M.conns ++ [a]) = M.conns ++ [b] := by
      have hone : updIf (fun x => x.ref == b.ref) (fun _ => b) [a] = [b] := by simp [updIf, h]
      rw [updIf, List.map_append, ← updIf, ← updIf, updIf_of_none _ hnone, hone]
    simp [h, hin, hnew]

/-- The record that a connection's reference finds carries it. -/
theorem Mach.conn_ref {M : Mach} {r : ConnRef} {c : Conn} (h : M.conn r = some c) : c.ref = r := by
  simpa using List.find?_some h

theorem conn_setConn (M : Mach) (c : Conn) : (M.setConn c).conn c.ref = some c := by
  unfold Mach.conn Mach.setConn
  by_cases hin : (M.conns.any fun x => x.ref == c.ref) = true
  · simp only [hin, if_true]
    rw [find_updIf (fun x : Conn => x.ref == c.ref) (fun _ => c) fun _ _ => beq_self_eq_true c.ref]
    obtain ⟨x, hx⟩ := Option.isSome_iff_exists.1 (List.find?_isSome.2 (List.any_eq_true.1 hin))
    rw [hx]
    rfl
  · have hnone : M.conns.find? (fun x => x.ref == c.ref) = none :=
      List.find?_eq_none.2 fun x hx => by simpa using fun h => hin (List.any_eq_true.2 ⟨x, hx, by simp [h]⟩)
    simp [hin, List.find?_append, hnone]

theorem conn_setConn_of (M : Mach) {c : Conn} {r : ConnRef} (h : c.ref = r) : (M.setConn c).conn r = some c :=
  h ▸ conn_setConn M c

/-- A packet in its turn is performed, its connection expecting the next number; `M1` is the machine once an opening
packet has opened its connection. -/
theorem receive_turn {M M1 : Mach} {p : Packet} {apply : Apply} {c : Conn} (hd : p.dst = M.self) (hok : packetOk p = true)
    (hM1 : (if (p.kind == 7 && p.kspec.toNat % 16 == 0 && p.seq == 0) = true then openHere M (packetConn p) else M) = M1)
    (hc : M1.conn (cameBy p) = some c) (hfits : rspFits c p = true) (hack : ¬(p.kind = 7 ∧ p.kspec.toNat % 16 = 3))
    (hstands : c.state ≠ .closed) (hheld : packetHeld M1 p = false) (hturn : p.seq = c.expect) :
    receive M p apply = afterTurn (apply (atTurn M1 c) (cameBy p)) p c := by
  have hsteady : packetHeld (M1.setConn { c with last := M1.wclk }) p = false := by
    rw [packetHeld_setConn]; exact hheld
  have hc' : M1.conn (packetConn p) = some c := hc
  simp only [receive, receiveAs, hd, hok, hM1, hc', hfits]
  refine (if_neg (not_not.2 rfl)).trans ((if_neg (by decide)).trans ((if_neg (by decide)).trans
    ((if_neg (by simpa using hack)).trans ((if_neg hstands).trans ((if_neg (by rw [hsteady]; simp)).trans
    ((if_pos hturn).trans ?_))))))
  rw [setConn_setConn]
  · rfl
  · rfl

/-! ### The packets that are not performed -/

section
variable {M : Mach} {p : Packet} {apply : Apply} {c : Conn}

theorem receive_elsewhere (hd : p.dst ≠ M.self) : receive M p apply = route M { p with hops := p.hops + 1 } :=
  if_pos hd

theorem receive_malformed (hd : p.dst = M.self) (hok : packetOk p = false) :
    receive M p apply = M.logDev (0xF000 + p.sprt) p.addr := by
  simp only [receive, receiveAs, hd, hok]
  exact (if_neg (not_not.2 rfl)).trans (if_pos rfl)

theorem notOpening (M : Mach) {p : Packet} (hno : ¬(p.kind = 7 ∧ p.kspec.toNat % 16 = 0 ∧ p.seq = 0)) :
    (if (p.kind == 7 && p.kspec.toNat % 16 == 0 && p.seq == 0) = true then openHere M (packetConn p) else M) = M :=
  if_neg (by simpa [and_assoc] using hno)

theorem receive_unknown (hd : p.dst = M.self) (hok : packetOk p = true)
    (hno : ¬(p.kind = 7 ∧ p.kspec.toNat % 16 = 0 ∧ p.seq = 0)) (hc : M.conn (cameBy p) = none) : receive M p apply = M := by
  have hc' : M.conn (packetConn p) = none := hc
  simp only [receive, receiveAs, hd, hok, notOpening M hno, hc']
  exact (if_neg (not_not.2 rfl)).trans (if_neg (by decide))

theorem receive_misfit (hd : p.dst = M.self) (hok : packetOk p = true)
    (hno : ¬(p.kind = 7 ∧ p.kspec.toNat % 16 = 0 ∧ p.seq = 0)) (hc : M.conn (cameBy p) = some c)
    (hfits : rspFits c p = false) : receive M p apply = M.logDev (0xF000 + p.sprt) p.addr := by
  have hc' : M.conn (packetConn p) = some c := hc
  simp only [receive, receiveAs, hd, hok, notOpening M hno, hc', hfits]
  exact (if_neg (not_not.2 rfl)).trans ((if_neg (by decide)).trans (if_pos rfl))

section
variable (hd : p.dst = M.self) (hok : packetOk p = true) (hno : ¬(p.kind = 7 ∧ p.kspec.toNat % 16 = 0 ∧ p.seq = 0))
  (hc : M.conn (cameBy p) = some c) (hfits : rspFits c p = true)
include hd hok hno hc hfits

theorem receive_ackOnly (hack : p.kind = 7 ∧ p.kspec.toNat % 16 = 3) :
    receive M p apply = takeAckOnly (M.setConn { c with last := M.wclk }) c p := by
  have hc' : M.conn (packetConn p) = some c := hc
  simp only [receive, receiveAs, hd, hok, notOpening M hno, hc', hfits]
  exact (if_neg (not_not.2 rfl)).trans ((if_neg (by decide)).trans ((if_neg (by decide)).trans (if_pos (by simpa using hack))))

variable (hack : ¬(p.kind = 7 ∧ p.kspec.toNat % 16 = 3))
include hack

theorem receive_closed (hclosed : c.state = .closed) : receive M p apply = M.setConn { c with last := M.wclk } := by
  have hc' : M.conn (packetConn p) = some c := hc
  simp only [receive, receiveAs, hd, hok, notOpening M hno, hc', hfits]
  exact (if_neg (not_not.2 rfl)).trans ((if_neg (by decide)).trans ((if_neg (by decide)).trans ((if_neg (by simpa using hack)).trans
    (if_pos hclosed))))

variable (hstands : c.state ≠ .closed)
include hstands

theorem receive_held (hturn : p.seq = c.expect) (hheld : packetHeld M p = true) :
    receive M p apply = (M.setConn { c with last := M.wclk }).raise 16 (packetEvent p) := by
  have hc' : M.conn (packetConn p) = some c := hc
  have hheld' : packetHeld (M.setConn { c with last := M.wclk }) p = true := by
    rw [packetHeld_setConn]; exact hheld
  simp only [receive, receiveAs, hd, hok, notOpening M hno, hc', hfits]
  exact (if_neg (not_not.2 rfl)).trans ((if_neg (by decide)).trans ((if_neg (by decide)).trans ((if_neg (by simpa using hack)).trans
    ((if_neg hstands).trans (if_pos (by rw [hheld', Bool.and_true]; exact decide_eq_true hturn))))))

theorem receive_early (hturn : p.seq ≠ c.expect) (hlater : seqBefore c.expect p.seq = true)
    (hnew : ∀ q ∈ c.early, q.seq ≠ p.seq) :
    receive M p apply = M.setConn { c with early := c.early ++ [p], last := M.wclk } := by
  have hc' : M.conn (packetConn p) = some c := hc
  have hcond : (seqBefore c.expect p.seq && !c.early.any (fun q => q.seq == p.seq)) = true := by
    simpa [hlater] using hnew
  simp only [receive, receiveAs, hd, hok, notOpening M hno, hc', hfits]
  refine (if_neg (not_not.2 rfl)).trans ((if_neg (by decide)).trans ((if_neg (by decide)).trans ((if_neg (by simpa using hack)).trans
    ((if_neg hstands).trans ((if_neg (by simp [hturn])).trans ((if_neg hturn).trans ((if_pos hcond).trans ?_)))))))
  exact setConn_setConn _ _ _ rfl

theorem receive_again (hturn : p.seq ≠ c.expect) (hlater : seqBefore c.expect p.seq = false)
    (hbefore : seqBefore p.seq c.expect = true) :
    receive M p apply =
      (M.setConn { c with acked := p.seq, last := M.wclk }).raise 256 (.ackIdleTimeout (cameBy p)) := by
  have hc' : M.conn (packetConn p) = some c := hc
  simp only [receive, receiveAs, hd, hok, notOpening M hno, hc', hfits]
  refine (if_neg (not_not.2 rfl)).trans ((if_neg (by decide)).trans ((if_neg (by decide)).trans ((if_neg (by simpa using hack)).trans
    ((if_neg hstands).trans ((if_neg (by simp [hturn])).trans ((if_neg hturn).trans ((if_neg (by simp [hlater])).trans
    ((if_pos hbefore).trans ?_))))))))
  rw [setConn_setConn _ _ _ (by rfl)]
  rfl

end

end

/-- A packet in its turn, by what its row applies. -/
theorem InTurn.receives {s : State} {p : Packet} {c : Conn} (h : InTurn s.m p c) {e : Instr} {apply : Apply}
    (he : exec e s = .next { s with m := receive s.m p apply }) {N : Mach} (hN : apply (atTurn s.m c) (cameBy p) = N) :
    Receives e s p c N := by
  have hre := receive_turn (apply := apply) h.here h.formed (notOpening s.m h.kept) h.conn h.fits h.numbered h.stands
    h.steady h.turn
  rw [Receives, Becomes, he, hre, hN]

/-- An object packet that its connection does not serve yet is received like any other. -/
theorem retestObj_none {M : Mach} {p : Packet} (h : ∀ c, M.conn (cameBy p) = some c → ∀ x ∈ c.serving, x.2 ≠ p) :
    retestObj M p = none := by
  rcases hc : M.conn (packetConn p) with _ | c
  · simp only [retestObj, hc]
  · have hany : ¬(c.serving.any fun x => x.2 == p) = true := fun hany => by
      obtain ⟨x, hx, hxp⟩ := List.any_eq_true.1 hany
      exact h c hc x hx (beq_iff_eq.1 hxp)
    simp only [retestObj, hc, if_neg hany]

/-- Every row of a packet receives it, but for an object packet that is served already. -/
theorem packetRow_receives {e : Instr} {p : Packet} {s : State} (h : packetRow e p)
    (hserved : ∀ c, s.m.conn (cameBy p) = some c → ∀ x ∈ c.serving, x.2 ≠ p) :
    ∃ apply, exec e s = .next { s with m := receive s.m p apply } := by
  obtain rfl | rfl | rfl | rfl | rfl | rfl | rfl | rfl | rfl | rfl := h
  case inr.inr.inr.inr.inr.inl =>
    refine ⟨homeObj p, (exec_obj ..).trans ?_⟩
    simp only [execObj, State.lift, retestObj_none hserved]
  all_goals exact ⟨_, rfl⟩

/-! ### What each row applies -/

section
variable {M : Mach} {p : Packet} {r : ConnRef} {code pa l : Nat} {ps : List (Nat × Nat)}

theorem homeRd_error (h : packetReach M p = .error code) : homeRd p M r = respond M r p.seq code [] := by
  simp only [homeRd, h]

theorem homeRd_poison (h : packetReach M p = .ok ps) (hp : homePoison M ps ≠ none) :
    homeRd p M r = respond M r p.seq 0x21 [] := by
  obtain ⟨q, hq⟩ := Option.ne_none_iff_exists'.1 hp
  simp only [homeRd, h, hq]

theorem homeRd_ok (h : packetReach M p = .ok ps) (hp : homePoison M ps = none) :
    homeRd p M r = respond M r p.seq 0 (wrPayload p.addr (homeBytes M ps)) := by
  simp only [homeRd, h, hp]

theorem homeWr_error (h : packetReach M p = .error code) : homeWr p M r = respond M r p.seq code [] := by
  simp only [homeWr, h]

theorem homeWr_ok (h : packetReach M p = .ok ps) :
    homeWr p M r = homeWrite M ps (wrBytes p.addr (p.kspec.toNat % 2 ^ 13) p.payload) := by
  simp only [homeWr, h]

theorem homeAtomPkt_error (h : packetReach M p = .error code) : homeAtomPkt p M r = respond M r p.seq code [] := by
  simp only [homeAtomPkt, h]

theorem homeAtomPkt_poison (h : packetReach M p = .ok ((pa, l) :: ps)) (hp : M.poisoned pa l = true) :
    homeAtomPkt p M r = respond M r p.seq 0x21 [] := by
  simp only [homeAtomPkt, h, hp, if_true]

theorem homeAtomPkt_ok (h : packetReach M p = .ok ((pa, l) :: ps)) (hp : M.poisoned pa l = false) :
    homeAtomPkt p M r =
      respond (homeAtom M pa (p.kspec.toNat % 256) (p.kspec.getLsbD 8) (recW (wordsOf 2 p.payload) 0)
        (recW (wordsOf 2 p.payload) 1)).1 r p.seq 0 (beat [w64 (leNat (M.get pa (if p.kspec.getLsbD 8 then 8 else 4)))]) := by
  simp only [homeAtomPkt, h, hp]
  rfl

theorem homeQop_error (h : packetReach M p = .error code) : homeQop p M r = respond M r p.seq code [] := by
  simp only [homeQop, h]

theorem homeQop_poison (h : packetReach M p = .ok ((pa, l) :: ps)) (hp : M.poisoned pa 64 = true) :
    homeQop p M r = respond M r p.seq 0x21 [] := by
  simp only [homeQop, h, hp, if_true]

theorem homeQop_operation (h : packetReach M p = .ok ((pa, l) :: ps)) (hp : M.poisoned pa 64 = false)
    (hk : bitOf p.kspec.toNat 15 = false) :
    homeQop p M r = arriveAt { M with nextId := M.nextId + 1, free := M.free + 1 }
      { packetOp M p with route := farRoute ((paDie pa).getD 0) } := by
  simp only [homeQop, h, hp, hk]
  rfl

/-- What a control of a queue object asks, by the low bits of KSPEC. -/
def controlFn (k : Nat) : QFn := if fld k 0 2 = 0 then .en else if fld k 0 2 = 1 then .dis else .cnt

theorem homeQop_control {N : Mach} {v : Word} (h : packetReach M p = .ok ((pa, l) :: ps)) (hp : M.poisoned pa 64 = false)
    (hk : bitOf p.kspec.toNat 15 = true) (hctl : homeCtl M p.dprt pa p.addr (controlFn p.kspec.toNat) = .ok (N, v)) :
    homeQop p M r = respond N r p.seq 0 (beat [v, 0]) := by
  rcases hf : fld p.kspec.toNat 0 2 with _ | _ | n <;>
  · simp [controlFn, hf] at hctl
    simp [homeQop, h, hp, hk, hf, hctl]

theorem homeQop_controlTrap {cause : Nat} (h : packetReach M p = .ok ((pa, l) :: ps)) (hp : M.poisoned pa 64 = false)
    (hk : bitOf p.kspec.toNat 15 = true) (hctl : homeCtl M p.dprt pa p.addr (controlFn p.kspec.toNat) = .error cause) :
    homeQop p M r = respond M r p.seq 0 (beat [0, w64 cause]) := by
  rcases hf : fld p.kspec.toNat 0 2 with _ | _ | n <;>
  · simp [controlFn, hf] at hctl
    simp [homeQop, h, hp, hk, hf, hctl]

/-- The end of an acquire's or a release's operation at its object. -/
def objectEnd (M : Mach) (p : Packet) (pa : Nat) : ObjEnd :=
  if bitOf p.kspec.toNat 30 then homeRel M pa (leNat ((p.payload.drop 8).take 8))
  else homeAcq M pa (leNat ((p.payload.drop 8).take 8)) (packetAcq p)

theorem homeObj_error (h : packetReach M p = .error code) : homeObj p M r = respond M r p.seq code [] := by
  simp only [homeObj, h]

theorem homeObj_withdraw {x : Conn} (h : packetReach M p = .ok ((pa, l) :: ps)) (h3 : p.kspec.toNat % 4 = 3)
    (h30 : bitOf p.kspec.toNat 30 = false) (hx : M.conn r = some x) :
    let named (y : Nat × Packet) : Bool := y.1 == leNat (p.payload.take 8) && y.2.addr == p.addr
    homeObj p M r = respond (M.setConn { x with serving := x.serving.filter fun y => !named y }) r p.seq 0
      (beat [0, w01 (x.serving.any named)]) := by
  simp only [homeObj, h, h3, h30, homeWithdraw, hx]
  exact if_pos (by decide)

section
variable (h : packetReach M p = .ok ((pa, l) :: ps)) (hnw : ¬(p.kspec.toNat % 4 = 3 ∧ bitOf p.kspec.toNat 30 = false))
include h hnw

theorem homeObj_poison (hp : M.poisoned pa 16 = true) : homeObj p M r = respond M r p.seq 0x21 [] := by
  simp only [homeObj, h]
  exact (if_neg (by simpa using hnw)).trans (if_pos hp)

variable (hp : M.poisoned pa 16 = false)
include hp

theorem homeObj_version {N : Mach} {v : Word} (hend : objectEnd M p pa = .version N v) :
    homeObj p M r = respond N r p.seq 0 (beat [v, 0]) := by
  unfold objectEnd at hend
  simp only [homeObj, h, hend]
  exact (if_neg (by simpa using hnw)).trans (if_neg (by rw [hp]; decide))

theorem homeObj_trap {cause : Nat} (hend : objectEnd M p pa = .trap cause) :
    homeObj p M r = respond M r p.seq 0 (beat [0, w64 cause]) := by
  unfold objectEnd at hend
  simp only [homeObj, h, hend]
  exact (if_neg (by simpa using hnw)).trans (if_neg (by rw [hp]; decide))

theorem homeObj_waits {x : Conn} (hend : objectEnd M p pa = .waits) (hx : M.conn r = some x) :
    homeObj p M r = M.setConn { x with serving := x.serving.filter (fun y => y.1 != p.seq) ++ [(p.seq, p)] } := by
  unfold objectEnd at hend
  simp only [homeObj, h, hend, hx]
  exact (if_neg (by simpa using hnw)).trans (if_neg (by rw [hp]; decide))

end

section
variable {n : Nat} {x : Conn} {o : Origin} {u : Unacked}

theorem takeRsp_answered (hx : M.conn r = some x) (hseq : x.asked.find? (fun y => y.1 == p.addr % 2 ^ 32) = some (n, o)) :
    takeRsp p M r =
      if p.kspec.toNat % 256 = 0 then
        answerOrigin (M.setConn { x with asked := x.asked.filter fun y => y.1 != p.addr % 2 ^ 32 }) o p.payload
      else failOrigin (M.setConn { x with asked := x.asked.filter fun y => y.1 != p.addr % 2 ^ 32 }) o
        (p.kspec.toNat % 256) := by
  simp only [takeRsp, hx, hseq]

theorem takeRsp_unasked (hx : M.conn r = some x) (hseq : x.asked.find? (fun y => y.1 == p.addr % 2 ^ 32) = none)
    (hcode : p.kspec.toNat % 256 = 0 ∨ x.unacked.find? (fun y => y.p.seq == p.addr % 2 ^ 32) = none) :
    takeRsp p M r = M := by
  rcases hu : x.unacked.find? fun y => y.p.seq == p.addr % 2 ^ 32 with _ | u
  · simp only [takeRsp, hx, hseq, hu]
  · simp only [takeRsp, hx, hseq, hu]
    exact if_pos (hcode.resolve_right (by rw [hu]; exact Option.some_ne_none u))

theorem takeRsp_again {a : Arrival} (hx : M.conn r = some x)
    (hseq : x.asked.find? (fun y => y.1 == p.addr % 2 ^ 32) = none)
    (hu : x.unacked.find? (fun y => y.p.seq == p.addr % 2 ^ 32) = some u) (hcode : p.kspec.toNat % 256 = 0x24)
    (ha : u.origin = .arrival a) :
    takeRsp p M r =
      (M.setConn { x with
        unacked := x.unacked.filter fun z => z.p.seq != p.addr % 2 ^ 32
        resend := x.resend ++ [(p.addr % 2 ^ 32, a)] }).raise 64 (.arrivalResend r (p.addr % 2 ^ 32)) := by
  simp only [takeRsp, hx, hseq, hu, hcode, ha]
  exact if_neg (by decide)

theorem takeRsp_refused (hx : M.conn r = some x) (hseq : x.asked.find? (fun y => y.1 == p.addr % 2 ^ 32) = none)
    (hu : x.unacked.find? (fun y => y.p.seq == p.addr % 2 ^ 32) = some u) (hcode : p.kspec.toNat % 256 ≠ 0)
    (ho : p.kspec.toNat % 256 ≠ 0x24 ∨ ∀ a, u.origin ≠ .arrival a) :
    takeRsp p M r =
      settleSignals (failOrigin (M.setConn { x with unacked := x.unacked.filter fun z => z.p.seq != p.addr % 2 ^ 32 })
        u.origin (p.kspec.toNat % 256)) := by
  simp only [takeRsp, hx, hseq, hu, if_neg hcode]
  split
  next a hc ha => exact absurd ha ((ho.resolve_left (not_not.2 hc)) a)
  next => rfl

end

end

theorem needPeriod_frame (M : Mach) (n : Nat) :
    (needPeriod M n).transit = M.transit ∧ (needPeriod M n).sent = M.sent ∧ (needPeriod M n).injTurn = M.injTurn ∧
      (needPeriod M n).parts = M.parts ∧ (needPeriod M n).self = M.self := by
  unfold needPeriod
  split
  · dsimp only
    split <;> exact ⟨rfl, rfl, rfl, rfl, rfl⟩
  · exact ⟨rfl, rfl, rfl, rfl, rfl⟩

theorem chargeLink_frame (M : Mach) (p : Packet) (port : Nat) :
    (chargeLink M p port).transit = M.transit ∧ (chargeLink M p port).sent = M.sent ∧
      (chargeLink M p port).injTurn = M.injTurn ∧ (chargeLink M p port).self = M.self := by
  unfold chargeLink
  split <;> exact ⟨rfl, rfl, rfl, rfl⟩

/-- What a written number reads. -/
theorem aGet_aSet {α : Type} (l : List (Nat × α)) (k : Nat) (v : α) : aGet (aSet l k v) k = some v := by
  unfold aGet aSet
  by_cases hin : (l.any fun x => x.1 == k) = true
  · have hupd : (l.map fun x => if (x.1 == k) = true then (k, v) else x)
        = updIf (fun x : Nat × α => x.1 == k) (fun _ => (k, v)) l := rfl
    rw [if_pos hin, hupd, find_updIf (fun x : Nat × α => x.1 == k) _ fun _ _ => beq_self_eq_true k]
    obtain ⟨x, hx⟩ := Option.isSome_iff_exists.1 (List.find?_isSome.2 (List.any_eq_true.1 hin))
    rw [hx]
    rfl
  · have hnone : l.find? (fun x => x.1 == k) = none :=
      List.find?_eq_none.2 fun x hx hxk => hin (List.any_eq_true.2 ⟨x, hx, hxk⟩)
    rw [if_neg hin, List.find?_append, hnone]
    simp

/-- A closing packet for this device, well-formed, on a connection that is there. -/
theorem close_onConn {s : State} {p : Packet} {c : Conn} {N : Mach} (hd : p.dst = s.m.self) (hok : packetOk p = true)
    (hc : s.m.conn (cameBy p) = some c)
    (hN : (if (decide (c.state = .closed) || seqBefore p.seq c.expect) = true then ackClose s.m p
      else if (decide (p.seq = c.expect) || c.early.any fun q => q.seq == p.seq) = true then
        teardown (ackClose s.m p) (cameBy p)
      else s.m.setConn { c with early := c.early ++ [p], last := s.m.wclk }) = N) : Becomes (.close p) s N := by
  refine lift_becomes (exec_close ..) ?_
  have hc' : s.m.conn (packetConn p) = some c := hc
  simp only [hd, hok, hc']
  exact (if_neg (not_not.2 rfl)).trans ((if_neg (by decide)).trans hN)

/-- Settles O57: a packet by whether it is its turn, and in its turn by its row. -/
theorem packetsActInTheirTurn : Obligations.PacketsActInTheirTurn := by
  refine ⟨fun s p c h => ?words, fun s p c h => ?queues, fun s p c hc hserved hnw hk hheld => ?served, fun s p c => ?answers,
    fun s p e he hserved => ?others, fun s r k hk => ?conns, fun s => ?router⟩
  case words =>
    intro M r n port
    have hread (hk : p.kind = 0) : packetReach M p = admission M p.dprt port p.key .r .read p.addr n := by
      simp only [packetReach, hk]
      rfl
    have hwrite (hk : p.kind = 1) : packetReach M p = admission M p.dprt port p.key .w .write p.addr n := by
      simp only [packetReach, hk]
      rfl
    refine ⟨fun code hk ha => h.receives (exec_rd ..) (homeRd_error ((hread hk).trans ha)),
      fun ps hk ha => ⟨fun hp => h.receives (exec_rd ..) (homeRd_poison ((hread hk).trans ha) hp),
        fun hp => h.receives (exec_rd ..) (homeRd_ok ((hread hk).trans ha) hp)⟩,
      fun code hk ha => h.receives (exec_wr ..) (homeWr_error ((hwrite hk).trans ha)),
      fun ps hk ha => h.receives (exec_wr ..) (homeWr_ok ((hwrite hk).trans ha)), ?_,
      fun hkey => h.receives (exec_arrive ..) ?_, fun hkey N d hd => ?_⟩
    · intro bytes ws
      have hatom (hk : p.kind = 2) : packetReach M p = admission M p.dprt port p.key .a .atomic p.addr bytes := by
        simp only [packetReach, hk]
        rfl
      exact ⟨fun code hk ha => h.receives (exec_atom ..) (homeAtomPkt_error ((hatom hk).trans ha)),
        fun pa l ps hk ha => ⟨fun hp => h.receives (exec_atom ..) (homeAtomPkt_poison ((hatom hk).trans ha) hp),
          fun hp => h.receives (exec_atom ..) (homeAtomPkt_ok ((hatom hk).trans ha) hp)⟩⟩
    · exact if_pos (by rw [hkey]; rfl)
    · have hgo {P : Mach} (hP : homeArrive p M r = P) : Receives (.arrive p) s p c P := h.receives (exec_arrive ..) hP
      have hkey' : ¬(!keyOk M p.dprt p.key) = true := by rw [hkey]; decide
      refine ⟨?_, ?_, ?_⟩ <;>
      · rintro rfl
        refine hgo ((if_neg hkey').trans ?_)
        rw [hd]
  case queues =>
    intro M r k
    refine ⟨?_, fun hk hserved => ?_⟩
    · intro ak
      have hqop (hk : p.kind = 4) : packetReach M p = admission M p.dprt (packetPort p) p.key .q ak p.addr 64 := by
        simp only [packetReach, hk]
        rfl
      refine ⟨fun code hk ha => h.receives (exec_qop ..) (homeQop_error ((hqop hk).trans ha)), fun pa l ps hk ha => ?_⟩
      have hr := (hqop hk).trans ha
      exact ⟨fun hp => h.receives (exec_qop ..) (homeQop_poison hr hp),
        fun hp hb => h.receives (exec_qop ..) (homeQop_operation hr hp hb),
        fun hp hb => ⟨fun N v hctl => h.receives (exec_qop ..) (homeQop_control hr hp hb hctl),
          fun cause hctl => h.receives (exec_qop ..) (homeQop_controlTrap hr hp hb hctl)⟩⟩
    · intro reach
      have hobj : exec (.obj p) s = .next { s with m := receive s.m p (homeObj p) } := by
        have hnone : retestObj s.m p = none := retestObj_none fun c' hc' => by
          obtain rfl : c = c' := Option.some.inj (h.conn.symm.trans hc')
          exact hserved
        simp only [exec_obj, execObj, State.lift, hnone]
      have hr : packetReach M p = reach := by
        simp only [packetReach, hk]
        rfl
      refine ⟨fun code ha => h.receives hobj (homeObj_error (hr.trans ha)), fun pa l ps ha hnw =>
        ⟨fun hp => h.receives hobj (homeObj_poison (hr.trans ha) hnw hp), fun hp =>
          ⟨fun N v hv => h.receives hobj (homeObj_version (hr.trans ha) hnw hp hv),
            fun cause hv => h.receives hobj (homeObj_trap (hr.trans ha) hnw hp hv),
            fun x hv hx => h.receives hobj (homeObj_waits (hr.trans ha) hnw hp hv hx)⟩⟩,
        fun pa l ps x ha h3 h30 hx => h.receives hobj (homeObj_withdraw (hr.trans ha) h3 h30 hx)⟩
  case served =>
    intro r M
    have hgo {P : Mach} (hP : homeObj p M r = P) : Becomes (.obj p) s P := by
      have hany : (c.serving.any fun x => x.2 == p) = true := by
        obtain ⟨x, hx, hxp⟩ := hserved
        exact List.any_eq_true.2 ⟨x, hx, beq_iff_eq.2 hxp⟩
      have hretest : retestObj s.m p = some (homeObj p M r) := by
        have hc' : s.m.conn (packetConn p) = some c := hc
        simp only [retestObj, hc', hany, hheld]
        exact (if_pos trivial).trans (congrArg some (if_neg (by decide)))
      refine lift_becomes (exec_obj ..) ?_
      simp only [hretest]
      exact hP
    have href : c.ref = r := Mach.conn_ref hc
    have hr : packetReach M p = admission M p.dprt (packetPort p) p.key .a .atomic p.addr 16 := by
      simp only [packetReach, hk]
    refine ⟨fun code ha => hgo (homeObj_error (hr.trans ha)), fun pa l ps ha hp => ?_⟩
    intro holder got
    refine ⟨fun N v hv => hgo (homeObj_version (hr.trans ha) hnw hp hv),
      fun cause hv => hgo (homeObj_trap (hr.trans ha) hnw hp hv), fun hv => ?_⟩
    have hM : M.conn r = some { c with serving := c.serving.filter fun x => x.2 != p } :=
      conn_setConn_of (c := { c with serving := c.serving.filter fun x => x.2 != p }) s.m href
    exact ⟨_, _, hgo (homeObj_waits (hr.trans ha) hnw hp hv hM), conn_setConn_of M href,
      List.mem_append_right _ (List.mem_singleton.2 rfl), rfl⟩
  case answers =>
    refine ⟨fun h => ?_, fun hd hok hc => ⟨fun hk h3 => ?_, fun h => ?_, fun hst hb => ⟨fun h => ?_, fun hne hnew => ?_⟩⟩,
      fun hd hok hc => ?_, fun waiting hd hok hk h0 hseq hc => ?_⟩
    · intro M r n code
      have hrsp {P : Mach} (hP : takeRsp p M r = P) : Receives (.rsp p) s p c P := h.receives (exec_rsp ..) hP
      refine ⟨fun x o hx ho => ?_, fun x u hx ho hu hne => ?_, fun x hx ho hn => hrsp (takeRsp_unasked hx ho hn),
        fun x hx => ⟨h.receives (exec_openConn ..) ?_, h.receives (exec_openack ..) ?_⟩, h.receives (exec_ackOnly ..) rfl⟩
      · intro N
        exact ⟨fun h0 => hrsp ((takeRsp_answered hx ho).trans (if_pos h0)),
          fun h0 => hrsp ((takeRsp_answered hx ho).trans (if_neg h0))⟩
      · intro y
        exact ⟨fun a h24 ha => hrsp (takeRsp_again hx ho hu h24 ha), fun h24 => hrsp (takeRsp_refused hx ho hu hne h24)⟩
      · simp only [M, r] at hx
        simp only [hx]
        rfl
      · simp only [M, r] at hx
        simp only [hx]
        rfl
    · intro M
      have hfits : rspFits c p = true := by simp [rspFits, hk]
      have hno : ¬(p.kind = 7 ∧ p.kspec.toNat % 16 = 0 ∧ p.seq = 0) := by omega
      have hgo {P : Mach} (hP : takeAckOnly M c p = P) : Becomes (.ackOnly p) s P :=
        lift_becomes (exec_ackOnly ..) ((receive_ackOnly hd hok hno hc hfits ⟨hk, h3⟩).trans hP)
      exact ⟨hgo rfl, fun hb => hgo (if_pos hb)⟩
    · exact close_onConn hd hok hc (if_pos (by simpa using h))
    · exact close_onConn hd hok hc ((if_neg (by simp [hst, hb])).trans (if_pos (by simpa using h)))
    · exact close_onConn hd hok hc ((if_neg (by simp [hst, hb])).trans (if_neg (by simpa [hne] using hnew)))
    · refine lift_becomes (exec_close ..) ?_
      have hc' : s.m.conn (packetConn p) = none := hc
      simp only [hd, hok, hc']
      exact (if_neg (not_not.2 rfl)).trans (if_neg (by decide))
    · intro k M x hx
      have hopen : (if (p.kind == 7 && p.kspec.toNat % 16 == 0 && p.seq == 0) = true then openHere s.m (packetConn p) else s.m)
          = s.m.setConn k := by
        refine (if_pos (by simp [hk, h0, hseq])).trans ?_
        obtain ⟨hc, rfl⟩ | ⟨hc, hcl, rfl⟩ := hc
        · have hc' : s.m.conn (packetConn p) = none := hc
          simp only [openHere, hc']
          rfl
        · have hc' : s.m.conn (packetConn p) = some c := hc
          simp only [openHere, hc']
          exact if_pos hcl
      refine lift_becomes (exec_openConn ..) ((receive_turn hd hok hopen (conn_setConn_of s.m rfl) (by simp [rspFits, hk])
        (by omega) (by simp [k, Conn.fresh]) (by simp [packetHeld, hk]) hseq).trans ?_)
      simp only [M] at hx
      simp only [hx]
      rfl
  case others =>
    obtain ⟨apply, hrow⟩ := packetRow_receives he hserved
    have hgo (P : Mach) (hP : receive s.m p apply = P) : Becomes e s P := by rw [Becomes, hrow, hP]
    have hno : ¬(p.kind = 7 ∧ (p.kspec.toNat % 16 = 0 ∨ p.kspec.toNat % 16 = 3)) →
        ¬(p.kind = 7 ∧ p.kspec.toNat % 16 = 0 ∧ p.seq = 0) ∧ ¬(p.kind = 7 ∧ p.kspec.toNat % 16 = 3) := by tauto
    refine ⟨fun hd => hgo _ (receive_elsewhere hd), fun hd hok => hgo _ (receive_malformed hd hok),
      fun hd hok hc hk => hgo _ (receive_unknown hd hok hk hc), fun c hd hok hc hk => ?_, fun c hd hok hc hk hf hst ht => ?_⟩
    · obtain ⟨hno, hack⟩ := hno hk
      exact ⟨fun hf => hgo _ (receive_misfit hd hok hno hc hf), fun hf hcl => hgo _ (receive_closed hd hok hno hc hf hack hcl),
        fun hf hst ht hh => hgo _ (receive_held hd hok hno hc hf hack hst ht hh)⟩
    · obtain ⟨hno, hack⟩ := hno hk
      exact ⟨fun hl hn => hgo _ (receive_early hd hok hno hc hf hack hst ht hl hn),
        fun hl hb => hgo _ (receive_again hd hok hno hc hf hack hst ht hl hb)⟩
  case conns =>
    have hack (P : Mach) (hP : _ = P) : Becomes (.ackIdleTimeout r) s P := lift_becomes (exec_ackIdleTimeout ..) hP
    have hteardown (P : Mach) (hP : teardownHere s.m r = P) : Becomes (.teardown r) s P :=
      lift_becomes (exec_teardown ..) hP
    have hfill (P : Mach) (hP : _ = P) : Becomes (.fillingIdleTimeout r) s P := lift_becomes (exec_fillingIdleTimeout ..) hP
    simp only [hk, teardownHere] at hack hteardown hfill
    refine ⟨fun h => hack _ (if_pos h), fun h h' => hack _ ((if_neg (not_not.2 h)).trans (if_pos h')),
      fun h h' => hack _ ((if_neg (not_not.2 h)).trans (if_neg (not_not.2 h'))), fun seq u hu => ?_,
      fun h => hteardown _ (if_pos h), fun h => hteardown _ (if_neg h), fun hne hlt => ?_, fun hne hle => ?_, fun seq a ha => ?_⟩
    · have hgo (P : Mach) (hP : _ = P) : Becomes (.retransmitTimeout r seq) s P :=
        lift_becomes (exec_retransmitTimeout ..) hP
      simp only [hk, hu] at hgo
      exact ⟨fun h => hgo _ (if_pos h), fun h => hgo _ (if_neg (not_le.2 h))⟩
    · exact hfill _ ((if_neg (by simpa using hne)).trans (if_pos hlt))
    · exact hfill _ ((if_neg (by simpa using hne)).trans (if_neg (not_lt.2 hle)))
    · refine lift_becomes (exec_arrivalResend ..) ?_
      simp only [hk, ha]
  case router =>
    refine ⟨fun p port hp hport => ?forward, fun p hp => ?expiry, fun port rows cols peer h1 h2 h3 => ?training,
      fun port rows cols peer => ?noLanes, fun port lanes rows cols peer h => ?outside, fun port => lift_becomes
        (exec_linkReplayFailure ..) rfl, fun ag v => ?config⟩
    case forward =>
      have hgo (P : Mach) (hP : _ = P) : Becomes (.packetForward p port) s P := lift_becomes (exec_packetForward ..) hP
      replace hgo := fun P hP => hgo P ((if_neg (by simp [hp, hport])).trans hP)
      refine ⟨fun h => hgo _ (if_pos h), fun h hs hl => ?_, fun hsrc => ?_, fun hsrc h hs hi => ?_, fun hsrc h hs hl hi => ?_,
        fun hsrc h hs hi => ?_⟩
      · exact hgo _ ((if_neg (by rw [h]; decide)).trans (if_pos (by rw [hs, hl]; rfl)))
      · have hfirst : transitFirst s.m p port = false := by simp [transitFirst, hsrc]
        have hspent : linkSpent s.m p port = false := by simp [linkSpent, hsrc]
        refine hgo _ ((if_neg (by rw [hfirst]; decide)).trans ((if_neg (by simp [hspent])).trans
          ((if_neg (by simp [hsrc])).trans ?_)))
        simp only [hspent, Bool.false_eq_true, if_false, if_neg hsrc, chargeLink]
      · have hbudget : ¬(linkSpent s.m p port && !linkLent s.m p port) = true := by
          rcases hs with hs | hs <;> simp [hs]
        exact hgo _ ((if_neg (by rw [h]; decide)).trans ((if_neg hbudget).trans (if_pos (by simp [hsrc, hi]))))
      · refine hgo _ ((if_neg (by rw [h]; decide)).trans ((if_neg (by rw [hs, hl]; decide)).trans
          ((if_neg (by simp [hi])).trans ?_)))
        obtain ⟨htransit, hsent, hturn, -, hself⟩ := needPeriod_frame s.m p.sprt
        simp only [hs, if_pos hsrc, if_true, htransit, hsent, hturn, hself]
      · refine ⟨_, hgo _ ((if_neg (by rw [h]; decide)).trans ((if_neg (by simp [hs])).trans
          (if_neg (by simp [hi])))), ?_⟩
        obtain ⟨htransit, hsent, hturn, hparts, hself⟩ := needPeriod_frame (chargeLink s.m p port) p.sprt
        obtain ⟨ctransit, csent, cturn, cself⟩ := chargeLink_frame s.m p port
        have hsrc' : p.src = (chargeLink s.m p port).self := hsrc.trans cself.symm
        simp only [hs, Bool.false_eq_true, if_false, if_pos hsrc', hself, htransit, hsent, hturn, ctransit, csent, cturn]
        simp only [chargeLink, if_pos hsrc] at hparts ⊢
        refine ⟨trivial, trivial, trivial, fun q hq => ⟨_, (congrArg (List.find? _) hparts).trans (part_updPart_same hq), aGet_aSet ..⟩⟩
    case expiry => exact lift_becomes (exec_routerWaitExpiry ..) (if_pos (by rw [hp]; rfl))
    case training =>
      intro agrees e
      have hgo (P : Mach) (hP : _ = P) : Becomes e s P := lift_becomes (exec_portTraining ..) hP
      replace hgo := fun P hP => hgo P ((if_neg (by simp [h2, h3]; omega)).trans hP)
      have hagrees : (decide (rows + 1 = podRows s.m) && decide (cols + 1 = podCols s.m) &&
          decide (peer = portPeer s.m.self port)) = true ↔ agrees := by
        simp only [agrees, Bool.and_eq_true, decide_eq_true_iff, and_assoc]
      exact ⟨fun h => hgo _ (if_pos (hagrees.2 h)), fun h => hgo _ (if_neg (mt hagrees.1 h))⟩
    case noLanes => exact lift_becomes (exec_portTraining ..) (if_pos (by simp))
    case outside =>
      refine lift_becomes (exec_portTraining ..) (if_pos ?_)
      simp only [Bool.or_eq_true, Bool.not_eq_true', Bool.and_eq_false_iff, decide_eq_false_iff_not, decide_eq_true_iff, not_lt]
      tauto
    case config =>
      intro ok
      have hgo (P : Mach) (hP : fabcfgPut s.m ag v = P) : Becomes (.fabcfgWrite ag v) s P :=
        lift_becomes (exec_fabcfgWrite ..) hP
      have hbad : (decide (ag ≠ .fw) || s.m.trained || (decide (wf v 25 5 > wf v 35 5) || decide (wf v 20 5 > wf v 30 5) ||
          decide (2 ≤ wf v 16 2))) = true ↔ ¬ok := by
        simp only [ok, Bool.or_eq_true, decide_eq_true_iff, not_and_or, Bool.not_eq_false, not_le, not_lt, or_assoc, gt_iff_lt,
          ne_eq]
      refine ⟨fun h => hgo _ (if_pos (hbad.2 h)), fun h hv => hgo _ ?_, fun h hv => hgo _ ?_⟩
      · refine (if_neg (mt hbad.1 (not_not.2 h))).trans ((if_pos hv).trans ?_)
        rw [hv]
      · exact (if_neg (mt hbad.1 (not_not.2 h))).trans (if_neg hv)

end Sys2Proof.Machine

/-!
PROOFS. The host's side: ownership, boot, attestation, power and the PCIe windows (R431 to R439).
-/

namespace Sys2Proof.Machine

/-- What an event of a powered device leaves. -/
theorem on_powered {e : Instr} {s t : State} {f : State → State} (he : exec e s = s.on f) (hp : s.host.powered = true)
    (hf : f s = t) : exec e s = .next t := by
  rw [he, State.on, if_pos hp, hf]

theorem cardDescriptor_parts (M : Mach) (p : Part) (k : Nat) : (cardDescriptor M p k).parts = M.parts := by
  simp only [cardDescriptor, parts_setWord, Mach.put_parts]

/-- The partition that the firmware forms at boot. -/
theorem formPart_part (M : Mach) (id dies : Nat) (key : BitVec 32) :
    (formPart M id dies key).part id = some (Part.fresh id dies key) := by
  have hparts (M : Mach) (p : Part) (l : List Nat) : (l.foldl (fun M k => cardDescriptor M p k) M).parts = M.parts := by
    induction l generalizing M with
    | nil => rfl
    | cons k l ih => rw [List.foldl_cons, ih, cardDescriptor_parts]
  have hnone : (M.parts.filter fun q => q.id != id).find? (fun q => q.id == id) = none :=
    List.find?_eq_none.2 fun q hq => by simpa using (List.mem_filter.1 hq).2
  have hid : (Part.fresh id dies key).id = id := rfl
  simp [formPart, Mach.part, hparts, List.find?_append, hnone, hid]

theorem takeImage_failed {s : State} (h : verifyImage s.m s.host.arb ≠ .ready) :
    takeImage s = { s with host := { s.host with boot := verifyImage s.m s.host.arb, go := false } } := by
  simp only [takeImage, if_neg h]

theorem takeImage_ready {s : State} (h : verifyImage s.m s.host.arb = .ready) :
    takeImage s =
      { host :=
          { s.host with
            boot := .starting, go := false, arb := max s.host.arb (leNat (s.m.get 0xC 4)), svn := leNat (s.m.get 8 4)
            imageHash := some (Config.sha512 (s.m.get 0 1024))
            cpmem := s.m.get 1024 (leNat (s.m.get 0x10 8)), cpEntry := some (leNat (s.m.get 0x18 8)) }
        m := s.m.raise 1 .verificationComplete } := by
  simp only [takeImage, if_pos h, hdr]

/-- A member while the device throttles: one on a core falls behind by a free number of cycles. -/
theorem throttle_member {s : State} {r : MRef} {m : Member} (hm : s.m.member r = some m) :
    ∃ x, (throttle s).m.member r = some x ∧ x = { m with skew := x.skew } ∧
      (m.core.isSome = true → m.skew < x.skew) ∧ (m.core = none → x = m) := by
  let slow (m : Member) : Member :=
    if m.core.isSome then { m with skew := m.skew + (Config.freeNat s.m.free + 1) } else m
  have hslow (l : List Member) (h : l.find? (fun x => x.ref == r) = some m) :
      (l.map slow).find? (fun x => x.ref == r) = some (slow m) := by
    have href (x : Member) : (slow x).ref = x.ref := by
      dsimp only [slow]
      split <;> rfl
    rw [List.find?_map, show ((fun x : Member => x.ref == r) ∘ slow) = fun x => x.ref == r from funext fun x => by
      rw [Function.comp, href], h]
    rfl
  refine ⟨slow m, hslow _ hm, ?_⟩
  by_cases hc : m.core.isSome = true
  · have hx : slow m = { m with skew := m.skew + (Config.freeNat s.m.free + 1) } := if_pos hc
    rw [hx]
    exact ⟨rfl, fun _ => by show m.skew < m.skew + _; omega, fun h => absurd hc (by simp [h])⟩
  · have hx : slow m = m := if_neg hc
    rw [hx]
    exact ⟨rfl, fun h => absurd h hc, fun _ => rfl⟩

/-- Settles O58: each event of the host by who may cause it and when. -/
theorem theHostOwnsBootsAndReads : Obligations.TheHostOwnsBootsAndReads := by
  refine ⟨fun s ag hp => ?owner, fun s => ?boot, fun s hp => ⟨?attgo, ?report, ?throttles, ?steady, ?within, ?trips, ?cool, ?trains,
    fun boot off n => ?window, fun ag boot off bs hbs h => ?refused⟩⟩
  case owner =>
    intro owned owner
    have hclaim {t} (ht : claimOwner s ag = t) := on_powered (exec_claim ag s) hp ht
    have hrenew {t} (ht : renewLease s ag = t) := on_powered (exec_renew ag s) hp ht
    have hhand {succ t} (ht : handOver s ag succ = t) := on_powered (exec_handover ag succ s) hp ht
    have hexp {t} (ht : expireLease s = t) := on_powered (exec_leaseExpiry s) hp ht
    have hfree : ((s.host.ownerAt s.m.wclk).isNone && decide (ag.code ≠ 0)) = true ↔ owner = none ∧ ag.code ≠ 0 := by
      simp only [owner, Bool.and_eq_true, Option.isNone_iff_eq_none, decide_eq_true_iff]
    refine ⟨fun h h' => hclaim (if_pos (hfree.2 ⟨h, h'⟩)), fun h => hclaim (if_neg (mt hfree.1 (by tauto))),
      fun h => hrenew (if_pos h), fun h => hrenew (if_neg h), fun succ heir hs => ?_, hhand rfl, fun h hle => hexp (if_pos ?_),
      fun h => hexp (if_neg ?_), rfl⟩
    · have hcode : RegAgent.ofCode succ.toNat = some heir := by
        obtain ⟨rfl, rfl⟩ | ⟨rfl, rfl⟩ | ⟨rfl, rfl⟩ := hs <;> rfl
      have hmay : (decide (s.host.ownerAt s.m.wclk = some ag) && decide (heir ≠ ag)) = true ↔ owner = some ag ∧ heir ≠ ag := by
        simp only [owner, Bool.and_eq_true, decide_eq_true_iff]
      have hgo {t} (ht : _ = t) := hhand (succ := succ) (t := t) ht
      simp only [handOver, hcode] at hgo
      exact ⟨fun h h' => hgo (if_pos (hmay.2 ⟨h, h'⟩)), fun h => hgo (if_neg (mt hmay.1 (by tauto)))⟩
    · rw [Option.isSome_iff_ne_none.2 h, Bool.true_and]
      exact decide_eq_true hle
    · rw [Bool.and_eq_true, decide_eq_true_iff]
      exact fun hh => absurd hh.2 (not_le.2 h)
  case boot =>
    intro again
    refine ⟨fun hp => ⟨s.restart, ?_, rfl, rfl, rfl, rfl, rfl, rfl⟩, fun hp => ?_, ⟨_, exec_powerDown s, rfl, rfl, rfl, rfl, rfl, rfl⟩,
      fun hp => ?_⟩
    · rw [exec_powerUp, execPowerUp, hp]
      rfl
    · rw [exec_powerUp, execPowerUp, if_pos hp]
    · have howns (ag : RegAgent) : s.owns ag = true ↔ s.host.ownerAt s.m.wclk = some ag := by
        simp only [State.owns, beq_iff_eq]
      refine ⟨fun h => on_powered (exec_clearingComplete s) hp (if_pos h), fun ag ho hi => on_powered (exec_bootctlGo ag s) hp ?_,
        fun ag h => on_powered (exec_bootctlGo ag s) hp ?_, fun h => ?_, fun h => ?_, fun h h' => ?_, fun ag v ho hv => ?_,
        fun ag v h => ?_⟩
      · exact if_neg (by simp [(howns ag).2 ho, hi])
      · refine if_pos ?_
        rw [Bool.or_eq_true, Bool.not_eq_true', Bool.not_eq_true', ← Bool.not_eq_true, howns]
        exact h
      · have hgo {t} (ht : takeImage s = t) : exec .verificationComplete s = .next t :=
          on_powered (exec_verificationComplete s) hp ((by simp only [endVerifying, h] : endVerifying s = takeImage s).trans ht)
        refine ⟨fun hb => hgo (takeImage_failed hb), fun hb => ⟨_, hgo (takeImage_ready hb), ?_⟩⟩
        simp only [and_self]
      · have hend : endVerifying s = { host := { s.host with boot := .ready }, m := formPart s.m 0 8 0 } := by
          simp only [endVerifying, h]
        refine ⟨_, on_powered (exec_verificationComplete s) hp hend, ?_⟩
        simp only [true_and]
        exact ⟨_, formPart_part s.m 0 8 0, rfl, rfl⟩
      · refine on_powered (exec_verificationComplete s) hp ?_
        unfold endVerifying
        split
        next hb => exact absurd hb h
        next hb => exact absurd hb h'
        next => rfl
      · have hmay : (s.owns ag && decide (v = 0x52535444)) = true := by simp [(howns ag).2 ho, hv]
        exact ⟨_, on_powered (exec_devrst ag v s) hp (if_pos hmay), rfl, rfl, rfl, rfl, rfl⟩
      · refine on_powered (exec_devrst ag v s) hp (if_neg ?_)
        rw [Bool.and_eq_true, decide_eq_true_iff, howns]
        tauto
  case attgo =>
    intro ag k hk hn
    refine on_powered (exec_attgo ag s) hp ?_
    simp only [askReport, hk, hn]
  case report =>
    intro nonce hn
    refine on_powered (exec_attestationReport s) hp ?_
    simp only [putReport, hn]
  case throttles =>
    intro e he
    have hgo : exec e s = .next (throttle s) := by
      obtain ⟨w, rfl, hw⟩ | ⟨w, a, t, rfl, h⟩ := he
      · exact on_powered (exec_powerWindow w s) hp (if_pos hw)
      · exact on_powered (exec_limitReached w a t s) hp (if_pos (by simpa [or_assoc] using h))
    exact ⟨_, hgo, rfl, rfl, rfl, rfl, fun r m hm => throttle_member hm⟩
  case steady => exact fun w hw => on_powered (exec_powerWindow w s) hp (if_neg (not_lt.2 hw))
  case within => exact fun w a t hw ha ht => on_powered (exec_limitReached w a t s) hp (if_neg (by simp; omega))
  case trips => exact fun t ht => on_powered (exec_thermalTrip t s) hp (if_pos ht)
  case cool => exact fun t ht => on_powered (exec_thermalTrip t s) hp (if_neg (not_le.2 ht))
  case trains =>
    exact fun port gen x16 h2 h5 h7 => on_powered (exec_pcieLinkTraining port gen x16 s) hp (if_neg (by simp; omega))
  case window =>
    intro pa reached
    have hreach : windowReach s boot off n = if reached then some pa else none := by
      refine if_congr ?_ rfl rfl
      simp only [reached, pa, Bool.and_eq_true, decide_eq_true_iff, List.all_eq_true, List.mem_range, Bool.not_eq_true', and_assoc]
      rfl
    refine ⟨fun h => ?_, fun h => ?_⟩
    · rw [if_pos h] at hreach
      refine ⟨by simp only [windowRead, hreach, Option.bind_some], fun ag bs hlen hn hport ho hb hboot hidle => ?_⟩
      have hne : bs ≠ [] := fun h => hn (by rw [← hlen, h]; rfl)
      have howns : s.owns ag = true := by simp only [State.owns, ho, beq_self_eq_true]
      have hport' : (ag == .port0 || ag == .port1) = true := by
        obtain rfl | rfl := hport <;> rfl
      have hidles : ¬((boot || (decide (pa < bootWindow) && decide (s.host.boot ≠ .ready))) && !s.host.boot.isIdle) = true := by
        simp only [Bool.and_eq_true, Bool.or_eq_true, decide_eq_true_iff, Bool.not_eq_true', ← Bool.not_eq_true]
        rintro ⟨h' | ⟨hlow, hready⟩, hno⟩
        · exact hno (hboot h')
        · exact hno (hidle hlow hready)
      refine on_powered (exec_apertureWrite ag boot off bs s) hp ?_
      simp only [windowWrite, if_neg hne, hlen, hreach]
      refine if_neg ?_
      rw [hport', howns]
      simpa [hb] using hidles
    · rw [if_neg h] at hreach
      refine ⟨by simp only [windowRead, hreach, Option.bind_none], fun ag bs hlen hn => ?_⟩
      have hne : bs ≠ [] := fun h => hn (by rw [← hlen, h]; rfl)
      refine on_powered (exec_apertureWrite ag boot off bs s) hp ?_
      simp only [windowWrite, if_neg hne, hlen, hreach]
  case refused =>
    refine on_powered (exec_apertureWrite ag boot off bs s) hp ?_
    rcases hr : windowReach s boot off bs.length with _ | pa
    · simp only [windowWrite, if_neg hbs, hr]
    · simp only [windowWrite, if_neg hbs, hr]
      refine if_pos ?_
      simp only [State.owns, Bool.or_eq_true, Bool.and_eq_true, Bool.not_eq_true', beq_eq_false_iff_ne, decide_eq_true_iff]
      tauto

end Sys2Proof.Machine

/-!
PROOFS. What the stores of a member's state change: bytes, the cores' caches and the count of free values, and nothing
else. Arrivals at tiles, aborts, notices and rollbacks; a member saved and restored (R43 to R49, R166, R409, R410).
-/

namespace Sys2Proof.Machine

/-- `N` is `M` but for bytes, the cores' caches and the count of free values. -/
def Stores (M N : Mach) : Prop := ∃ mem cores free, N = { M with mem := mem, cores := cores, free := free }

namespace Stores

variable {M N P : Mach}

theorem refl (M : Mach) : Stores M M := ⟨M.mem, M.cores, M.free, rfl⟩

theorem trans (h : Stores M N) (h' : Stores N P) : Stores M P := by
  obtain ⟨_, _, _, rfl⟩ := h
  obtain ⟨mem, cores, free, rfl⟩ := h'
  exact ⟨mem, cores, free, rfl⟩

theorem members (h : Stores M N) : N.members = M.members := by
  obtain ⟨_, _, _, rfl⟩ := h
  rfl

theorem conns (h : Stores M N) : N.conns = M.conns := by
  obtain ⟨_, _, _, rfl⟩ := h
  rfl

theorem parts (h : Stores M N) : N.parts = M.parts := by
  obtain ⟨_, _, _, rfl⟩ := h
  rfl

theorem member (h : Stores M N) (r : MRef) : N.member r = M.member r := by
  unfold Mach.member
  rw [h.members]

theorem withMem (M : Mach) (mem : List Host.Cell) : Stores M { M with mem := mem } := ⟨mem, M.cores, M.free, rfl⟩

theorem put (M : Mach) (a : Nat) (bs : List Byte) : Stores M (M.put a bs) := ⟨_, M.cores, M.free, rfl⟩

theorem setCore (M : Mach) (c : CoreRec) : Stores M (M.setCore c) := ⟨M.mem, _, M.free, rfl⟩

theorem foldl {α : Type} {f : Mach → α → Mach} (h : ∀ M x, Stores M (f M x)) (M : Mach) (l : List α) :
    Stores M (l.foldl f M) := by
  induction l generalizing M with
  | nil => exact refl M
  | cons x l ih => exact (h M x).trans (ih (f M x))

end Stores

theorem stores_imageBlocks (m : Member) : ∀ (n : Nat) (M : Mach) (off : Nat) (bs : List Byte), Stores M (imageBlocks M m n off bs)
  | 0, M, _, _ => Stores.refl M
  | n + 1, M, off, bs => by
    rw [imageBlocks]
    split
    · exact Stores.refl M
    · refine Stores.trans ?_ (stores_imageBlocks m n _ _ _)
      split
      · exact Stores.put ..
      · exact Stores.refl M

theorem stores_imagePut (M : Mach) (m : Member) (off : Nat) (bs : List Byte) : Stores M (imagePut M m off bs) :=
  stores_imageBlocks m _ M off bs

theorem stores_saveWords (M : Mach) (m : Member) (off : Nat) (ws : List Word) : Stores M (saveWords M m off ws) :=
  stores_imagePut M m off _

theorem stores_saveGroups (M : Mach) (m : Member) (l : List (Nat × List Word)) : Stores M (saveGroups M m l) := by
  unfold saveGroups
  exact Stores.foldl (fun _ _ => stores_saveWords ..) _ _

theorem stores_imageFree (M : Mach) (m : Member) (off n : Nat) : Stores M (imageFree M m off n) :=
  Stores.trans ⟨M.mem, M.cores, M.free + n, rfl⟩ (stores_imagePut _ m off _)

theorem stores_imageClear (M : Mach) (m : Member) (off n : Nat) : Stores M (imageClear M m off n) := by
  unfold imageClear
  split
  · exact Stores.withMem ..
  · exact Stores.refl M

theorem stores_imageClears (m : Member) (off : Nat) : ∀ (n : Nat) (M : Mach), Stores M (imageClears M m off n)
  | 0, M => Stores.refl M
  | n + 1, _ => (stores_imageClear ..).trans (stores_imageClears m off n _)

theorem stores_writeTags (M : Mach) (m : Member) : Stores M (writeTags M m) :=
  ((stores_saveWords ..).trans (Stores.foldl (fun _ _ => (stores_imageFree ..).trans (stores_imagePut ..)) _ _)).trans
    (stores_saveGroups ..)

theorem stores_syncTags (M : Mach) (r : MRef) : Stores M (syncTags M r) := by
  unfold syncTags
  split
  · exact Stores.refl M
  · split
    · exact Stores.refl M
    · exact (stores_imageClear ..).trans ((stores_imageClear ..).trans ((stores_imageClear ..).trans (stores_writeTags ..)))

theorem stores_movePieces (m : Member) (out : Bool) (base off : Nat) : ∀ (n : Nat) (M : Mach), Stores M (movePieces M m out base off n)
  | 0, M => Stores.refl M
  | n + 1, M => by
    refine (stores_movePieces m out base off n M).trans ?_
    rw [movePieces]
    split
    · exact Stores.refl _
    · exact Stores.withMem ..

theorem stores_writeBack (M : Mach) (core : Nat) (pick : Nat → Bool) : Stores M (writeBack M core pick) :=
  (Stores.setCore ..).trans (Stores.withMem ..)

theorem stores_clearCore (M : Mach) (c : Nat) : Stores M (clearCore M c) :=
  (Stores.setCore ..).trans (Stores.withMem ..)

theorem stores_saveAcc (M : Mach) (m : Member) (k : Nat) : Stores M (saveAcc M m k) :=
  (Stores.foldl (fun _ _ => stores_saveWords ..) _ _).trans (Stores.foldl (fun _ _ => stores_imagePut ..) _ _)

theorem stores_writeHeader (M : Mach) (m : Member) : Stores M (writeHeader M m) := stores_saveWords ..

theorem stores_l1Room (M : Mach) (m : Member) (core line : Nat) : Stores M (l1Room M m core line) := by
  simp only [l1Room]
  repeat' split
  all_goals exact ⟨_, _, _, rfl⟩

theorem stores_l1Open (M : Mach) (m : Member) (core line : Nat) : Stores M (l1Open M m core line).1 := by
  unfold l1Open
  split
  · exact Stores.refl M
  · exact stores_l1Room ..

theorem stores_enterL1 (M : Mach) (m : Member) (core pa : Nat) (bs : List Byte) : Stores M (enterL1 M m core pa bs) := by
  unfold enterL1
  split
  · exact (stores_l1Open M m core (pa / 64)).trans (Stores.setCore ..)
  · exact Stores.put ..

theorem stores_performEntry (M : Mach) (m : Member) (core : Nat) (e : SbEntry) : Stores M (performEntry M m core e) := by
  unfold performEntry
  split
  · split
    · exact stores_enterL1 ..
    · exact ((stores_writeBack ..).trans (Stores.put ..)).trans (Stores.setCore ..)
  · exact stores_enterL1 ..

theorem stores_writeImage (M : Mach) (m : Member) : Stores M (writeImage M m) := by
  unfold writeImage
  extract_lets _ _ _ _ _ _ cleared saved queues tags header nest
  have hcleared : Stores M cleared :=
    (stores_imageClear ..).trans ((stores_imageClear ..).trans ((stores_imageClear ..).trans ((stores_imageClears ..).trans
      ((stores_imageClear ..).trans ((stores_imageClear ..).trans (stores_imageClears ..))))))
  have hqueues : Stores saved queues := Stores.foldl (fun _ _ => stores_imagePut ..) _ _
  have htags : Stores queues header := (stores_writeTags ..).trans (stores_imageFree ..)
  have hnest : Stores header nest := by
    dsimp only [nest]
    split
    · split
      · exact Stores.refl _
      · exact stores_imageFree ..
    · exact Stores.refl _
  exact hcleared.trans ((stores_saveGroups ..).trans (hqueues.trans (htags.trans (hnest.trans
    (Stores.foldl (fun _ _ => stores_saveAcc ..) _ _)))))

/-! ### Arrivals at a tile -/

section
variable {M : Mach} {a : Arrival} {m : Member}

theorem deliver_stray (h : M.member a.dst = none) : deliver M a = (M, .unknown) := by
  simp only [deliver, h]

theorem deliver_outside (h : M.member a.dst = some m) (ht : m.tilesN ≤ a.tile) : deliver M a = (M, .unknown) := by
  simp only [deliver, h, if_pos ht]

section
variable (h : M.member a.dst = some m) (ht : a.tile < m.tilesN)
include h ht

theorem deliver_stale (hs : m.stale a = true) : deliver M a = (M, .taken) := by
  simp only [deliver, h, if_neg (not_le.2 ht), hs, if_true]

variable (hs : m.stale a = false)
include hs

theorem deliver_queued (hf : (m.tile a.tile).tag = .full) (hq : m.arrq.length < 64) :
    deliver M a = (syncTags (M.putMember { m with arrq := m.arrq ++ [a] }) a.dst, .taken) := by
  simp [deliver, h, not_le.2 ht, hs, hf, hq]

theorem deliver_crowded (hf : (m.tile a.tile).tag = .full) (hq : 64 ≤ m.arrq.length) : deliver M a = (M, .again) := by
  simp [deliver, h, not_le.2 ht, hs, hf, not_lt.2 hq]

theorem deliver_busy (hf : (m.tile a.tile).tag ≠ .full) (hj : journalBusy M m a = true) : deliver M a = (M, .again) := by
  simp [deliver, h, not_le.2 ht, hs, hf, hj]

theorem deliver_applied (hf : (m.tile a.tile).tag ≠ .full) (hj : journalBusy M m a = false) :
    deliver M a = (syncTags (applyArrival M m a) a.dst, .taken) := by
  simp [deliver, h, not_le.2 ht, hs, hf, hj]

end

end

/-! ### Numbered lists and tiles -/

/-- What another number reads. -/
theorem aGet_aSet_ne {α : Type} (l : List (Nat × α)) {k j : Nat} (v : α) (h : j ≠ k) : aGet (aSet l k v) j = aGet l j := by
  unfold aGet aSet
  by_cases hin : (l.any fun x => x.1 == k) = true
  · have hupd : (l.map fun x => if (x.1 == k) = true then (k, v) else x)
        = updIf (fun x : Nat × α => x.1 == k) (fun _ => (k, v)) l := rfl
    rw [if_pos hin, hupd, find_updIf_other (fun x : Nat × α => x.1 == k) (fun x => x.1 == j) (fun _ => (k, v))]
    intro x hx
    rw [beq_iff_eq] at hx
    simp [hx, h.symm]
  · rw [if_neg hin, List.find?_append]
    simp [h.symm]

theorem Member.tile_setTile (m : Member) (t : Nat) (r : TileRec) : (m.setTile t r).tile t = r := by
  simp only [Member.tile, Member.setTile, aGet_aSet, Option.getD_some]

/-- What rolling journal entries back changes of a member: its tiles. -/
theorem rollTiles_eq (js : List Journal) (m : Member) : ∃ T, js.foldl Member.rollTile m = { m with tiles := T } := by
  induction js generalizing m with
  | nil => exact ⟨m.tiles, rfl⟩
  | cons j js ih =>
    obtain ⟨T, hT⟩ := ih (m.rollTile j)
    exact ⟨T, hT⟩

/-! ### Draining a member's stores, and its image -/

/-- A member whose buffers have drained keeps its place and what is in its tiles' care. -/
def SameTiles (x m : Member) : Prop :=
  x.place = m.place ∧ x.tiles = m.tiles ∧ x.arrq = m.arrq ∧ x.journal = m.journal

theorem drainBuffer_sameTiles {M : Mach} {r : MRef} {m : Member} (st : Strm) (h : M.member r = some m) :
    ∃ x, (drainBuffer M r st).member r = some x ∧ SameTiles x m := by
  rcases hc : m.core with _ | core
  · simp only [drainBuffer, h, hc]
    exact ⟨m, rfl, rfl, rfl, rfl, rfl⟩
  · simp only [drainBuffer, h, hc]
    rw [Mach.member_updMember _ _ _ fun x hx => by simpa using hx,
      (Stores.foldl (fun _ _ => stores_performEntry ..) M _).member r, h]
    exact ⟨_, rfl, by simp [SameTiles]⟩

theorem drainBuffers_sameTiles {r : MRef} {m : Member} (l : List Strm) {M : Mach} (h : M.member r = some m) :
    ∃ x, (l.foldl (fun M st => drainBuffer M r st) M).member r = some x ∧ SameTiles x m := by
  induction l generalizing M m with
  | nil => exact ⟨m, h, rfl, rfl, rfl, rfl⟩
  | cons st l ih =>
    obtain ⟨y, hy, hp, ht, hq, hj⟩ := drainBuffer_sameTiles st h
    obtain ⟨x, hx, hp', ht', hq', hj'⟩ := ih hy
    exact ⟨x, hx, hp'.trans hp, ht'.trans ht, hq'.trans hq, hj'.trans hj⟩

/-- What reading a member's image keeps of it: its name, its commands, the faults owed and the refusals pending. -/
def KeepsDebts (x m : Member) : Prop :=
  x.ref = m.ref ∧ x.cmds = m.cmds ∧ x.owed = m.owed ∧ ∀ st, (x.str st).imprecise = (m.str st).imprecise

theorem KeepsDebts.trans {x y z : Member} (h : KeepsDebts x y) (h' : KeepsDebts y z) : KeepsDebts x z := by
  obtain ⟨hr, hc, ho, hi⟩ := h
  obtain ⟨hr', hc', ho', hi'⟩ := h'
  exact ⟨hr.trans hr', hc.trans hc', ho.trans ho', fun st => (hi st).trans (hi' st)⟩

theorem readStream_keepsDebts (M : Mach) (m : Member) (st : Strm) : KeepsDebts (readStream M m st) m := by
  unfold readStream
  refine ⟨?_, ?_, ?_, fun q => ?_⟩
  · simp
  · simp
  · simp
  · by_cases hq : q = st
    · subst hq
      cases q <;> rfl
    · have hne (x : Member) (h : Option Handler) : ({ x with handler := h } : Member).str q = x.str q := by cases q <;> rfl
      rw [hne, Member.str_setStr_ne _ _ _ _ hq]

theorem readImage_keepsDebts (M : Mach) (m : Member) : KeepsDebts (readImage M m) m := by
  have hstreams (l : List Strm) (m : Member) : KeepsDebts (l.foldl (fun m st => readStream M m st) m) m := by
    induction l generalizing m with
    | nil => exact ⟨rfl, rfl, rfl, fun _ => rfl⟩
    | cons st l ih =>
      exact (ih (readStream M m st)).trans (readStream_keepsDebts M m st)
  unfold readImage
  split
  · exact ⟨rfl, rfl, rfl, fun _ => rfl⟩
  · extract_lets m0 z
    obtain ⟨hr, hc, ho, hi⟩ : KeepsDebts z m0 := hstreams Strm.all m0
    clear_value z
    -- with the fields of `z` as variables, no field that is read from the image is ever compared
    cases z
    refine ⟨hr, hc, ho, fun st => ?_⟩
    have hst := hi st
    cases st <;>
    · dsimp only [Member.str] at hst ⊢
      exact hst

/-- A member on a core has no image to keep in step. -/
theorem syncTags_onCore {M : Mach} {r : MRef} {m : Member} (h : M.member r = some m) (hc : m.core ≠ none) :
    syncTags M r = M := by
  simp only [syncTags, h]
  exact if_pos (Option.isSome_iff_ne_none.2 hc)

/-- A tile that is not FULL yet, nor poisoned, is poisoned by an abort. -/
def abortTile (t : Nat) (y : Member) : Member :=
  if (y.tile t).tag = .empty ∨ (y.tile t).tag = .filling then y.poison t 2 else y

theorem abortTile_ref (t : Nat) (y : Member) : (abortTile t y).ref = y.ref := by
  unfold abortTile
  split <;> rfl

theorem abortTile_core (t : Nat) (y : Member) : (abortTile t y).core = y.core := by
  unfold abortTile
  split <;> rfl

/-- A member as it stands on the core it is restored on. -/
def restoredOn (z : Member) (core now : Nat) (save : Word) : Member :=
  { z with
    place := .core core
    freeze := if z.escalated.isSome then .escalated else .none
    skew := now - z.cycle
    tsave := save
    vbusy := 0 }

theorem restoredOn_keepsDebts (z : Member) (core now : Nat) (save : Word) : KeepsDebts (restoredOn z core now save) z :=
  ⟨rfl, rfl, rfl, fun st => by cases st <;> rfl⟩

theorem stoppedCmd_congr {x m : Member} (h : KeepsDebts x m) : stoppedCmd x = stoppedCmd m := by
  obtain ⟨-, hcmds, -, himp⟩ := h
  simp only [stoppedCmd, hcmds, himp]

/-- A member with no stopped command and no fault owed goes on as it is. -/
theorem takeStopped_none {M : Mach} {r : MRef} {m : Member} (h : M.member r = some m) (hs : stoppedCmd m = none)
    (ho : m.owed = []) : takeStopped M r = M := by
  simp only [takeStopped, h, hs, Option.bind_none, payOwed, ho]

/-- With every command finished, only a nest is taken up again. -/
theorem restartEngines_members {M : Mach} {r : MRef} {m : Member} (h : M.member r = some m)
    (hf : ∀ c ∈ m.cmds, c.finished = true) : (restartEngines M r).members = M.members := by
  have hnone (f : Mach → Cmd → Mach) (l : List Cmd) (hl : ∀ c ∈ l, c.finished = true) (M : Mach) :
      l.foldl (fun M c => if c.finished || c.sys.isSome then M else f M c) M = M := by
    induction l with
    | nil => rfl
    | cons c l ih =>
      have hc : (c.finished || c.sys.isSome) = true := by rw [hl c (by simp)]; rfl
      rw [List.foldl_cons, if_pos hc, ih fun d hd => hl d (by simp [hd])]
  simp only [restartEngines, h]
  refine (congrArg Mach.members (hnone _ _ hf _)).trans ?_
  split
  · exact (raiseOnce_frame ..).2.1
  · rfl

/-- Settles O48: an arrival by the checks of its tile; aborts, notices and rollbacks by what they write; a member saved
and restored by the frame of the stores of its image. -/
theorem arrivalsReachTheirTiles : Obligations.ArrivalsReachTheirTiles := by
  refine fun s => ⟨fun e a he => ?arrival, fun r m t hm => ?abort, fun r m rank epoch hm => ?journal, fun r m core hm => ?image⟩
  case arrival =>
    have hgo (N : Mach) (d : Deliv) (hd : deliver s.m a = (N, d)) (P : Mach)
        (hP : (match d with
          | .taken => arrivalIn N a
          | .again => N.raise 64 (.arrivalRetry a)
          | .unknown => arrivalRefused N a 0x23 false) = P) : Becomes e s P := by
      have hhere : arriveHere s.m a = P := by
        unfold arriveHere
        rw [hd, ← hP]
        cases d <;> rfl
      obtain rfl | rfl := he
      · exact lift_becomes (exec_arrival ..) hhere
      · exact lift_becomes (exec_arrivalRetry ..) hhere
    refine ⟨fun h => hgo _ _ (deliver_stray h) _ rfl, fun m h => ⟨fun ht => hgo _ _ (deliver_outside h ht) _ rfl,
      fun ht hs => hgo _ _ (deliver_stale h ht hs) _ rfl, fun ht hs => ⟨fun hf hq => hgo _ _ (deliver_queued h ht hs hf hq) _ rfl,
        fun hf hq => hgo _ _ (deliver_crowded h ht hs hf hq) _ rfl, fun hf hj => hgo _ _ (deliver_busy h ht hs hf hj) _ rfl,
        fun hf hj => hgo _ _ (deliver_applied h ht hs hf hj) _ rfl⟩⟩⟩
  case abort =>
    have hgo (P : Mach) (hP : syncTags ((dropFilling s.m r t).updMember r (abortTile t)) r = P) :
        Becomes (.abortEvent r t) s P := by
      refine lift_becomes (exec_abortEvent ..) (Eq.trans ?_ hP)
      refine congrArg (fun f => syncTags ((dropFilling s.m r t).updMember r f) r) (funext fun x => ?_)
      unfold abortTile
      rcases (x.tile t).tag <;> rfl
    have hX : ((dropFilling s.m r t).updMember r (abortTile t)).member r = some (abortTile t m) := by
      rw [Mach.member_updMember _ _ _ fun x hx => (abortTile_ref t x).trans hx]
      exact congrArg (Option.map (abortTile t)) hm
    have hothers (q : MRef) (hq : q ≠ r) :
        ((dropFilling s.m r t).updMember r (abortTile t)).member q = s.m.member q :=
      Mach.member_updMember_ne _ _ _ _ (fun x hx => (abortTile_ref t x).trans hx) hq
    have hN := stores_syncTags ((dropFilling s.m r t).updMember r (abortTile t)) r
    have hmem (hc : m.core ≠ none) :
        (syncTags ((dropFilling s.m r t).updMember r (abortTile t)) r).mem = s.m.mem := by
      rw [syncTags_onCore hX (by rw [abortTile_core]; exact hc)]
      rfl
    refine ⟨fun h => ⟨_, hgo _ rfl, ?_, hmem, fun _ => ?_, fun c hc => ?_, fun q hq => (hN.member q).trans (hothers q hq)⟩,
      fun h => ⟨_, hgo _ rfl, hmem, fun q => (hN.member q).trans ?_⟩⟩
    · rw [hN.member, hX, abortTile, if_pos h]
    · rfl
    · rw [hN.conns] at hc
      obtain ⟨d, -, rfl⟩ := List.mem_map.1 hc
      simp
    · by_cases hq : q = r
      · have hsame : abortTile t m = m := if_neg (by obtain h | h := h <;> simp [h])
        rw [hq, hX, hm, hsame]
      · exact hothers q hq
  case journal =>
    intro mine
    have href := Mach.member_ref hm
    refine ⟨⟨_, lift_becomes (exec_closingNotice ..) rfl, ?_, fun hc => ?_, fun q hq => ?_⟩, ?_⟩
    · unfold noticeAt
      rw [(stores_syncTags ..).member, Mach.member_updMember _ _ _ (fun x hx => by exact hx), hm]
      rfl
    · unfold noticeAt
      rw [syncTags_onCore (m := { m with journal := m.journal.filter fun j => !mine j }) _ hc]
      · rfl
      · rw [Mach.member_updMember _ _ _ (fun x hx => by exact hx), hm]
        rfl
    · unfold noticeAt
      rw [(stores_syncTags ..).member, Mach.member_updMember_ne _ _ _ _ (fun x hx => by exact hx) hq]
    · obtain ⟨T, hT⟩ := rollTiles_eq (m.journal.filter mine) m
      have hgo (P : Mach) (hP : rollbackAt s.m r rank epoch = P) : Becomes (.rollback r rank epoch) s P :=
        lift_becomes (exec_rollback ..) hP
      simp only [rollbackAt, hm] at hgo
      have hx := hT
      simp only [mine] at hx
      simp only [hx] at hgo
      refine ⟨_, hgo _ rfl, rfl, rfl, ?_, fun n hn => ?_, fun st => ?_, fun j hj => ?_⟩
      · simp only [Member.floorOf, aGet_aSet, Option.getD_some]
      · simp only [Member.floorOf, aGet_aSet_ne _ _ hn]
      · cases st <;> rfl
      · have hrolled : T = (m.rollTile j).tiles := by
          rw [hj] at hT
          exact (congrArg Member.tiles hT).symm
        have htile (y : Member) (hy : y.tiles = T) : y.tile j.tile = (m.rollTile j).tile j.tile := by
          simp only [Member.tile, hy, hrolled]
        rw [htile _ rfl, Member.rollTile, Member.tile_setTile]
        refine ⟨rfl, rfl, rfl, fun hp => if_pos hp, fun hp => ?_⟩
        dsimp only
        rw [if_neg hp, ← Nat.sub_eq_zero_iff_le]
        split
        · simp [*]
        · simp [*]
  case image =>
    refine ⟨fun hheld => ⟨lift_becomes (exec_save ..) (if_pos hheld), lift_becomes (exec_restore ..) (if_pos hheld)⟩,
      fun hsteady hp hh => ?_, fun p hsteady hpart hp hset howns hlive hocc hst hod hfin => ?_⟩
    · have hgo (P : Mach) (hP : saveMember s.m r = P) : Becomes (.save r) s P :=
        lift_becomes (exec_save ..) ((if_neg (by rw [hsteady]; decide)).trans hP)
      obtain ⟨y, hy, -, htiles, harrq, hjournal⟩ := drainBuffers_sameTiles Strm.all hm
      simp only [saveMember, hm, hp, hh, hy] at hgo
      have href : y.ref = r := Mach.member_ref hy
      refine ⟨_, _, hgo _ (if_neg (not_not.2 rfl)), Mach.member_putMember (m := y) ?_ (by exact href), rfl, htiles, harrq,
        hjournal⟩
      rw [(stores_writeHeader ..).member, (Stores.setCore ..).member, (stores_writeBack ..).member, (stores_movePieces ..).member,
        (stores_movePieces ..).member, (stores_writeImage ..).member]
      exact hy
    · intro P z
      have hgo (N : Mach) (hN : restoreMember s.m r core = N) : Becomes (.restore r core) s N :=
        lift_becomes (exec_restore ..) ((if_neg (by rw [hsteady]; decide)).trans hN)
      simp only [restoreMember, hm, hpart, hset] at hgo
      have hfree : ¬(m.core.isSome || !p.owns (core / 32) || !s.m.liveDies.contains (core / 32) || (s.m.occupant core).isSome) =
          true := by
        simp [Member.core, hp, howns, hlive, hocc]
      replace hgo := fun N hN => hgo N ((if_neg (by decide)).trans ((if_neg hfree).trans hN))
      have hz : KeepsDebts z m := readImage_keepsDebts ..
      have href : z.ref = r := hz.1.trans (Mach.member_ref hm)
      have hP : (movePieces P m false (bstoreBase core) 0x600000 32).member r = some m := by
        rw [(stores_movePieces ..).member, (stores_movePieces ..).member, (stores_clearCore ..).member]
        exact hm
      have hPdef : movePieces (clearCore s.m core) m false (sramBase core) 0x200000 (tileCount m.size / 8) = P := rfl
      have hzdef : readImage (movePieces P m false (bstoreBase core) 0x600000 32) m = z := rfl
      clear_value z P
      simp only [hPdef, hzdef] at hgo
      let y := restoredOn z core (movePieces P m false (bstoreBase core) 0x600000 32).wclk (w64 (saveArea p r))
      let Q := saveWords ((movePieces P m false (bstoreBase core) 0x600000 32).putMember y) y 0 [3]
      have hQ : Q.member r = some y := by
        rw [(stores_saveWords ..).member]
        exact Mach.member_putMember hP href
      have hy : KeepsDebts y m := (restoredOn_keepsDebts ..).trans hz
      have hstop : takeStopped Q r = Q := takeStopped_none hQ ((stoppedCmd_congr hy).trans hst) (hy.2.2.1.trans hod)
      have hrestart := restartEngines_members hQ (by rw [hy.2.1]; exact hfin)
      refine ⟨raiseOnce (restartEngines (takeStopped Q r) r) 1 (.chunkDispatch r.part (core / 32)), y, hgo _ rfl, ?_, rfl, rfl, rfl, rfl⟩
      · rw [hstop, Mach.member, (raiseOnce_frame ..).2.1, hrestart]
        exact hQ

end Sys2Proof.Machine

/-!
PROOFS. What leaves every member as it is: translations, stores at homes, packets, logs and records of traps.
-/

namespace Sys2Proof.Machine

theorem members_foldl {α : Type} {f : Mach → α → Mach} (h : ∀ M x, (f M x).members = M.members) (M : Mach) (l : List α) :
    (l.foldl f M).members = M.members := by
  induction l generalizing M with
  | nil => rfl
  | cons x l ih => exact (ih (f M x)).trans (h M x)

/-- The members, the partitions and the live dies of `N` are those of `M`. -/
structure KeepsBodies (M N : Mach) : Prop where
  members : N.members = M.members
  parts : N.parts = M.parts
  liveDies : N.liveDies = M.liveDies

namespace KeepsBodies

variable {M N P : Mach}

theorem refl (M : Mach) : KeepsBodies M M := ⟨rfl, rfl, rfl⟩

theorem trans (h : KeepsBodies M N) (h' : KeepsBodies N P) : KeepsBodies M P :=
  ⟨h'.members.trans h.members, h'.parts.trans h.parts, h'.liveDies.trans h.liveDies⟩

theorem foldl {α : Type} {f : Mach → α → Mach} (h : ∀ M x, KeepsBodies M (f M x)) (M : Mach) (l : List α) :
    KeepsBodies M (l.foldl f M) := by
  induction l generalizing M with
  | nil => exact refl M
  | cons x l ih => exact (h M x).trans (ih (f M x))

end KeepsBodies

theorem Stores.keepsBodies {M N : Mach} (h : Stores M N) : KeepsBodies M N := by
  obtain ⟨mem, cores, free, rfl⟩ := h
  exact ⟨rfl, rfl, rfl⟩

/-! ### Translations that are cached -/

theorem keepsBodies_dieFill (M : Mach) (die : Nat) (e : TlbEntry) : KeepsBodies M (dieFill M die e) := by
  unfold dieFill
  dsimp only
  split
  · exact KeepsBodies.refl M
  · exact ⟨rfl, rfl, rfl⟩

theorem keepsBodies_tlbFill (M : Mach) (core : Option Nat) (die : Nat) (e : TlbEntry) :
    KeepsBodies M (tlbFill M core die e) := by
  unfold tlbFill
  split
  · exact keepsBodies_dieFill ..
  · split
    · exact KeepsBodies.refl M
    · exact (keepsBodies_dieFill M die e).trans ⟨rfl, rfl, rfl⟩

theorem keepsBodies_tlbFills (M : Mach) (core : Option Nat) (die : Nat) (es : List TlbEntry) :
    KeepsBodies M (tlbFills M core die es) :=
  KeepsBodies.foldl (fun M e => keepsBodies_tlbFill M core die e) M es

theorem logPart_members (M : Mach) (part cause unit : Nat) (v : Word) : (M.logPart part cause unit v).members = M.members := by
  unfold Mach.logPart
  split
  · rfl
  · dsimp only
    split
    · simp only [Mach.updPart_members, Mach.setWord, Mach.put_members]
    · rfl

theorem logPart_liveDies (M : Mach) (part cause unit : Nat) (v : Word) : (M.logPart part cause unit v).liveDies = M.liveDies := by
  unfold Mach.logPart
  split
  · rfl
  · dsimp only
    split
    · simp only [Mach.updPart_liveDies, Mach.setWord, Mach.put_liveDies]
    · rfl

theorem keepsBodies_homeWrite : ∀ (ps : List (Nat × Nat)) (M : Mach) (bs : List Byte), KeepsBodies M (homeWrite M ps bs)
  | [], M, _ => KeepsBodies.refl M
  | (pa, n) :: ps, M, bs => (Stores.put M pa (bs.take n)).keepsBodies.trans (keepsBodies_homeWrite ps _ _)

/-! ### Packets -/

theorem keepsBodies_route (M : Mach) (p : Packet) : KeepsBodies M (route M p) := by
  unfold route
  split
  · exact ⟨rfl, rfl, rfl⟩
  · dsimp only
    split
    · exact ⟨rfl, rfl, rfl⟩
    · exact ⟨rfl, rfl, rfl⟩

theorem keepsBodies_transmit (M : Mach) (c : Conn) (p : Packet) (o : Origin) : KeepsBodies M (transmit M c p o) := by
  obtain ⟨hmembers, hparts, hdies⟩ := keepsBodies_route
    ((M.setConn _).raise 16384 (.retransmitTimeout c.ref c.nextSeq)) { p with seq := c.nextSeq, ack := c.ackNo M }
  exact ⟨hmembers, hparts, hdies⟩

theorem keepsBodies_sendOn (M : Mach) (r : ConnRef) (p : Packet) (o : Origin) : KeepsBodies M (sendOn M r p o) := by
  unfold sendOn
  split
  · exact keepsBodies_transmit ..
  · split
    · exact ⟨rfl, rfl, rfl⟩
    · exact ⟨rfl, rfl, rfl⟩
    · split
      · exact keepsBodies_transmit ..
      · exact ⟨rfl, rfl, rfl⟩

/-! ### The record of a trap -/

theorem stores_dropLines (M : Mach) (core : Option Nat) (pa n : Nat) : Stores M (dropLines M core pa n) := by
  unfold dropLines
  split
  · exact Stores.refl M
  · exact Stores.setCore ..

theorem stores_writeRecord (M : Mach) (m : Member) (r : List Word) : Stores M (writeRecord M m r) := by
  unfold writeRecord
  dsimp only
  split
  · exact (stores_saveWords ..).trans (stores_dropLines ..)
  · exact stores_saveWords ..

theorem stores_writeMarker (M : Mach) (m : Member) : Stores M (writeMarker M m) := by
  have hcleared : Stores M (imageClear (imageClears (imageClear (imageClear M m 0xD400 0x80) m 0xF8000 0x8000) m 0x100000 15) m
      0x1F0000 0x8000) :=
    (stores_imageClear ..).trans ((stores_imageClear ..).trans ((stores_imageClears ..).trans (stores_imageClear ..)))
  unfold writeMarker
  dsimp only
  split
  · exact hcleared
  · exact hcleared.trans (stores_saveGroups ..)

theorem stores_markPre (M : Mach) (m : Member) : Stores M (markPre M m) := by
  unfold markPre
  split
  · exact Stores.put ..
  · exact Stores.refl M

theorem settleAcqs_members (M : Mach) (m : Member) : (settleAcqs M m).members = M.members := by
  refine members_foldl (fun M st => ?_) M _
  split <;> rfl

/-! ### Spans and writes of the memory-side path -/

theorem keepsBodies_spanLong {core : Option Nat} {die part : Nat} {k : AKind} :
    ∀ (fuel : Nat) {M N : Mach} {pva : Word} {n : Nat} {ts : List (Target × Nat)},
      spanLong core die part k fuel M pva n = .ok (N, ts) → KeepsBodies M N
  | 0, M, N, pva, n, ts, h => by
    cases h
    exact KeepsBodies.refl M
  | fuel + 1, M, N, pva, n, ts, h => by
    rw [spanLong] at h
    dsimp only at h
    split at h
    · cases h
    · split at h
      · cases h
        exact keepsBodies_tlbFills ..
      · split at h
        · cases h
        · next hrest =>
          cases h
          exact (keepsBodies_tlbFills ..).trans (keepsBodies_spanLong fuel hrest)

theorem keepsBodies_longSpan {M N : Mach} {core : Option Nat} {die part : Nat} {k : AKind} {pva : Word} {n : Nat}
    {ts : List (Target × Nat)} (h : longSpan M core die part k pva n = .ok (N, ts)) : KeepsBodies M N := by
  unfold longSpan at h
  split at h
  · cases h
    exact KeepsBodies.refl M
  · split at h
    · cases h
    · exact keepsBodies_spanLong _ h

theorem keepsBodies_devWrite {M N : Mach} {die part : Nat} {k : AKind} {pva : Word} {bs : List Byte}
    (h : devWrite M die part k pva bs = .ok N) : KeepsBodies M N := by
  unfold devWrite at h
  split at h
  · cases h
  · next hspan =>
    split at h
    · cases h
      exact (keepsBodies_longSpan hspan).trans (keepsBodies_homeWrite ..)
    · cases h

theorem keepsBodies_restoreBins (M : Mach) (m : Member) (g : Region) : KeepsBodies M (restoreBins M m g) := by
  refine KeepsBodies.foldl (fun M b => ?_) M _
  split
  · next h => exact keepsBodies_devWrite h
  · exact KeepsBodies.refl M

end Sys2Proof.Machine

/-!
PROOFS. A halt whose stopped copies reach a member again (R403, R404, R341).
-/

namespace Sys2Proof.Machine

/-- A member in an open region whose copy holds a sector not yet sent and carries the epoch after its member's. -/
def reachingHalt : Member :=
  { Member.fresh ⟨0, 0, 0⟩ 0 1 0 [] (.core 0) 0 with
    preempt := true
    epoch := 4
    region := some ⟨0, [0, 0, 0, 0], [0, 0, 0, 0], [], 4, [], [], 0⟩
    cmds :=
      [{ ref := ⟨⟨0, 0, 0⟩, 0, 1⟩
         st := .a
         run := .copy ⟨CopyCfg.fresh, 1, .pkg, some 0, some (0, 0, 0, []), none, [], [], [], false⟩
         out := 0, engineDone := false, finished := false, oob := false, emptyBag := false, err := false, ovf := false
         fault := false, nbad := 0, first := 0, pos := 0, spec := 0, deferred := []
         epoch := some 5
         sys := none }] }

/-- The device with that member alone. -/
def reachingHaltMach : Mach := { Mach.reset with members := [reachingHalt] }

/-- The region that is opened anew carries the epoch of the copy, whose last sector then counts as sent by it. -/
theorem reached_haltMember :
    ((haltMember reachingHaltMach ⟨0, 0, 0⟩).member ⟨0, 0, 0⟩).map (fun x => x.region.map (·.reached)) =
      some (some [⟨0, 0, 0⟩]) := by
  decide +kernel

theorem halt_of_becomes {s : State} {r : MRef} {N : Mach} (h : Becomes (.preemptHalt r) s N) : haltMember s.m r = N :=
  congrArg State.m (Host.Outcome.next.inj ((exec_preemptHalt r s).symm.trans h))

/-- Refutes O56: a halt sends the sectors its copies hold after the region stands open again, and one of a command with
the new region's epoch enters that region's list of members reached, which the statement says is empty. -/
theorem not_membersAreHaltedSavedAndRestored : ¬ Obligations.MembersAreHaltedSavedAndRestored := by
  unfold Obligations.MembersAreHaltedSavedAndRestored
  intro h
  obtain ⟨N, x, hN, hx, -, -, -, -, -, -, -, hregion, -⟩ :=
    ((h.1 { State.reset with m := reachingHaltMach }).2 ⟨0, 0, 0⟩ reachingHalt (by decide +kernel)).2 rfl rfl
  obtain ⟨-, -, ⟨z, hz, -, -, -, hreached⟩, -⟩ := hregion _ rfl
  have hhalt : haltMember reachingHaltMach ⟨0, 0, 0⟩ = N :=
    halt_of_becomes (s := { State.reset with m := reachingHaltMach }) hN
  have hlist := reached_haltMember
  rw [hhalt, hx, Option.map_some, hz, Option.map_some, hreached] at hlist
  cases hlist

end Sys2Proof.Machine

/-!
PROOFS. Regions and the ends of iterations (R163 to R165, R226, R227, R401 to R404).
-/

namespace Sys2Proof.Machine

/-! ### What stopping a member's copies leaves of its region -/

/-- Where A goes on after a halt: its place, the epoch, and the region's marker, epoch, bins and commands. -/
def Member.anchor (m : Member) : Word × Nat × Option (Word × Nat × List (Nat × Nat) × List CmdRef) :=
  (m.a.pc, m.epoch, m.region.map fun g => (g.marker, g.epoch, g.bins, g.cmds))

/-- The member `r` goes on in `N` where it would in `M`. -/
structure SameAnchor (r : MRef) (M N : Mach) : Prop where
  keeps : ∀ m, M.member r = some m → ∃ x, N.member r = some x ∧ x.anchor = m.anchor

namespace SameAnchor

variable {r : MRef} {M N P : Mach}

theorem refl (r : MRef) (M : Mach) : SameAnchor r M M := ⟨fun m h => ⟨m, h, rfl⟩⟩

theorem trans (h : SameAnchor r M N) (h' : SameAnchor r N P) : SameAnchor r M P where
  keeps m hm := by
    obtain ⟨x, hx, hxm⟩ := h.keeps m hm
    obtain ⟨y, hy, hyx⟩ := h'.keeps x hx
    exact ⟨y, hy, hyx.trans hxm⟩

theorem of_members (h : N.members = M.members) : SameAnchor r M N where
  keeps m hm := ⟨m, by rw [Mach.member, h]; exact hm, rfl⟩

theorem updMember (q : MRef) {f : Member → Member} (href : ∀ y, (f y).ref = y.ref) (hf : ∀ y, (f y).anchor = y.anchor) :
    SameAnchor r M (M.updMember q f) where
  keeps m hm := by
    by_cases hq : r = q
    · subst hq
      refine ⟨f m, ?_, hf m⟩
      rw [Mach.member_updMember _ _ _ fun x hx => (href x).trans hx, hm]
      rfl
    · refine ⟨m, ?_, rfl⟩
      rw [Mach.member_updMember_ne _ _ _ _ (fun x hx => (href x).trans hx) hq, hm]

theorem updCmd (c : CmdRef) (f : Cmd → Cmd) : SameAnchor r M (M.updCmd c f) :=
  updMember c.m (fun _ => rfl) fun _ => rfl

end SameAnchor

/-- The command is no lookup and no exchange. -/
def NoLookup (M : Mach) (c : CmdRef) : Prop := (M.cmd c).bind Cmd.lookup = none

theorem noLookup_updMember {M : Mach} {c : CmdRef} (q : MRef) {f : Member → Member} (href : ∀ y, (f y).ref = y.ref)
    (hf : ∀ y, (f y).cmds = y.cmds) (h : NoLookup M c) : NoLookup (M.updMember q f) c := by
  have hcmd : (M.updMember q f).cmd c = M.cmd c := by
    unfold Mach.cmd
    by_cases hq : c.m = q
    · rw [← hq, Mach.member_updMember _ _ _ fun x hx => (href x).trans hx, Option.bind_map]
      refine congrArg (Option.bind _) (funext fun y => ?_)
      simp only [Function.comp, Member.cmd, hf]
    · rw [Mach.member_updMember_ne _ _ _ _ (fun x hx => (href x).trans hx) hq]
  rw [NoLookup, hcmd]
  exact h

theorem noLookup_updCmd {M : Mach} {c : CmdRef} {f : Cmd → Cmd} (href : ∀ y, (f y).ref = y.ref)
    (hf : ∀ y, y.lookup = none → (f y).lookup = none) (h : NoLookup M c) : NoLookup (M.updCmd c f) c := by
  have hcmd : (M.updCmd c f).cmd c = (M.cmd c).map f := by
    unfold Mach.cmd Mach.updCmd
    rw [Mach.member_updMember _ _ _ fun x hx => by exact hx]
    rcases M.member c.m with _ | m
    · rfl
    · exact find_updIf (fun x : Cmd => x.ref == c) f (fun x hx => by rw [href]; exact hx) m.cmds
  rw [NoLookup, hcmd]
  unfold NoLookup at h
  rcases hc : M.cmd c with _ | y
  · rfl
  · rw [hc] at h
    exact hf y h

/-- What a copy's arrival at its tile changes of its command is no lookup's. -/
theorem noLookup_copyIn {M : Mach} {c d : CmdRef} (key : Word) (i : Option TrapInfo) (hcd : d = c) (h : NoLookup M c) :
    NoLookup (copyIn M d key i) c := by
  subst hcd
  refine noLookup_updCmd (fun y => ?_) (fun y hy => ?_) h
  · split
    · split
      · rfl
      · split
        · rfl
        · rfl
    · rfl
  · split
    · split
      · exact hy
      · split
        · rfl
        · rfl
    · exact hy

theorem sameAnchor_copyIn (r : MRef) (M : Mach) (c : CmdRef) (key : Word) (i : Option TrapInfo) :
    SameAnchor r M (copyIn M c key i) :=
  SameAnchor.updCmd c _

theorem sameAnchor_cmdOneIn (r : MRef) (M : Mach) (c : CmdRef) : SameAnchor r M (cmdOneIn M c) := by
  refine (SameAnchor.updCmd c fun x => { x with out := x.out - 1 }).trans (SameAnchor.of_members ?_)
  unfold cmdOneIn checkDone
  split
  · split <;> rfl
  · rfl

theorem lookupIn_noLookup {M : Mach} {c : CmdRef} (taddr : Word) (h : NoLookup M c) : lookupIn M c taddr = M := by
  have h' : (M.cmd c).bind Cmd.lookup = none := h
  simp only [lookupIn, h']

/-- An arrival of a command that is no lookup, refused or in, once no tile send and no verge write is behind it. -/
theorem sameAnchor_arrivalIn {r : MRef} {M : Mach} {a : Arrival} {c : CmdRef} (ht : a.sender.tsend = false)
    (hv : a.sender.verge = none) (hc : a.sender.cmd = some c) (h : NoLookup M c) : SameAnchor r M (arrivalIn M a) := by
  simp only [arrivalIn, ht, hv, hc, Bool.false_eq_true, if_false]
  split
  · exact SameAnchor.refl r M
  · rw [lookupIn_noLookup a.sender.taddr (noLookup_copyIn a.sender.taddr none rfl h)]
    exact (sameAnchor_copyIn ..).trans (sameAnchor_cmdOneIn ..)

theorem sameAnchor_refuse (r q : MRef) (M : Mach) (st : Strm) (i : Imprecise) : SameAnchor r M (refuse M q st i) :=
  SameAnchor.updMember q (fun _ => by simp only [Member.updStr_ref]) fun y => by cases st <;> rfl

theorem noLookup_refuse {M : Mach} {c : CmdRef} (q : MRef) (st : Strm) (i : Imprecise) (h : NoLookup M c) :
    NoLookup (refuse M q st i) c :=
  noLookup_updMember q (fun _ => by simp only [Member.updStr_ref]) (fun y => by cases st <;> rfl) h

theorem sameAnchor_arrivalRefused {r : MRef} {M : Mach} {a : Arrival} {c : CmdRef} (code : Nat) (remote : Bool)
    (ht : a.sender.tsend = false) (hv : a.sender.verge = none) (hc : a.sender.cmd = some c) (h : NoLookup M c) :
    SameAnchor r M (arrivalRefused M a code remote) := by
  unfold arrivalRefused
  extract_lets s x i N K
  have hK : K = N := by
    have hs : s.verge = none := hv
    unfold K
    rw [hs]
  have hN : NoLookup N c := noLookup_refuse s.m s.st i h
  have hs : s.cmd = some c := hc
  have hrefuse : SameAnchor r M N := sameAnchor_refuse ..
  rw [hK, hs]
  clear_value N
  refine hrefuse.trans ?_
  dsimp only
  split
  · exact sameAnchor_arrivalIn ht hv hc hN
  · exact (sameAnchor_copyIn ..).trans (sameAnchor_arrivalIn ht hv hc (noLookup_copyIn _ _ rfl hN))

theorem sameAnchor_sendArrival {r : MRef} {M : Mach} {a : Arrival} {c : CmdRef} (dev : DevRef) (ht : a.sender.tsend = false)
    (hv : a.sender.verge = none) (hc : a.sender.cmd = some c) (h : NoLookup M c) : SameAnchor r M (sendArrival M dev a) := by
  unfold sendArrival
  split
  · exact SameAnchor.of_members rfl
  · split
    · exact sameAnchor_arrivalRefused _ _ ht hv hc h
    · split
      · exact sameAnchor_arrivalRefused _ _ ht hv hc h
      · exact SameAnchor.of_members (keepsBodies_sendOn ..).members

/-- An arrival of a command that is no lookup changes of its member's region only whom it has reached. -/
theorem sameAnchor_sendCmdArrival {r : MRef} {M : Mach} {a : Arrival} {c : CmdRef} (dev : DevRef)
    (ht : a.sender.tsend = false) (hv : a.sender.verge = none) (hc : a.sender.cmd = some c) (h : NoLookup M c) :
    SameAnchor r M (sendCmdArrival M c dev a) := by
  have hout : SameAnchor r M (M.updCmd c fun x => { x with out := x.out + 1 }) := SameAnchor.updCmd ..
  have hnone : NoLookup (M.updCmd c fun x => { x with out := x.out + 1 }) c :=
    noLookup_updCmd (fun _ => rfl) (fun _ h => h) h
  unfold sendCmdArrival
  dsimp only
  split
  · refine hout.trans (SameAnchor.trans ?_ (sameAnchor_sendArrival dev ht hv hc ?_))
    · refine SameAnchor.updMember _ (fun _ => rfl) fun y => ?_
      simp only [Member.anchor, Option.map_map]
      refine congrArg (fun f => (y.a.pc, y.epoch, y.region.map f)) (funext fun g => ?_)
      simp only [Function.comp_apply]
      split <;> rfl
    · exact noLookup_updMember _ (fun _ => rfl) (fun _ => rfl) hnone
  · exact hout.trans (sameAnchor_sendArrival dev ht hv hc hnone)

theorem sameAnchor_updCopy (r : MRef) (M : Mach) (c : CmdRef) (f : CopyRun → CopyRun) : SameAnchor r M (updCopy M c f) :=
  SameAnchor.updCmd c _

theorem noLookup_updCopy {M : Mach} {c : CmdRef} (f : CopyRun → CopyRun) (h : NoLookup M c) : NoLookup (updCopy M c f) c := by
  refine noLookup_updCmd (fun y => ?_) (fun y hy => ?_) h
  · split <;> rfl
  · split
    · rfl
    · exact hy

theorem Mach.cmd_ref {M : Mach} {c : CmdRef} {x : Cmd} (h : M.cmd c = some x) : x.ref = c := by
  obtain ⟨m, -, hm⟩ := Option.bind_eq_some_iff.mp h
  exact eq_of_beq (List.find?_some (p := fun y : Cmd => y.ref == c) hm)

theorem sameAnchor_flushSector (r : MRef) (M : Mach) (c : CmdRef) : SameAnchor r M (flushSector M c) := by
  unfold flushSector
  split
  · next m x hm hx =>
    split
    · next k hrun =>
      split
      · exact SameAnchor.refl r M
      · have hnone : NoLookup M c := by rw [NoLookup, hx, Option.bind_some, Cmd.lookup, hrun]
        have href : x.ref = c := Mach.cmd_ref hx
        exact (sameAnchor_updCopy ..).trans
          (sameAnchor_sendCmdArrival _ rfl rfl (congrArg some href) (noLookup_updCopy _ hnone))
    · exact SameAnchor.refl r M
  · exact SameAnchor.refl r M

/-- Stopping a member's copies leaves where it goes on. -/
theorem sameAnchor_stopCopies (r : MRef) (M : Mach) (m : Member) : SameAnchor r M (stopCopies M m) := by
  unfold stopCopies
  induction m.cmds generalizing M with
  | nil => exact SameAnchor.refl r M
  | cons c l ih =>
    refine SameAnchor.trans ?_ (ih _)
    dsimp only
    split
    · split
      · exact SameAnchor.refl r M
      · exact (sameAnchor_flushSector ..).trans (sameAnchor_updCopy ..)
    · exact SameAnchor.refl r M

/-! ### Discarding a region (R165) -/

theorem forgetCmds_members (M : Mach) (r : MRef) (cs : List Cmd) : (forgetCmds M r cs).members = M.members := rfl

theorem discardRegion_of_none {M : Mach} {r : MRef} {m : Member} (hm : M.member r = some m) (h : m.region = none) :
    discardRegion M r = M := by
  simp only [discardRegion, hm, h]

theorem cancelRegion_member {M : Mach} {r : MRef} {m : Member} {g : Region} (hm : M.member r = some m)
    (h : m.region = some g) :
    (cancelRegion M r).member r = some { m with region := none, epoch := m.epoch + 1 } := by
  simp only [cancelRegion, hm, h]
  have href := Mach.member_ref hm
  exact Mach.member_putMember hm (by exact href)

theorem reopenRegion_member {M : Mach} {r : MRef} {m : Member} (g : Region) (hm : M.member r = some m) :
    ∃ x, (reopenRegion M r g).member r = some x ∧ x.anchor = (m.a.pc, m.epoch, some (g.marker, m.epoch, [], [])) := by
  rw [reopenRegion, Mach.member_updMember _ _ _ fun y hy => by exact hy, hm]
  exact ⟨_, rfl, rfl⟩

/-- A discarded region stands open anew at its marker, under the next epoch and with nothing done. -/
theorem discardRegion_member {M : Mach} {r : MRef} {m : Member} {g : Region} (hm : M.member r = some m)
    (h : m.region = some g) :
    ∃ x, (discardRegion M r).member r = some x ∧
      x.anchor = (g.marker, m.epoch + 1, some (g.marker, m.epoch + 1, [], [])) := by
  simp only [discardRegion, hm, h]
  have hkeep : (forgetCmds (restoreBins M m g) r (m.cmds.filter fun c => c.st == .a && c.epoch == some g.epoch)).member r =
      some m := by
    rw [Mach.member, forgetCmds_members, (keepsBodies_restoreBins M m g).members]
    exact hm
  let y := { m with cmds := m.cmds.filter fun c => !(c.st == Strm.a && c.epoch == some g.epoch) }.rewind g
  refine reopenRegion_member g (cancelRegion_member (m := y) (g := g) ?_ h)
  rw [Mach.member_updMember _ _ _ fun y hy => by exact hy, hkeep]
  rfl

/-! ### A trap taken keeps the region -/

theorem Member.take_region (m : Member) (x : Taken) :
    (m.take x).ref = m.ref ∧ (m.take x).region = m.region ∧ (m.take x).epoch = m.epoch := by
  cases x with
  | refusal st r => cases st <;> exact ⟨rfl, rfl, rfl⟩
  | deferred cs cause => exact ⟨rfl, rfl, rfl⟩
  | nest => exact ⟨rfl, rfl, rfl⟩

theorem Member.takeFor_region (m : Member) (st : Strm) :
    (m.takeFor st).ref = m.ref ∧ (m.takeFor st).region = m.region ∧ (m.takeFor st).epoch = m.epoch := by
  unfold Member.takeFor
  induction m.taking.filter fun x => x.1 == st generalizing m with
  | nil => exact ⟨rfl, rfl, rfl⟩
  | cons x l ih =>
    obtain ⟨href, hregion, hepoch⟩ := ih (m.take x.2)
    obtain ⟨hr, hg, he⟩ := m.take_region x.2
    exact ⟨href.trans hr, hregion.trans hg, hepoch.trans he⟩

theorem trapRecorded_members (M : Mach) (m : Member) (w : List Word) :
    (settleAcqs (dropAsked (writeRecord M m w) m) m).members = (writeRecord M m w).members :=
  settleAcqs_members ..

/-- A trap taken, or escalated, leaves its member's region and epoch. -/
theorem takeTrap_region {M : Mach} {r : MRef} {m y : Member} (st : Strm) (i : TrapInfo) (tau : Nat)
    (hy : M.member r = some y) (hm : m.ref = r) :
    ∃ x, (takeTrap M m st i tau).member r = some x ∧ x.region = m.region ∧ x.epoch = m.epoch := by
  have hrec (w : List Word) : (settleAcqs (dropAsked (writeRecord M m w) m) m).member r = some y := by
    rw [Mach.member, trapRecorded_members]
    exact ((stores_writeRecord M m w).member r).trans hy
  rcases hesc : m.escalates i with _ | _
  · rw [takeTrap_of_program hesc]
    exact ⟨m.enterHandler st i tau, Mach.member_putMember (hrec _) hm, rfl, rfl⟩
  · rw [takeTrap_of_escalates hesc]
    refine ⟨m.escalate st i tau, ?_, rfl, rfl⟩
    rw [Mach.member, Mach.raise_members, logPart_members]
    exact Mach.member_putMember (hrec _) hm

/-! ### The halt (R404) -/

theorem stores_haltRecord (M : Mach) (m : Member) (w : List Word) :
    Stores M (if m.handler.isSome || m.freeze = Freeze.escalated then markPre M m else writeRecord M m w) := by
  split
  · exact stores_markPre M m
  · exact stores_writeRecord M m w

theorem Stream.halted_pc (s : Stream) (b : Bool) (t : Nat) : (s.halted b t).pc = s.pc := by
  have hkept : (Stream.unwait { s with status := sstat s b 0 } t).pc = s.pc := Stream.pc_unwait ..
  unfold Stream.halted
  dsimp only
  split
  · split
    · exact hkept
    · exact hkept
  · exact hkept

/-- The trap of the last cycle of a member that is halted, its state settled (R404). -/
def haltTrap (M : Mach) (m : Member) : Mach :=
  match chooseTrap m.raised with
  | some (st, i) => if m.freeze = Freeze.escalated then M else takeTrap M (m.takeFor st) st i m.cycle
  | none => M

/-- What a halt writes to the save area before it gives the region up. -/
def haltRecorded (M : Mach) (m : Member) : Mach :=
  settleAcqs
    (dropAsked
      (writeMarker
        (if m.handler.isSome || m.freeze = Freeze.escalated then markPre M m
          else
            writeRecord M m
              (trapRecord M m none false true fun s =>
                match s, m.region with
                | .a, some g => g.marker
                | _, _ => (m.str s).pc))
        m)
      m)
    m

/-- The member's state once it is halted. -/
def Member.halt (m : Member) : Member :=
  let stop (st : Strm) (s : Stream) : Stream := s.halted (m.escalated.any fun x => x.1 == st) m.cycle
  { m with
    preempt := false
    freeze := .halted
    raised := []
    taking := []
    c := stop .c m.c, a := stop .a m.a, v := stop .v m.v, x := stop .x m.x }

theorem haltMember_eq {M : Mach} {r : MRef} {m y : Member} (hm : M.member r = some m) (hpre : m.preempt = true)
    (hcore : m.core.isSome = true)
    (hy : (haltTrap (M.putMember (m.settle (m.now M))) (m.settle (m.now M))).member r = some y) :
    haltMember M r =
      ((stopCopies (discardRegion
        (haltRecorded (haltTrap (M.putMember (m.settle (m.now M))) (m.settle (m.now M))) y) r) y).updMember r
          Member.halt).raise 1 (.save r) := by
  have hgo : (!m.preempt || m.core.isNone) = false := by
    rw [hpre, ← Option.not_isSome, hcore]
    rfl
  unfold haltMember
  rw [hm]
  dsimp only
  rw [hgo, if_neg Bool.false_ne_true]
  change
    (match (haltTrap (M.putMember (m.settle (m.now M))) (m.settle (m.now M))).member r with
      | none => haltTrap (M.putMember (m.settle (m.now M))) (m.settle (m.now M))
      | some z =>
        ((stopCopies (discardRegion
          (haltRecorded (haltTrap (M.putMember (m.settle (m.now M))) (m.settle (m.now M))) z) r) z).updMember r
            Member.halt).raise 1 (.save r)) = _
  rw [hy]

theorem haltTrap_member {M : Mach} {m : Member} (hm : M.member m.ref = some m) :
    ∃ x, (haltTrap M m).member m.ref = some x ∧ x.region = m.region ∧ x.epoch = m.epoch := by
  unfold haltTrap
  split
  · next st i _ =>
    split
    · exact ⟨m, hm, rfl, rfl⟩
    · obtain ⟨href, hregion, hepoch⟩ := m.takeFor_region st
      obtain ⟨x, hx, hxr, hxe⟩ := takeTrap_region st i m.cycle hm href
      exact ⟨x, hx, hxr.trans hregion, hxe.trans hepoch⟩
  · exact ⟨m, hm, rfl, rfl⟩

theorem haltRecorded_member (M : Mach) (m : Member) (r : MRef) : (haltRecorded M m).member r = M.member r := by
  rw [Mach.member, haltRecorded, settleAcqs_members]
  exact ((stores_haltRecord ..).trans (stores_writeMarker ..)).member r

theorem Member.halt_anchor (m : Member) : m.halt.anchor = m.anchor := by
  simp only [Member.anchor, Member.halt, Stream.halted_pc]

/-- A member halted with no region has none; one with a region goes on at its marker in a region opened anew. -/
theorem haltMember_member {M : Mach} {r : MRef} {m : Member} (hm : M.member r = some m) (hpre : m.preempt = true)
    (hcore : m.core.isSome = true) :
    ∃ x, (haltMember M r).member r = some x ∧ x.freeze = .halted ∧ (m.region = none → x.region = none) ∧
      ∀ g, m.region = some g →
        x.anchor = (g.marker, m.epoch + 1, some (g.marker, m.epoch + 1, [], [])) := by
  have hr := Mach.member_ref hm
  have href : (m.settle (m.now M)).ref = r := hr
  obtain ⟨y, hy, hregion, hepoch⟩ :=
    haltTrap_member (M := M.putMember (m.settle (m.now M))) (m := m.settle (m.now M))
      (by rw [href]; exact Mach.member_putMember hm href)
  rw [href] at hy
  have hrec := haltRecorded_member (haltTrap (M.putMember (m.settle (m.now M))) (m.settle (m.now M))) y r
  rw [hy] at hrec
  have hend {z : Member} (hz : (discardRegion (haltRecorded (haltTrap (M.putMember (m.settle (m.now M)))
      (m.settle (m.now M))) y) r).member r = some z) :
      ∃ x, (haltMember M r).member r = some x ∧ x.freeze = .halted ∧ x.anchor = z.anchor := by
    obtain ⟨x, hx, hanchor⟩ := (sameAnchor_stopCopies r _ y).keeps z hz
    refine ⟨x.halt, ?_, rfl, x.halt_anchor.trans hanchor⟩
    rw [haltMember_eq hm hpre hcore hy, Mach.member, Mach.raise_members]
    refine (Mach.member_updMember _ _ _ fun w hw => by exact hw).trans ?_
    rw [hx]
    rfl
  rcases hg : m.region with _ | g
  · rw [discardRegion_of_none hrec (hregion.trans hg)] at hend
    obtain ⟨x, hx, hfreeze, hanchor⟩ := hend hrec
    refine ⟨x, hx, hfreeze, fun _ => ?_, fun _ h => by cases h⟩
    have hmap : x.region.map _ = y.region.map _ := congrArg (fun z => z.2.2) hanchor
    rw [hregion.trans hg] at hmap
    exact Option.map_eq_none_iff.mp hmap
  · obtain ⟨z, hz, hanchor⟩ := discardRegion_member hrec (hregion.trans hg)
    obtain ⟨x, hx, hfreeze, hsame⟩ := hend hz
    refine ⟨x, hx, hfreeze, (nomatch ·), fun _ h => ?_⟩
    cases h
    rw [hsame, hanchor, hepoch]
    rfl

/-! ### Ends by the firmware (R401, R402) -/

/-- The device once the requests and barrier arrivals of an ending iteration are dropped with its region. -/
def iterationDropped (M : Mach) (r : MRef) : Mach :=
  { dropRequests (abandonRegion M r) r with
    bars := dropArrivals (fun m => m == r) (dropRequests (abandonRegion M r) r).bars }

/-- The member whose iteration the firmware ends, in the device `M` (R401). -/
def Member.iterationEnded (M : Mach) (epoch : Option Nat) (m : Member) : Member :=
  let now := m.now M
  let m := m.settle now
  settleCounters
    { m with
      c := m.c.ended, a := m.a.ended, v := m.v.ended, x := m.x.ended
      handler := none, raised := [], taking := [], escalated := none, owed := []
      nest := none
      lastPos := (m.nest.map (·.committed)).getD m.lastPos
      freeze := if m.core.isSome then .none else .halted
      skew := M.wclk - now
      slots := Vector.replicate 32 LSlot.empty
      cmds := m.cmds.map (Cmd.ended epoch) }

theorem stores_syncCore (M : Mach) (r : MRef) : Stores M (syncCore M r) := by
  unfold syncCore
  split
  · exact Stores.refl M
  · split
    · exact Stores.refl M
    · exact stores_saveGroups ..

theorem stores_syncCmds (M : Mach) (r : MRef) : Stores M (syncCmds M r) := by
  unfold syncCmds
  split
  · exact Stores.refl M
  · split
    · exact Stores.refl M
    · exact stores_saveGroups ..

theorem abandonRegion_member {M : Mach} {r : MRef} {m : Member} (hm : M.member r = some m) :
    ∃ x, (abandonRegion M r).member r = some x ∧ x.region = none ∧ x.task = m.task := by
  unfold abandonRegion
  rw [hm]
  dsimp only
  split
  · next h => exact ⟨m, hm, h, rfl⟩
  · next g h =>
    have hkeep : (restoreBins M m g).member r = some m := by
      rw [Mach.member, (keepsBodies_restoreBins M m g).members]
      exact hm
    exact ⟨_, cancelRegion_member hkeep h, rfl, rfl⟩

theorem Member.iterationEnded_stopped (M : Mach) (epoch : Option Nat) (m : Member) (st : Strm) :
    ((m.iterationEnded M epoch).str st).running = false := by
  cases st <;> rfl

/-- A member with no task ends with no region and no stream running. -/
theorem endIteration_member {M : Mach} {r : MRef} {m : Member} (hm : M.member r = some m) (htask : m.task = none) :
    ∃ x, (endIteration M r).member r = some x ∧ x.region = none ∧ ∀ st, (x.str st).running = false := by
  obtain ⟨y, hy, hregion, htasky⟩ := abandonRegion_member hm
  have hdrop : (iterationDropped M r).member r = some y := hy
  let e := (M.member r).bind Member.openEpoch
  let N := (iterationDropped M r).updMember r (Member.iterationEnded (iterationDropped M r) e)
  have hN : (syncCmds (syncCore N r) r).member r = some (y.iterationEnded (iterationDropped M r) e) := by
    rw [((stores_syncCore N r).trans (stores_syncCmds _ r)).member r]
    refine (Mach.member_updMember _ _ _ fun w hw => by exact hw).trans ?_
    rw [hdrop]
    rfl
  have hend : endIteration M r = syncCmds (syncCore N r) r := by
    unfold endIteration
    change (match (syncCmds (syncCore N r) r).member r with
      | none => syncCmds (syncCore N r) r
      | some z => match z.task with
        | none => syncCmds (syncCore N r) r
        | some (tcb, n) => _) = _
    rw [hN]
    dsimp only
    rw [show (y.iterationEnded (iterationDropped M r) e).task = none from htasky.trans htask]
  rw [hend]
  exact ⟨_, hN, hregion, fun st => Member.iterationEnded_stopped _ _ y st⟩

theorem removeContext_gone (M : Mach) (part ctx : Nat) :
    ∀ q ∈ (removeContext M part ctx).members, ¬(q.ref.part = part ∧ q.ref.ctx = ctx) := by
  intro q hq
  have hkept := (List.mem_filter.mp hq).2
  exact not_and_or.mpr (by simpa using hkept)

/-! ### The request for pre-emption (R403) -/

/-- What the request makes of one member of the context. -/
def requestHalt (M : Mach) (m : Member) : Mach :=
  if m.core.isSome && m.freeze ≠ .halted then
    (M.updMember m.ref fun y => { y with preempt := true }).raise 1 (.preemptHalt m.ref)
  else M

theorem requestHalt_wclk (M : Mach) (m : Member) : (requestHalt M m).wclk = M.wclk := by
  unfold requestHalt
  split <;> rfl

theorem requestHalts_wclk (l : List Member) : ∀ M : Mach, (l.foldl requestHalt M).wclk = M.wclk := by
  induction l with
  | nil => exact fun _ => rfl
  | cons y l ih => exact fun M => (ih (requestHalt M y)).trans (requestHalt_wclk M y)

theorem requestHalt_pending {M : Mach} {d : Due} (m : Member) (h : d ∈ M.pending) : d ∈ (requestHalt M m).pending := by
  unfold requestHalt
  split
  · exact List.mem_append_left _ h
  · exact h

/-- A request to another member, or again to this one, changes nothing of this one but that it may be asked. -/
theorem requestHalt_member {M : Mach} {r : MRef} {m : Member} (y : Member) (h : M.member r = some m) :
    (requestHalt M y).member r = some m ∨ (requestHalt M y).member r = some { m with preempt := true } := by
  unfold requestHalt
  split
  · rw [Mach.member, Mach.raise_members]
    by_cases hr : r = y.ref
    · subst hr
      refine .inr ((Mach.member_updMember _ _ _ fun w hw => by exact hw).trans ?_)
      rw [h]
      rfl
    · exact .inl ((Mach.member_updMember_ne _ _ _ _ (fun w hw => by exact hw) hr).trans h)
  · exact .inl h

theorem requestHalts_asked {r : MRef} {m : Member} {d : Due} (l : List Member) :
    ∀ {M : Mach}, M.member r = some { m with preempt := true } → d ∈ M.pending →
      (l.foldl requestHalt M).member r = some { m with preempt := true } ∧ d ∈ (l.foldl requestHalt M).pending := by
  induction l with
  | nil => exact fun h hd => ⟨h, hd⟩
  | cons y l ih => exact fun h hd => ih ((requestHalt_member y h).elim id id) (requestHalt_pending y hd)

/-- Every member on a core that is not halted is asked, and its halt comes a cycle later. -/
theorem requestHalts_member {m : Member} (hgo : (m.core.isSome && m.freeze ≠ .halted) = true)
    (l : List Member) :
    ∀ {M : Mach}, M.member m.ref = some m ∨ M.member m.ref = some { m with preempt := true } → m ∈ l →
      (l.foldl requestHalt M).member m.ref = some { m with preempt := true } ∧
        (⟨.preemptHalt m.ref, M.wclk + 1⟩ : Due) ∈ (l.foldl requestHalt M).pending := by
  induction l with
  | nil => exact fun _ hm => absurd hm List.not_mem_nil
  | cons y l ih =>
    intro M h hm
    by_cases hy : m = y
    · subst hy
      have hask : requestHalt M m =
          (M.updMember m.ref fun y => { y with preempt := true }).raise 1 (.preemptHalt m.ref) := if_pos hgo
      refine requestHalts_asked l ?_ ?_
      · rw [hask, Mach.member, Mach.raise_members]
        refine (Mach.member_updMember _ _ _ fun w hw => by exact hw).trans ?_
        rcases h with h | h
        · rw [h, Option.map_some]
        · rw [h, Option.map_some]
      · rw [hask]
        exact List.mem_append_right _ List.mem_cons_self
    · have hrest := ih (M := requestHalt M y) ?_ ((List.mem_cons.mp hm).resolve_left hy)
      · rw [requestHalt_wclk] at hrest
        exact hrest
      · rcases h with h | h
        · exact requestHalt_member y h
        · exact .inr ((requestHalt_member y h).elim id id)

/-! ### The words (R163, R226, R227) -/

theorem openRegion_member {M : Mach} {r : MRef} {y : Member} (pc : Word) (hy : M.member r = some y) :
    ∃ z g, (openRegion M r pc).member r = some z ∧ z.region = some g ∧ z.epoch = y.epoch + 1 ∧ g.epoch = y.epoch + 1 ∧
      g.marker = pc + 8 ∧ g.issue = y.tc.toList.map (·.1) ∧ g.compl = y.tc.toList.map (·.2) ∧ g.cmds = [] := by
  rw [openRegion, Mach.member_updMember _ _ _ fun w hw => by exact hw, hy]
  exact ⟨_, _, rfl, rfl, rfl, rfl, rfl, rfl, rfl, rfl⟩

theorem closeRegion_of_none {M : Mach} {r : MRef} {y : Member} (hy : M.member r = some y) (h : y.region = none) :
    closeRegion M r = M := by
  simp only [closeRegion, hy, h]

theorem closeRegion_member {M : Mach} {r : MRef} {y : Member} (hy : M.member r = some y) :
    ∃ z, (closeRegion M r).member r = some z ∧ z = { y with region := none } := by
  rcases hg : y.region with _ | g
  · rw [closeRegion_of_none hy hg]
    exact ⟨y, hy, by rw [← hg]⟩
  · simp only [closeRegion, hy, hg]
    have href := Mach.member_ref hy
    refine ⟨_, ?_, rfl⟩
    rw [Mach.member, members_foldl (f := fun (M : Mach) (q : MRef) => M.raise 1 (.closingNotice q r.rank g.epoch))
      fun _ _ => rfl]
    exact Mach.member_putMember hy (by exact href)

theorem Member.quiet_iff (m : Member) :
    m.quiet = true ↔ m.a.running = false ∧ m.v.running = false ∧ m.x.running = false ∧ m.tsends = 0 ∧
      ∀ q ∈ m.cmds, q.finished = true ∨ q.sys.isSome = true ∨ q.covers m = true := by
  simp only [Member.quiet, Bool.and_eq_true, Bool.not_eq_true', beq_iff_eq, List.all_eq_true, Bool.or_eq_true, and_assoc,
    or_assoc]

/-- DONE once nothing holds its iteration open (R227). -/
def doneRes (c : Ctx) : Res :=
  let c : Ctx := { c with M := acquire (closeRegion c.M c.mem.ref) c.mem.ref .pkg }
  match c.waitFaults (fun _ => true) (fun _ => true) Strm.all with
  | some r => r
  | none =>
    let sc := taskScope c.M c.mem
    let M := Strm.all.foldl (fun M st => release M c.mem.ref st sc) c.M
    if sc = Scope.pod && anyOutstanding M c.mem.ref then .waitOn M .done .acked
    else
      .placed
        (freeMember
          (M.updMember c.mem.ref fun m =>
            { m with c := { (m.c.issued c.t (c.s.waited c.t)).advance c.pc false with running := false } })
          c.mem.ref)

theorem exec_done_word (s : State) :
    exec .done s =
      word .done
        (fun c =>
          if c.mem.handler.isSome then .trap (illOpnd c.raw)
          else if !c.mem.quiet then .wait .done .memberQuiet
          else doneRes c)
        s := rfl

/-- Settles O26: a halt discards the region and opens it anew at its marker, an end by the firmware leaves none, and the
words open, close and retire as their case says. -/
theorem regionsOpenCloseAndIterationsEnd : Obligations.RegionsOpenCloseAndIterationsEnd := by
  unfold Obligations.RegionsOpenCloseAndIterationsEnd
  refine ⟨fun s k m => ?_, fun s k m h => ?_, fun s r m hm => ⟨fun hpre hcore => ?_, fun htask => ?_⟩,
    fun s part ctx => ⟨?_, ?_⟩⟩
  · refine ⟨fun h => h.ends_of_word rfl (exec_idem s) rfl,
      fun h => ⟨h.ends_of_word rfl (exec_idemEnd s) rfl, fun hnone => h.ends_of_word rfl (exec_idemEnd s) ?_⟩,
      fun M r y pc hy => openRegion_member pc hy, fun M r y hy => closeRegion_member hy⟩
    exact congrArg Res.done (closeRegion_of_none h.member hnone)
  · refine ⟨fun hhandler => ?_, fun hhandler hbusy => ?_, fun hhandler ha hv hx hsends hcmds => ⟨fun r hr => ?_,
      fun hfaults => ⟨fun hpod hout => ?_, fun hout => ?_⟩⟩⟩
    · exact h.ends_of_word rfl (exec_done_word s) (if_pos hhandler)
    · have hquiet : (k.ctx s.m m).mem.quiet = false := by
        rw [← Bool.not_eq_true, Member.quiet_iff]
        rintro ⟨ha, hv, hx, hsends, hcmds⟩
        rcases hbusy with h | h | h | h | ⟨q, hq, hopen, hsys, hcovers⟩
        · exact absurd (ha.symm.trans h) Bool.false_ne_true
        · exact absurd (hv.symm.trans h) Bool.false_ne_true
        · exact absurd (hx.symm.trans h) Bool.false_ne_true
        · exact h hsends
        · rcases hcmds q hq with h | h | h
          · exact absurd (hopen.symm.trans h) Bool.false_ne_true
          · rw [hsys] at h
            cases h
          · exact absurd (hcovers.symm.trans h) Bool.false_ne_true
      exact h.ends_of_word rfl (exec_done_word s)
        ((if_neg (by rw [hhandler]; exact Bool.false_ne_true)).trans (if_pos (by rw [hquiet]; rfl)))
    all_goals
      have hgo (r : Res) (hr : doneRes (k.ctx s.m m) = r) : Ends .done s k m r := by
        have hquiet := (Member.quiet_iff _).mpr ⟨ha, hv, hx, hsends, hcmds⟩
        exact h.ends_of_word rfl (exec_done_word s)
          ((if_neg (by rw [hhandler]; exact Bool.false_ne_true)).trans
            ((if_neg (by rw [hquiet]; exact Bool.false_ne_true)).trans hr))
      simp only [doneRes] at hgo
    · refine hgo r ?_
      simp only [hr]
    · refine hgo _ ?_
      simp only [hfaults]
      exact if_pos (Bool.and_eq_true_iff.mpr ⟨decide_eq_true hpod, hout⟩)
    · refine hgo _ ?_
      simp only [hfaults]
      refine if_neg fun hw => ?_
      simp only [Bool.and_eq_true, decide_eq_true_iff] at hw
      exact absurd ((hout hw.1).symm.trans hw.2) Bool.false_ne_true
  · obtain ⟨x, hx, hfreeze, hnone, hsome⟩ := haltMember_member hm hpre hcore
    refine ⟨_, x, lift_becomes (exec_preemptHalt ..) rfl, hx, hfreeze, hnone, fun g hg => ?_⟩
    have hanchor := hsome g hg
    obtain ⟨hpc, -, hmap⟩ := Prod.mk.inj hanchor |>.imp id Prod.mk.inj
    obtain ⟨z, hz, hfields⟩ := Option.map_eq_some_iff.mp hmap
    simp only [Prod.mk.injEq] at hfields
    obtain ⟨hmarker, hepoch, hbins, hcmds⟩ := hfields
    exact ⟨hpc, z, hz, hmarker, hepoch, hcmds, hbins⟩
  · obtain ⟨x, hx, hregion, hstop⟩ := endIteration_member hm htask
    exact ⟨_, x, lift_becomes (exec_endTheIteration ..) rfl, hx, hregion, hstop⟩
  · exact ⟨_, lift_becomes (exec_endTheContext ..) rfl, removeContext_gone _ part ctx⟩
  · refine ⟨_, lift_becomes (exec_preemptionRequest ..) rfl, fun r m hm hpart hctx hcore hfreeze => ?_⟩
    have hmem : m ∈ membersOf s.m part ctx := by
      have href := Mach.member_ref hm
      refine List.mem_filter.mpr ⟨List.mem_of_find?_eq_some hm, ?_⟩
      rw [href, hpart, hctx]
      simp
    have hgo : (m.core.isSome && m.freeze ≠ .halted) = true := by simp [hcore, hfreeze]
    have href := Mach.member_ref hm
    subst href
    obtain ⟨hreq, hdue⟩ := requestHalts_member hgo (membersOf s.m part ctx) (.inl hm) hmem
    have hwclk : ((membersOf s.m part ctx).foldl requestHalt s.m).wclk = s.m.wclk := requestHalts_wclk ..
    exact ⟨hreq, hwclk.symm ▸ hdue⟩

end Sys2Proof.Machine

/-!
PROOFS. Register writes of owner and firmware, invalidations and table loads, and the forming of partitions (R4 to R29, R59,
R60, R89 to R91).
-/

namespace Sys2Proof.Machine

theorem liftH_becomes {e : Instr} {s : State} {f : HostSide → Mach → Mach} {M : Mach} (he : exec e s = s.liftH f)
    (hM : f s.host s.m = M) : Becomes e s M := by
  rw [Becomes, he, State.liftH, hM]

/-- A write that takes effect is what the register makes of it. -/
theorem pcbWrite_of_admitted {h : HostSide} {M : Mach} {ag : RegAgent} {part : Nat} {p : Part} (v : Word)
    (f : Part → Mach) (hp : M.part part = some p) (ha : h.admits M.wclk ag = true) : pcbWrite h M ag part v f = f p := by
  simp only [pcbWrite, hp, ha, if_true]

theorem pcbWrite_of_absent {h : HostSide} {M : Mach} {part : Nat} (ag : RegAgent) (v : Word) (f : Part → Mach)
    (hp : M.part part = none) : pcbWrite h M ag part v f = M.logDev part v.toNat := by
  simp only [pcbWrite, hp]

theorem pcbWrite_of_refused {h : HostSide} {M : Mach} {ag : RegAgent} {part : Nat} {p : Part} (v : Word)
    (f : Part → Mach) (hp : M.part part = some p) (ha : h.admits M.wclk ag = false) :
    pcbWrite h M ag part v f = M.logIgnored part v := by
  simp only [pcbWrite, hp, ha, Bool.false_eq_true, if_false]

theorem maskWrite_of_kept (M : Mach) (part : Nat) {v mask : Word} (f : Word → Part → Part) (h : v &&& mask = v) :
    maskWrite M part v mask f = M.updPart part (f v) := by
  simp only [maskWrite, h, if_true]

/-! ### Invalidations (R23, R26) -/

theorem passed_iff (v : Inv) (M : Mach) (part : Nat) :
    v.passed M part = true ↔
      (∀ x ∈ v.marks, invPassed M x = true) ∧ opsBefore M part v.ops = false ∧
        ∀ w ∈ v.loads, ∀ k ∈ M.hbm, k.waiting.contains w = false := by
  simp only [Inv.passed, Bool.and_eq_true, List.all_eq_true, Bool.not_eq_true', and_assoc]

theorem opsBefore_none {M : Mach} {part n : Nat} (h : opsBefore M part n = false) :
    ∀ op ∈ opsUnderWay M, op.part = part → n ≤ op.id := by
  intro op hop hpart
  have hlate := List.any_eq_false.mp h op hop
  simpa [hpart] using hlate

theorem invPassed_conn {M : Mach} {x : ConnRef × Nat} {c : Conn} (h : invPassed M x = true) (hc : M.conn x.1 = some c) :
    (∀ u ∈ c.unacked, seqBefore u.p.seq x.2 = false) ∧ (∀ y ∈ c.resend, seqBefore y.1 x.2 = false) ∧
      ∀ y ∈ c.asked, seqBefore y.1 x.2 = true → y.2.unanswered M = false := by
  simp only [invPassed, hc, Bool.and_eq_true, Bool.not_eq_true', List.any_eq_false, Bool.not_eq_true] at h
  obtain ⟨⟨⟨-, hun⟩, hre⟩, hasked⟩ := h
  exact ⟨hun, hre, fun y hy hb => Bool.not_eq_true _ ▸ fun hopen => hasked y hy ⟨hb, hopen⟩⟩

theorem startInv_frame {M : Mach} {part : Nat} {p : Part} (k : InvKind) (cfg : Option Word) (hp : M.part part = some p) :
    let N := startInv M part k cfg
    N.mem = M.mem ∧ N.members = M.members ∧
      N.part part = some { p with tlbinv := p.tlbinv ||| 1, invs := p.invs ++ [invNow M part cfg] } ∧
      (∀ r ∈ N.cores, ∀ e ∈ r.tlb, e.part = part → k.drops part e = false) ∧
      (∀ x ∈ N.dieTlb, ∀ e ∈ x.2, e.part = part → k.drops part e = false) ∧
      ∀ x ∈ N.walkCache, ∀ e ∈ x.2, e.part = part → k.dropsWalk e = false := by
  refine ⟨rfl, rfl, part_updPart_same hp fun _ => rfl, fun r hr e he hpart => ?_, fun x hx e he hpart => ?_,
    fun x hx e he hpart => ?_⟩
  · obtain ⟨c, -, rfl⟩ := List.mem_map.mp hr
    simpa [hpart] using (List.mem_filter.mp he).2
  · obtain ⟨c, -, rfl⟩ := List.mem_map.mp hx
    simpa [hpart] using (List.mem_filter.mp he).2
  · obtain ⟨c, -, rfl⟩ := List.mem_map.mp hx
    simpa [hpart] using (List.mem_filter.mp he).2

/-! ### What a fence and a trap leave of a partition's invalidations -/

/-- Every partition's invalidations are in `N` those of `M`. -/
structure SameInvs (M N : Mach) : Prop where
  invs : ∀ n, (N.part n).map (·.invs) = (M.part n).map (·.invs)

namespace SameInvs

variable {M N P : Mach}

theorem refl (M : Mach) : SameInvs M M := ⟨fun _ => rfl⟩

theorem trans (h : SameInvs M N) (h' : SameInvs N P) : SameInvs M P :=
  ⟨fun n => (h'.invs n).trans (h.invs n)⟩

theorem of_parts (h : N.parts = M.parts) : SameInvs M N := ⟨fun n => by unfold Mach.part; rw [h]⟩

theorem updPart (M : Mach) (id : Nat) {f : Part → Part} (hid : ∀ p, (f p).id = p.id) (hf : ∀ p, (f p).invs = p.invs) :
    SameInvs M (M.updPart id f) where
  invs n := by
    unfold Mach.part
    rw [parts_updPart]
    by_cases hn : n = id
    · subst hn
      rw [find_updIf _ _ fun x hx => by rw [hid x]; exact hx, Option.map_map]
      exact congrArg (fun g => Option.map g _) (funext hf)
    · rw [find_updIf_other]
      intro x hx
      have hxid : x.id = id := eq_of_beq hx
      exact ⟨beq_false_of_ne (by rw [hxid]; exact Ne.symm hn), beq_false_of_ne (by rw [hid, hxid]; exact Ne.symm hn)⟩

theorem foldl {α : Type} {f : Mach → α → Mach} (h : ∀ M x, SameInvs M (f M x)) (M : Mach) (l : List α) :
    SameInvs M (l.foldl f M) := by
  induction l generalizing M with
  | nil => exact refl M
  | cons x l ih => exact (h M x).trans (ih (f M x))

end SameInvs

theorem parts_release (M : Mach) (r : MRef) (st : Strm) (sc : Scope) : (release M r st sc).parts = M.parts := by
  have hdrain : (drainBuffer M r st).parts = M.parts := by
    unfold drainBuffer
    split
    · rfl
    · split
      · rfl
      · exact (Stores.foldl (fun _ _ => stores_performEntry ..) _ _).parts
  unfold release
  dsimp only
  split
  · split
    · exact hdrain
    · exact (stores_writeBack ..).parts.trans hdrain
  · exact hdrain

theorem parts_acquire (M : Mach) (r : MRef) (sc : Scope) : (acquire M r sc).parts = M.parts := by
  unfold acquire
  split
  · split
    · rfl
    · rfl
  · rfl

theorem parts_foldl {α : Type} {f : Mach → α → Mach} (h : ∀ M x, (f M x).parts = M.parts) (M : Mach) (l : List α) :
    (l.foldl f M).parts = M.parts := by
  induction l generalizing M with
  | nil => rfl
  | cons x l ih => exact (ih (f M x)).trans (h M x)

theorem parts_fenceAll (M : Mach) (part : Nat) : (fenceAll M part).parts = M.parts :=
  (parts_foldl (fun _ _ => parts_acquire ..) _ _).trans
    (parts_foldl (fun _ _ => parts_foldl (fun _ _ => parts_release ..) _ _) _ _)

theorem sameInvs_logPart (M : Mach) (part cause unit : Nat) (v : Word) : SameInvs M (M.logPart part cause unit v) := by
  unfold Mach.logPart
  split
  · exact SameInvs.of_parts rfl
  · dsimp only
    split
    · refine SameInvs.trans (SameInvs.of_parts ?_) (SameInvs.updPart _ _ (fun _ => rfl) fun _ => rfl)
      simp only [parts_setWord]
    · exact SameInvs.of_parts rfl

theorem parts_settleAcqs (M : Mach) (m : Member) : (settleAcqs M m).parts = M.parts := by
  refine parts_foldl (fun M st => ?_) M _
  split
  · rfl
  · rfl

theorem parts_trapRecorded (M : Mach) (m : Member) (w : List Word) :
    (settleAcqs (dropAsked (writeRecord M m w) m) m).parts = M.parts :=
  (parts_settleAcqs ..).trans (stores_writeRecord M m w).parts

theorem sameInvs_takeTrap (M : Mach) (m : Member) (st : Strm) (i : TrapInfo) (tau : Nat) :
    SameInvs M (takeTrap M m st i tau) := by
  rcases hesc : m.escalates i with _ | _
  · rw [takeTrap_of_program hesc]
    exact SameInvs.of_parts (parts_trapRecorded ..)
  · rw [takeTrap_of_escalates hesc]
    have hrec := parts_trapRecorded M m (trapRecord M m (some (st, i)) true false fun s => (m.str s).pc)
    have hput := SameInvs.of_parts (N := Mach.putMember _ (m.escalate st i tau)) hrec
    exact (hput.trans (sameInvs_logPart ..)).trans (SameInvs.of_parts rfl)

theorem sameInvs_memberFault (M : Mach) (r : MRef) (i : TrapInfo) : SameInvs M (memberFault M r i) := by
  unfold memberFault
  split
  · exact SameInvs.refl M
  · next m _ =>
    have hput (x : Member) : SameInvs M (M.putMember x) := SameInvs.of_parts rfl
    split
    · exact (hput (m.settle (m.now M))).trans (sameInvs_takeTrap ..)
    · exact hput _

theorem sameInvs_partFault (M : Mach) (part unit pa : Nat) : SameInvs M (partFault M part unit pa) := by
  refine (sameInvs_logPart M part 0x21 unit (w64 pa)).trans ?_
  unfold partFault
  dsimp only
  split
  · exact sameInvs_memberFault ..
  · exact SameInvs.refl _

theorem sameInvs_installRegions (M : Mach) (p : Part) (v : Word) : SameInvs M (installRegions M p v) := by
  have hfence : SameInvs M (fenceAll M p.id) := SameInvs.of_parts (parts_fenceAll ..)
  have hctl : SameInvs M ((fenceAll M p.id).updPart p.id fun q =>
      { q with rgnctl := w64 (putFld q.rgnctl.toNat 13 1 0), rgnload := none }) :=
    hfence.trans (SameInvs.updPart _ _ (fun _ => rfl) fun _ => rfl)
  unfold installRegions
  extract_lets base N P
  split
  · exact hctl.trans (sameInvs_logPart ..)
  · split
    · next hpoison =>
      obtain ⟨pa, -, rfl⟩ := Option.map_eq_some_iff.mp hpoison
      exact hctl.trans (sameInvs_partFault ..)
    · exact (hctl.trans (SameInvs.foldl (fun _ _ => sameInvs_logPart ..) _ _)).trans
        (SameInvs.updPart _ _ (fun _ => rfl) fun _ => rfl)

/-! ### What the end of a context leaves of the live dies -/

theorem liveDies_foldl {α : Type} {f : Mach → α → Mach} (h : ∀ M x, (f M x).liveDies = M.liveDies) (M : Mach) (l : List α) :
    (l.foldl f M).liveDies = M.liveDies := by
  induction l generalizing M with
  | nil => rfl
  | cons x l ih => exact (ih (f M x)).trans (h M x)

theorem liveDies_raises {α : Type} (ev : α → Event) (M : Mach) (l : List α) :
    (l.foldl (fun M x => M.raise 1 (ev x)) M).liveDies = M.liveDies :=
  liveDies_foldl (f := fun M x => M.raise 1 (ev x)) (fun _ _ => rfl) M l

theorem raiseOnce_liveDies (M : Mach) (d : Nat) (e : Event) : (raiseOnce M d e).liveDies = M.liveDies := by
  unfold raiseOnce
  split
  · rfl
  · rfl

theorem dispatchAll_liveDies (M : Mach) (part : Nat) : (dispatchAll M part).liveDies = M.liveDies := by
  unfold dispatchAll
  split
  · rfl
  · exact liveDies_foldl (fun _ _ => raiseOnce_liveDies ..) _ _

theorem ensurePops_liveDies (M : Mach) (part : Nat) : (ensurePops M part).liveDies = M.liveDies := by
  have hpop (M : Mach) (die k : Nat) : (distPop M part die k).liveDies = M.liveDies := by
    unfold distPop
    split
    · rfl
    · split
      · rfl
      · rfl
  unfold ensurePops
  split
  · rfl
  · split
    · rfl
    · refine liveDies_foldl (fun M die => liveDies_foldl (fun M k => ?_) M _) M _
      split
      · rfl
      · exact hpop ..

theorem finishTask_liveDies (M : Mach) (part tcb : Nat) : (finishTask M part tcb).liveDies = M.liveDies := by
  unfold finishTask
  extract_lets N
  split
  · rfl
  · exact (liveDies_raises (fun x : Nat × BitVec 128 => .cardAdmission part x.1 x.2) _ _).trans (ensurePops_liveDies ..)

theorem settleFailed_liveDies (M : Mach) (part tcb code : Nat) : (settleFailed M part tcb code).liveDies = M.liveDies := by
  unfold settleFailed
  split
  · exact finishTask_liveDies ..
  · split
    · exact finishTask_liveDies ..
    · rfl

theorem tcbPut_liveDies (M : Mach) (part tcb w : Nat) : (tcbPut M part tcb w).liveDies = M.liveDies := by
  unfold tcbPut
  split
  · next h => exact (keepsBodies_devWrite h).liveDies
  · rfl

theorem writePieces_liveDies (r : MRef) (st : Strm) (pva : Word) :
    ∀ (ts : List (Target × Nat)) (M : Mach) (bs : List Byte),
      (writePieces M r st none pva ts bs).liveDies = M.liveDies
  | [], _, _ => rfl
  | (.local pa, n) :: ts, M, bs => writePieces_liveDies r st pva ts (M.put pa (bs.take n)) (bs.drop n)
  | (.remote dev peer a, n) :: ts, M, bs => by
    refine (writePieces_liveDies r st pva ts _ (bs.drop n)).trans (liveDies_foldl (fun M x => ?_) M _)
    dsimp only [postOn]
    split
    · exact (keepsBodies_sendOn ..).liveDies
    · rfl

theorem writeCompletion_liveDies (M : Mach) (part : Nat) (r : List Word) (v : Nat) :
    (writeCompletion M part r v).liveDies = M.liveDies := by
  unfold writeCompletion
  split
  · next h =>
    unfold devStore at h
    split at h
    · cases h
    · next hspan =>
      cases h
      refine (writePieces_liveDies ..).trans ?_
      unfold devSpan at hspan
      split at hspan
      · cases hspan
      · next hlong =>
        split at hspan
        · cases hspan
        · cases hspan
          exact (keepsBodies_longSpan hlong).liveDies
  · exact logPart_liveDies ..

theorem failTask_liveDies (M : Mach) (part tcb code : Nat) : (failTask M part tcb code).liveDies = M.liveDies := by
  unfold failTask
  split
  · exact (settleFailed_liveDies ..).trans (logPart_liveDies ..)
  · split
    · exact settleFailed_liveDies ..
    · exact (settleFailed_liveDies ..).trans ((liveDies_raises (fun s => .predDecrement part s true) _ _).trans
        ((writeCompletion_liveDies ..).trans (tcbPut_liveDies ..)))

theorem loseDie_liveDies (M : Mach) (part die : Nat) (gone : List MRef) (t : Task) :
    (loseDie M part die gone t).liveDies = M.liveDies := by
  unfold loseDie
  extract_lets lost N
  split
  · rfl
  · split
    · split
      · split
        · exact finishTask_liveDies ..
        · rfl
      · rfl
    · split
      · rfl
      · exact failTask_liveDies ..

theorem cancelRegion_liveDies (M : Mach) (r : MRef) : (cancelRegion M r).liveDies = M.liveDies := by
  unfold cancelRegion
  split
  · rfl
  · split
    · rfl
    · rfl

theorem abandonRegion_liveDies (M : Mach) (r : MRef) : (abandonRegion M r).liveDies = M.liveDies := by
  unfold abandonRegion
  split
  · rfl
  · split
    · rfl
    · exact (cancelRegion_liveDies ..).trans (keepsBodies_restoreBins ..).liveDies

theorem endIteration_liveDies (M : Mach) (r : MRef) : (endIteration M r).liveDies = M.liveDies := by
  have hsync (N : Mach) : (syncCmds (syncCore N r) r).liveDies = N.liveDies :=
    ((stores_syncCore N r).trans (stores_syncCmds _ r)).keepsBodies.liveDies
  have hdrop : (iterationDropped M r).liveDies = M.liveDies := abandonRegion_liveDies M r
  unfold endIteration
  extract_lets epoch N₁ N₂ N₃ N₄
  have hN : N₄.liveDies = M.liveDies := (hsync N₃).trans hdrop
  split
  · exact hN
  · split
    · exact hN
    · exact (raiseOnce_liveDies ..).trans ((failTask_liveDies ..).trans hN)

theorem endContext_liveDies (M : Mach) (part ctx : Nat) : (endContext M part ctx).liveDies = M.liveDies := by
  have hremove (N : Mach) : (removeContext N part ctx).liveDies = N.liveDies := rfl
  have hfail (ts : List Task) (N : Mach) : (ts.foldl (fun M t => failTask M part t.tcb 4) N).liveDies = N.liveDies :=
    liveDies_foldl (fun _ _ => failTask_liveDies ..) N ts
  have hend (ms : List Member) (N : Mach) : (ms.foldl (fun M m => endIteration M m.ref) N).liveDies = N.liveDies :=
    liveDies_foldl (fun _ _ => endIteration_liveDies ..) N ms
  unfold endContext
  rw [hremove, hfail, hend]

/-- A die that is fenced is live no more (R412). -/
theorem not_live_fenceDie (M : Mach) (die : Nat) : die ∉ (fenceDie M die).liveDies := by
  unfold fenceDie
  split
  · next h => exact fun hm => by simp [hm] at h
  · extract_lets gone N P
    rw [liveDies_foldl (M := P) fun M p => ?_]
    · exact fun hm => by simp [P] at hm
    · split
      · rfl
      · refine (dispatchAll_liveDies ..).trans (Eq.trans (liveDies_foldl (fun M c => ?_) _ _)
          (liveDies_foldl (fun M t => loseDie_liveDies ..) _ _))
        split
        · exact endContext_liveDies ..
        · rfl

/-! ### Writes that take effect -/

theorem updPart_updPart (M : Mach) (id : Nat) {f g : Part → Part} (hf : ∀ q, (f q).id = q.id) :
    (M.updPart id f).updPart id g = M.updPart id fun q => g (f q) := by
  simp only [Mach.updPart, updIf, List.map_map]
  refine congrArg (fun l => { M with parts := l }) (List.map_congr_left fun q _ => ?_)
  simp only [Function.comp_apply]
  by_cases hq : (q.id == id) = true
  · simp only [hq, hf, if_true]
  · simp only [hq, if_false, Bool.false_eq_true]

/-- A write that takes effect is what the register makes of it (R24, R434). -/
theorem Writes.becomes {e : Instr} {s : State} {ag : RegAgent} {part : Nat} {p : Part} (f : Mach → Part → Mach) {v : Word}
    {M : Mach} (h : Writes s ag part p) (he : exec e s = s.liftH fun hs M => pcbWrite hs M ag part v (f M))
    (hM : f s.m p = M) : Becomes e s M :=
  liftH_becomes he ((pcbWrite_of_admitted v _ h.part h.admitted).trans hM)

theorem putKind_go (v : Word) (k : Nat) : (w64 (putFld v.toNat 62 2 k)).getLsbD 0 = v.getLsbD 0 := by
  have hlow : putFld v.toNat 62 2 k % 2 = v.toNat % 2 := by
    simp only [putFld, fld, Nat.shiftRight_eq_div_pow, Nat.shiftLeft_eq]
    omega
  simp only [w64, BitVec.getLsbD, BitVec.toNat_ofNat, Nat.testBit_zero]
  rw [Nat.mod_mod_of_dvd _ (by norm_num), hlow]

theorem putKind_kind (v : Word) {k : Nat} (hk : k < 4) : wf (w64 (putFld v.toNat 62 2 k)) 62 2 = k := by
  have hv := v.isLt
  simp only [wf, w64, putFld, fld, BitVec.toNat_ofNat, Nat.shiftRight_eq_div_pow, Nat.shiftLeft_eq]
  omega

theorem tlbinvPut_of_busy {M : Mach} {p : Part} (v : Word) (h : p.tlbinv.getLsbD 0 = true) :
    tlbinvPut M p v = M.logIgnored p.id v :=
  if_pos (by rw [h]; rfl)

/-- A write of GO with no reserved bit starts the invalidation of its kind (R26). -/
theorem tlbinvPut_of_go {M : Mach} {p : Part} {v : Word} {k : Nat} (hidle : p.tlbinv.getLsbD 0 = false)
    (hgo : v.getLsbD 0 = true) (hk : k < 2)
    (hmask : w64 (putFld v.toNat 62 2 k) &&& tlbinvMask = w64 (putFld v.toNat 62 2 k)) :
    tlbinvPut M p (w64 (putFld v.toNat 62 2 k)) =
      startInv (M.updPart p.id fun q => { q with tlbinv := w64 (putFld v.toNat 62 2 k) }) p.id
        (if k = 0 then .all else .page (wf (w64 (putFld v.toNat 62 2 k)) 16 40 * 0x10000)) none := by
  have hkind := putKind_kind v (Nat.lt_trans hk (by norm_num))
  have hbit : (w64 (putFld v.toNat 62 2 k)).getLsbD 0 = true := (putKind_go v k).trans hgo
  rw [tlbinvPut, hidle, hkind, maskWrite_of_kept _ _ _ hmask, hbit]
  have hlt : ¬2 ≤ k := Nat.not_le.mpr hk
  simp only [Bool.false_or, hlt, decide_false, Bool.false_eq_true, if_false, Bool.not_true]

theorem goOnLoad_of_none {M : Mach} {part : Nat} {p : Part} (hp : M.part part = some p) (h : p.rgnload = none) :
    goOnLoad M part = M := by
  simp only [goOnLoad, hp, Option.bind_some, h, Option.map_none]

theorem goOnLoad_of_some {M : Mach} {part : Nat} {p : Part} {w : Word} {v : Inv} (hp : M.part part = some p)
    (h : p.rgnload = some (w, v)) :
    goOnLoad M part = if v.passed M part then installRegions M p w else M.raise 64 (.tlbinvComplete part) := by
  simp only [goOnLoad, hp, Option.bind_some, h, Option.map_some]

/-- With no invalidation under way its completion is the table load's step alone. -/
theorem endInv_of_none {M : Mach} {part : Nat} {p : Part} (hp : (goOnLoad M part).part part = some p) (h : p.invs = []) :
    endInv M part = goOnLoad M part := by
  simp only [endInv, hp, Option.map_some, h]

/-- The oldest invalidation ends once every access from before it is in (R23). -/
theorem endInv_of_some {M : Mach} {part : Nat} {p : Part} {v : Inv} {rest : List Inv} (hp : M.part part = some p)
    (hload : p.rgnload = none) (hinvs : p.invs = v :: rest) :
    endInv M part =
      if v.passed M part then
        let N := match v.cfg with
          | some w => hrcfgTake (fenceAll M part) part w
          | none => fenceAll M part
        let N := N.updPart part fun q =>
          { q with invs := rest, tlbinv := if rest.isEmpty then q.tlbinv &&& ~~~1#64 else q.tlbinv }
        if rest.isEmpty then N else N.raise 1 (.tlbinvComplete part)
      else M.raise 64 (.tlbinvComplete part) := by
  unfold endInv
  simp only [goOnLoad_of_none hp hload, hp, Option.map_some, hinvs]
  rcases v.passed M part with _ | _
  · rfl
  · rfl

theorem endInv_of_load {M : Mach} {part : Nat} {p : Part} {w : Word} {x : Inv} (hp : M.part part = some p)
    (hinvs : p.invs = []) (hload : p.rgnload = some (w, x)) :
    endInv M part = if x.passed M part then installRegions M p w else M.raise 64 (.tlbinvComplete part) := by
  have hgo := goOnLoad_of_some hp hload
  have hkeep : SameInvs M (goOnLoad M part) := by
    rw [hgo]
    split
    · exact sameInvs_installRegions M p w
    · exact SameInvs.of_parts rfl
  have hpart := hkeep.invs part
  rw [hp, Option.map_some, hinvs] at hpart
  obtain ⟨q, hq, hqinvs⟩ := Option.map_eq_some_iff.mp hpart
  rw [endInv_of_none hq hqinvs, hgo]

/-! ### Export and region tables (R28, R29, R88 to R91) -/

theorem loadExports_frame {M : Mach} {part : Nat} {p : Part} (es : List ExportEntry) (hp : M.part part = some p) :
    let l : ExportLoad := ⟨p.exports, M.wclk, M.free⟩
    (loadExports M part es).part part =
      some
        { p with
          exportLoads := l :: (if M.wclk < p.expdue then p.exportLoads else [])
          exports := es
          expdue := (List.range fabricPorts).foldl (fun t k => max t (l.madeAt k)) p.expdue } :=
  part_updPart_same (M := { M with free := M.free + 1 }) hp fun _ => rfl

/-- A write of EXPCTL with LOAD whose fields and base are in place reads the table, or meets its poison (R29, R77). -/
theorem expctlPut_of_load {M : Mach} {p : Part} {v : Word} (hcount : wf v 0 7 ≤ 64) (hmask : v &&& 0x00000FFFFFFFFCFF = v)
    (hgo : v.getLsbD 7 = true) (hbase : p.hotBase (wf v 10 34 * 1024) = false)
    (howns : ownsHbm p (wf v 10 34 * 1024) 1024 = true) :
    let N := M.updPart p.id fun q => { q with expctl := w64 (putFld v.toNat 7 1 0) }
    let es := tableWords M (wf v 10 34 * 1024) 2 (wf v 0 7)
    (∀ pa, homePoison M [(wf v 10 34 * 1024, 16 * wf v 0 7)] = some pa → expctlPut M p v = partFault N p.id 0 pa) ∧
      (homePoison M [(wf v 10 34 * 1024, 16 * wf v 0 7)] = none →
        (∀ e ∈ es, exportBad (recW e 0) (recW e 1) = false) →
        expctlPut M p v = loadExports N p.id (es.filterMap fun e => exportEntry (recW e 0) (recW e 1))) := by
  have hmin : min 64 (wf v 0 7) = wf v 0 7 := Nat.min_eq_right hcount
  have hcount' : ¬64 < wf v 0 7 := Nat.not_lt.mpr hcount
  have hmaskWrite := maskWrite_of_kept M p.id (mask := 0x00000FFFFFFFFCFF)
    (fun w q => { q with expctl := w64 (putFld w.toNat 7 1 0) }) hmask
  intro N es
  have hput : expctlPut M p v =
      match tablePoison N p.id (wf v 10 34 * 1024) (16 * wf v 0 7) with
      | some M => M
      | none =>
        loadExports
          (es.foldl (fun M e => if exportBad (recW e 0) (recW e 1) then M.logIgnored p.id (e.getD 1 0) else M) N) p.id
          (es.filterMap fun e => exportEntry (recW e 0) (recW e 1)) := by
    simp only [expctlPut, hbase, Bool.false_eq_true, if_false, hcount', hmaskWrite, hgo, Bool.not_true, howns, hmin]
    rfl
  refine ⟨fun pa hpa => ?_, fun hclean hgood => ?_⟩
  · have hpoison : tablePoison N p.id (wf v 10 34 * 1024) (16 * wf v 0 7) = some (partFault N p.id 0 pa) :=
      congrArg (Option.map _) hpa
    rw [hput, hpoison]
  · have hpoison : tablePoison N p.id (wf v 10 34 * 1024) (16 * wf v 0 7) = none := congrArg (Option.map _) hclean
    have hfold : es.foldl (fun M e => if exportBad (recW e 0) (recW e 1) then M.logIgnored p.id (e.getD 1 0) else M) N =
        N := by
      clear_value es
      clear hput
      induction es with
      | nil => rfl
      | cons e es ih =>
        rw [List.foldl_cons, if_neg (by rw [hgood e List.mem_cons_self]; exact Bool.false_ne_true)]
        exact ih fun x hx => hgood x (List.mem_cons_of_mem e hx)
    rw [hput, hpoison, hfold]

theorem exportsAt_of_one {p : Part} {l : ExportLoad} (t port : Nat) (h : p.exportLoads = [l]) :
    (t < l.madeAt port → p.exportsAt t port = l.old) ∧ (l.madeAt port ≤ t → p.exportsAt t port = p.exports) := by
  simp only [Part.exportsAt, h, portCopy]
  exact ⟨fun ht => if_neg (Nat.not_le.mpr ht), fun ht => if_pos ht⟩

theorem expctlAt_load {p : Part} (t : Nat) (h : p.expctl.getLsbD 7 = false) :
    (p.expctlAt t).getLsbD 7 = true ↔ t < p.expdue := by
  unfold Part.expctlAt
  split
  · next ht => exact iff_of_true (by simp) ht
  · next ht => exact iff_of_false (by rw [h]; exact Bool.false_ne_true) ht

/-- A write of RGNCTL with LOAD and none under way notes what is under way, and the table goes on from there (R89, R91). -/
theorem rgnctlPut_of_load {M : Mach} {p : Part} {v : Word} (hp : M.part p.id = some p) (hidle : p.rgnload = none)
    (hmask : v &&& 0x00000FFFFFFE3FFF = v) (hcount : wf v 0 13 ≤ 4096) (hgo : v.getLsbD 13 = true)
    (hbase : p.hotBase (wf v 17 27 * 131072) = false) :
    let x := invNow M p.id none
    let q : Part := { p with rgnctl := v, rgnload := some (v, x) }
    let N := M.updPart p.id fun q => { q with rgnctl := v, rgnload := some (v, x) }
    N.part p.id = some q ∧
      rgnctlPut M p v = if x.passed N p.id then installRegions N q v else N.raise 64 (.tlbinvComplete p.id) := by
  intro x q N
  have hN : N.part p.id = some q := part_updPart_same hp fun _ => rfl
  refine ⟨hN, (Eq.trans ?_ (goOnLoad_of_some hN rfl))⟩
  have hcount' : ¬4096 < wf v 0 13 := Nat.not_lt.mpr hcount
  have hmaskWrite := maskWrite_of_kept M p.id (mask := 0x00000FFFFFFE3FFF)
    (fun w q => { q with rgnctl := if false = true then w ||| 0x2000 else w }) hmask
  have hwrite : rgnctlPut M p v =
      goOnLoad ((M.updPart p.id fun q => { q with rgnctl := v }).updPart p.id fun q => { q with rgnload := some (v, x) })
        p.id := by
    simp only [rgnctlPut, hidle, Option.isSome_none, Bool.false_and, Bool.false_eq_true, if_false, hbase, hcount', hgo,
      Bool.not_true]
    rw [maskWrite_of_kept M p.id _ hmask]
    rfl
  rw [hwrite]
  congr 1
  exact updPart_updPart M p.id (fun _ => rfl)

theorem rgnctlPut_of_busy {M : Mach} {p : Part} (v : Word) (hbusy : p.rgnload ≠ none) :
    (v.getLsbD 13 = true → rgnctlPut M p v = M.logIgnored p.id v) ∧
      (v.getLsbD 13 = false → v &&& 0x00000FFFFFFE3FFF = v → wf v 0 13 ≤ 4096 →
        p.hotBase (wf v 17 27 * 131072) = false →
        rgnctlPut M p v = M.updPart p.id fun q => { q with rgnctl := v ||| 0x2000 }) := by
  have hsome : p.rgnload.isSome = true := Option.isSome_iff_ne_none.mpr hbusy
  refine ⟨fun hgo => if_pos (by rw [hsome, hgo]; rfl), fun hgo hmask hcount hbase => ?_⟩
  have hcount' : ¬4096 < wf v 0 13 := Nat.not_lt.mpr hcount
  simp only [rgnctlPut, hsome, hgo, Bool.and_false, Bool.false_eq_true, if_false, hbase, hcount', Bool.not_false, if_true]
  exact maskWrite_of_kept M p.id _ hmask

/-! ### HRCFG (R59, R60) -/

theorem hrNext_of_none {p : Part} (h : ∀ x ∈ p.invs, x.cfg = none) : p.hrNext = p.hrcfg := by
  have hnil : p.invs.filterMap (·.cfg) = [] := List.filterMap_eq_nil_iff.mpr h
  rw [Part.hrNext, hnil]
  rfl

/-- A write of HRCFG of well-formed fields by the firmware with no table attached and none waiting (R59, R60). -/
theorem hrcfgPut_of_valid {M : Mach} {p : Part} {v : Word} (hattached : p.attached = [])
    (hmask : v &&& 0x01F0FFFF03FF01FF = v) (hlow : 2 ≤ wf v 52 5) (hhigh : wf v 52 5 ≤ 16)
    (hfit : wf v 16 10 * 0x4000000 + hrSize v ≤ 0xC00000000) (hnone : ∀ x ∈ p.invs, x.cfg = none)
    (hen : v.getLsbD 0 = true → 10 ≤ wf v 4 5 ∧ wf v 4 5 ≤ 16 ∧ wf v 1 3 ≠ 7 ∧
      (tableBases p).any (inHotRegion p v) = false) :
    hrcfgPut M p .fw v =
      if hrChanges p.hrcfg v then startInv M p.id .all (some v) else M.updPart p.id fun q => { q with hrcfg := v } := by
  have hbad : (decide (wf v 52 5 < 2) || decide (16 < wf v 52 5) ||
      (v.getLsbD 0 && (decide (wf v 4 5 < 10) || decide (16 < wf v 4 5) || decide (wf v 1 3 = 7))) ||
      decide (0xC00000000 < wf v 16 10 * 0x4000000 + hrSize v)) = false := by
    rcases hv : v.getLsbD 0 with _ | _
    · simp only [Bool.or_eq_false_iff, decide_eq_false_iff_not, Bool.false_and, and_true]
      omega
    · obtain ⟨hten, hsixteen, hseven, -⟩ := hen hv
      simp only [Bool.or_eq_false_iff, decide_eq_false_iff_not, Bool.true_and]
      omega
  have hbases : (v.getLsbD 0 && (tableBases p).any (inHotRegion p v)) = false := by
    rcases hv : v.getLsbD 0 with _ | _
    · rfl
    · exact (hen hv).2.2.2
  have hwait : (p.invs.any fun x => x.cfg.isSome) = false :=
    List.any_eq_false.mpr fun x hx => by rw [hnone x hx]; exact Bool.false_ne_true
  unfold hrcfgPut
  simp only [hmask, hbad, hbases, hwait, hattached, hrNext_of_none hnone, List.isEmpty_nil, Bool.not_true, ne_eq,
    not_true_eq_false, decide_false, Bool.or_false, Bool.false_eq_true, if_false, if_true]

theorem hrChanges_of_same {old w : Word} (hw : w.getLsbD 0 = false) (ho : old.getLsbD 0 = false) :
    hrChanges old w = false := by
  simp only [hrChanges, hw, ho, bne_self_eq_false, Bool.false_and, Bool.or_false]

theorem hrChanges_of_ne {old w : Word} (h : w.getLsbD 0 ≠ old.getLsbD 0) : hrChanges old w = true := by
  simp only [hrChanges, bne_iff_ne.mpr h, Bool.true_or]

/-! ### Writes that are ignored (R4, R434) -/

/-- A write of an agent that is no stream goes through the partition's control block or is ignored there. -/
theorem ignored_becomes {e : Instr} {s : State} {ag : RegAgent} {part : Nat} {v : Word}
    (f : Mach → Part → Mach) (he : exec e s = s.liftH fun hs M => pcbWrite hs M ag part v (f M)) :
    (s.m.part part = none → Becomes e s (s.m.logDev part v.toNat)) ∧
      ∀ p, s.m.part part = some p → s.host.admits s.m.wclk ag = false → Becomes e s (s.m.logIgnored part v) :=
  ⟨fun hp => liftH_becomes he (pcbWrite_of_absent ag v _ hp), fun _ hp ha => liftH_becomes he (pcbWrite_of_refused v _ hp ha)⟩

theorem exec_hqdb_pcb {ag : RegAgent} (part : Nat) (v : Word) (s : State) (h : ∀ m st, ag ≠ .stream m st) :
    exec (.hqdb ag part v) s = s.liftH fun hs M => pcbWrite hs M ag part v fun p => ringDoorbell M p v := by
  cases ag with
  | stream m st => exact absurd rfl (h m st)
  | port0 => rfl
  | port1 => rfl
  | mc => rfl
  | fw => rfl

theorem exec_registerWrite_pcb {s : State} (ag : RegAgent) (part off : Nat) (v : Word) (h : s.host.powered = true) :
    exec (.registerWrite ag (.pcb part off) v) s =
      s.liftH fun hs M => pcbWrite hs M ag part v fun p =>
        if off = 0x058 then ringDoorbell M p v else pcbPut M p ag off v := by
  rw [exec_registerWrite, execRegisterWrite, State.on, h]
  rfl

/-! ### Partitions (R7, R9) -/

theorem changePart_of_same {M : Mach} {id : Nat} {p : Part} (hp : M.part id = some p) : changePart M id p.dies p.key = M := by
  unfold changePart
  rw [hp]
  exact if_pos (by simp)

/-- A partition that is dissolved is there no more. -/
theorem changePart_dissolved {M : Mach} {id : Nat} {p : Part} (key : BitVec 32) (hp : M.part id = some p) (hdies : p.dies ≠ 0)
    (hidle : p.idle M = true) : (changePart M id 0 key).part id = none := by
  have hgone (l : List Part) : (l.filter fun q => q.id != id).find? (fun q => q.id == id) = none :=
    List.find?_eq_none.mpr fun q hq => by simpa using (List.mem_filter.mp hq).2
  unfold changePart
  rw [hp]
  extract_lets old quiet was now newKey toClear M₁ M₂ M₃ M₄ M₅
  have hquiet : quiet = true := hidle
  split
  · next h => simp [hquiet, old, hdies] at h
  · rw [if_pos rfl]
    exact hgone _

theorem part_withFree (M : Mach) (free id : Nat) : { M with free := free }.part id = M.part id := rfl

/-- A partition whose change of dies or key is written down, its old hot-row region shown or not. -/
def Part.changed (until_ : Nat) (kept : Bool) (q : Part) : Part :=
  { q with changing := until_, hrcfg := if kept then q.hrcfg else 0 }

theorem changePart_of_none {M : Mach} {id dies : Nat} (key : BitVec 32) (hp : M.part id = none) (hdies : 1 ≤ dies)
    (hshape : partShape M id dies = true) :
    ∃ N free until_ kept, changePart M id dies key =
      { formPart N id dies key with free := free }.updPart id (Part.changed until_ kept) := by
  have hsome : dies ≠ 0 := Nat.one_le_iff_ne_zero.mp hdies
  unfold changePart
  rw [hp]
  extract_lets old quiet was now newKey toClear M₁ M₂ M₃ M₄ xs M₅ M₆ M₇
  split
  · next h => simp [quiet, old, hshape] at h
  · have hlast : M₇ = formPart M₅ id dies key := rfl
    rw [hlast]
    exact ⟨M₅, _, _, toClear.isEmpty, rfl⟩

/-- A partition that is formed has its dies and key and nothing else. -/
theorem changePart_formed {M : Mach} {id dies : Nat} (key : BitVec 32) (hp : M.part id = none) (hdies : 1 ≤ dies)
    (hshape : partShape M id dies = true) :
    ∃ q, (changePart M id dies key).part id = some q ∧ q.dies = dies ∧ q.key = key ∧ q.ptroot = 0 ∧ q.exports = [] := by
  obtain ⟨N, free, until_, kept, hN⟩ := changePart_of_none key hp hdies hshape
  rw [hN]
  exact ⟨_, part_updPart_same ((part_withFree ..).trans (formPart_part N id dies key)) fun _ => rfl, rfl, rfl, rfl, rfl⟩

/-- Settles O53: each write by the case of its register, the loads and invalidations by their end, the partitions by their
change. -/
theorem registerWritesReachTheirPartition : Obligations.RegisterWritesReachTheirPartition := by
  unfold Obligations.RegisterWritesReachTheirPartition
  refine ⟨fun s ag part p h => ⟨fun v hbase => ?_, fun v hbase => ?_, fun v hbusy => ⟨?_, ?_⟩,
      fun v hidle hgo => ⟨fun hmask => ?_, fun hmask => ?_⟩, fun v rest hload hinvs => ⟨fun hpass => ?_, fun hpass => ?_⟩,
      fun v x hinvs hload => ⟨fun hpass => ?_, fun hpass => ?_⟩, fun v hpass => ?_, fun k cfg => startInv_frame k cfg h.part⟩,
    fun s ag part p h => ⟨fun v hcount hmask hgo hbase howns => ?_, fun port t l hl => exportsAt_of_one t port hl,
      fun t ht => expctlAt_load t ht, fun v hidle hmask hcount hgo hbase => ?_, fun v hbusy => ⟨fun hgo => ?_,
        fun hgo hmask hcount hbase => ?_⟩, fun v hv => ?_, fun v hag hattached hmask hlow hhigh hfit hnone => ⟨?_, ?_, ?_⟩,
      fun w hw => ?_, fun v off hoff => ?_, fun v => ?_, fun v hmask => ⟨?_, ?_⟩, fun v hlow hhigh => ?_, fun v => ⟨rfl, rfl⟩⟩,
    fun s ag part v e hag he => ?_,
    fun s => ⟨fun part dies key hboot => ?_, fun part p hboot hp => ?_, fun part key p hboot hp hdies hidle => ?_,
      fun part dies key hboot hp hdies hshape => ?_, fun die => ⟨_, lift_becomes (exec_dieFence ..) rfl, not_live_fenceDie s.m die⟩⟩⟩
  · exact h.becomes (fun M p => ptrootPut M p v) (exec_ptrootWrite ..) (if_neg (by rw [hbase]; exact Bool.false_ne_true))
  · exact h.becomes (fun M p => ptrootPut M p v) (exec_ptrootWrite ..) (if_pos hbase)
  · exact h.becomes (fun M p => tlbinvPut M p _) (exec_tlbinvAll ..) (tlbinvPut_of_busy _ hbusy)
  · exact h.becomes (fun M p => tlbinvPut M p _) (exec_tlbinvPage ..) (tlbinvPut_of_busy _ hbusy)
  · exact h.becomes (fun M p => tlbinvPut M p _) (exec_tlbinvAll ..) (tlbinvPut_of_go hidle hgo (by norm_num) hmask)
  · exact h.becomes (fun M p => tlbinvPut M p _) (exec_tlbinvPage ..) (tlbinvPut_of_go hidle hgo (by norm_num) hmask)
  · exact lift_becomes (exec_tlbinvComplete ..)
      ((endInv_of_some h.part hload hinvs).trans (if_neg (by rw [hpass]; exact Bool.false_ne_true)))
  · exact lift_becomes (exec_tlbinvComplete ..) ((endInv_of_some h.part hload hinvs).trans (if_pos hpass))
  · exact lift_becomes (exec_tlbinvComplete ..)
      ((endInv_of_load h.part hinvs hload).trans (if_neg (by rw [hpass]; exact Bool.false_ne_true)))
  · exact lift_becomes (exec_tlbinvComplete ..) ((endInv_of_load h.part hinvs hload).trans (if_pos hpass))
  · obtain ⟨hmarks, hops, hloads⟩ := (passed_iff v s.m part).mp hpass
    exact ⟨opsBefore_none hops, fun x hx k hk hw =>
      Bool.false_ne_true ((hloads x hx k hk).symm.trans (List.contains_iff_mem.mpr hw)), fun x hx c hc =>
        invPassed_conn (hmarks x hx) hc⟩
  · have hid := Mach.part_id h.part
    subst hid
    obtain ⟨hpoisoned, hclean⟩ := expctlPut_of_load (M := s.m) hcount hmask hgo hbase howns
    refine ⟨fun pa hpa => h.becomes (fun M p => expctlPut M p v) (exec_expctlLoad ..) (hpoisoned pa hpa), fun hpa hgood =>
      ⟨_, h.becomes (fun M p => expctlPut M p v) (exec_expctlLoad ..) (hclean hpa hgood), rfl, rfl, ?_⟩⟩
    exact loadExports_frame _ (part_updPart_same h.part fun _ => rfl)
  · have hid := Mach.part_id h.part
    obtain ⟨hN, hput⟩ := rgnctlPut_of_load (M := s.m) (hid.symm ▸ h.part) hidle hmask hcount hgo hbase
    exact ⟨hN, fun hpass => h.becomes (fun M p => rgnctlPut M p v) (exec_rgnctlLoad ..)
        (hput.trans (if_neg (by rw [hpass]; exact Bool.false_ne_true))),
      fun hpass => h.becomes (fun M p => rgnctlPut M p v) (exec_rgnctlLoad ..) (hput.trans (if_pos hpass))⟩
  · exact h.becomes (fun M p => rgnctlPut M p v) (exec_rgnctlLoad ..) ((rgnctlPut_of_busy v hbusy).1 hgo)
  · exact h.becomes (fun M p => rgnctlPut M p v) (exec_rgnctlLoad ..) ((rgnctlPut_of_busy v hbusy).2 hgo hmask hcount hbase)
  · refine h.becomes (fun M p => hrcfgPut M p ag v) (exec_hrcfgWrite ..) (if_pos ?_)
    rcases hv with hv | hv
    · simp [hv]
    · simp [hv]
  · subst hag
    intro hoff hdis
    have hput := hrcfgPut_of_valid (M := s.m) hattached hmask hlow hhigh hfit hnone
      fun hon => absurd (hoff.symm.trans hon) Bool.false_ne_true
    rw [hrChanges_of_same hoff hdis, if_neg Bool.false_ne_true] at hput
    exact h.becomes (fun M p => hrcfgPut M p .fw v) (exec_hrcfgWrite ..) hput
  · subst hag
    intro hoff hen
    have hput := hrcfgPut_of_valid (M := s.m) hattached hmask hlow hhigh hfit hnone
      fun hon => absurd (hoff.symm.trans hon) Bool.false_ne_true
    rw [hrChanges_of_ne fun heq => Bool.false_ne_true (hoff.symm.trans (heq.trans hen)), if_pos rfl] at hput
    exact h.becomes (fun M p => hrcfgPut M p .fw v) (exec_hrcfgWrite ..) hput
  · subst hag
    intro hon hdis hten hsixteen hseven hbases
    have hput := hrcfgPut_of_valid (M := s.m) hattached hmask hlow hhigh hfit hnone fun _ => ⟨hten, hsixteen, hseven, hbases⟩
    rw [hrChanges_of_ne fun heq => Bool.false_ne_true (hdis.symm.trans (heq.symm.trans hon)), if_pos rfl] at hput
    exact h.becomes (fun M p => hrcfgPut M p .fw v) (exec_hrcfgWrite ..) hput
  · simp only [hrcfgTake, Mach.part_id h.part, h.part, hw, if_true]
  · exact h.becomes (fun M p => if off = 0x058 then ringDoorbell M p v else pcbPut M p ag off v)
      (exec_registerWrite_pcb ag part off v h.power) (if_neg hoff)
  · exact h.becomes (fun M p => if 0x058 = 0x058 then ringDoorbell M p v else pcbPut M p ag 0x058 v)
      (exec_registerWrite_pcb ag part 0x058 v h.power) (if_pos rfl)
  · exact maskWrite_of_kept s.m p.id (fun w q => { q with qwin0 := w }) hmask
  · exact maskWrite_of_kept s.m p.id (fun w q => { q with qwin1 := w }) hmask
  · have hv : v.toNat % 32 = v.toNat := Nat.mod_eq_of_lt hhigh
    have hfield : ¬wf v 0 5 < 16 := by
      rw [show wf v 0 5 = v.toNat % 32 from rfl, hv]
      exact Nat.not_lt.mpr hlow
    have hmask : v &&& 0x1F = v := by
      refine BitVec.eq_of_toNat_eq ?_
      rw [BitVec.toNat_and]
      exact (Nat.and_two_pow_sub_one_eq_mod v.toNat 5).trans hv
    exact (if_neg hfield).trans (maskWrite_of_kept s.m p.id (fun w q => { q with wdcfg := w }) hmask)
  · rcases he with rfl | rfl | rfl | rfl | rfl | rfl | rfl | ⟨hpower, off, rfl⟩
    · exact ignored_becomes (fun M p => ptrootPut M p v) (exec_ptrootWrite ..)
    · exact ignored_becomes (fun M p => tlbinvPut M p (w64 (putFld v.toNat 62 2 0))) (exec_tlbinvAll ..)
    · exact ignored_becomes (fun M p => tlbinvPut M p (w64 (putFld v.toNat 62 2 1))) (exec_tlbinvPage ..)
    · exact ignored_becomes (fun M p => expctlPut M p v) (exec_expctlLoad ..)
    · exact ignored_becomes (fun M p => hrcfgPut M p ag v) (exec_hrcfgWrite ..)
    · exact ignored_becomes (fun M p => rgnctlPut M p v) (exec_rgnctlLoad ..)
    · exact ignored_becomes (fun M p => ringDoorbell M p v) (exec_hqdb_pcb part v s hag)
    · exact ignored_becomes (fun M p => if off = 0x058 then ringDoorbell M p v else pcbPut M p ag off v)
        (exec_registerWrite_pcb ag part off v hpower)
  · exact liftH_becomes (exec_partitionChange ..) (if_neg hboot)
  · exact liftH_becomes (exec_partitionChange ..) ((if_pos hboot).trans (changePart_of_same hp))
  · exact ⟨_, liftH_becomes (exec_partitionChange ..) (if_pos hboot), changePart_dissolved key hp hdies hidle⟩
  · obtain ⟨q, hq, hqdies, hqkey, hqroot, hqexports⟩ := changePart_formed key hp hdies hshape
    exact ⟨_, q, liftH_becomes (exec_partitionChange ..) (if_pos hboot), hq, hqdies, hqkey, hqroot, hqexports⟩

end Sys2Proof.Machine

/-!
PROOFS. Landings, walks and waits of a core (R40, R44, R95, R153 to R159, R256, R257).
-/

namespace Sys2Proof.Machine

/-! ### Words that act when their remote bytes are in (R153) -/

/-- The word waits for bytes of another device and acts on its sources when they are in. -/
def Untimed.late (u : Untimed) : Bool :=
  match u.needs, u.job with
  | .fetched _, .again _ _ _ => true
  | _, _ => false

theorem Untimed.not_late_of_nothing {u : Untimed} (h : u.job = .nothing) : u.late = false := by
  unfold Untimed.late
  rw [h]
  split
  · next h' => cases h'
  · rfl

theorem Untimed.not_late_of_needs {u : Untimed} (h : ∀ tag, u.needs ≠ .fetched tag) : u.late = false := by
  unfold Untimed.late
  split
  · next tag _ _ _ hn _ => exact absurd hn (h tag)
  · rfl

/-- No word of the member's stream is about to act on bytes of another device. -/
structure NotLate (r : MRef) (st : Strm) (M : Mach) : Prop where
  here : ∀ x, M.member r = some x → ∀ v, (x.str st).untimed = some v → v.late = false

theorem landLate_of_notLate {r : MRef} {st : Strm} {M : Mach} (h : NotLate r st M) : landLate M r st = M := by
  unfold landLate
  split
  · rfl
  · next x hx =>
    split
    · rfl
    · next v hv =>
      have hlate := h.here x hx v hv
      split
      · next hneeds hjob _ =>
        rw [Untimed.late, hneeds, hjob] at hlate
        cases hlate
      · rfl

namespace NotLate

variable {r : MRef} {st : Strm} {M N : Mach}

theorem of_members (h : NotLate r st M) (hN : N.members = M.members) : NotLate r st N where
  here x hx := h.here x (by rw [Mach.member, ← hN]; exact hx)

theorem of_member {x : Member} (hx : M.member r = some x) (h : ∀ v, (x.str st).untimed = some v → v.late = false) :
    NotLate r st M where
  here y hy := by
    rw [hx] at hy
    cases hy
    exact h

/-- A change of a member that makes no word late. -/
theorem updMember (h : NotLate r st M) (q : MRef) {f : Member → Member} (href : ∀ y, (f y).ref = y.ref)
    (hf : ∀ y v, ((f y).str st).untimed = some v → v.late = true →
      ∃ u, (y.str st).untimed = some u ∧ u.late = true) : NotLate r st (M.updMember q f) where
  here x hx v hv := by
    by_cases hq : r = q
    · subst hq
      rw [Mach.member_updMember _ _ _ fun y hy => (href y).trans hy] at hx
      obtain ⟨y, hy, rfl⟩ := Option.map_eq_some_iff.mp hx
      by_contra hlate
      obtain ⟨u, hu, hul⟩ := hf y v hv (by simpa using hlate)
      exact absurd ((h.here y hy u hu).symm.trans hul) Bool.false_ne_true
    · rw [Mach.member_updMember_ne _ _ _ _ (fun y hy => (href y).trans hy) hq] at hx
      exact h.here x hx v hv

/-- A change after which the stream's word is not late. -/
theorem set (M : Mach) {f : Member → Member} (href : ∀ y, (f y).ref = y.ref)
    (hf : ∀ y v, ((f y).str st).untimed = some v → v.late = false) : NotLate r st (M.updMember r f) where
  here x hx v hv := by
    rw [Mach.member_updMember _ _ _ fun y hy => (href y).trans hy] at hx
    obtain ⟨y, hy, rfl⟩ := Option.map_eq_some_iff.mp hx
    exact hf y v hv

theorem foldl {α : Type} {f : Mach → α → Mach} (hf : ∀ M x, NotLate r st M → NotLate r st (f M x)) (l : List α) :
    ∀ {M : Mach}, NotLate r st M → NotLate r st (l.foldl f M) := by
  induction l with
  | nil => exact fun h => h
  | cons x l ih => exact fun h => ih (hf _ x h)

end NotLate

/-- Setting what the stream's word waits for, with nothing left to do. -/
theorem notLate_setNeeds (M : Mach) (r : MRef) (st : Strm) (n : Answer) (ws : List (Dst × Word)) :
    NotLate r st (M.updMember r fun x => x.updStr st fun s =>
      { s with untimed := s.untimed.map fun v => { v with needs := n, job := .nothing, writes := ws } }) := by
  refine NotLate.set M (fun _ => Member.updStr_ref ..) fun y v hv => ?_
  rw [Member.str_updStr] at hv
  obtain ⟨u, -, rfl⟩ := Option.map_eq_some_iff.mp hv
  exact Untimed.not_late_of_nothing rfl

/-- A word that waits for a stack is not late. -/
theorem notLate_held (M : Mach) (r : MRef) (st : Strm) (q : Nat) :
    NotLate r st (M.updMember r fun x => x.updStr st fun s =>
      { s with untimed := s.untimed.map fun v => { v with needs := .stack q } }) := by
  refine NotLate.set M (fun _ => Member.updStr_ref ..) fun y v hv => ?_
  rw [Member.str_updStr] at hv
  obtain ⟨u, -, rfl⟩ := Option.map_eq_some_iff.mp hv
  exact Untimed.not_late_of_needs fun _ => nofun

/-! ### The stores and spans of a late word -/

/-- A change of the member's buffers and arrays keeps its untimed words. -/
theorem notLate_drainBuffer {r : MRef} {st : Strm} {M : Mach} (q : MRef) (o : Strm) (h : NotLate r st M) :
    NotLate r st (drainBuffer M q o) := by
  unfold drainBuffer
  split
  · exact h
  · split
    · exact h
    · refine NotLate.updMember (h.of_members (Stores.foldl (fun _ _ => stores_performEntry ..) _ _).members) q
        (fun _ => Member.updStr_ref ..) fun y v hv hlate => ?_
      by_cases ho : st = o
      · subst ho
        rw [Member.str_updStr] at hv
        exact ⟨v, hv, hlate⟩
      · rw [Member.str_updStr_ne _ _ _ _ ho] at hv
        exact ⟨v, hv, hlate⟩

theorem notLate_flushLine {r : MRef} {st : Strm} {M : Mach} (q : MRef) (o : Strm) (pa : Nat) (h : NotLate r st M) :
    NotLate r st (flushLine M q o pa) := by
  have hdrain := notLate_drainBuffer q o h
  unfold flushLine
  dsimp only
  split
  · exact hdrain.of_members rfl
  · exact hdrain

theorem notLate_addRow {r : MRef} {st : Strm} (q : MRef) (o : Strm) (et : ScType) :
    ∀ (ts : List (Target × Nat)) {M : Mach} (bs : List Byte), NotLate r st M → NotLate r st (addRow M q o et ts bs)
  | [], _, _, h => h
  | (.local pa, n) :: ts, M, bs, h => by
    refine notLate_addRow q o et ts _ ?_
    refine NotLate.foldl (fun M j h => ?_) _ h
    exact (notLate_flushLine q o (pa + j * (scadElem et).1) h).of_members rfl
  | (.remote _ _ _, n) :: ts, M, bs, h => notLate_addRow q o et ts _ h

theorem keepsBodies_memberSpan {M N : Mach} {m : Member} {core : Option Nat} {k : AKind} {pva : Word} {n : Nat}
    {ts : List (Target × Nat)} (h : memberSpan M m core k pva n = .ok (N, ts)) : KeepsBodies M N := by
  unfold memberSpan at h
  split at h
  · cases h
  · next hspan =>
    split at h
    · cases h
    · cases h
      exact keepsBodies_longSpan hspan

theorem keepsBodies_dropCopies (M : Mach) (r : MRef) (ts : List (Target × Nat)) : KeepsBodies M (dropCopies M r ts) := by
  unfold dropCopies
  extract_lets ps
  split
  · split
    · exact KeepsBodies.refl M
    · exact ⟨rfl, rfl, rfl⟩
  · exact KeepsBodies.refl M

theorem keepsBodies_ask (M : Mach) (fs : List Fetch) (r : ConnRef) (p : Packet) (o : Origin) :
    KeepsBodies M (sendOn { M with fetched := fs } r p o) := by
  obtain ⟨hmembers, hparts, hdies⟩ := keepsBodies_sendOn { M with fetched := fs } r p o
  exact ⟨hmembers, hparts, hdies⟩

theorem keepsBodies_askPiece (M : Mach) (who : MRef) (tag : Nat) (wake : Option Event) (dev : DevRef) (peer a n : Nat) :
    KeepsBodies M (askPiece M who tag wake dev peer a n) := by
  refine KeepsBodies.foldl (fun M i => ?_) M _
  dsimp only
  split
  · exact KeepsBodies.refl M
  · exact keepsBodies_ask ..

/-- The device a read leaves, where it ends with one. -/
def ReadEnd.mach : ReadEnd → Option Mach
  | .bytes M _ => some M
  | .asking M => some M
  | _ => none

theorem keepsBodies_readPieces {who : MRef} {tag : Nat} {wake : Option Event} {pva : Word} :
    ∀ (ts : List (Target × Nat)) {M N : Mach}, (readPieces M who tag wake pva ts).mach = some N → KeepsBodies M N
  | [], M, N, h => by
    cases h
    exact KeepsBodies.refl M
  | (.local pa, n) :: ts, M, N, h => by
    rw [readPieces] at h
    split at h
    · cases h
    · split at h
      · next hrest =>
        cases h
        exact keepsBodies_readPieces ts (by rw [hrest]; rfl)
      · exact keepsBodies_readPieces ts h
  | (.remote dev peer a, n) :: ts, M, N, h => by
    have hask := keepsBodies_askPiece M who tag wake dev peer a n
    rw [readPieces] at h
    split at h
    · cases h
    · cases h
    · split at h
      · next hrest =>
        cases h
        exact keepsBodies_readPieces ts (by rw [hrest]; rfl)
      · exact keepsBodies_readPieces ts h
    · dsimp only at h
      split at h
      · next hrest =>
        cases h
        exact hask.trans (keepsBodies_readPieces ts (by rw [hrest]; rfl))
      · next hrest =>
        cases h
        exact hask.trans (keepsBodies_readPieces ts (by rw [hrest]; rfl))
      · cases h
        exact hask

theorem keepsBodies_scaddRead {M N : Mach} {m : Member} {st : Strm} {a : Word} {off n : Nat}
    (h : (scaddRead M m st a off n).mach = some N) : KeepsBodies M N := by
  unfold scaddRead at h
  split at h
  · cases h
  · unfold readSpanned at h
    split at h
    · cases h
    · next hspan =>
      exact ((keepsBodies_memberSpan hspan).trans (keepsBodies_dropCopies ..)).trans (keepsBodies_readPieces _ h)

theorem keepsBodies_scaddRow {M N : Mach} {m : Member} {k : AKind} {a : Word} {off n : Nat} {ts : List (Target × Nat)}
    (h : scaddRow M m k a off n = .ok (N, ts)) : KeepsBodies M N := by
  unfold scaddRow at h
  split at h
  · cases h
  · exact keepsBodies_memberSpan h

theorem keepsBodies_askProbes (q : MRef) (o : Strm) (et : ScType) :
    ∀ (ts : List (Target × Nat)) (M : Mach), KeepsBodies M (askProbes M q o et ts)
  | [], M => KeepsBodies.refl M
  | (.local _, _) :: ts, M => keepsBodies_askProbes q o et ts M
  | (.remote dev part ra, _) :: ts, M => by
    exact (keepsBodies_ask ..).trans (keepsBodies_askProbes q o et ts _)

theorem keepsBodies_askRow (q : MRef) (o : Strm) (et : ScType) :
    ∀ (ts : List (Target × Nat)) (M : Mach) (bs : List Byte), KeepsBodies M (askRow M q o et ts bs)
  | [], M, _ => KeepsBodies.refl M
  | (.local _, n) :: ts, M, bs => keepsBodies_askRow q o et ts M (bs.drop n)
  | (.remote dev part ra, n) :: ts, M, bs => by
    refine KeepsBodies.trans ?_ (keepsBodies_askRow q o et ts _ (bs.drop n))
    refine KeepsBodies.foldl (fun M j => ?_) M _
    exact keepsBodies_ask ..

/-- SCADD's rows change of a member's streams only what the stores before them drain (R257). -/
theorem notLate_scaddLoop {r : MRef} {o : Strm} {m : Member} {st : Strm} {raw : Word} :
    ∀ (left : Nat) {M : Mach} (k : ScaddRun), NotLate r o M → NotLate r o (scaddLoop m st raw left M k).M
  | 0, _, _, h => h
  | left + 1, M, k, h => by
    rw [scaddLoop]
    split
    · exact h
    · split
      · exact h
      · exact h
      · next hread => exact h.of_members (keepsBodies_scaddRead (by rw [hread]; rfl)).members
      · next M₁ ib hread =>
        have h₁ : NotLate r o M₁ := h.of_members (keepsBodies_scaddRead (by rw [hread]; rfl)).members
        extract_lets i
        split
        · exact notLate_scaddLoop left _ h₁
        · split
          · exact h
          · next M₂ ts hrow =>
            have h₂ : NotLate r o M₂ := h₁.of_members (keepsBodies_scaddRow hrow).members
            split
            · exact h
            · exact h₂
            · next hsrc => exact h₂.of_members (keepsBodies_scaddRead (by rw [hsrc]; rfl)).members
            · next M₃ row hsrc =>
              have h₃ : NotLate r o M₃ := h₂.of_members (keepsBodies_scaddRead (by rw [hsrc]; rfl)).members
              have hgo {N : Mach} (hN : NotLate r o N) (q : ScaddRun) :
                  NotLate r o (scaddLoop m st raw left (addRow N m.ref st k.et ts row) q).M :=
                notLate_scaddLoop left q (notLate_addRow m.ref st k.et ts row hN)
              split
              · exact h₃
              · split
                · exact hgo h₃ _
                · split
                  · exact h₃.of_members (keepsBodies_askProbes ..).members
                  · exact h₃
                  · exact h
                  · split
                    · exact h₃.of_members (keepsBodies_askRow ..).members
                    · exact h₃
                    · exact h
                    · exact hgo (N := dropFetched (dropFetched M₃ m.ref (rowTag st)) m.ref (probeTag st)) (h₃.of_members rfl) _

theorem notLate_scaddRun {r : MRef} {o : Strm} {M : Mach} (m : Member) (st : Strm) (u : Untimed) (k : ScaddRun)
    (h : NotLate r o M) : NotLate r o (scaddRun M m st u k).1 ∧ (scaddRun M m st u k).2.late = false := by
  have hloop := notLate_scaddLoop (m := m) (st := st) (raw := u.raw) (k.n - k.k) k h
  unfold scaddRun
  extract_lets e swept
  have hrun : NotLate r o e.M := hloop
  have hswept (N : Mach) (hN : NotLate r o N) : NotLate r o (swept N) := hN.of_members rfl
  clear_value e swept
  split
  · exact ⟨hswept _ hrun, Untimed.not_late_of_nothing rfl⟩
  · exact ⟨hrun, Untimed.not_late_of_needs fun _ => nofun⟩
  · exact ⟨hrun, Untimed.not_late_of_needs fun _ => nofun⟩
  · exact ⟨hswept _ hrun, Untimed.not_late_of_nothing rfl⟩

/-! ### Queue operations -/

theorem Member.untimed_updUntimed (y : Member) (o st : Strm) (p : Untimed → Bool) (f : Untimed → Untimed) :
    ((y.updUntimed o p f).str st).untimed =
      if st = o then (y.str st).untimed.map fun u => if p u then f u else u else (y.str st).untimed := by
  cases o <;> cases st <;> rfl

theorem Member.ref_updUntimed (y : Member) (o : Strm) (p : Untimed → Bool) (f : Untimed → Untimed) :
    (y.updUntimed o p f).ref = y.ref := by
  cases o <;> rfl

/-- A change of the untimed words that makes none of them late. -/
theorem notLate_updUntimed {r : MRef} {st : Strm} {M : Mach} (q : MRef) (o : Strm) {p : Untimed → Bool}
    {f : Untimed → Untimed} (hf : ∀ u, p u = true → (f u).late = true → u.late = true) (h : NotLate r st M) :
    NotLate r st (M.updMember q fun m => m.updUntimed o p f) := by
  refine h.updMember q (fun y => y.ref_updUntimed o p f) fun y v hv hlate => ?_
  rw [Member.untimed_updUntimed] at hv
  split at hv
  · obtain ⟨u, hu, hv⟩ := Option.map_eq_some_iff.mp hv
    refine ⟨u, hu, ?_⟩
    split at hv
    · next hp =>
      subst hv
      exact hf u hp hlate
    · rw [hv]
      exact hlate
  · exact ⟨v, hv, hlate⟩

theorem notLate_failAnswer {r : MRef} {st : Strm} {M : Mach} (q : MRef) (o : Strm) (n : Answer) (i : Untimed → TrapInfo)
    (h : NotLate r st M) : NotLate r st (failAnswer M q o n i) :=
  notLate_updUntimed q o (fun u _ hlate => absurd
    ((Untimed.not_late_of_needs (u := { u with needs := .refused (i u) }) fun _ => nofun).symm.trans hlate)
    Bool.false_ne_true) h

theorem distPop_members (M : Mach) (part die prio : Nat) : (distPop M part die prio).members = M.members := by
  unfold distPop
  split
  · rfl
  · split
    · rfl
    · rfl

/-- An operation that cannot be launched is answered with its fault. -/
theorem notLate_launchOp {r : MRef} {st : Strm} {M : Mach} (m : Member) (op : QOp) (pva : Word) (k : AKind)
    (h : NotLate r st M) : NotLate r st (launchOp M m op pva k) := by
  have hreply (op : QOp) (f : XFault) : NotLate r st (replyOp M op (.fault f)) := by
    unfold replyOp
    split
    · exact notLate_failAnswer _ _ _ _ h
    · exact h.of_members (keepsBodies_sendOn ..).members
    · split
      · exact h
      · exact h.of_members rfl
      · exact h
    · split
      · exact h
      · exact h.of_members rfl
      · exact h.of_members rfl
      · exact h.of_members (distPop_members ..)
  have harrive (op : QOp) : NotLate r st (arriveAt M op) := by
    unfold arriveAt
    split
    · exact h.of_members rfl
    · split
      · exact h.of_members rfl
      · exact h.of_members rfl
  unfold launchOp
  extract_lets w op'
  split
  · exact hreply ..
  · split
    · exact harrive ..
    · exact h.of_members (keepsBodies_sendOn ..).members

/-- Performing a word's job makes no word late. -/
theorem notLate_performJob {r : MRef} {st : Strm} {M : Mach} {m : Member} (u : Untimed) (hm : m.ref = r)
    (h : NotLate r st M) : NotLate r st (performJob M m st u) := by
  subst hm
  have hset (N : Mach) (n : Answer) (ws : List (Dst × Word)) := notLate_setNeeds N m.ref st n ws
  have hheld (N : Mach) (q : Nat) := notLate_held N m.ref st q
  have hfresh : NotLate m.ref st M.fresh.1 := h.of_members rfl
  unfold performJob
  extract_lets setNeeds held
  split
  next N id hN =>
  have hN : NotLate m.ref st N := by
    rw [hN] at hfresh
    exact hfresh
  split
  · exact hset ..
  · split
    · exact hset ..
    · split
      · exact hheld ..
      · split
        · exact hset ..
        · exact hset ..
  · split
    · exact hheld ..
    · split
      · exact hset ..
      · exact hset ..
      · exact hset ..
  · exact hset ..
  · split
    · exact hset ..
    · exact hset ..
  · exact notLate_launchOp _ _ _ _ (hset ..)
  · next k _ =>
    obtain ⟨hrun, hlate⟩ := notLate_scaddRun m st u k hN
    split
    next P v hP =>
    rw [hP] at hrun hlate
    exact notLate_updUntimed m.ref st (fun w _ hl => absurd (hlate.symm.trans hl) Bool.false_ne_true) hrun
  · exact hN

/-! ### The landing of a word (R153, R256) -/

/-- A stream that stops for a trap, or parks, keeps whether it has an untimed word. -/
theorem Stream.untimed_unwait (s : Stream) (t : Nat) : (s.unwait t).untimed = s.untimed := by
  rw [Stream.unwait_eq]

theorem Stream.untimed_park (s : Stream) (t : Nat) : (s.park t).untimed = s.untimed :=
  Stream.untimed_unwait s t

theorem Member.untimed_takeFor (m : Member) (o st : Strm) : ((m.takeFor o).str st).untimed = (m.str st).untimed := by
  unfold Member.takeFor
  induction m.taking.filter fun x => x.1 == o generalizing m with
  | nil => rfl
  | cons x l ih =>
    refine (ih (m.take x.2)).trans ?_
    obtain ⟨q, x⟩ := x
    cases x with
    | refusal q r => cases q <;> cases st <;> rfl
    | deferred cs cause => cases st <;> rfl
    | nest => cases st <;> rfl

/-- A trap taken starts no untimed word. -/
theorem takeTrap_untimed {M : Mach} {r : MRef} {m y : Member} (o st : Strm) (i : TrapInfo) (tau : Nat)
    (hy : M.member r = some y) (hm : m.ref = r) (hnone : (m.str st).untimed = none) :
    ∃ x, (takeTrap M m o i tau).member r = some x ∧ (x.str st).untimed = none := by
  have hrec (w : List Word) : (settleAcqs (dropAsked (writeRecord M m w) m) m).member r = some y := by
    rw [Mach.member, trapRecorded_members]
    exact ((stores_writeRecord M m w).member r).trans hy
  rcases hesc : m.escalates i with _ | _
  · rw [takeTrap_of_program hesc]
    refine ⟨m.enterHandler o i tau, Mach.member_putMember (hrec _) hm, ?_⟩
    cases st with
    | c => rfl
    | a => exact (Stream.untimed_park ..).trans hnone
    | v => exact (Stream.untimed_park ..).trans hnone
    | x => exact (Stream.untimed_park ..).trans hnone
  · rw [takeTrap_of_escalates hesc]
    refine ⟨m.escalate o i tau, ?_, ?_⟩
    · rw [Mach.member, Mach.raise_members, logPart_members]
      exact Mach.member_putMember (hrec _) hm
    · rw [Member.str_escalate, Stream.untimed_unwait]
      exact hnone

theorem wakeSignals_members (M : Mach) (m : Member) : (wakeSignals M m).members = M.members := by
  refine members_foldl (fun M c => ?_) M _
  split
  · split
    · rfl
    · rfl
  · rfl

theorem notLate_endCycle {M : Mach} {r : MRef} {st : Strm} {x : Member} (t : Nat) (hx : M.member r = some x)
    (hnone : (x.str st).untimed = none) : NotLate r st (endCycle M r t) := by
  have hM : NotLate r st M := NotLate.of_member hx fun v hv => by rw [hnone] at hv; cases hv
  have hr := Mach.member_ref hx
  unfold endCycle
  rw [hx]
  dsimp only
  split
  · exact hM
  · next o i _ =>
    split
    · exact hM
    · have href := (x.takeFor_region o).1.trans hr
      obtain ⟨y, hy, hynone⟩ := takeTrap_untimed o st i t hx href ((x.untimed_takeFor o st).trans hnone)
      have htrap : NotLate r st (takeTrap M (x.takeFor o) o i t) :=
        NotLate.of_member hy fun v hv => by rw [hynone] at hv; cases hv
      split
      · exact htrap.of_members (wakeSignals_members ..)
      · exact htrap

theorem Member.untimed_unissued (m : Member) (st : Strm) (u : Untimed) (t : Nat) :
    ((m.unissued st u t).str st).untimed = none ∧ (m.unissued st u t).ref = m.ref := by
  unfold Member.unissued
  extract_lets y z
  have hz : (z.str st).untimed = none ∧ z.ref = m.ref := by
    have hy : (y.str st).untimed = none := congrArg Stream.untimed (Member.str_updStr ..)
    unfold z
    split
    · exact ⟨by cases st <;> exact hy, Member.updStr_ref ..⟩
    · exact ⟨hy, Member.updStr_ref ..⟩
  split
  · unfold Member.setSlot
    split
    · exact ⟨by cases st <;> exact hz.1, hz.2⟩
    · exact hz
  · exact hz

theorem notLate_unissue {M : Mach} {r : MRef} {m : Member} (st : Strm) (u : Untimed) (taking : Option Taken) (i : TrapInfo)
    (hm : M.member r = some m) : NotLate r st (unissue M m st u taking i) := by
  have hr := Mach.member_ref hm
  obtain ⟨hnone, href⟩ := (m.settle (m.now M)).untimed_unissued st u (m.now M)
  unfold unissue
  extract_lets now y ks
  have hyref : y.ref = r := href.trans hr
  have hynone : (y.str st).untimed = none := hnone
  clear_value y now ks
  subst hyref
  exact notLate_endCycle now (Mach.member_putMember hm (by rfl)) (by cases st <;> exact hynone)

/-- The member once its word's result is on its way, the word's slot and joined owner not yet given up. -/
def Member.resultOut (m : Member) (st : Strm) (u : Untimed) (t : Nat) : Member :=
  ((m.settle t).updStr st fun s =>
    { s with
      inflight := if u.writes.isEmpty then s.inflight else s.inflight ++ [⟨t, u.born, u.writes, false, none⟩]
      untimed := none
      floor := max s.floor (t + 1)
      nstall := s.nstall + (t - u.iss) }).settle t

/-- The slot of a landed word is free. -/
def Member.slotFreed (m : Member) (u : Untimed) : Member :=
  match u.slot with
  | some k => m.setSlot k LSlot.empty
  | none => m

/-- An owner that a landed GRIDCTL.leave takes out of a grid is not joined any more. -/
def Member.ownerLeft (m : Member) (u : Untimed) : Member :=
  match u.needs with
  | .vergeWrites g own => { m with joined := m.joined.filter fun j => !(j.own == own && j.grid == g) }
  | _ => m

/-- The member after its word's result has gone on its way (R153). -/
def Member.landed (m : Member) (st : Strm) (u : Untimed) (t : Nat) : Member := ((m.resultOut st u t).slotFreed u).ownerLeft u

theorem landResult_eq (M : Mach) (m : Member) (st : Strm) (u : Untimed) :
    landResult M m st u =
      match u.acquire with
      | some sc => acquire (M.putMember (m.landed st u (m.now M))) (m.landed st u (m.now M)).ref sc
      | none => M.putMember (m.landed st u (m.now M)) := rfl

theorem Member.setSlot_frame (m : Member) (k : Nat) (l : LSlot) (st : Strm) :
    (m.setSlot k l).str st = m.str st ∧ (m.setSlot k l).ref = m.ref ∧ (m.setSlot k l).joined = m.joined := by
  unfold Member.setSlot
  split
  · exact ⟨by cases st <;> rfl, rfl, rfl⟩
  · exact ⟨rfl, rfl, rfl⟩

theorem Member.slotFreed_frame (m : Member) (u : Untimed) (st : Strm) :
    (m.slotFreed u).str st = m.str st ∧ (m.slotFreed u).ref = m.ref ∧ (m.slotFreed u).joined = m.joined := by
  unfold Member.slotFreed
  split
  · exact Member.setSlot_frame ..
  · exact ⟨rfl, rfl, rfl⟩

theorem Member.ownerLeft_frame (m : Member) (u : Untimed) (st : Strm) :
    (m.ownerLeft u).str st = m.str st ∧ (m.ownerLeft u).ref = m.ref ∧ (m.ownerLeft u).slots = m.slots := by
  unfold Member.ownerLeft
  split
  · exact ⟨by cases st <;> rfl, rfl, rfl⟩
  · exact ⟨rfl, rfl, rfl⟩

theorem Member.landed_str (m : Member) (st : Strm) (u : Untimed) (t : Nat) :
    (m.landed st u t).str st =
      (let y := (m.str st).settle t
      ({ y with
        inflight := if u.writes = [] then y.inflight else y.inflight ++ [⟨t, u.born, u.writes, false, none⟩]
        untimed := none
        floor := max y.floor (t + 1)
        nstall := y.nstall + (t - u.iss) } : Stream).settle t) := by
  rw [Member.landed, (Member.ownerLeft_frame ..).1, (Member.slotFreed_frame ..).1, Member.resultOut, Member.settle_str,
    Member.str_updStr, Member.settle_str]
  simp only [List.isEmpty_iff]

theorem Member.landed_ref (m : Member) (st : Strm) (u : Untimed) (t : Nat) : (m.landed st u t).ref = m.ref := by
  rw [Member.landed, (Member.ownerLeft_frame _ u st).2.1, (Member.slotFreed_frame _ u st).2.1, Member.resultOut,
    Member.settle_ref, Member.updStr_ref, Member.settle_ref]

theorem Member.landed_slot (m : Member) (st : Strm) {u : Untimed} (t : Nat) {k : Nat} (hk : k < 32) (hu : u.slot = some k) :
    (m.landed st u t).slots[k] = LSlot.empty := by
  have hslots : (m.landed st u t).slots = ((m.resultOut st u t).setSlot k LSlot.empty).slots := by
    rw [Member.landed, (Member.ownerLeft_frame _ u st).2.2, Member.slotFreed, hu]
  simp only [hslots, Member.setSlot, hk, dif_pos, Vector.getElem_set_self]

theorem Member.landed_joined (m : Member) (st : Strm) {u : Untimed} (t : Nat) {g : List Word} {own : Nat}
    (hu : u.needs = .vergeWrites g own) (j : Joined) :
    j ∈ (m.landed st u t).joined ↔ j ∈ m.joined ∧ ¬(j.own = own ∧ j.grid = g) := by
  have hjoined : ((m.resultOut st u t).slotFreed u).joined = m.joined :=
    ((Member.slotFreed_frame _ u st).2.2).trans (by cases st <;> rfl)
  simp only [Member.landed, Member.ownerLeft, hu, hjoined, List.mem_filter, Bool.not_eq_true', Bool.and_eq_false_iff,
    beq_eq_false_iff_ne, ne_eq, not_and_or]

theorem Stream.untimed_settle (s : Stream) (t : Nat) : (s.settle t).untimed = s.untimed := by
  have hland (ls : List Landing) (s : Stream) : (ls.foldl Stream.land s).untimed = s.untimed := by
    induction ls generalizing s with
    | nil => rfl
    | cons l ls ih =>
      refine (ih _).trans ?_
      cases l with
      | latch => rfl
      | reg _ _ d v =>
        cases d with
        | s n =>
          simp only [Stream.land, Stream.write]
          split <;> rfl
        | o n => rfl
        | none => rfl
  exact hland _ s

theorem notLate_landResult {M : Mach} {r : MRef} {m : Member} (st : Strm) (u : Untimed) (hm : M.member r = some m) :
    NotLate r st (landResult M m st u) := by
  have href := (m.landed_ref st u (m.now M)).trans (Mach.member_ref hm)
  have hput : NotLate r st (M.putMember (m.landed st u (m.now M))) := by
    refine NotLate.of_member (Mach.member_putMember hm href) fun v hv => ?_
    rw [Member.landed_str, Stream.untimed_settle] at hv
    cases hv
  rw [landResult_eq]
  split
  · refine hput.of_members ?_
    unfold acquire
    split
    · split
      · rfl
      · rfl
    · rfl
  · exact hput

/-! ### Data that lands in a slot (R40, R244) -/

theorem Member.fillSlot_str (m : Member) (st : Strm) (k : Nat) (ws : List (Dst × Word)) :
    (m.fillSlot st k ws).str st = { m.str st with inflight := fillFlight k ws (m.str st).inflight } := by
  cases st <;> rfl

theorem Member.fillSlot_str_ne (m : Member) {st o : Strm} (k : Nat) (ws : List (Dst × Word)) (h : o ≠ st) :
    (m.fillSlot st k ws).str o = m.str o := by
  refine Eq.trans ?_ (Member.str_updStr_ne m st o (fun s => { s with inflight := fillFlight k ws s.inflight }) h)
  cases o <;> rfl

theorem mem_fillFlight {k : Nat} {ws : List (Dst × Word)} {l : List InFlight} {f : InFlight} (hf : f ∈ l)
    (hk : f.slot = some k) : { f with writes := ws, slot := none } ∈ fillFlight k ws l :=
  List.mem_map.mpr ⟨f, hf, if_pos hk⟩

/-- The member with a slot's data in, of a timed load. -/
def Member.timedLanded (m : Member) (k : Nat) (l : LSlot) (late : Nat) : Member :=
  (({ m with skew := max m.skew late } : Member).setSlot k { l with state := .landed }).fillSlot l.strm k
    (loadWrites l.dst l.size l.sx l.data)

/-- The member with a slot's data in, of an untimed load. -/
def Member.untimedLanded (m : Member) (k : Nat) (l : LSlot) : Member :=
  ((m.setSlot k { l with state := .landed }).fillSlot l.strm k (loadWrites l.dst l.size l.sx l.data)).updUntimed l.strm
    (fun u => u.needs == .slot && u.slot == some k) fun u =>
      { u with needs := .ready, writes := loadWrites l.dst l.size l.sx l.data }

theorem landData_of_slot {M : Mach} {r : MRef} {m : Member} {k : Nat} (hm : M.member r = some m) (hk : k < 32)
    (hs : m.slots[k].state = .pending) (hr : m.slots[k].req = 0) :
    (∀ due, m.slots[k].due = some due →
      landData M r k = M.putMember (m.timedLanded k m.slots[k] (M.wclk - due))) ∧
      (m.slots[k].due = none → landData M r k = M.putMember (m.untimedLanded k m.slots[k])) := by
  have hcond : (decide (m.slots[k].state = .pending) && decide (m.slots[k].req = 0)) = true := by rw [hs, hr]; rfl
  unfold landData
  rw [hm]
  dsimp only
  rw [dif_pos hk, if_pos hcond]
  split
  · next d hd =>
    refine ⟨fun due hdue => ?_, fun hdue => ?_⟩
    · rw [hd] at hdue
      cases hdue
      rfl
    · rw [hd] at hdue
      cases hdue
  · next hd =>
    refine ⟨fun due hdue => ?_, fun _ => rfl⟩
    rw [hd] at hdue
    cases hdue

theorem landData_of_place {M : Mach} {r : MRef} {m : Member} (k : Nat) (hm : M.member r = some m) :
    landData M r (32 + k) = M.updMember r fun y => y.placeLanded k := by
  have hk : ¬32 + k < 32 := by omega
  simp only [landData, hm, hk, dif_neg, not_false_iff, Nat.add_sub_cancel_left]

theorem Member.setSlot_same (m : Member) {k : Nat} (hk : k < 32) (l : LSlot) : (m.setSlot k l).slots[k] = l := by
  simp only [Member.setSlot, hk, dif_pos, Vector.getElem_set_self]

theorem Member.slots_updUntimed (m : Member) (st : Strm) (p : Untimed → Bool) (f : Untimed → Untimed) :
    (m.updUntimed st p f).slots = m.slots := by
  cases st <;> rfl

theorem Member.str_updUntimed_ne (m : Member) {st o : Strm} (p : Untimed → Bool) (f : Untimed → Untimed) (h : o ≠ st) :
    (m.updUntimed st p f).str o = m.str o := by
  have hstr : (m.updUntimed st p f).str o =
      (m.updStr st fun s => { s with untimed := s.untimed.map fun u => if p u then f u else u }).str o := by
    cases st <;> cases o <;> rfl
  exact hstr.trans (Member.str_updStr_ne _ _ _ _ h)

theorem Member.slots_fillSlot (m : Member) (st : Strm) (k : Nat) (ws : List (Dst × Word)) :
    (m.fillSlot st k ws).slots = m.slots := by
  cases st <;> rfl

/-- A timed load's data in its slot and in the results on their way. -/
theorem Member.timedLanded_spec (m : Member) {k : Nat} (hk : k < 32) (l : LSlot) (late : Nat) :
    (m.timedLanded k l late).slots[k] = { l with state := .landed } ∧ (m.timedLanded k l late).skew = max m.skew late ∧
      (m.timedLanded k l late).handler = (m.fillSlot l.strm k (loadWrites l.dst l.size l.sx l.data)).handler ∧
      (∀ f ∈ (m.str l.strm).inflight, f.slot = some k →
        { f with writes := loadWrites l.dst l.size l.sx l.data, slot := none } ∈
          ((m.timedLanded k l late).str l.strm).inflight) ∧
      ∀ st, st ≠ l.strm → (m.timedLanded k l late).str st = m.str st := by
  let y : Member := { m with skew := max m.skew late }
  have hy (st : Strm) : (y.setSlot k { l with state := .landed }).str st = m.str st :=
    (y.setSlot_frame k _ st).1.trans (by cases st <;> rfl)
  refine ⟨?_, ?_, ?_, fun f hf hs => ?_, fun st hst => ?_⟩
  · simp only [Member.timedLanded, Member.slots_fillSlot]
    exact y.setSlot_same hk _
  · have hskew (z : Member) (st : Strm) (ws : List (Dst × Word)) : (z.fillSlot st k ws).skew = z.skew := by cases st <;> rfl
    rw [Member.timedLanded, hskew, Member.setSlot, dif_pos hk]
  · rw [Member.timedLanded, Member.setSlot, dif_pos hk]
    cases l.strm <;> rfl
  · rw [Member.timedLanded, Member.fillSlot_str, hy]
    exact mem_fillFlight hf hs
  · exact (Member.fillSlot_str_ne _ _ _ hst).trans (hy st)

/-- An untimed load's data in its slot and in its word. -/
theorem Member.untimedLanded_spec (m : Member) {k : Nat} (hk : k < 32) (l : LSlot) :
    (m.untimedLanded k l).slots[k] = { l with state := .landed } ∧
      (∀ u, (m.str l.strm).untimed = some u → u.needs = .slot → u.slot = some k →
        ((m.untimedLanded k l).str l.strm).untimed =
          some { u with needs := .ready, writes := loadWrites l.dst l.size l.sx l.data }) ∧
      ∀ st, st ≠ l.strm → (m.untimedLanded k l).str st = m.str st := by
  have hy (st : Strm) : (m.setSlot k { l with state := .landed }).str st = m.str st := (m.setSlot_frame k _ st).1
  refine ⟨?_, fun u hu hn hs => ?_, fun st hst => ?_⟩
  · simp only [Member.untimedLanded, Member.slots_updUntimed, Member.slots_fillSlot]
    exact m.setSlot_same hk _
  · rw [Member.untimedLanded, Member.untimed_updUntimed, if_pos rfl, Member.fillSlot_str, hy]
    simp only [hu, Option.map_some, hn, hs, beq_self_eq_true, Bool.and_self, if_true]
  · exact (Member.str_updUntimed_ne _ _ _ hst).trans ((Member.fillSlot_str_ne _ _ _ hst).trans (hy st))

end Sys2Proof.Machine

/-!
PROOFS. What the events of a core come to (R40, R44, R95, R152 to R159, R256, R257).
-/

namespace Sys2Proof.Machine

/-! ### Landing of an untimed word (R153) -/

section Landing

variable {s : State} {r : MRef} {m : Member} {st : Strm} {u : Untimed}

/-- The landing of a word that is not late is what `landUntimed` makes of it. -/
theorem untimedLanding_becomes {P : Mach} (hP : landUntimed s.m r st = P) (hlate : NotLate r st P) :
    Becomes (.untimedResultLanding r st) s P :=
  lift_becomes (exec_untimedResultLanding ..) (by rw [hP, landLate_of_notLate hlate])

theorem notLate_start (hm : s.m.member r = some m) (hu : (m.str st).untimed = some u)
    (hn : ∀ tag, u.needs ≠ .fetched tag) : NotLate r st s.m :=
  NotLate.of_member hm fun v hv => by
    rw [hu] at hv
    cases hv
    exact Untimed.not_late_of_needs hn

theorem landUntimed_rows (hm : s.m.member r = some m) (hu : (m.str st).untimed = some u) (hs : u.scadds = true)
    (hready : untimedReady s.m m st u = true) : landUntimed s.m r st = syncCore (performJob s.m m st u) r := by
  have hrows : rowsReady s.m m st = true := by simp only [rowsReady, hu, Option.any_some, hs, hready, Bool.and_self]
  simp only [landUntimed, hm, hu, hrows, if_true]

/-- What the landing of a word that is ready makes of its member (R153). -/
def wordLanded (M : Mach) (m : Member) (st : Strm) (u : Untimed) : Mach :=
  match u.needs with
  | .refused i => unissue M m st u none i
  | .acknowledged =>
    match (m.str st).imprecise with
    | x :: _ => unissue M m st u (some (.refusal st x)) (impreciseTrap u.raw x)
    | [] => performJob M m st u
  | .stack _ => performJob M m st u
  | .fetched _ => M
  | _ => landResult M m st u

theorem landUntimed_word (hm : s.m.member r = some m) (hu : (m.str st).untimed = some u) (hs : u.scadds = false)
    (hmay : m.mayLand st = true) (hready : untimedReady s.m m st u = true) :
    landUntimed s.m r st = wordLanded s.m m st u := by
  have hrows : rowsReady s.m m st = false := by simp only [rowsReady, hu, Option.any_some, hs, Bool.false_and]
  simp only [landUntimed, hm, hu, hrows, Bool.false_eq_true, if_false, hmay, hready, Bool.not_true, Bool.or_self]
  rfl

end Landing

/-! ### When a word is ready to land -/

section Ready

variable {M : Mach} {m : Member} {st : Strm} {u : Untimed}

/-- A fetch that a word of the member `r` waits for has its answer. -/
theorem fetched_all {r : MRef} (hr : m.ref = r) {p : Fetch → Bool}
    (h : ∀ f ∈ M.fetched, f.who = r → p f = true → f.code ≠ none) :
    (M.fetched.all fun f => !(f.who == m.ref && p f) || f.code.isSome) = true := by
  refine List.all_eq_true.mpr fun f hf => ?_
  by_cases hw : f.who = r ∧ p f = true
  · rw [Option.isSome_iff_ne_none.mpr (h f hf hw.1 hw.2), Bool.or_true]
  · have hno : (f.who == m.ref && p f) = false := by
      rw [Bool.and_eq_false_iff, beq_eq_false_iff_ne, hr, ← Bool.not_eq_true]
      exact not_and_or.mp hw
    rw [hno]
    rfl

theorem ready_of_rows {r : MRef} (hr : m.ref = r) (hn : u.needs = .rows)
    (h : ∀ f ∈ M.fetched, f.who = r → f.tag = 2 ^ 96 + st.num ∨ f.tag = rowTag st ∨ f.tag = probeTag st → f.code ≠ none) :
    untimedReady M m st u = true := by
  simp only [untimedReady, hn]
  refine fetched_all hr (p := fun f => f.tag == 2 ^ 96 + st.num || f.tag == rowTag st || f.tag == probeTag st)
    fun f hf hw hp => h f hf hw ?_
  simpa only [Bool.or_eq_true, beq_iff_eq, or_assoc] using hp

theorem ready_of_fetched {r : MRef} {tag : Nat} (hr : m.ref = r) (hn : u.needs = .fetched tag)
    (h : ∀ f ∈ M.fetched, f.who = r → f.tag = tag → f.code ≠ none) : untimedReady M m st u = true := by
  simp only [untimedReady, hn]
  exact fetched_all hr (p := fun f => f.tag == tag) fun f hf hw hp => h f hf hw (eq_of_beq hp)

theorem ready_of_stack {q : Nat} (hn : u.needs = .stack q) (h : ∀ x ∈ M.hbm, x.num = q → x.switching = none) :
    untimedReady M m st u = true := by
  simp only [untimedReady, hn, Bool.not_eq_true', List.any_eq_false]
  intro x hx hbusy
  rw [Bool.and_eq_true, beq_iff_eq] at hbusy
  rw [h x hx hbusy.1] at hbusy
  cases hbusy.2

theorem ready_of_published {g : List Word} {own ms limit : Nat} (hn : u.needs = .published g own ms limit)
    (h : ∀ v ∈ m.verges, v.grid = g → v.ref.own = own → v.ref.ms = ms → v.started = true ∨ v.spilled = true) :
    untimedReady M m st u = true := by
  simp only [untimedReady, hn, Member.unread, List.isEmpty_iff, List.filter_eq_nil_iff]
  intro v hv hopen
  simp only [Bool.and_eq_true, beq_iff_eq, Bool.not_eq_true'] at hopen
  obtain ⟨⟨⟨⟨hg, hown⟩, hms⟩, hstarted⟩, hspilled⟩ := hopen
  rcases h v hv hg hown hms with hdone | hdone
  · exact absurd (hstarted.symm.trans hdone) Bool.false_ne_true
  · exact absurd (hspilled.symm.trans hdone) Bool.false_ne_true

theorem ready_of_vergeWrites {g : List Word} {own : Nat} (hn : u.needs = .vergeWrites g own)
    (hv : ∀ v ∈ m.verges, v.grid = g → v.ref.own ≠ own) (hr : ∀ v ∈ m.reports, v.grid = g → v.ref.own ≠ own) :
    untimedReady M m st u = true := by
  simp only [untimedReady, hn, leaving, Bool.and_eq_true, List.all_eq_true, Bool.not_eq_true', Bool.and_eq_false_imp,
    beq_iff_eq, beq_eq_false_iff_ne]
  exact ⟨hv, hr⟩

/-- What the landing of a result leaves of its member, and that it makes no word late. -/
theorem landResult_spec {s : State} {r : MRef} (hm : s.m.member r = some m)
    (h : landUntimed s.m r st = landResult s.m m st u) :
    ∃ x, Becomes (.untimedResultLanding r st) s
        (match u.acquire with
          | some sc => acquire (s.m.putMember x) x.ref sc
          | none => s.m.putMember x) ∧
      x.ref = m.ref ∧ (∀ (k : Nat) (hk : k < 32), u.slot = some k → x.slots[k] = LSlot.empty) ∧
      (∀ g own, u.needs = .vergeWrites g own → ∀ j, j ∈ x.joined ↔ j ∈ m.joined ∧ ¬(j.own = own ∧ j.grid = g)) ∧
      x.str st =
        (let y := (m.str st).settle (m.now s.m)
        ({ y with
          inflight :=
            if u.writes = [] then y.inflight else y.inflight ++ [⟨m.now s.m, u.born, u.writes, false, none⟩]
          untimed := none
          floor := max y.floor (m.now s.m + 1)
          nstall := y.nstall + (m.now s.m - u.iss) } : Stream).settle (m.now s.m)) := by
  refine ⟨m.landed st u (m.now s.m), ?_, m.landed_ref .., fun k hk hs => m.landed_slot st _ hk hs,
    fun g own hn j => m.landed_joined st _ hn j, m.landed_str ..⟩
  have hland := untimedLanding_becomes h (notLate_landResult st u hm)
  rw [landResult_eq] at hland
  exact hland

end Ready

/-! ### Waits withdrawn or timed out (R95, R156, R259) -/

section Waits

variable {s : State} {r : MRef} {m : Member} {st : Strm}

/-- An event that updates one stream of a member, by what the member is, changes nothing else of it. -/
theorem changesStream_of_updateBy {e : Instr} {f : Member → Stream → Stream} (hm : s.m.member r = some m)
    (h : Becomes e s (s.m.updMember r fun x => x.updStr st (f x))) : ChangesStream e s r st m (f m (m.str st)) := by
  refine ⟨_, m.updStr st (f m), h, rfl, rfl,
    fun q hq => Mach.member_updMember_ne _ _ _ _ (fun x hx => (Member.updStr_ref ..).trans hx) hq, ?_,
    fun o ho => Member.str_updStr_ne _ _ _ _ ho, Member.str_updStr .., by simp, by simp, by simp⟩
  rw [Mach.member_updMember _ _ _ (fun x hx => (Member.updStr_ref ..).trans hx), hm]
  rfl

theorem Member.untimeds_unwait (m : Member) (st : Strm) (t : Nat) :
    (m.updStr st fun s => s.unwait t).untimeds st = m.untimeds st := by
  rw [Member.untimeds, Member.str_updStr, Stream.untimed_unwait, Member.untimeds]
  cases st <;> rfl

theorem withdrawAcq_of_none {M : Mach} (late : Bool) (hm : M.member r = some m) (h : m.untimeds st = []) :
    withdrawAcq M r st late = M := by
  simp only [withdrawAcq, hm, h, List.foldl_nil]

/-- A withdrawn ACQ that has not issued waits no longer. -/
theorem acqWithdrawal_word {w : Wait} (hm : s.m.member r = some m) (hw : (m.str st).wait = some w) (hkind : w.kind = .acq)
    (hnone : m.untimeds st = []) :
    ChangesStream (.acqWithdrawal r st) s r st m
      { m.str st with
        wait := none
        floor := max (m.str st).floor (m.now s.m)
        nstall := (m.str st).nstall + (m.now s.m - w.since) } := by
  have hwaits : (s.m.member r).any (fun x => x.acqWaits st) = true := by
    simp only [hm, Option.any_some, Member.acqWaits, hw, hkind, beq_self_eq_true]
  have hmember : (s.m.updMember r fun x => x.updStr st fun y => y.unwait (x.now s.m)).member r =
      some (m.updStr st fun y => y.unwait (m.now s.m)) := by
    rw [Mach.member_updMember _ _ _ (fun x hx => (Member.updStr_ref ..).trans hx), hm]
    rfl
  have hrun : Becomes (.acqWithdrawal r st) s (s.m.updMember r fun x => x.updStr st fun y => y.unwait (x.now s.m)) :=
    lift_becomes (exec_acqWithdrawal ..) (by
      rw [hwaits, if_pos rfl]
      exact withdrawAcq_of_none false hmember ((m.untimeds_unwait ..).trans hnone))
  have h := changesStream_of_updateBy (f := fun x y => y.unwait (x.now s.m)) hm hrun
  simp only [Stream.unwait, hw] at h
  exact h

/-- The request of an ACQ at another device is followed by its withdrawal, or goes no further. -/
theorem acqWithdrawal_request {u : Untimed} {id limit : Nat} (hm : s.m.member r = some m) (hw : (m.str st).wait = none)
    (hu : m.untimeds st = [u]) (hn : u.needs = .acq id limit none) :
    let o : Origin := .request r st id
    let asked := s.m.conns.findSome? fun c => (c.asked.find? fun x => x.2 == o).map fun x => (c.ref, x.1)
    (∀ k seq, asked = some (k, seq) →
      let M :=
        s.m.updMember r fun y =>
          y.updUntimed st (fun v => v.needs == .acq id limit none) fun v => { v with needs := .acq id limit (some false) }
      Becomes (.acqWithdrawal r st) s (sendOn M k (withdrawPacket M k u.raddr seq) (.withdraw r st id seq))) ∧
    (asked = none →
      let M : Mach := { s.m with conns := s.m.conns.map fun c => { c with waiting := c.waiting.filter fun x => x.2 != o } }
      Becomes (.acqWithdrawal r st) s
        (M.updMember r fun y => y.withdrawn st (fun v => v.needs == .acq id limit none) (y.now M))) := by
  have hwaits : (s.m.member r).any (fun x => x.acqWaits st) = false := by
    simp only [hm, Option.any_some, Member.acqWaits, hw, Option.any_none]
  have hgo {P : Mach} (hP : withdrawAcq s.m r st false = P) : Becomes (.acqWithdrawal r st) s P :=
    lift_becomes (exec_acqWithdrawal ..) (by rw [hwaits, if_neg Bool.false_ne_true]; exact hP)
  refine ⟨fun k seq hasked => hgo ?_, fun hasked => hgo ?_⟩
  · simp only [withdrawAcq, hm, hu, List.foldl_cons, List.foldl_nil, hn]
    rw [hasked]
  · simp only [withdrawAcq, hm, hu, List.foldl_cons, List.foldl_nil, hn]
    rw [hasked]
    rfl

/-- A watched wait past its limit ends in its trap. -/
theorem waitTimeout_word {w : Wait} (hm : s.m.member r = some m) (hw : (m.str st).wait = some w)
    (hwatched : w.watched = true) (hgranted : w.granted = none) (hfreeze : m.freeze = .none)
    (hlate : w.since + w.limit ≤ m.now s.m) :
    ∃ x raw, Becomes (.waitTimeout r st) s (endCycle (s.m.putMember x) r (m.now s.m)) ∧
      (∀ v, fetch s.m m (m.str st).pc = .ok v → raw = v) ∧
      x.raised = m.raised ++ [(st, ⟨0x15, false, raw, w64 w.kind.code, [], false⟩)] ∧ (x.str st).wait = none ∧
      (x.str st).pc = (m.str st).pc ∧ (x.str st).nstall = (m.str st).nstall + (m.now s.m - w.since) := by
  have hcond : (w.watched && w.granted.isNone && decide (m.freeze = .none) && decide (w.since + w.limit ≤ m.now s.m)) =
      true := by
    simp only [hwatched, hgranted, hfreeze, Option.isNone_none, decide_true, hlate, Bool.and_self]
  obtain ⟨hwait, hpc, hstall⟩ := Member.str_timedOut hw (m.now s.m) (progTrap 0x15 (rawAt s.m m st) (w64 w.kind.code))
  refine ⟨m.timedOut st (m.now s.m) (progTrap 0x15 (rawAt s.m m st) (w64 w.kind.code)), rawAt s.m m st,
    lift_becomes (exec_waitTimeout ..) ?_, fun v hv => rawAt_eq hv, Member.raised_timedOut .., hwait, hpc, hstall⟩
  simp only [hm, hw]
  exact if_pos hcond

end Waits

/-! ### Walks (R21) -/

theorem dieFill_walks (M : Mach) (die : Nat) (e : TlbEntry) : (dieFill M die e).walks = M.walks := by
  unfold dieFill
  extract_lets l ts
  split
  · rfl
  · rfl

theorem tlbFill_walks (M : Mach) (core : Option Nat) (die : Nat) (e : TlbEntry) : (tlbFill M core die e).walks = M.walks := by
  unfold tlbFill
  split
  · exact dieFill_walks ..
  · split
    · rfl
    · exact dieFill_walks M die e

theorem Stores.walks {M N : Mach} (h : Stores M N) : N.walks = M.walks := by
  obtain ⟨mem, cores, free, rfl⟩ := h
  rfl

theorem stores_allocate (M : Mach) (m : Member) (core pa n : Nat) : Stores M (allocate M m core pa n) := by
  refine Stores.foldl (fun M i => ?_) M _
  unfold fillLine
  split
  · exact (stores_l1Open ..).trans (Stores.setCore ..)
  · exact Stores.refl M

theorem stores_prefLine (M : Mach) (m : Member) (core pa : Nat) : Stores M (prefLine M m core pa) := by
  unfold prefLine
  split
  · exact Stores.refl M
  · split
    · exact Stores.refl M
    · exact stores_allocate ..

theorem prefWalked_walks (M : Mach) (die : Nat) (e : TlbEntry) (core : Nat) (pva : Word) :
    (prefWalked M die e core pva).walks = M.walks := by
  unfold prefWalked
  split
  · dsimp only
    split
    · exact (stores_prefLine ..).walks.trans (tlbFill_walks ..)
    · exact tlbFill_walks ..
  · rfl

theorem prefWalked_line {M : Mach} {die core a : Nat} {g e : TlbEntry} {pt : Part} {pva : Word} {y : Member}
    (hp : M.part g.part = some pt) (hl : leafAllows pt .read pva g = .ok e) (ha : e.target pva.toNat = .local a)
    (hy : (tlbFill M (some core) die e).occupant core = some y) :
    prefWalked M die g core pva = prefLine (tlbFill M (some core) die e) y core a := by
  simp only [prefWalked, hp, Option.map_some, hl, ha, hy]

theorem prefLine_of_kept {M : Mach} {a : Nat} (m : Member) (core : Nat)
    (h : (∀ c n, paKind a ≠ .sram c n) ∧ fenced M a = false ∧ windowOk M a = true) :
    prefLine M m core a = allocate M m core (a / 64 * 64) 64 := by
  obtain ⟨hkind, hfenced, hwindow⟩ := h
  unfold prefLine
  split
  · next c n hc => exact absurd hc (hkind c n)
  · exact if_neg (by rw [hfenced, hwindow]; exact Bool.false_ne_true)

theorem prefLine_of_lost {M : Mach} {a : Nat} (m : Member) (core : Nat)
    (h : ¬((∀ c n, paKind a ≠ .sram c n) ∧ fenced M a = false ∧ windowOk M a = true)) : prefLine M m core a = M := by
  unfold prefLine
  split
  · rfl
  · next hkind =>
    refine if_pos ?_
    by_contra hno
    rw [Bool.or_eq_true, not_or, Bool.not_eq_true, Bool.not_eq_true', Bool.not_eq_false] at hno
    exact h ⟨hkind, hno.1, hno.2⟩

/-- A walk that is complete is under way no more; its translation is kept, and what its prefetch asked for joins the L1. -/
theorem walkComplete_spec {s : State} {part die block : Nat} {w : Walk}
    (hw : s.m.walks.find? (fun x => x.part == part && x.die == die && x.block == block) = some w) :
    ∃ N, Becomes (.walkComplete part die block) s N ∧
      N.walks = s.m.walks.filter (fun x => !(x.part == part && x.die == die && x.block == block)) ∧
      (w.joined = [] ∨ (∃ f, w.result = .fault f) → N = { s.m with walks := N.walks }) ∧
      (∀ core pva g pt e a y, w.joined = [(core, pva)] → w.result = .found g → s.m.part g.part = some pt →
        leafAllows pt .read pva g = .ok e → e.target pva.toNat = .local a →
        let P := tlbFill { s.m with walks := N.walks } (some core) die e
        P.occupant core = some y →
        let kept := (∀ c n, paKind a ≠ .sram c n) ∧ fenced P a = false ∧ windowOk P a = true
        (kept → N = allocate P y core (a / 64 * 64) 64) ∧ (¬kept → N = P)) := by
  let W : Mach := { s.m with walks := s.m.walks.filter fun x => !(x.part == part && x.die == die && x.block == block) }
  have hend : endWalk s.m part die block =
      match w.result with
      | .fault _ => W
      | .found g => w.joined.foldl (fun M j => prefWalked M die g j.1 j.2) W := by
    simp only [endWalk, hw]
    rfl
  have hwalks : (endWalk s.m part die block).walks = W.walks := by
    rw [hend]
    split
    · rfl
    · have hfold (l : List (Nat × Word)) (g : TlbEntry) (M : Mach) :
          (l.foldl (fun M j => prefWalked M die g j.1 j.2) M).walks = M.walks := by
        induction l generalizing M with
        | nil => rfl
        | cons x l ih => exact (ih _).trans (prefWalked_walks ..)
      exact hfold ..
  refine ⟨_, lift_becomes (exec_walkComplete ..) rfl, hwalks, fun h => ?_, fun core pva g pt e a y hj hg hp hl ha => ?_⟩
  · rw [hwalks, hend]
    rcases h with hj | ⟨f, hf⟩
    · rw [hj]
      split
      · rfl
      · rfl
    · rw [hf]
  · rw [hwalks]
    intro P hy kept
    have hstep : endWalk s.m part die block = prefLine P y core a := by
      rw [hend, hg, hj]
      exact prefWalked_line (M := W) hp hl ha hy
    rw [hstep]
    exact ⟨prefLine_of_kept y core, prefLine_of_lost y core⟩

/-! ### Conditions of waits (R44, R95, R154) -/

theorem mailboxFull_getD (m : Member) {k : Nat} (hk : k < 8) : (m.mbs.toList.map (·.2)).getD k false = m.mbs[k].2 := by
  simp [List.getD, hk]

theorem queue_getD (m : Member) {q : Nat} (hq : q < 8) : m.queues.toList.getD q [] = m.queues[q] := by
  simp [List.getD, hq]

/-- Two changes of one stream are one. -/
theorem updMember_updStr (M : Mach) (r : MRef) (st : Strm) (f g : Stream → Stream) :
    (M.updMember r fun x => x.updStr st f).updMember r (fun x => x.updStr st g) =
      M.updMember r fun x => x.updStr st fun s => g (f s) := by
  simp only [Mach.updMember, updIf, List.map_map]
  refine congrArg (fun l => { M with members := l }) (List.map_congr_left fun x _ => ?_)
  simp only [Function.comp_apply]
  by_cases hx : (x.ref == r) = true
  · simp only [hx, Member.updStr_ref, if_true]
    cases st <;> rfl
  · simp only [hx, if_false, Bool.false_eq_true]

theorem acqHolds_versionGe {M : Mach} {part x pa n : Nat} (hs : M.switchingAt pa = none)
    (h : M.poisoned pa 16 = true ∨ objWellFormed (M.word (pa + 8)).toNat = false ∨ n ≤ (M.word pa).toNat) :
    acqHolds M part (.versionGe x pa n) = true := by
  simp only [acqHolds, hs, Option.isNone_none, Bool.true_and, acqAnswered, homeAcq, Bool.or_eq_true]
  rcases h with h | h | h
  · exact .inl h
  · exact .inr (by simp only [h, Bool.not_false, if_true])
  · refine .inr ?_
    rcases objWellFormed (M.word (pa + 8)).toNat with _ | _
    · rfl
    · simp only [Bool.not_true, Bool.false_eq_true, if_false, h, if_true]

theorem acqHolds_notHeld {M : Mach} {part pa : Nat} (hs : M.switchingAt pa = none)
    (h : M.poisoned pa 16 = true ∨ objWellFormed (M.word (pa + 8)).toNat = false ∨
      (M.word (pa + 8)).getLsbD 63 = false) : acqHolds M part (.notHeld pa) = true := by
  simp only [acqHolds, hs, Option.isNone_none, Bool.true_and, acqAnswered, homeAcq, Bool.or_eq_true]
  rcases h with h | h | h
  · exact .inl h
  · exact .inr (by simp only [h, Bool.not_false, if_true])
  · refine .inr ?_
    have hfree : bitOf (M.word (pa + 8)).toNat 63 = false := h
    rcases objWellFormed (M.word (pa + 8)).toNat with _ | _
    · rfl
    · simp only [Bool.not_true, Bool.false_eq_true, if_false, hfree]
      rcases bitOf (M.word (pa + 8)).toNat 0 with _ | _
      · rfl
      · rfl

/-- A wait on an object that holds when its home tests it again ends, with the version it held at. -/
theorem acqRetest_spec {s : State} {r : MRef} {st : Strm} {m : Member} {w : Wait} (hm : s.m.member r = some m)
    (hw : (m.str st).wait = some w) (hg : w.granted = none) (met : Option Nat) (hholds : acqHolds s.m r.part w.cond = true)
    (hmet : acqMet s.m r.part w.cond = met) :
    ChangesStream (.acqHomeRetest r st) s r st m
      { m.str st with wait := some { w with granted := some (m.now s.m + 1), met := w.met.or met } } := by
  have hgrant := (wakeIf_holds (p := fun x cond => acqHolds s.m x.ref.part cond) hm hw
    (by rw [Mach.member_ref hm]; exact hholds)).trans (grant_eq hm)
  have h := changesStream_of_update (m := m) (st := st) hm (lift_becomes (exec_acqHomeRetest r st s) (by
    rw [hgrant, updMember_updStr]))
  simp only [hw, hg, hmet, Option.map_some, Option.isNone_none, if_true] at h
  rcases hw : w.met with _ | v
  · simp only [hw, Option.isNone_none, if_true] at h
    exact h
  · simp only [hw, Option.isNone_some, Bool.false_eq_true, if_false] at h
    exact h

/-- Settles O47: landings, walks and waits by the case each is in. -/
theorem coreEventsGoOn : Obligations.CoreEventsGoOn := by
  unfold Obligations.CoreEventsGoOn
  refine ⟨fun s r m hm => ⟨fun k hk hs hr => ⟨fun due hdue => ?_, fun hdue => ?_⟩, fun k => ?_, fun st u hu hn hall => ?_,
      fun st u q hu hn hall => ⟨fun hs => ?_, fun hs hmay => ?_⟩, fun st u tag w o lat i hu hn hjob hi hmay hall => ?_,
      fun st u hu hmay => ⟨fun hthere => ?_, fun i hn => ?_, fun hn hout himp => ?_, fun x rest hn hout himp => ?_⟩⟩,
    fun s r m hm => ⟨fun st ts es hspan => ?_, fun hfreeze hbusy => ?_, fun part die block w hw => ?_,
      fun st w hw hkind hnone => ?_, fun st u id limit hw hu hn => ⟨fun k seq hasked => ?_, fun hasked => ?_,
        fun hun hmay hlate => ?_⟩, fun st w hw hwatched hgranted hfreeze hlate => ?_⟩,
    fun s r st m hm => ⟨fun w hw hg => ⟨fun ts hc hok => ?_, fun t hc hok => ?_, fun k hk hc hok => ?_, fun k hk hc hok => ?_,
      fun q hq n hc hok => ?_, fun q hq n hc hok => ?_, fun q hq n hc hok => ?_, ⟨fun x pa n hc hsw hbad => ?_,
        fun x pa n hc hsw hclean hform hge => ?_, fun pa hc hsw hfree => ?_, fun p n hc hp hge => ?_⟩⟩, fun sc b hb hdone => ?_⟩⟩
  · refine ⟨_, lift_becomes (exec_dataLanding ..) (congrArg (syncCore · r) ((landData_of_slot hm hk hs hr).1 due hdue)), ?_⟩
    exact m.timedLanded_spec hk _ _
  · refine ⟨_, lift_becomes (exec_dataLanding ..) (congrArg (syncCore · r) ((landData_of_slot hm hk hs hr).2 hdue)), ?_⟩
    exact m.untimedLanded_spec hk _
  · exact lift_becomes (exec_dataLanding ..) (congrArg (syncCore · r) (landData_of_place k hm))
  · have hstart := notLate_start (s := s) hm hu fun tag => by rw [hn]; nofun
    have hready := ready_of_rows (st := st) (Mach.member_ref hm) hn hall
    refine untimedLanding_becomes (landUntimed_rows hm hu (by simp only [Untimed.scadds, hn]) hready) ?_
    exact (notLate_performJob u (Mach.member_ref hm) hstart).of_members (stores_syncCore ..).members
  · have hstart := notLate_start (s := s) hm hu fun tag => by rw [hn]; nofun
    refine untimedLanding_becomes (landUntimed_rows hm hu hs (ready_of_stack hn hall)) ?_
    exact (notLate_performJob u (Mach.member_ref hm) hstart).of_members (stores_syncCore ..).members
  · have hstart := notLate_start (s := s) hm hu fun tag => by rw [hn]; nofun
    have hland := landUntimed_word hm hu hs hmay (ready_of_stack hn hall)
    rw [wordLanded, hn] at hland
    exact untimedLanding_becomes hland (notLate_performJob u (Mach.member_ref hm) hstart)
  · have hready := ready_of_fetched (st := st) (Mach.member_ref hm) hn hall
    have hland := landUntimed_word hm hu (by simp only [Untimed.scadds, hn]) hmay hready
    rw [wordLanded, hn] at hland
    refine lift_becomes (exec_untimedResultLanding ..) ?_
    rw [hland]
    simp only [landLate, hm, hu, hn, hjob, hi, hmay, hready, Bool.and_self, if_true]
  · refine landResult_spec hm ?_
    split at hthere
    · next hn =>
      have hland := landUntimed_word hm hu (by simp only [Untimed.scadds, hn]) hmay (by simp only [untimedReady, hn])
      rw [wordLanded, hn] at hland
      exact hland
    · next hn =>
      have hland := landUntimed_word hm hu (by simp only [Untimed.scadds, hn]) hmay (ready_of_published hn hthere)
      rw [wordLanded, hn] at hland
      exact hland
    · next hn =>
      have hland := landUntimed_word hm hu (by simp only [Untimed.scadds, hn]) hmay
        (ready_of_vergeWrites hn hthere.1 hthere.2)
      rw [wordLanded, hn] at hland
      exact hland
    · exact hthere.elim
  · have hland := landUntimed_word hm hu (by simp only [Untimed.scadds, hn]) hmay (by simp only [untimedReady, hn])
    rw [wordLanded, hn] at hland
    exact untimedLanding_becomes hland (notLate_unissue st u none i hm)
  · have hstart := notLate_start (s := s) hm hu fun tag => by rw [hn]; nofun
    have hready : untimedReady s.m m st u = true := by
      simp only [untimedReady, hn, Mach.member_ref hm, hout, Bool.not_false]
    have hland := landUntimed_word hm hu (by simp only [Untimed.scadds, hn]) hmay hready
    rw [wordLanded, hn, himp] at hland
    exact untimedLanding_becomes hland (notLate_performJob u (Mach.member_ref hm) hstart)
  · have hready : untimedReady s.m m st u = true := by
      simp only [untimedReady, hn, Mach.member_ref hm, hout, Bool.not_false]
    have hland := landUntimed_word hm hu (by simp only [Untimed.scadds, hn]) hmay hready
    rw [wordLanded, hn, himp] at hland
    exact untimedLanding_becomes hland (notLate_unissue st u _ _ hm)
  · exact lift_becomes (exec_fetchMissFill ..) (by simp only [hm, hspan])
  · refine lift_becomes (exec_vectorUnitFree ..) ?_
    simp only [hm, hfreeze, hbusy, decide_true, Bool.and_self, if_true]
    rfl
  · exact walkComplete_spec hw
  · exact acqWithdrawal_word hm hw hkind hnone
  · exact (acqWithdrawal_request hm hw hu hn).1 k seq hasked
  · exact (acqWithdrawal_request hm hw hu hn).2 hasked
  · refine lift_becomes (exec_waitTimeout ..) ?_
    have hcond : (decide (u.iss + limit ≤ m.now s.m) && m.mayLand st) = true := by rw [decide_eq_true hlate, hmay]; rfl
    simp only [hm, hw, acqTimeout, hun, hn, hcond, if_true, Mach.member_ref hm]
  · exact waitTimeout_word hm hw hwatched hgranted hfreeze hlate
  · exact grants_of_wake (exec_tagCheckSatisfied ..) hm hw hg (by rw [hc]; exact hok)
  · refine grants_of_wake (exec_tagCheckSatisfied ..) hm hw hg ?_
    rw [hc]
    simpa only [Bool.or_eq_true, beq_iff_eq] using hok
  · refine grants_of_wake (exec_mailboxWake ..) hm hw hg ?_
    simp only [hc, mailboxFull_getD m hk, hok, beq_self_eq_true]
  · refine grants_of_wake (exec_mailboxWake ..) hm hw hg ?_
    simp only [hc, mailboxFull_getD m hk, hok]
  · refine grants_of_wake (exec_mailboxWake ..) hm hw hg ?_
    simp only [hc, queue_getD m hq, decide_eq_true_iff, hok]
  · refine grants_of_wake (exec_mailboxWake ..) hm hw hg ?_
    simp only [hc, queue_getD m hq, decide_eq_true_iff, hok]
  · refine grants_of_wake (exec_mailboxWake ..) hm hw hg ?_
    simp only [hc, queue_getD m hq, decide_eq_true_iff, hok]
  · rcases hc with hc | hc
    · refine acqRetest_spec hm hw hg none ?_ ?_
      · rw [hc]
        exact acqHolds_versionGe hsw (hbad.imp_right .inl)
      · rw [hc]
        refine if_pos ?_
        rcases hbad with hbad | hbad
        · rw [hbad]; rfl
        · rw [hbad, Bool.not_false, Bool.or_true, Bool.true_or]
    · exact acqRetest_spec hm hw hg none (by rw [hc]; exact acqHolds_notHeld hsw (hbad.imp_right .inl)) (by rw [hc]; rfl)
  · have hholds : acqHolds s.m r.part w.cond = true := by
      rw [hc]
      exact acqHolds_versionGe hsw (.inr (.inr hge))
    refine acqRetest_spec hm hw hg _ hholds ?_
    rw [hc] at hholds ⊢
    simp only [acqMet, hclean, hform, hholds, Bool.not_true, Bool.or_self, Bool.false_eq_true, if_false, hge, if_true]
  · exact acqRetest_spec hm hw hg none (by rw [hc]; exact acqHolds_notHeld hsw (.inr (.inr hfree))) (by rw [hc]; rfl)
  · have hdef : s.m.defver r.part = p.defver := by
      rw [Mach.defver, hp]
      rfl
    have hholds : acqHolds s.m r.part w.cond = true := by
      rw [hc, acqHolds, hdef]
      exact decide_eq_true hge
    refine acqRetest_spec hm hw hg _ hholds ?_
    rw [hc] at hholds ⊢
    rw [acqMet, if_pos hholds, hdef]
  · refine lift_becomes (exec_barrierEpisodeComplete ..) ?_
    have hcond : (barComplete s.m b || podComplete s.m b) = true := Bool.or_eq_true_iff.mpr hdone
    simp only [endEpisode, hm, hb, hcond, if_true]
    cases sc <;> rfl

end Sys2Proof.Machine
